-- ==== Sys2Proof/Word.lean ====
section
/-! DEFINITION. The word types of the Culyn D24 and their plainest arithmetic (R5, R94, R140). -/

namespace Sys2Proof

/-- One byte of memory. -/
abbrev Byte := BitVec 8
/-- One lane word (R58). -/
abbrev W32 := BitVec 32
/-- A scalar register, an address or a register of the 0xE0 path. -/
abbrev W64 := BitVec 64
/-- A lane set: bit l is lane l; mask word w is bits 32w+31 : 32w (R94). -/
abbrev Mask := BitVec 1024

/-- Every lane (m0 reads as all ones, R94). -/
def Mask.full : Mask := BitVec.allOnes 1024

/-- Lane l is in the set. -/
abbrev Mask.has (m : Mask) (l : Nat) : Bool := m.getLsbD l

/-- The lanes below n. -/
def Mask.below (n : Nat) : Mask := BitVec.ofNat 1024 (2 ^ n - 1)

end Sys2Proof
end

