-- ==== Sys2Proof/Syntax.lean ====
section
/-! DEFINITION. The instruction type: one constructor per row of the opcode table. A word instruction carries
its word's fields in the layout the spec gives its form (R16, R26); an event carries what names the unit that
acts and what the outside world supplies. -/

namespace Sys2Proof

/-- The fields of a register form (R16, R18). -/
structure RegForm where
  guard : BitVec 5
  d : BitVec 8
  a : BitVec 8
  b : BitVec 8
  c : BitVec 8
  rnd : BitVec 3
  sat : BitVec 1
  ety : BitVec 4
  fn : BitVec 7
  deriving DecidableEq, Repr

/-- The fields of an immediate form (R17). -/
structure ImmForm where
  guard : BitVec 5
  d : BitVec 8
  a : BitVec 8
  imm : BitVec 31
  deriving DecidableEq, Repr

/-- One slot of a P word (R26, R27). -/
structure Slot where
  sop : BitVec 7
  d : BitVec 8
  s : BitVec 8
  rnd : BitVec 3
  sat : BitVec 1
  ety : BitVec 4
  deriving DecidableEq, Repr

/-- A Wilite message as the device receives it: its 32-byte header as four words, and its payload (R378). -/
structure HostMsg where
  head : W64
  addr : W64
  arg : W64
  last : W64
  payload : List W64
  deriving DecidableEq, Repr

/-- A scale-up frame as a port receives it: the 48-byte header as six words, the body, and the port (R389). -/
structure Frame where
  head : List W64
  body : List W64
  port : Nat
  deriving DecidableEq, Repr

/-- The storage unit that an uncorrectable error meets (R351). -/
inductive ErrUnit where
  | vreg (uid reg lane : Nat)
  | word (die : Nat) (key : Nat)
  | barge (die record : Nat)
  | unmarkable (die : Nat)
  deriving DecidableEq, Repr

/-- The rows of the opcode table: 196 word instructions, the P word, the illegal word, the refused fetch, and
the events of the device's other agents. -/
inductive Instr where
  | add (w : RegForm)
  | sub (w : RegForm)
  | mul (w : RegForm)
  | mulh (w : RegForm)
  | mulhu (w : RegForm)
  | div (w : RegForm)
  | divu (w : RegForm)
  | rem (w : RegForm)
  | remu (w : RegForm)
  | andR (w : RegForm)
  | orR (w : RegForm)
  | xorR (w : RegForm)
  | andn (w : RegForm)
  | shl (w : RegForm)
  | shr (w : RegForm)
  | sra (w : RegForm)
  | rot (w : RegForm)
  | minR (w : RegForm)
  | maxR (w : RegForm)
  | minu (w : RegForm)
  | maxu (w : RegForm)
  | clz (w : RegForm)
  | ctz (w : RegForm)
  | popc (w : RegForm)
  | sext (w : RegForm)
  | zext (w : RegForm)
  | sel (w : RegForm)
  | cmpeq (w : RegForm)
  | cmpne (w : RegForm)
  | cmplt (w : RegForm)
  | cmpltu (w : RegForm)
  | cmple (w : RegForm)
  | cmpleu (w : RegForm)
  | fadd (w : RegForm)
  | fsub (w : RegForm)
  | fmul (w : RegForm)
  | ffma (w : RegForm)
  | fdiv (w : RegForm)
  | fsqrt (w : RegForm)
  | fmin (w : RegForm)
  | fmax (w : RegForm)
  | fcmp (w : RegForm)
  | fcvt (w : RegForm)
  | jmp (w : RegForm)
  | callr (w : RegForm)
  | ret (w : RegForm)
  | join (w : RegForm)
  | nop (w : RegForm)
  | wait (w : RegForm)
  | mand (w : RegForm)
  | mor (w : RegForm)
  | mxor (w : RegForm)
  | mnot (w : RegForm)
  | mcnt (w : RegForm)
  | many (w : RegForm)
  | ld (w : RegForm)
  | st (w : RegForm)
  | lda (w : RegForm)
  | stl (w : RegForm)
  | amo (w : RegForm)
  | amov (w : RegForm)
  | cas (w : RegForm)
  | fence (w : RegForm)
  | cpy (w : RegForm)
  | chwait (w : RegForm)
  | chwaitRows (w : RegForm)
  | secfg (w : RegForm)
  | sego (w : RegForm)
  | sestop (w : RegForm)
  | pref (w : RegForm)
  | addi (w : ImmForm)
  | muli (w : ImmForm)
  | andi (w : ImmForm)
  | ori (w : ImmForm)
  | xori (w : ImmForm)
  | shli (w : ImmForm)
  | shri (w : ImmForm)
  | srai (w : ImmForm)
  | cmpeqi (w : ImmForm)
  | cmplti (w : ImmForm)
  | cmpltui (w : ImmForm)
  | li (w : ImmForm)
  | lih (w : ImmForm)
  | br (w : ImmForm)
  | brz (w : ImmForm)
  | brnz (w : ImmForm)
  | call (w : ImmForm)
  | brd (w : ImmForm)
  | brany (w : ImmForm)
  | brall (w : ImmForm)
  | markR (w : ImmForm)
  | ldo (w : ImmForm)
  | sto (w : ImmForm)
  | getsr (w : ImmForm)
  | setsr (w : ImmForm)
  | vadd (w : RegForm)
  | vsub (w : RegForm)
  | vmul (w : RegForm)
  | vfma (w : RegForm)
  | vfms (w : RegForm)
  | vfnma (w : RegForm)
  | vdiv (w : RegForm)
  | vsqrt (w : RegForm)
  | vmin (w : RegForm)
  | vmax (w : RegForm)
  | vabs (w : RegForm)
  | vneg (w : RegForm)
  | vand (w : RegForm)
  | vor (w : RegForm)
  | vxor (w : RegForm)
  | vnot (w : RegForm)
  | vshl (w : RegForm)
  | vshr (w : RegForm)
  | vsra (w : RegForm)
  | vcmp (w : RegForm)
  | vsel (w : RegForm)
  | vcvt (w : RegForm)
  | vmov (w : RegForm)
  | vbcast (w : RegForm)
  | vext (w : RegForm)
  | vred (w : RegForm)
  | vscan (w : RegForm)
  | vvote (w : RegForm)
  | vshuf (w : RegForm)
  | vsfu (w : RegForm)
  | vgumbel (w : RegForm)
  | vidx (w : RegForm)
  | vmulh (w : RegForm)
  | vclamp (w : RegForm)
  | vpack (w : RegForm)
  | vunpk (w : RegForm)
  | vpopc (w : RegForm)
  | vclz (w : RegForm)
  | vdot (w : RegForm)
  | vcopysgn (w : RegForm)
  | vld (w : RegForm)
  | vst (w : RegForm)
  | vgath (w : RegForm)
  | vscat (w : RegForm)
  | vamo (w : RegForm)
  | vmaxvi (w : RegForm)
  | vpop (w : RegForm)
  | vpush (w : RegForm)
  | mma (w : RegForm)
  | mmaz (w : RegForm)
  | accz (w : RegForm)
  | drain (w : RegForm)
  | scaleA (w : RegForm)
  | scaleB (w : RegForm)
  | scaleNoa (w : RegForm)
  | scaleNob (w : RegForm)
  | tld (w : RegForm)
  | tldBind (w : RegForm)
  | tst (w : RegForm)
  | trelEmpty (w : RegForm)
  | trelFull (w : RegForm)
  | batonTake (w : RegForm)
  | batonPass (w : RegForm)
  | batonDrop (w : RegForm)
  | leaveReq (w : RegForm)
  | leaveRet (w : RegForm)
  | vaddi (w : ImmForm)
  | vshli (w : ImmForm)
  | vshri (w : ImmForm)
  | vsrai (w : ImmForm)
  | vshufi (w : ImmForm)
  | vli (w : ImmForm)
  | vldo (w : ImmForm)
  | vsto (w : ImmForm)
  | board (w : RegForm)
  | boardNew (w : RegForm)
  | bget (w : RegForm)
  | bset (w : RegForm)
  | cancel (w : RegForm)
  | cancelKv (w : RegForm)
  | fire (w : RegForm)
  | rangeR (w : RegForm)
  | retire (w : RegForm)
  | lockq (w : RegForm)
  | nstate (w : RegForm)
  | jadd (w : RegForm)
  | killpt (w : RegForm)
  | warrive (w : RegForm)
  | bar (w : RegForm)
  | xbar (w : RegForm)
  | phase (w : RegForm)
  | trap (w : RegForm)
  | exitR (w : RegForm)
  | rmark (w : RegForm)
  | dmark (w : RegForm)
  | brk (w : RegForm)
  | boardi (w : ImmForm)
  | firei (w : ImmForm)
  | bgeti (w : ImmForm)
  | bseti (w : ImmForm)
  | trapi (w : ImmForm)
  | pWord (a : Slot) (b : Slot)
  | illegalWord (w : W64)
  | fetchFault
  | operationComplete (uid : Nat) (ticket : Nat)
  | copyChunk (die : Nat) (core : Nat) (ch : Nat)
  | gatherCopy (die : Nat) (core : Nat) (ch : Nat)
  | streamRow (die : Nat) (core : Nat) (eng : Nat)
  | mmaTurn (die : Nat) (core : Nat)
  | mmaGroup (die : Nat) (core : Nat)
  | chunkCheck (die : Nat) (core : Nat) (mismatch : Bool)
  | burstIdleReset (die : Nat) (core : Nat)
  | acczTurn (die : Nat) (core : Nat)
  | trelTurn (die : Nat) (core : Nat)
  | drainTurn (die : Nat) (core : Nat)
  | drainRowToken (die : Nat) (core : Nat)
  | lockArrival (n : Nat)
  | lockRefill (die : Nat) (region : Nat) (lock : Nat)
  | lockCycle (die : Nat) (region : Nat) (lock : Nat)
  | handlerStart (die : Nat) (core : Nat)
  | packetAccept (n : Nat) (f : Option Frame)
  | creditReturn (n : Nat) (f : Option Frame)
  | poisonRingWrite (die : Nat)
  | nodeTokens (n : Nat)
  | coneWalkVisit (die : Nat)
  | weirBind (n : Nat)
  | weirArrival (n : Nat)
  | weirCopyChunk (die : Nat) (core : Nat)
  | provisionalWrite (n : Nat)
  | killNoticeArrival (n : Nat)
  | xbarArrival (n : Nat)
  | xbarTimeout (n : Nat)
  | xbarReply (n : Nat)
  | phaseArrival (n : Nat)
  | proxyAbsenceToken (n : Nat)
  | presenceToken (n : Nat)
  | carouselSlice (mdie : Nat)
  | partitionSwap (die : Nat)
  | collectorSave (die : Nat)
  | regionFreed (die : Nat) (region : Nat)
  | discardingEnd (die : Nat) (region : Nat)
  | tlbinvDone (die : Nat)
  | regionStopped (die : Nat)
  | stopAbandon (die : Nat)
  | orderGate (die : Nat) (pkind : Nat) (point : Nat)
  | traceSample (die : Nat)
  | fatalRecord (die : Nat)
  | governorCycle (die : Nat)
  | lockTimeout (die : Nat) (region : Nat) (lock : Nat)
  | arbiterVisit
  | carouselEntryStart
  | carouselRotationLeave
  | l1Writeback (die : Nat) (n : Nat)
  | dataErrorDetected (u : ErrUnit)
  | softErrorCorrected (die : Nat)
  | preempt (die : Nat) (region : Nat)
  | flushCancel (die : Nat) (region : Nat)
  | flushPoison (die : Nat) (region : Nat)
  | restore (die : Nat) (region : Nat)
  | serviceWrite (die : Nat) (v : W64)
  | partbaseWrite (die : Nat) (v : W64)
  | tlbinvPage (die : Nat) (v : W64)
  | tlbinvAll (die : Nat) (v : W64)
  | carctlRunSet (v : W64)
  | carctlRunClear (v : W64)
  | carcntWrite (v : W64)
  | slicehashWrite (v : W64)
  | cachectlEnable (v : W64)
  | routebaseWrite (v : W64)
  | evqackWrite (v : W64)
  | recordStart (die : Nat) (v : W64)
  | replayStart (die : Nat) (v : W64)
  | recordStop (die : Nat) (v : W64)
  | logringHeadWrite (die : Nat) (v : W64)
  | dbgstopStop (die : Nat) (v : W64)
  | dbgstopResume (die : Nat) (v : W64)
  | sysregWrite (addr : W64) (v : W64)
  | eventQueueTake
  | faultReport
  | tempSample (die : Nat) (temp : BitVec 8)
  | coldReset
  | bootVerify
  | firmwareReady
  | writeMemory (m : HostMsg)
  | readMemory (m : HostMsg)
  | postToken (m : HostMsg)
  | signalBoard (m : HostMsg)
  | attestReport (m : HostMsg)
  | attestKeyAgree (m : HostMsg)
  | keyLoad (m : HostMsg)
  | attestCert (m : HostMsg)
  | remoteAccessRequest (f : Frame)
  | remoteAccessResponse (f : Frame)
  | barrierTokenFrame (f : Frame)
  | frameDiscard (f : Frame)
  | portDown (port : Nat)
  | schedulerPreemptionRequest (die : Nat) (region : Nat)
  | linkLayerRetry (port : Nat)
  | reservedMessageType (m : HostMsg)
  deriving DecidableEq, Repr

end Sys2Proof
end

