-- ==== Sys2Proof/Machine/Legal.lean ====
section
/-! DEFINITION. Which words are legal: the operand classes, modifier values and reserved fields of every
instruction, and the decode reason of an illegal word (R24, R25, R36, R38). -/

namespace Sys2Proof.Machine

/-- The operand classes of R24. -/
inductive Cls where
  | sreg
  | vreg
  | mreg
  | acc
  | shape
  | chan
  | shared
  | fmt
  | tile
  | none
  deriving DecidableEq, Repr

/-- The field values a class admits (R23, R24). -/
def Cls.admits : Cls → BitVec 8 → Bool
  | .sreg, x => x ≤ 0x3F
  | .vreg, _ => true
  | .mreg, x => 0x40 ≤ x && x ≤ 0x4F
  | .acc, x => 0x50 ≤ x && x ≤ 0x53
  | .shape, x => 0x60 ≤ x && x ≤ 0x6F
  | .chan, x => 0x70 ≤ x && x ≤ 0x7F
  | .shared, x => 0x80 ≤ x && x ≤ 0x8F
  | .fmt, x => 0x90 ≤ x && x ≤ 0x9F
  | .tile, x => 0xA0 ≤ x && x ≤ 0xDF
  | .none, x => x == 0

/-- What a word of one instruction may hold: the class of each position, the subfields in use, the accepted ety
codes as a bit set, whether the fn value is listed, whether a pairing of listed values leaves a reserved bit set,
and the positions whose register must be even under a 64-bit ety or, for accumulators, name a pair. -/
structure Sig where
  d : Cls
  a : Cls
  b : Cls
  c : Cls
  rnd : Bool
  sat : Bool
  etys : BitVec 16
  fnOk : Bool
  extra3 : Bool
  extra4 : Bool
  pairD : Bool
  pairA : Bool
  pairB : Bool
  deriving DecidableEq, Repr

/-! ety sets: bit e stands for code e (R20). -/
def etyZero : BitVec 16 := 0x0001
/-- 0 to 8. -/
def etyInt0 : BitVec 16 := 0x01FF
/-- 9 to 12. -/
def etyFlt : BitVec 16 := 0x1E00
/-- 1 to 12. -/
def etyAll : BitVec 16 := 0x1FFE
/-- 0 to 12. -/
def etyAll0 : BitVec 16 := 0x1FFF
/-- 0 to 14. -/
def etyNf0 : BitVec 16 := 0x7FFF
/-- 1 to 14. -/
def etyNf : BitVec 16 := 0x7FFE
/-- 3, 4, 7, 8, 11 and 12 (R146, R164). -/
def etyWord : BitVec 16 := 0x1998
/-- 0, 1, 5 and 9 to 14 (R169). -/
def etyMma : BitVec 16 := 0x7E23

/-- ety 4, 8 or 12: I64, N64 or F64. -/
def ety64 (e : BitVec 4) : Bool := e == 4 || e == 8 || e == 12

/-- ety 9 to 12. -/
def etyFloat (e : BitVec 4) : Bool := 9 ≤ e && e ≤ 12

/-- A scalar or X-form signature with ety 0 only, no rounding, no saturation and fn 0. -/
def Sig.plain (d a b c : Cls) (fnOk : Bool) : Sig :=
  { d := d, a := a, b := b, c := c, rnd := false, sat := false, etys := etyZero, fnOk := fnOk, extra3 := false
    extra4 := false, pairD := false, pairA := false, pairB := false }

/-- Scalar integer rows of R87. -/
def sigInt (w : RegForm) (b c : Cls) (etys : BitVec 16) (sat : Bool) : Sig :=
  { Sig.plain .sreg .sreg b c (w.fn == 0) with etys := etys, sat := sat }

/-- Scalar float rows of R90. -/
def sigFloat (w : RegForm) (b c : Cls) (used : Bool) : Sig :=
  { Sig.plain .sreg .sreg b c (w.fn == 0) with etys := etyFlt, sat := used, rnd := used }

/-- The bits of a vector fn field (R111). -/
def fnT (w : RegForm) : Bool := w.fn.getLsbD 6
def fnQD (w : RegForm) : Bool := w.fn.getLsbD 5
def fnQA (w : RegForm) : Bool := w.fn.getLsbD 4
def fnOP (w : RegForm) : BitVec 4 := w.fn.extractLsb' 0 4

/-- A vector register form (R111, R114): `t`, `qd`, `qa` say which fn bits the instruction lists, `op` whether
its OP value is listed; T beside QD or QA, and a 64-bit ety beside a channel operand, are refused with reason 3. -/
def sigVec (w : RegForm) (b : Cls) (etys : BitVec 16) (rnd sat t qd qa op : Bool) : Sig :=
  { d := if fnQD w then .chan else .vreg
    a := if fnQA w then .chan else .vreg
    b := b
    c := if fnT w then .shape else .none
    rnd := rnd, sat := sat, etys := etys
    fnOk := op && (t || !fnT w) && (qd || !fnQD w) && (qa || !fnQA w)
    extra3 := (fnT w && (fnQD w || fnQA w)) || (ety64 w.ety && (fnQD w || fnQA w))
    extra4 := false
    pairD := !fnQD w, pairA := !fnQA w, pairB := b == .vreg }

/-- Elementwise rows of R120 that accept T, QD and QA. -/
def sigElem (w : RegForm) (b : Cls) (etys : BitVec 16) (rnd sat : Bool) : Sig :=
  sigVec w b etys rnd sat true true true (fnOP w == 0)

/-- Elementwise rows of R120 that read d: QA alone. -/
def sigAccum (w : RegForm) (etys : BitVec 16) (rnd sat : Bool) : Sig :=
  sigVec w .vreg etys rnd sat true false true (fnOP w == 0)

/-- A vector form without T, QD and QA whose positions are given and whose pairs are known only at issue. -/
def sigFlat (w : RegForm) (d a b c : Cls) (etys : BitVec 16) (rnd sat op : Bool) : Sig :=
  { Sig.plain d a b c (op && w.fn.getLsbD 6 == false && w.fn.getLsbD 5 == false && w.fn.getLsbD 4 == false) with
    rnd := rnd, sat := sat, etys := etys }

/-- c is a format register exactly under ety 13 and 14 (R124). -/
def fmtCls (w : RegForm) : Cls := if w.ety == 13 || w.ety == 14 then .fmt else .none

/-- INT and FLT, and NF where a row accepts them; ety 0 always (R120). -/
def etyIF : BitVec 16 := etyAll0
def etyFNf : BitVec 16 := 0x7E01

/-- S-form register forms (R87 to R102, R144 to R168). -/
def sigS : Instr → Option (RegForm × Sig)
  | .add w => some (w, sigInt w .sreg .none etyInt0 true)
  | .sub w => some (w, sigInt w .sreg .none etyInt0 true)
  | .mul w => some (w, sigInt w .sreg .none etyInt0 true)
  | .mulh w => some (w, sigInt w .sreg .none etyZero false)
  | .mulhu w => some (w, sigInt w .sreg .none etyZero false)
  | .div w => some (w, sigInt w .sreg .none etyZero false)
  | .divu w => some (w, sigInt w .sreg .none etyZero false)
  | .rem w => some (w, sigInt w .sreg .none etyZero false)
  | .remu w => some (w, sigInt w .sreg .none etyZero false)
  | .andR w => some (w, sigInt w .sreg .none etyZero false)
  | .orR w => some (w, sigInt w .sreg .none etyZero false)
  | .xorR w => some (w, sigInt w .sreg .none etyZero false)
  | .andn w => some (w, sigInt w .sreg .none etyZero false)
  | .shl w => some (w, sigInt w .sreg .none etyZero false)
  | .shr w => some (w, sigInt w .sreg .none etyZero false)
  | .sra w => some (w, sigInt w .sreg .none etyZero false)
  | .rot w => some (w, sigInt w .sreg .none etyZero false)
  | .minR w => some (w, sigInt w .sreg .none etyZero false)
  | .maxR w => some (w, sigInt w .sreg .none etyZero false)
  | .minu w => some (w, sigInt w .sreg .none etyZero false)
  | .maxu w => some (w, sigInt w .sreg .none etyZero false)
  | .clz w => some (w, sigInt w .none .none etyZero false)
  | .ctz w => some (w, sigInt w .none .none etyZero false)
  | .popc w => some (w, sigInt w .none .none etyZero false)
  | .sext w => some (w, sigInt w .none .none 0x000E false)
  | .zext w => some (w, sigInt w .none .none 0x00E0 false)
  | .sel w => some (w, sigInt w .sreg .sreg etyZero false)
  | .cmpeq w => some (w, sigInt w .sreg .none etyZero false)
  | .cmpne w => some (w, sigInt w .sreg .none etyZero false)
  | .cmplt w => some (w, sigInt w .sreg .none etyZero false)
  | .cmpltu w => some (w, sigInt w .sreg .none etyZero false)
  | .cmple w => some (w, sigInt w .sreg .none etyZero false)
  | .cmpleu w => some (w, sigInt w .sreg .none etyZero false)
  | .fadd w => some (w, sigFloat w .sreg .none true)
  | .fsub w => some (w, sigFloat w .sreg .none true)
  | .fmul w => some (w, sigFloat w .sreg .none true)
  | .ffma w => some (w, sigFloat w .sreg .sreg true)
  | .fdiv w => some (w, sigFloat w .sreg .none true)
  | .fsqrt w => some (w, sigFloat w .none .none true)
  | .fmin w => some (w, sigFloat w .sreg .none false)
  | .fmax w => some (w, sigFloat w .sreg .none false)
  | .fcmp w => some (w, { sigFloat w .sreg .none false with fnOk := 1 ≤ w.fn && w.fn ≤ 5 })
  | .fcvt w => some (w, { sigFloat w .none .none true with etys := etyAll, fnOk := 1 ≤ w.fn && w.fn ≤ 12 })
  | .jmp w => some (w, Sig.plain .none .sreg .none .none (w.fn == 0))
  | .callr w => some (w, Sig.plain .sreg .sreg .none .none (w.fn == 0))
  | .ret w => some (w, Sig.plain .none .sreg .none .none (w.fn == 0))
  | .join w => some (w, { Sig.plain .none .none .none .none (w.fn == 0) with extra4 := w.guard != 0 })
  | .nop w => some (w, Sig.plain .none .none .none .none (w.fn == 0))
  | .wait w => some (w, Sig.plain .sreg .sreg .none .none (1 ≤ w.fn && w.fn ≤ 31))
  | .mand w => some (w, Sig.plain .mreg .mreg .mreg .none (w.fn ≤ 1))
  | .mor w => some (w, Sig.plain .mreg .mreg .mreg .none (w.fn ≤ 1))
  | .mxor w => some (w, Sig.plain .mreg .mreg .mreg .none (w.fn ≤ 1))
  | .mnot w => some (w, Sig.plain .mreg .mreg .none .none (w.fn ≤ 1))
  | .mcnt w => some (w, Sig.plain .sreg .mreg .none .none (w.fn ≤ 1))
  | .many w => some (w, Sig.plain .sreg .mreg .none .none (w.fn ≤ 1))
  | .ld w => some (w, { Sig.plain .sreg .sreg .sreg .none (w.fn == 0) with etys := etyAll })
  | .st w => some (w, { Sig.plain .sreg .sreg .sreg .none (w.fn == 0) with etys := etyAll })
  | .lda w => some (w, { Sig.plain .sreg .sreg .sreg .none (w.fn ≤ 5) with etys := etyWord })
  | .stl w => some (w, { Sig.plain .sreg .sreg .sreg .none (w.fn ≤ 5) with etys := etyWord })
  | .amo w => some (w, { Sig.plain .none .sreg .sreg .none (w.fn.extractLsb' 0 3 != 7) with
      etys := etyWord
      extra3 := etyFloat w.ety && (w.fn.extractLsb' 0 3 == 3 || w.fn.extractLsb' 0 3 == 4 || w.fn.extractLsb' 0 3 == 5) })
  | .amov w => some (w, { Sig.plain .sreg .sreg .sreg .none (w.fn.extractLsb' 0 3 != 7) with
      etys := etyWord
      extra3 := etyFloat w.ety && (w.fn.extractLsb' 0 3 == 3 || w.fn.extractLsb' 0 3 == 4 || w.fn.extractLsb' 0 3 == 5) })
  | .cas w => some (w, { Sig.plain .sreg .sreg .sreg .sreg (w.fn.extractLsb' 0 3 == 0) with etys := etyWord })
  | .fence w => some (w, Sig.plain .none .none .none .none
      (w.fn.extractLsb' 0 3 ≤ 5 && w.fn.extractLsb' 3 2 != 0 && w.fn.extractLsb' 5 2 == 0))
  | .cpy w => some (w, Sig.plain .chan .sreg .sreg (if w.fn.getLsbD 0 then .shape else .sreg) (w.fn ≤ 1))
  | .chwait w => some (w, Sig.plain .sreg .chan .sreg .none (w.fn == 0))
  | .chwaitRows w => some (w, Sig.plain .sreg .chan .sreg .none (w.fn == 1))
  | .secfg w => some (w, Sig.plain .chan .sreg .shape .sreg (w.fn == 0))
  | .sego w => some (w, Sig.plain .chan .none .none .none (w.fn == 0))
  | .sestop w => some (w, Sig.plain .chan .none .none .none (w.fn == 0))
  | .pref w => some (w, Sig.plain .none .sreg .sreg .none (w.fn ≤ 1))
  | _ => none

/-- V-form register forms (R120 to R137, R150, R155, R165, R166, R169). -/
def sigV : Instr → Option (RegForm × Sig)
  | .vadd w => some (w, sigElem w .vreg etyIF true true)
  | .vsub w => some (w, sigElem w .vreg etyIF true true)
  | .vmul w => some (w, sigElem w .vreg etyIF true true)
  | .vfma w => some (w, sigAccum w etyIF true true)
  | .vfms w => some (w, sigAccum w etyIF true true)
  | .vfnma w => some (w, sigAccum w etyIF true true)
  | .vdiv w => some (w, sigElem w .vreg (etyFlt ||| etyZero) true true)
  | .vsqrt w => some (w, sigElem w .none (etyFlt ||| etyZero) true true)
  | .vmin w => some (w, sigElem w .vreg etyNf0 false false)
  | .vmax w => some (w, sigElem w .vreg etyNf0 false false)
  | .vabs w => some (w, sigElem w .none etyNf0 false (w.ety ≤ 8))
  | .vneg w => some (w, sigElem w .none etyNf0 false (w.ety ≤ 8))
  | .vand w => some (w, sigElem w .vreg etyZero false false)
  | .vor w => some (w, sigElem w .vreg etyZero false false)
  | .vxor w => some (w, sigElem w .vreg etyZero false false)
  | .vnot w => some (w, sigElem w .none etyZero false false)
  | .vshl w => some (w, sigElem w .vreg etyInt0 false false)
  | .vshr w => some (w, sigElem w .vreg etyInt0 false false)
  | .vsra w => some (w, sigElem w .vreg etyInt0 false false)
  | .vcmp w => some (w, { sigFlat w .mreg .vreg .vreg .none etyNf0 false false (1 ≤ fnOP w && fnOP w ≤ 5) with
      extra3 := fnOP w == 5 && 1 ≤ w.ety && w.ety ≤ 8 })
  | .vsel w => some (w, sigFlat w .vreg .vreg .vreg .mreg etyZero false false (fnOP w == 0))
  | .vcvt w => some (w, { sigVec w .none etyNf true true false true true (fnOP w == 0) with c := fmtCls w, pairA := false })
  | .vmov w => some (w, { sigVec w .none etyNf0 false false false true true (fnOP w ≤ 1) with
      c := fmtCls w
      extra3 := (ety64 w.ety && (fnQD w || fnQA w)) ||
        (fnOP w == 1 && !(w.ety == 1 || w.ety == 5 || w.ety == 13 || w.ety == 14)) })
  | .vbcast w => some (w, { sigFlat w .vreg .sreg .none (fmtCls w) etyNf false false (fnOP w == 0) with pairD := true })
  | .vext w => some (w, sigFlat w .sreg .vreg .sreg .none etyNf0 false false (fnOP w == 0))
  | .vred w => some (w, { sigFlat w .sreg .vreg .none .none etyAll0 true true (fnOP w ≤ 5) with
      extra3 := 3 ≤ fnOP w && etyFloat w.ety })
  | .vscan w => some (w, { sigFlat w .vreg .vreg .none .none etyAll0 true true ((fnOP w).extractLsb' 0 3 ≤ 5) with
      extra3 := 3 ≤ (fnOP w).extractLsb' 0 3 && etyFloat w.ety })
  | .vvote w => some (w, sigFlat w .sreg .mreg .mreg .none etyZero false false (fnOP w ≤ 3))
  | .vshuf w => some (w, sigFlat w .vreg .vreg .vreg .none etyZero false false (fnOP w == 0))
  | .vsfu w => some (w, sigVec w .none 0x0E01 true true true true true (fnOP w ≤ 7))
  | .vgumbel w => some (w, sigFlat w .vreg .sreg .sreg .vreg 0x0E01 true true (fnOP w == 0))
  | .vidx w => some (w, sigFlat w .vreg .sreg .none .none etyZero false false (fnOP w == 0))
  | .vmulh w => some (w, sigElem w .vreg etyInt0 false false)
  | .vclamp w => some (w, sigAccum w etyNf0 false false)
  | .vpack w => some (w, sigFlat w .vreg .vreg .vreg (fmtCls w) 0x6EEE true true (fnOP w == 0))
  | .vunpk w => some (w, sigFlat w .vreg .vreg .none (fmtCls w) 0x6EEE true true (fnOP w ≤ 1))
  | .vpopc w => some (w, sigElem w .none etyInt0 false false)
  | .vclz w => some (w, sigElem w .none etyInt0 false false)
  | .vdot w => some (w, sigFlat w .vreg .vreg .vreg .none 0x6623 true true (fnOP w == 0))
  | .vcopysgn w => some (w, sigElem w .vreg (etyFlt ||| 0x6001) false false)
  | .vld w => some (w, { sigFlat w .vreg .sreg .sreg .none etyAll0 false false true with
      fnOk := w.fn == 0 || w.fn == 0x40, c := if fnT w then .shape else .none, pairD := true })
  | .vst w => some (w, { sigFlat w .vreg .sreg .sreg .none etyZero false false true with
      fnOk := w.fn == 0 || w.fn == 0x40, c := if fnT w then .shape else .none })
  | .vgath w => some (w, { sigFlat w .vreg .sreg .vreg .none etyAll0 false false (fnOP w == 0) with pairD := true })
  | .vscat w => some (w, sigFlat w .vreg .sreg .vreg .none etyZero false false (fnOP w == 0))
  | .vamo w => some (w, sigFlat w (if (fnOP w).getLsbD 3 then .vreg else .none) .sreg .vreg .vreg etyZero false false
      ((fnOP w).extractLsb' 0 3 != 7))
  | .vmaxvi w => some (w, sigFlat w .vreg .sreg .vreg (if fnOP w == 1 then .vreg else .none) etyZero false false (fnOP w ≤ 1))
  | .vpop w => some (w, Sig.plain .vreg .chan .none .none (w.fn == 0))
  | .vpush w => some (w, Sig.plain .chan .vreg .none .none (w.fn == 0))
  | _ => none

/-- Matrix-engine register forms (R169, R182). -/
def sigMat : Instr → Option (RegForm × Sig)
  | .mma w => some (w, { Sig.plain .acc .tile .tile .sreg (w.fn == 0) with etys := etyMma, pairD := true })
  | .mmaz w => some (w, { Sig.plain .acc .tile .tile .sreg (w.fn == 0) with etys := etyMma, pairD := true })
  | .accz w => some (w, { Sig.plain .acc .none .none .none (w.fn == 0) with etys := 0x1001, pairD := true })
  | .drain w => some (w, { Sig.plain .chan .acc .none (if w.ety == 13 then .fmt else .none) (w.fn ≤ 1) with
      etys := 0x2E08, rnd := true, sat := true })
  | .scaleA w => some (w, Sig.plain .none .tile .none .none (w.fn == 0))
  | .scaleB w => some (w, Sig.plain .none .tile .none .none (w.fn == 1))
  | .scaleNoa w => some (w, Sig.plain .none .none .none .none (w.fn == 2))
  | .scaleNob w => some (w, Sig.plain .none .none .none .none (w.fn == 3))
  | .tld w => some (w, { Sig.plain .tile .sreg .sreg .chan (w.fn.getLsbD 6 == false) with
      etys := etyNf0
      extra3 := (w.fn.getLsbD 5 && (w.ety != 0 || w.fn.getLsbD 4)) ||
        (w.fn.getLsbD 4 && !(w.ety == 1 || w.ety == 5 || w.ety == 13 || w.ety == 14))
      extra4 := w.fn.extractLsb' 0 4 != 0 && !(w.ety == 13 || w.ety == 14) })
  | .tldBind w => some (w, { Sig.plain .tile .none .sreg .none (w.fn.getLsbD 6) with
      etys := etyNf0
      extra3 := (w.fn.getLsbD 5 && (w.ety != 0 || w.fn.getLsbD 4)) ||
        (w.fn.getLsbD 4 && !(w.ety == 1 || w.ety == 5 || w.ety == 13 || w.ety == 14))
      extra4 := w.fn.extractLsb' 0 4 != 0 && !(w.ety == 13 || w.ety == 14) })
  | .tst w => some (w, Sig.plain .tile .sreg .none .chan (w.fn ≤ 1))
  | .trelEmpty w => some (w, Sig.plain .tile .none .none .none (w.fn == 0))
  | .trelFull w => some (w, Sig.plain .tile .none .none .none (w.fn == 1))
  | .batonTake w => some (w, Sig.plain .none .none .none .none (w.fn == 0))
  | .batonPass w => some (w, Sig.plain .none .sreg .none .none (w.fn == 1))
  | .batonDrop w => some (w, Sig.plain .none .none .none .none (w.fn == 2))
  | .leaveReq w => some (w, Sig.plain .sreg .sreg .none .none (w.fn == 0))
  | .leaveRet w => some (w, Sig.plain .sreg .none .none .none (w.fn == 1))
  | _ => none

/-- The writable fields of a barge record (R201). -/
def bargeWritable (f : Nat) : Bool :=
  f == 2 || f == 3 || f == 6 || f == 7 || f == 9 || f == 10 || f == 11

/-- X-form register forms (R192). -/
def sigX : Instr → Option (RegForm × Sig)
  | .board w => some (w, { Sig.plain .sreg .sreg .sreg .none (w.fn ≤ 15 && w.fn.getLsbD 0 == false) with
      extra4 := w.fn.extractLsb' 2 2 != 0 })
  | .boardNew w => some (w, Sig.plain .sreg .sreg .sreg .sreg (w.fn ≤ 15 && w.fn.getLsbD 0))
  | .bget w => some (w, Sig.plain .sreg .sreg .none .none (w.fn ≤ 13))
  | .bset w => some (w, Sig.plain .none .sreg .sreg .none (bargeWritable w.fn.toNat))
  | .cancel w => some (w, Sig.plain .none .sreg .none .none (w.fn == 0))
  | .cancelKv w => some (w, Sig.plain .none .sreg .sreg .sreg (w.fn == 1))
  | .fire w => some (w, Sig.plain .sreg .sreg .sreg .none (w.fn == 4 || w.fn == 5))
  | .rangeR w => some (w, Sig.plain .sreg (if w.a == 0 then .none else .chan) .sreg .none (w.fn == 0))
  | .retire w => some (w, Sig.plain .none .sreg .none .none (w.fn == 0))
  | .lockq w => some (w, Sig.plain .sreg .sreg .none .none (w.fn == 0))
  | .nstate w => some (w, Sig.plain .sreg .sreg .none .none (w.fn == 0))
  | .jadd w => some (w, Sig.plain .sreg .sreg .sreg .sreg (w.fn == 0))
  | .killpt w => some (w, Sig.plain .none .sreg .sreg .none (w.fn == 0))
  | .warrive w => some (w, Sig.plain .sreg .sreg .sreg .none (w.fn == 0))
  | .bar w => some (w, Sig.plain .sreg .sreg .sreg .none (w.fn == 1 || w.fn == 2))
  | .xbar w => some (w, Sig.plain .sreg .sreg .sreg .none (w.fn == 0))
  | .phase w => some (w, Sig.plain .sreg .sreg .sreg .none (w.fn == 0))
  | .trap w => some (w, Sig.plain .none .sreg .none .none (w.fn == 0))
  | .exitR w => some (w, Sig.plain .none .none .none .none (w.fn == 0))
  | .rmark w => some (w, Sig.plain .none .sreg .none .none (w.fn == 0))
  | .dmark w => some (w, Sig.plain .none .sreg .sreg .none (w.fn ≤ 1))
  | .brk w => some (w, Sig.plain .none .none .none .none (w.fn == 0))
  | _ => none

/-- The register-form fields and signature of an instruction, when it is a register form. -/
def regSig (i : Instr) : Option (RegForm × Sig) :=
  (sigS i).or ((sigV i).or ((sigMat i).or (sigX i)))

/-- What a word of an immediate form may hold (R17): the classes of d and a, whether an ety code in the
immediate is accepted (reason 3 otherwise), and whether every subfield is listed and every unused bit zero. -/
structure ImmSig where
  d : Cls
  a : Cls
  code3 : Bool
  immOk : Bool
  deriving DecidableEq, Repr

/-- The special-register numbers of R106. -/
def srListed (n : Nat) : Bool :=
  n ≤ 8 || (0x10 ≤ n && n ≤ 0x1F) || (0x20 ≤ n && n ≤ 0x2F) || n == 0x40

/-- imm31 above bit n is zero. -/
def immBelow (w : ImmForm) (n : Nat) : Bool := w.imm.toNat < 2 ^ n

/-- The immediate forms (R89, R92, R105, R138, R144, R152, R193). -/
def immSig : Instr → Option (ImmForm × ImmSig)
  | .addi w => some (w, ⟨.sreg, .sreg, true, true⟩)
  | .muli w => some (w, ⟨.sreg, .sreg, true, true⟩)
  | .andi w => some (w, ⟨.sreg, .sreg, true, true⟩)
  | .ori w => some (w, ⟨.sreg, .sreg, true, true⟩)
  | .xori w => some (w, ⟨.sreg, .sreg, true, true⟩)
  | .shli w => some (w, ⟨.sreg, .sreg, true, immBelow w 6⟩)
  | .shri w => some (w, ⟨.sreg, .sreg, true, immBelow w 6⟩)
  | .srai w => some (w, ⟨.sreg, .sreg, true, immBelow w 6⟩)
  | .cmpeqi w => some (w, ⟨.sreg, .sreg, true, true⟩)
  | .cmplti w => some (w, ⟨.sreg, .sreg, true, true⟩)
  | .cmpltui w => some (w, ⟨.sreg, .sreg, true, true⟩)
  | .li w => some (w, ⟨.sreg, .none, true, true⟩)
  | .lih w => some (w, ⟨.sreg, .sreg, true, immBelow w 18⟩)
  | .br w => some (w, ⟨.none, .none, true, true⟩)
  | .brz w => some (w, ⟨.none, .sreg, true, true⟩)
  | .brnz w => some (w, ⟨.none, .sreg, true, true⟩)
  | .call w => some (w, ⟨.sreg, .none, true, true⟩)
  | .brd w => some (w, ⟨.none, .none, true, true⟩)
  | .brany w => some (w, ⟨.none, .mreg, true, true⟩)
  | .brall w => some (w, ⟨.none, .mreg, true, true⟩)
  | .markR w => some (w, ⟨.none, .none, true, w.guard == 0⟩)
  | .ldo w => some (w, ⟨.sreg, .sreg, etyAll.getLsbD (w.imm.toNat % 16), true⟩)
  | .sto w => some (w, ⟨.sreg, .sreg, etyAll.getLsbD (w.imm.toNat % 16), true⟩)
  | .getsr w => some (w, ⟨.sreg, .none, true, immBelow w 12 && srListed w.imm.toNat⟩)
  | .setsr w => some (w, ⟨.none, .sreg, true, immBelow w 14 && srListed (w.imm.toNat % 4096) &&
      (w.imm.toNat / 4096 == 0 || (0x20 ≤ w.imm.toNat % 4096 && w.imm.toNat % 4096 ≤ 0x2F))⟩)
  | .vaddi w => some (w, ⟨.vreg, .vreg, true, true⟩)
  | .vshli w => some (w, ⟨.vreg, .vreg, true, immBelow w 6⟩)
  | .vshri w => some (w, ⟨.vreg, .vreg, true, immBelow w 6⟩)
  | .vsrai w => some (w, ⟨.vreg, .vreg, true, immBelow w 6⟩)
  | .vshufi w => some (w, ⟨.vreg, .vreg, true, immBelow w 13 && w.imm.toNat % 8 ≤ 4⟩)
  | .vli w => some (w, ⟨.vreg, .none, true, true⟩)
  | .vldo w => some (w, ⟨.vreg, .sreg, true, true⟩)
  | .vsto w => some (w, ⟨.vreg, .sreg, true, true⟩)
  | .boardi w => some (w, ⟨.sreg, .sreg, true, immBelow w 16⟩)
  | .firei w => some (w, ⟨.none, .sreg, true, true⟩)
  | .bgeti w => some (w, ⟨.sreg, .none, true, immBelow w 9 && w.imm.toNat / 32 ≤ 13⟩)
  | .bseti w => some (w, ⟨.none, .sreg, true, immBelow w 9 && bargeWritable (w.imm.toNat / 32)⟩)
  | .trapi w => some (w, ⟨.none, .none, true, immBelow w 16⟩)
  | _ => none

/-- An odd vector register under a 64-bit ety, or c1 or c3 under ety 12 (reason 7). -/
def oddPair (cls : Cls) (x : BitVec 8) (ety : BitVec 4) : Bool :=
  match cls with
  | .vreg => ety64 ety && x.getLsbD 0
  | .acc => ety == 12 && x.getLsbD 0
  | _ => false

/-- An ety code that an instruction with an ety does not accept (reason 3); where the set is {0} the instruction has no
ety, and a nonzero one is an unused subfield (reason 4, R36, R38). -/
def etyRefused (etys : BitVec 16) (ety : BitVec 4) : Bool := etys != etyZero && !(etys.getLsbD ety.toNat)

/-- The decode reason of a register form, none when it is legal (R36). -/
def reasonReg (w : RegForm) (g : Sig) : Option Nat :=
  if w.guard == 0b10000 then some 2
  else if 5 ≤ w.rnd || w.ety == 15 || etyRefused g.etys w.ety || !g.fnOk || g.extra3 then some 3
  else if (!g.rnd && w.rnd != 0) || (!g.sat && w.sat != 0) || (g.etys == etyZero && w.ety != 0) || g.extra4 then some 4
  else if !(g.d.admits w.d && g.a.admits w.a && g.b.admits w.b && g.c.admits w.c) then some 5
  else if g.d == .mreg && w.d == 0x40 then some 6
  else if (g.pairD && oddPair g.d w.d w.ety) || (g.pairA && oddPair g.a w.a w.ety) ||
      (g.pairB && oddPair g.b w.b w.ety) then some 7
  else none

/-- The decode reason of an immediate form. -/
def reasonImm (w : ImmForm) (g : ImmSig) : Option Nat :=
  if w.guard == 0b10000 then some 2
  else if !g.code3 then some 3
  else if !g.immOk then some 4
  else if !(g.d.admits w.d && g.a.admits w.a) then some 5
  else none

/-! ## P words (R27 to R29) -/

/-- A listed slot operation (R28). -/
def sopListed (s : BitVec 7) : Bool := s ≤ 0x12 || (0x41 ≤ s && s ≤ 0x4D)

/-- A slot operation on vector registers. -/
def sopVec (s : BitVec 7) : Bool := 0x40 ≤ s

/-- The ety codes a slot operation accepts: those of the full form, less F64 in a vector slot and less the
narrow types where the full form takes a format register (R27, R147). -/
def slotEtys (s : BitVec 7) : BitVec 16 :=
  if s == 0x01 || s == 0x02 || s == 0x03 then etyInt0
  else if 0x0D ≤ s && s ≤ 0x10 then etyFlt
  else if s == 0x11 || s == 0x12 then etyAll
  else if s ≤ 0x0C then etyZero
  else if s == 0x41 || s == 0x42 || s == 0x43 then 0x0FFF
  else if s == 0x44 || s == 0x45 || s == 0x46 then etyZero
  else if s == 0x47 || s == 0x48 || s == 0x49 then etyInt0
  else if s == 0x4A || s == 0x4B then 0x6FFF
  else if s == 0x4C then 0x0FFF
  else 0x0FFE

def slotRnd (s : BitVec 7) : Bool :=
  s == 0x0D || s == 0x0E || s == 0x41 || s == 0x42 || s == 0x43 || s == 0x4D

def slotSat (s : BitVec 7) : Bool := slotRnd s || s == 0x01 || s == 0x02 || s == 0x03

/-- Reason 3 in a slot: a reserved value, in a PNOP slot too, or an ety that the operation does not accept (R36, R38). -/
def slotBad3 (s : Slot) : Bool :=
  5 ≤ s.rnd || s.ety == 15 || (s.sop != 0 && etyRefused (slotEtys s.sop) s.ety)

/-- Reason 4 in a slot: an unused subfield, or any field of a PNOP slot. -/
def slotBad4 (s : Slot) : Bool :=
  if s.sop == 0 then s.d != 0 || s.s != 0 || s.rnd != 0 || s.sat != 0 || s.ety != 0
  else (!slotRnd s.sop && s.rnd != 0) || (!slotSat s.sop && s.sat != 0) || (slotEtys s.sop == etyZero && s.ety != 0)

/-- Reason 5 in a slot. -/
def slotBad5 (s : Slot) : Bool :=
  s.sop != 0 && !sopVec s.sop && !(Cls.sreg.admits s.d && Cls.sreg.admits s.s)

/-- Reason 7 in a slot: an odd register under I64 or N64. -/
def slotBad7 (s : Slot) : Bool :=
  sopVec s.sop && ety64 s.ety && (s.d.getLsbD 0 || (s.s.getLsbD 0 && s.sop != 0x4D))

/-- A register of a bank in the given half: banks 0 and 1 for slot A, 2 and 3 for slot B (R29). -/
def inBanks (high : Bool) (s : Slot) : Bool :=
  !sopVec s.sop || (s.d.getLsbD 1 == high && s.s.getLsbD 1 == high)

def slotMem (s : Slot) : Bool := s.sop == 0x11 || s.sop == 0x12

/-- Reason 8 (R29). A slot ST names its register in d; the limit on the two d fields stands for it too. -/
def pairBad (a b : Slot) : Bool :=
  !inBanks false a || !inBanks true b || (slotMem a && slotMem b) ||
    (a.sop != 0 && b.sop != 0 && !sopVec a.sop && !sopVec b.sop && a.d == b.d && a.d != 0)

/-- The decode reason of a P word. -/
def reasonP (a b : Slot) : Option Nat :=
  if !sopListed a.sop || !sopListed b.sop then some 1
  else if slotBad3 a || slotBad3 b then some 3
  else if slotBad4 a || slotBad4 b then some 4
  else if slotBad5 a || slotBad5 b then some 5
  else if slotBad7 a || slotBad7 b then some 7
  else if pairBad a b then some 8
  else none

/-- The decode reason of an instruction's word: none for a legal word and for an event, which has no word. -/
def legalReason (i : Instr) : Option Nat :=
  match regSig i with
  | some (w, g) => reasonReg w g
  | none =>
    match immSig i with
    | some (w, g) => reasonImm w g
    | none =>
      match i with
      | .pWord a b => reasonP a b
      | _ => none

end Sys2Proof.Machine
end

