-- ==== Sys2Proof/WellFormed.lean ====
section
/-! DEFINITION. Which instructions are well formed: those whose word, if they have one, breaks no rule of R36. -/

namespace Sys2Proof

/-- A well-formed instruction. The illegal word is none; an event has no word to be ill-formed. -/
def Instr.wf (i : Instr) : Bool :=
  match i with
  | .illegalWord _ => false
  | i => (Machine.legalReason i).isNone

end Sys2Proof
end

