-- ==== Sys2Proof/Decode.lean ====
section
/-! DEFINITION. Decoding and encoding of instruction words, by the layouts of R13 to R17 and R26 and the opcode
map of R32 to R34. -/

namespace Sys2Proof

/-! ## Bytes and words (R5, R13) -/

/-- The n low-order bytes of a number, least significant first. -/
def bytesOfNat : Nat → Nat → List Byte
  | 0, _ => []
  | n + 1, x => BitVec.ofNat 8 x :: bytesOfNat n (x / 256)

/-- The number whose bytes are given, least significant first. -/
def natOfBytes : List Byte → Nat
  | [] => 0
  | b :: bs => b.toNat + 256 * natOfBytes bs

/-- The eight bytes of a word in memory order. -/
def wordBytes (w : W64) : List Byte := bytesOfNat 8 w.toNat

/-! ## Fields -/

/-- The form, bits 63:62 (R15). -/
def formOf (w : W64) : BitVec 2 := w.extractLsb' 62 2
/-- The opcode, bits 61:52 (R16). -/
def opcodeOf (w : W64) : BitVec 10 := w.extractLsb' 52 10

/-- The fields of a register form (R16, R18). -/
def regFields (w : W64) : RegForm :=
  { guard := w.extractLsb' 47 5, d := w.extractLsb' 39 8, a := w.extractLsb' 31 8, b := w.extractLsb' 23 8
    c := w.extractLsb' 15 8, rnd := w.extractLsb' 12 3, sat := w.extractLsb' 11 1, ety := w.extractLsb' 7 4
    fn := w.extractLsb' 0 7 }

/-- The fields of an immediate form (R16, R17). -/
def immFields (w : W64) : ImmForm :=
  { guard := w.extractLsb' 47 5, d := w.extractLsb' 39 8, a := w.extractLsb' 31 8, imm := w.extractLsb' 0 31 }

/-- The fields of one slot of a P word (R26, R27). -/
def slotFields (x : BitVec 31) : Slot :=
  { sop := x.extractLsb' 24 7, d := x.extractLsb' 16 8, s := x.extractLsb' 8 8, rnd := x.extractLsb' 5 3
    sat := x.extractLsb' 4 1, ety := x.extractLsb' 0 4 }

/-- The word of a register form. -/
def regWord (form : BitVec 2) (opcode : BitVec 10) (w : RegForm) : W64 :=
  form ++ opcode ++ w.guard ++ w.d ++ w.a ++ w.b ++ w.c ++ w.rnd ++ w.sat ++ w.ety ++ w.fn

/-- The word of an immediate form. -/
def immWord (form : BitVec 2) (opcode : BitVec 10) (w : ImmForm) : W64 :=
  form ++ opcode ++ w.guard ++ w.d ++ w.a ++ w.imm

/-- The 31 bits of a slot. -/
def slotBits (s : Slot) : BitVec 31 := s.sop ++ s.d ++ s.s ++ s.rnd ++ s.sat ++ s.ety


/-- The S-form opcodes (R32); none for a reserved one. -/
def decodeS (opcode : BitVec 10) (x : W64) : Option Instr :=
  match opcode.toNat with
  | 0x000 => some (.add (regFields x))
  | 0x001 => some (.sub (regFields x))
  | 0x002 => some (.mul (regFields x))
  | 0x003 => some (.mulh (regFields x))
  | 0x004 => some (.mulhu (regFields x))
  | 0x005 => some (.div (regFields x))
  | 0x006 => some (.divu (regFields x))
  | 0x007 => some (.rem (regFields x))
  | 0x008 => some (.remu (regFields x))
  | 0x009 => some (.andR (regFields x))
  | 0x00A => some (.orR (regFields x))
  | 0x00B => some (.xorR (regFields x))
  | 0x00C => some (.andn (regFields x))
  | 0x00D => some (.shl (regFields x))
  | 0x00E => some (.shr (regFields x))
  | 0x00F => some (.sra (regFields x))
  | 0x010 => some (.rot (regFields x))
  | 0x011 => some (.minR (regFields x))
  | 0x012 => some (.maxR (regFields x))
  | 0x013 => some (.minu (regFields x))
  | 0x014 => some (.maxu (regFields x))
  | 0x015 => some (.clz (regFields x))
  | 0x016 => some (.ctz (regFields x))
  | 0x017 => some (.popc (regFields x))
  | 0x018 => some (.sext (regFields x))
  | 0x019 => some (.zext (regFields x))
  | 0x01A => some (.sel (regFields x))
  | 0x01B => some (.cmpeq (regFields x))
  | 0x01C => some (.cmpne (regFields x))
  | 0x01D => some (.cmplt (regFields x))
  | 0x01E => some (.cmpltu (regFields x))
  | 0x01F => some (.cmple (regFields x))
  | 0x020 => some (.cmpleu (regFields x))
  | 0x030 => some (.fadd (regFields x))
  | 0x031 => some (.fsub (regFields x))
  | 0x032 => some (.fmul (regFields x))
  | 0x033 => some (.ffma (regFields x))
  | 0x034 => some (.fdiv (regFields x))
  | 0x035 => some (.fsqrt (regFields x))
  | 0x036 => some (.fmin (regFields x))
  | 0x037 => some (.fmax (regFields x))
  | 0x038 => some (.fcmp (regFields x))
  | 0x039 => some (.fcvt (regFields x))
  | 0x040 => some (.jmp (regFields x))
  | 0x041 => some (.callr (regFields x))
  | 0x042 => some (.ret (regFields x))
  | 0x043 => some (.join (regFields x))
  | 0x044 => some (.nop (regFields x))
  | 0x045 => some (.wait (regFields x))
  | 0x046 => some (.mand (regFields x))
  | 0x047 => some (.mor (regFields x))
  | 0x048 => some (.mxor (regFields x))
  | 0x049 => some (.mnot (regFields x))
  | 0x04A => some (.mcnt (regFields x))
  | 0x04B => some (.many (regFields x))
  | 0x080 => some (.ld (regFields x))
  | 0x081 => some (.st (regFields x))
  | 0x082 => some (.lda (regFields x))
  | 0x083 => some (.stl (regFields x))
  | 0x084 => some (.amo (regFields x))
  | 0x085 => some (.amov (regFields x))
  | 0x086 => some (.cas (regFields x))
  | 0x087 => some (.fence (regFields x))
  | 0x088 => some (.cpy (regFields x))
  | 0x089 => if (regFields x).fn == 1 then some (.chwaitRows (regFields x)) else some (.chwait (regFields x))
  | 0x08A => some (.secfg (regFields x))
  | 0x08B => some (.sego (regFields x))
  | 0x08C => some (.sestop (regFields x))
  | 0x08D => some (.pref (regFields x))
  | 0x200 => some (.addi (immFields x))
  | 0x201 => some (.muli (immFields x))
  | 0x202 => some (.andi (immFields x))
  | 0x203 => some (.ori (immFields x))
  | 0x204 => some (.xori (immFields x))
  | 0x205 => some (.shli (immFields x))
  | 0x206 => some (.shri (immFields x))
  | 0x207 => some (.srai (immFields x))
  | 0x208 => some (.cmpeqi (immFields x))
  | 0x209 => some (.cmplti (immFields x))
  | 0x20A => some (.cmpltui (immFields x))
  | 0x20B => some (.li (immFields x))
  | 0x20C => some (.lih (immFields x))
  | 0x240 => some (.br (immFields x))
  | 0x241 => some (.brz (immFields x))
  | 0x242 => some (.brnz (immFields x))
  | 0x243 => some (.call (immFields x))
  | 0x244 => some (.brd (immFields x))
  | 0x245 => some (.brany (immFields x))
  | 0x246 => some (.brall (immFields x))
  | 0x247 => some (.markR (immFields x))
  | 0x280 => some (.ldo (immFields x))
  | 0x281 => some (.sto (immFields x))
  | 0x282 => some (.getsr (immFields x))
  | 0x283 => some (.setsr (immFields x))
  | _ => none

/-- The V-form opcodes (R33). -/
def decodeV (opcode : BitVec 10) (x : W64) : Option Instr :=
  match opcode.toNat with
  | 0x000 => some (.vadd (regFields x))
  | 0x001 => some (.vsub (regFields x))
  | 0x002 => some (.vmul (regFields x))
  | 0x003 => some (.vfma (regFields x))
  | 0x004 => some (.vfms (regFields x))
  | 0x005 => some (.vfnma (regFields x))
  | 0x006 => some (.vdiv (regFields x))
  | 0x007 => some (.vsqrt (regFields x))
  | 0x008 => some (.vmin (regFields x))
  | 0x009 => some (.vmax (regFields x))
  | 0x00A => some (.vabs (regFields x))
  | 0x00B => some (.vneg (regFields x))
  | 0x00C => some (.vand (regFields x))
  | 0x00D => some (.vor (regFields x))
  | 0x00E => some (.vxor (regFields x))
  | 0x00F => some (.vnot (regFields x))
  | 0x010 => some (.vshl (regFields x))
  | 0x011 => some (.vshr (regFields x))
  | 0x012 => some (.vsra (regFields x))
  | 0x013 => some (.vcmp (regFields x))
  | 0x014 => some (.vsel (regFields x))
  | 0x015 => some (.vcvt (regFields x))
  | 0x016 => some (.vmov (regFields x))
  | 0x017 => some (.vbcast (regFields x))
  | 0x018 => some (.vext (regFields x))
  | 0x019 => some (.vred (regFields x))
  | 0x01A => some (.vscan (regFields x))
  | 0x01B => some (.vvote (regFields x))
  | 0x01C => some (.vshuf (regFields x))
  | 0x01D => some (.vsfu (regFields x))
  | 0x01E => some (.vgumbel (regFields x))
  | 0x01F => some (.vidx (regFields x))
  | 0x020 => some (.vmulh (regFields x))
  | 0x021 => some (.vclamp (regFields x))
  | 0x022 => some (.vpack (regFields x))
  | 0x023 => some (.vunpk (regFields x))
  | 0x024 => some (.vpopc (regFields x))
  | 0x025 => some (.vclz (regFields x))
  | 0x026 => some (.vdot (regFields x))
  | 0x027 => some (.vcopysgn (regFields x))
  | 0x040 => some (.vld (regFields x))
  | 0x041 => some (.vst (regFields x))
  | 0x042 => some (.vgath (regFields x))
  | 0x043 => some (.vscat (regFields x))
  | 0x044 => some (.vamo (regFields x))
  | 0x045 => some (.vmaxvi (regFields x))
  | 0x046 => some (.vpop (regFields x))
  | 0x047 => some (.vpush (regFields x))
  | 0x080 => some (.mma (regFields x))
  | 0x081 => some (.mmaz (regFields x))
  | 0x082 => some (.accz (regFields x))
  | 0x083 => some (.drain (regFields x))
  | 0x084 => 
      if (regFields x).fn == 1 then some (.scaleB (regFields x))
      else if (regFields x).fn == 2 then some (.scaleNoa (regFields x))
      else if (regFields x).fn == 3 then some (.scaleNob (regFields x))
      else some (.scaleA (regFields x))
  | 0x085 => if (regFields x).fn.getLsbD 6 then some (.tldBind (regFields x)) else some (.tld (regFields x))
  | 0x086 => some (.tst (regFields x))
  | 0x087 => if (regFields x).fn == 1 then some (.trelFull (regFields x)) else some (.trelEmpty (regFields x))
  | 0x088 => 
      if (regFields x).fn == 1 then some (.batonPass (regFields x))
      else if (regFields x).fn == 2 then some (.batonDrop (regFields x))
      else some (.batonTake (regFields x))
  | 0x089 => if (regFields x).fn == 1 then some (.leaveRet (regFields x)) else some (.leaveReq (regFields x))
  | 0x200 => some (.vaddi (immFields x))
  | 0x201 => some (.vshli (immFields x))
  | 0x202 => some (.vshri (immFields x))
  | 0x203 => some (.vsrai (immFields x))
  | 0x204 => some (.vshufi (immFields x))
  | 0x205 => some (.vli (immFields x))
  | 0x206 => some (.vldo (immFields x))
  | 0x207 => some (.vsto (immFields x))
  | _ => none

/-- The X-form opcodes (R34). -/
def decodeX (opcode : BitVec 10) (x : W64) : Option Instr :=
  match opcode.toNat with
  | 0x000 => if (regFields x).fn.getLsbD 0 then some (.boardNew (regFields x)) else some (.board (regFields x))
  | 0x001 => some (.bget (regFields x))
  | 0x002 => some (.bset (regFields x))
  | 0x003 => if (regFields x).fn == 1 then some (.cancelKv (regFields x)) else some (.cancel (regFields x))
  | 0x004 => some (.fire (regFields x))
  | 0x005 => some (.rangeR (regFields x))
  | 0x006 => some (.retire (regFields x))
  | 0x007 => some (.lockq (regFields x))
  | 0x008 => some (.nstate (regFields x))
  | 0x040 => some (.jadd (regFields x))
  | 0x041 => some (.killpt (regFields x))
  | 0x042 => some (.warrive (regFields x))
  | 0x080 => some (.bar (regFields x))
  | 0x081 => some (.xbar (regFields x))
  | 0x082 => some (.phase (regFields x))
  | 0x0C0 => some (.trap (regFields x))
  | 0x0C1 => some (.exitR (regFields x))
  | 0x0C2 => some (.rmark (regFields x))
  | 0x0C3 => some (.dmark (regFields x))
  | 0x0C4 => some (.brk (regFields x))
  | 0x200 => some (.boardi (immFields x))
  | 0x201 => some (.firei (immFields x))
  | 0x202 => some (.bgeti (immFields x))
  | 0x203 => some (.bseti (immFields x))
  | 0x204 => some (.trapi (immFields x))
  | _ => none

/-- The instruction whose fields a word holds, whatever they are; none when its opcode is reserved. -/
def decodeFields (w : W64) : Option Instr :=
  match (formOf w).toNat with
  | 0 => decodeS (opcodeOf w) w
  | 1 => decodeV (opcodeOf w) w
  | 2 => some (.pWord (slotFields (w.extractLsb' 31 31)) (slotFields (w.extractLsb' 0 31)))
  | _ => decodeX (opcodeOf w) w

/-- A word decodes to a legal instruction, or is illegal with a decode reason (R36). Only the word matters (R14). -/
def decodeWord (w : W64) : Except Nat Instr :=
  match decodeFields w with
  | none => .error 1
  | some i =>
    match Machine.legalReason i with
    | none => .ok i
    | some r => .error r

/-- The table row that a fetched word issues as: its instruction, or the illegal word (R37). -/
def decodeIssued (w : W64) : Instr :=
  match decodeWord w with
  | .ok i => i
  | .error _ => .illegalWord w

/-- Decoding of a byte string: the instruction of its first eight bytes and the rest; none when the word is
illegal or fewer than eight bytes stand there. -/
def decodeBytes (bs : List Byte) : Option (Instr × List Byte) :=
  if bs.length < 8 then none
  else
    match decodeWord (BitVec.ofNat 64 (natOfBytes (bs.take 8))) with
    | .ok i => some (i, bs.drop 8)
    | .error _ => none

/-- The instruction of the word w, laid out in memory as R13 says; bits above nbits are zero. -/
def decodeTableWord (nbits w : Nat) : Option Instr :=
  (decodeBytes (bytesOfNat 8 (w % 2 ^ nbits))).map Prod.fst

/-! ## The encoder -/

/-- The form and opcode of an instruction with a word of the S, V or X form (R32 to R34), and its fields. -/
inductive Coded where
  | reg (form : BitVec 2) (opcode : BitVec 10) (w : RegForm)
  | imm (form : BitVec 2) (opcode : BitVec 10) (w : ImmForm)
  deriving DecidableEq, Repr


/-- S-form codes (R32). -/
def codeS : Instr → Option Coded
  | .add w => some (.reg 0 0x000 w)
  | .sub w => some (.reg 0 0x001 w)
  | .mul w => some (.reg 0 0x002 w)
  | .mulh w => some (.reg 0 0x003 w)
  | .mulhu w => some (.reg 0 0x004 w)
  | .div w => some (.reg 0 0x005 w)
  | .divu w => some (.reg 0 0x006 w)
  | .rem w => some (.reg 0 0x007 w)
  | .remu w => some (.reg 0 0x008 w)
  | .andR w => some (.reg 0 0x009 w)
  | .orR w => some (.reg 0 0x00A w)
  | .xorR w => some (.reg 0 0x00B w)
  | .andn w => some (.reg 0 0x00C w)
  | .shl w => some (.reg 0 0x00D w)
  | .shr w => some (.reg 0 0x00E w)
  | .sra w => some (.reg 0 0x00F w)
  | .rot w => some (.reg 0 0x010 w)
  | .minR w => some (.reg 0 0x011 w)
  | .maxR w => some (.reg 0 0x012 w)
  | .minu w => some (.reg 0 0x013 w)
  | .maxu w => some (.reg 0 0x014 w)
  | .clz w => some (.reg 0 0x015 w)
  | .ctz w => some (.reg 0 0x016 w)
  | .popc w => some (.reg 0 0x017 w)
  | .sext w => some (.reg 0 0x018 w)
  | .zext w => some (.reg 0 0x019 w)
  | .sel w => some (.reg 0 0x01A w)
  | .cmpeq w => some (.reg 0 0x01B w)
  | .cmpne w => some (.reg 0 0x01C w)
  | .cmplt w => some (.reg 0 0x01D w)
  | .cmpltu w => some (.reg 0 0x01E w)
  | .cmple w => some (.reg 0 0x01F w)
  | .cmpleu w => some (.reg 0 0x020 w)
  | .fadd w => some (.reg 0 0x030 w)
  | .fsub w => some (.reg 0 0x031 w)
  | .fmul w => some (.reg 0 0x032 w)
  | .ffma w => some (.reg 0 0x033 w)
  | .fdiv w => some (.reg 0 0x034 w)
  | .fsqrt w => some (.reg 0 0x035 w)
  | .fmin w => some (.reg 0 0x036 w)
  | .fmax w => some (.reg 0 0x037 w)
  | .fcmp w => some (.reg 0 0x038 w)
  | .fcvt w => some (.reg 0 0x039 w)
  | .jmp w => some (.reg 0 0x040 w)
  | .callr w => some (.reg 0 0x041 w)
  | .ret w => some (.reg 0 0x042 w)
  | .join w => some (.reg 0 0x043 w)
  | .nop w => some (.reg 0 0x044 w)
  | .wait w => some (.reg 0 0x045 w)
  | .mand w => some (.reg 0 0x046 w)
  | .mor w => some (.reg 0 0x047 w)
  | .mxor w => some (.reg 0 0x048 w)
  | .mnot w => some (.reg 0 0x049 w)
  | .mcnt w => some (.reg 0 0x04A w)
  | .many w => some (.reg 0 0x04B w)
  | .ld w => some (.reg 0 0x080 w)
  | .st w => some (.reg 0 0x081 w)
  | .lda w => some (.reg 0 0x082 w)
  | .stl w => some (.reg 0 0x083 w)
  | .amo w => some (.reg 0 0x084 w)
  | .amov w => some (.reg 0 0x085 w)
  | .cas w => some (.reg 0 0x086 w)
  | .fence w => some (.reg 0 0x087 w)
  | .cpy w => some (.reg 0 0x088 w)
  | .chwaitRows w => some (.reg 0 0x089 w)
  | .chwait w => some (.reg 0 0x089 w)
  | .secfg w => some (.reg 0 0x08A w)
  | .sego w => some (.reg 0 0x08B w)
  | .sestop w => some (.reg 0 0x08C w)
  | .pref w => some (.reg 0 0x08D w)
  | .addi w => some (.imm 0 0x200 w)
  | .muli w => some (.imm 0 0x201 w)
  | .andi w => some (.imm 0 0x202 w)
  | .ori w => some (.imm 0 0x203 w)
  | .xori w => some (.imm 0 0x204 w)
  | .shli w => some (.imm 0 0x205 w)
  | .shri w => some (.imm 0 0x206 w)
  | .srai w => some (.imm 0 0x207 w)
  | .cmpeqi w => some (.imm 0 0x208 w)
  | .cmplti w => some (.imm 0 0x209 w)
  | .cmpltui w => some (.imm 0 0x20A w)
  | .li w => some (.imm 0 0x20B w)
  | .lih w => some (.imm 0 0x20C w)
  | .br w => some (.imm 0 0x240 w)
  | .brz w => some (.imm 0 0x241 w)
  | .brnz w => some (.imm 0 0x242 w)
  | .call w => some (.imm 0 0x243 w)
  | .brd w => some (.imm 0 0x244 w)
  | .brany w => some (.imm 0 0x245 w)
  | .brall w => some (.imm 0 0x246 w)
  | .markR w => some (.imm 0 0x247 w)
  | .ldo w => some (.imm 0 0x280 w)
  | .sto w => some (.imm 0 0x281 w)
  | .getsr w => some (.imm 0 0x282 w)
  | .setsr w => some (.imm 0 0x283 w)
  | _ => none

/-- V-form codes (R33). -/
def codeV : Instr → Option Coded
  | .vadd w => some (.reg 1 0x000 w)
  | .vsub w => some (.reg 1 0x001 w)
  | .vmul w => some (.reg 1 0x002 w)
  | .vfma w => some (.reg 1 0x003 w)
  | .vfms w => some (.reg 1 0x004 w)
  | .vfnma w => some (.reg 1 0x005 w)
  | .vdiv w => some (.reg 1 0x006 w)
  | .vsqrt w => some (.reg 1 0x007 w)
  | .vmin w => some (.reg 1 0x008 w)
  | .vmax w => some (.reg 1 0x009 w)
  | .vabs w => some (.reg 1 0x00A w)
  | .vneg w => some (.reg 1 0x00B w)
  | .vand w => some (.reg 1 0x00C w)
  | .vor w => some (.reg 1 0x00D w)
  | .vxor w => some (.reg 1 0x00E w)
  | .vnot w => some (.reg 1 0x00F w)
  | .vshl w => some (.reg 1 0x010 w)
  | .vshr w => some (.reg 1 0x011 w)
  | .vsra w => some (.reg 1 0x012 w)
  | .vcmp w => some (.reg 1 0x013 w)
  | .vsel w => some (.reg 1 0x014 w)
  | .vcvt w => some (.reg 1 0x015 w)
  | .vmov w => some (.reg 1 0x016 w)
  | .vbcast w => some (.reg 1 0x017 w)
  | .vext w => some (.reg 1 0x018 w)
  | .vred w => some (.reg 1 0x019 w)
  | .vscan w => some (.reg 1 0x01A w)
  | .vvote w => some (.reg 1 0x01B w)
  | .vshuf w => some (.reg 1 0x01C w)
  | .vsfu w => some (.reg 1 0x01D w)
  | .vgumbel w => some (.reg 1 0x01E w)
  | .vidx w => some (.reg 1 0x01F w)
  | .vmulh w => some (.reg 1 0x020 w)
  | .vclamp w => some (.reg 1 0x021 w)
  | .vpack w => some (.reg 1 0x022 w)
  | .vunpk w => some (.reg 1 0x023 w)
  | .vpopc w => some (.reg 1 0x024 w)
  | .vclz w => some (.reg 1 0x025 w)
  | .vdot w => some (.reg 1 0x026 w)
  | .vcopysgn w => some (.reg 1 0x027 w)
  | .vld w => some (.reg 1 0x040 w)
  | .vst w => some (.reg 1 0x041 w)
  | .vgath w => some (.reg 1 0x042 w)
  | .vscat w => some (.reg 1 0x043 w)
  | .vamo w => some (.reg 1 0x044 w)
  | .vmaxvi w => some (.reg 1 0x045 w)
  | .vpop w => some (.reg 1 0x046 w)
  | .vpush w => some (.reg 1 0x047 w)
  | .mma w => some (.reg 1 0x080 w)
  | .mmaz w => some (.reg 1 0x081 w)
  | .accz w => some (.reg 1 0x082 w)
  | .drain w => some (.reg 1 0x083 w)
  | .scaleB w => some (.reg 1 0x084 w)
  | .scaleNoa w => some (.reg 1 0x084 w)
  | .scaleNob w => some (.reg 1 0x084 w)
  | .scaleA w => some (.reg 1 0x084 w)
  | .tldBind w => some (.reg 1 0x085 w)
  | .tld w => some (.reg 1 0x085 w)
  | .tst w => some (.reg 1 0x086 w)
  | .trelFull w => some (.reg 1 0x087 w)
  | .trelEmpty w => some (.reg 1 0x087 w)
  | .batonPass w => some (.reg 1 0x088 w)
  | .batonDrop w => some (.reg 1 0x088 w)
  | .batonTake w => some (.reg 1 0x088 w)
  | .leaveRet w => some (.reg 1 0x089 w)
  | .leaveReq w => some (.reg 1 0x089 w)
  | .vaddi w => some (.imm 1 0x200 w)
  | .vshli w => some (.imm 1 0x201 w)
  | .vshri w => some (.imm 1 0x202 w)
  | .vsrai w => some (.imm 1 0x203 w)
  | .vshufi w => some (.imm 1 0x204 w)
  | .vli w => some (.imm 1 0x205 w)
  | .vldo w => some (.imm 1 0x206 w)
  | .vsto w => some (.imm 1 0x207 w)
  | _ => none

/-- X-form codes (R34). -/
def codeX : Instr → Option Coded
  | .boardNew w => some (.reg 3 0x000 w)
  | .board w => some (.reg 3 0x000 w)
  | .bget w => some (.reg 3 0x001 w)
  | .bset w => some (.reg 3 0x002 w)
  | .cancelKv w => some (.reg 3 0x003 w)
  | .cancel w => some (.reg 3 0x003 w)
  | .fire w => some (.reg 3 0x004 w)
  | .rangeR w => some (.reg 3 0x005 w)
  | .retire w => some (.reg 3 0x006 w)
  | .lockq w => some (.reg 3 0x007 w)
  | .nstate w => some (.reg 3 0x008 w)
  | .jadd w => some (.reg 3 0x040 w)
  | .killpt w => some (.reg 3 0x041 w)
  | .warrive w => some (.reg 3 0x042 w)
  | .bar w => some (.reg 3 0x080 w)
  | .xbar w => some (.reg 3 0x081 w)
  | .phase w => some (.reg 3 0x082 w)
  | .trap w => some (.reg 3 0x0C0 w)
  | .exitR w => some (.reg 3 0x0C1 w)
  | .rmark w => some (.reg 3 0x0C2 w)
  | .dmark w => some (.reg 3 0x0C3 w)
  | .brk w => some (.reg 3 0x0C4 w)
  | .boardi w => some (.imm 3 0x200 w)
  | .firei w => some (.imm 3 0x201 w)
  | .bgeti w => some (.imm 3 0x202 w)
  | .bseti w => some (.imm 3 0x203 w)
  | .trapi w => some (.imm 3 0x204 w)
  | _ => none

/-- The code of an instruction of a full form. -/
def codeOf (i : Instr) : Option Coded := (codeS i).or ((codeV i).or (codeX i))

/-- The word of a full form's code. -/
def Coded.word : Coded → W64
  | .reg form opcode w => regWord form opcode w
  | .imm form opcode w => immWord form opcode w

/-- The word of an instruction: none for a refused fetch and for an event, which have no word. -/
def encode (i : Instr) : Option W64 :=
  match i with
  | .pWord a b => some ((2 : BitVec 2) ++ slotBits a ++ slotBits b)
  | .illegalWord w => some w
  | i => (codeOf i).map Coded.word

end Sys2Proof
end

