-- ==== Sys2Proof/Machine/Numbers.lean ====
section
/-! DEFINITION. The number formats and their arithmetic (R58 to R72, R81 to R83, R405): exact values, decoding,
RoundToFormat, conversions, clamping. Codes are natural numbers below two to the width. -/

namespace Sys2Proof.Machine

/-! ## Integers (R58, R60) -/

/-- The value of a w-bit pattern read as signed or unsigned. -/
def intOf (signed : Bool) (w x : Nat) : Int :=
  let y := x % 2 ^ w
  if signed && 2 ^ w ≤ 2 * y then (y : Int) - 2 ^ w else y

/-- The low w bits of an integer (R60, sat = 0). -/
def wrapInt (w : Nat) (v : Int) : Nat := (v % 2 ^ w).toNat

/-- The least and the greatest value of an integer type. -/
def intMin (signed : Bool) (w : Nat) : Int := if signed then -(2 ^ (w - 1)) else 0
def intMax (signed : Bool) (w : Nat) : Int := if signed then 2 ^ (w - 1) - 1 else 2 ^ w - 1

/-- An integer moved to the nearest end of its type's range (R60, sat = 1). -/
def clampInt (signed : Bool) (w : Nat) (v : Int) : Int := max (intMin signed w) (min v (intMax signed w))

/-- Fit for an integer type: the code of an exact result (R60). -/
def fitInt (signed : Bool) (w : Nat) (sat : Bool) (v : Int) : Nat :=
  wrapInt w (if sat then clampInt signed w v else v)

/-- A w-bit pattern extended to 64 bits, by sign or by zero. -/
def extend (signed : Bool) (w x : Nat) : W64 := BitVec.ofInt 64 (intOf signed w x)

/-- The number of one bits among the low w bits. -/
def onesOf : Nat → Nat → Nat
  | 0, _ => 0
  | w + 1, x => x % 2 + onesOf w (x / 2)

/-- The number of zero bits above the highest one bit within w bits. -/
def clzOf (w x : Nat) : Nat := if x % 2 ^ w = 0 then w else w - 1 - Nat.log2 (x % 2 ^ w)

/-- The number of zero bits below the lowest one bit within w bits. -/
def ctzOf : Nat → Nat → Nat
  | 0, _ => 0
  | w + 1, x => if x % 2 = 1 then 0 else 1 + ctzOf w (x / 2)

/-! ## Exact values -/

/-- A NaN, a signed infinity, or the signed number n / d * 2^e with d above 0; a zero keeps its sign. -/
inductive XReal where
  | nan
  | inf (neg : Bool)
  | num (neg : Bool) (n d : Nat) (e : Int)
  deriving DecidableEq, Repr

/-- The exact value of an integer; zero is +0. -/
def XReal.ofInt (v : Int) : XReal := .num (v < 0) v.natAbs 1 0

/-- 2 to the power e, as a factor of a numerator and of a denominator. -/
def pow2Num (e : Int) : Nat := 2 ^ e.toNat
def pow2Den (e : Int) : Nat := 2 ^ (-e).toNat

def XReal.neg : XReal → XReal
  | .nan => .nan
  | .inf s => .inf (!s)
  | .num s n d e => .num (!s) n d e

def XReal.abs : XReal → XReal
  | .nan => .nan
  | .inf _ => .inf false
  | .num _ n d e => .num false n d e

def XReal.isNan : XReal → Bool
  | .nan => true
  | _ => false

def XReal.isNeg : XReal → Bool
  | .nan => false
  | .inf s => s
  | .num s _ _ _ => s

def XReal.isZero : XReal → Bool
  | .num _ n _ _ => n == 0
  | _ => false

/-- The exact product; 0 times infinity is invalid (R62). -/
def XReal.mul : XReal → XReal → XReal
  | .nan, _ => .nan
  | _, .nan => .nan
  | .inf s, .inf t => .inf (s != t)
  | .inf s, .num t n _ _ => if n = 0 then .nan else .inf (s != t)
  | .num s n _ _, .inf t => if n = 0 then .nan else .inf (s != t)
  | .num s n d e, .num t n' d' e' => .num (s != t) (n * n') (d * d') (e + e')

/-- The exact sum; `rd` gives an exact zero of opposite signs the sign minus (R62). -/
def XReal.add (rd : Bool) : XReal → XReal → XReal
  | .nan, _ => .nan
  | _, .nan => .nan
  | .inf s, .inf t => if s = t then .inf s else .nan
  | .inf s, .num _ _ _ _ => .inf s
  | .num _ _ _ _, .inf t => .inf t
  | .num s n d e, .num t n' d' e' =>
    let low := min e e'
    let x : Int := (n * d' * 2 ^ (e - low).toNat : Nat)
    let y : Int := (n' * d * 2 ^ (e' - low).toNat : Nat)
    let v : Int := (if s then -x else x) + (if t then -y else y)
    .num (if v = 0 then (if s = t then s else rd) else v < 0) v.natAbs (d * d') low

def XReal.sub (rd : Bool) (x y : XReal) : XReal := x.add rd y.neg

/-- The exact quotient; a nonzero number over zero is an exact infinity, 0 / 0 and infinity / infinity are invalid (R62, R90). -/
def XReal.div : XReal → XReal → XReal
  | .nan, _ => .nan
  | _, .nan => .nan
  | .inf _, .inf _ => .nan
  | .inf s, .num t _ _ _ => .inf (s != t)
  | .num s _ _ _, .inf t => .num (s != t) 0 1 0
  | .num s n d e, .num t n' d' e' =>
    if n' = 0 then (if n = 0 then .nan else .inf (s != t))
    else .num (s != t) (n * d') (d * n') (e - e')

/-- The square root of a natural number, rounded down: bit by bit from 2^k. -/
def isqrtAux : Nat → Nat → Nat → Nat
  | 0, _, r => r
  | k + 1, n, r =>
    let t := r + 2 ^ k
    isqrtAux k n (if t * t ≤ n then t else r)

def isqrt (n : Nat) : Nat := isqrtAux (Nat.log2 n / 2 + 1) n 0

/-- A value that rounds as the square root of n / d * 2^e does in every format of at most 64 bits: the root cut
at 160 fraction bits of its own scale, and half a unit more when the cut is not exact. -/
def sqrtNum (n d : Nat) (e : Int) : XReal :=
  let e2 : Int := e % 2
  let m := n * 2 ^ e2.toNat
  let k := 160 + Nat.log2 d
  let q := m * 2 ^ (2 * k) / d
  let r := isqrt q
  let exact := r * r = q && m * 2 ^ (2 * k) % d = 0
  .num false (if exact then 2 * r else 2 * r + 1) 1 ((e - e2) / 2 - k - 1)

/-- The square root; below -0 it is invalid (R62). -/
def XReal.sqrt : XReal → XReal
  | .nan => .nan
  | .inf s => if s then .nan else .inf false
  | .num s n d e => if n = 0 then .num s 0 1 0 else if s then .nan else sqrtNum n d e

/-- Compares |x| and |y| for numbers: n / d * 2^e against n' / d' * 2^e'. -/
def magLt (n d : Nat) (e : Int) (n' d' : Nat) (e' : Int) : Bool :=
  n * d' * pow2Num (e - e') < n' * d * pow2Den (e - e')

/-- x < y for values that are no NaN; the zeros are equal. -/
def XReal.lt : XReal → XReal → Bool
  | .nan, _ => false
  | _, .nan => false
  | .inf s, .inf t => s && !t
  | .inf s, .num _ _ _ _ => s
  | .num _ _ _ _, .inf t => !t
  | .num s n d e, .num t n' d' e' =>
    if n = 0 && n' = 0 then false
    else if s && !t then true
    else if !s && t then false
    else if s then magLt n' d' e' n d e
    else magLt n d e n' d' e'

/-- Equality of values; the zeros are equal and a NaN equals nothing. -/
def XReal.eqv (x y : XReal) : Bool := !x.isNan && !y.isNan && !x.lt y && !y.lt x

/-- The order of R62's minimum and maximum: as lt, with -0 below +0. -/
def XReal.below (x y : XReal) : Bool := x.lt y || (x.isZero && y.isZero && x.isNeg && !y.isNeg)

/-- The smaller operand; with exactly one NaN, the other (R62). -/
def pickMin (x y : XReal) : Bool := if x.isNan then y.isNan else y.isNan || !y.below x
/-- The larger operand; `true` picks the first. -/
def pickMax (x y : XReal) : Bool := if x.isNan then y.isNan else y.isNan || !x.below y

/-! ## Rounding -/

/-- The rounding modes of R19. -/
inductive Rnd where
  | rne
  | rz
  | ru
  | rd
  | rna
  deriving DecidableEq, Repr

def Rnd.of (r : BitVec 3) : Rnd :=
  if r = 1 then .rz else if r = 2 then .ru else if r = 3 then .rd else if r = 4 then .rna else .rne

def Rnd.isRd (r : Rnd) : Bool := r == .rd

/-- The magnitude n / d rounded to an integer, for a number of the given sign (R71). R71 breaks a tie of RNE by an even last mantissa
bit; where the format has none (m = 0), the even integer here is the larger power of two (DESIGN CHOICE, log 90). -/
def roundDiv (r : Rnd) (neg : Bool) (n d : Nat) : Nat :=
  let q := n / d
  let rem := n % d
  if rem = 0 then q
  else
    match r with
    | .rne => if 2 * rem < d then q else if d < 2 * rem then q + 1 else q + q % 2
    | .rna => if 2 * rem < d then q else q + 1
    | .rz => q
    | .ru => if neg then q else q + 1
    | .rd => if neg then q + 1 else q

/-- The floor of log2 of n / d * 2^e, for n and d above 0. -/
def floorLog2 (n d : Nat) (e : Int) : Int :=
  let k : Int := (Nat.log2 n : Int) - Nat.log2 d
  -- 2^(k-1) < n / d < 2^(k+1)
  if n * pow2Den k < d * pow2Num k then k - 1 + e else k + e

/-- A float format: total, exponent and mantissa widths, sign, bias, and whether its specials are IEEE-like (R61 to R68). -/
structure Fmt where
  width : Nat
  signed : Bool
  expw : Nat
  man : Nat
  bias : Int
  ieee : Bool
  deriving DecidableEq, Repr

def Fmt.f16 : Fmt := { width := 16, signed := true, expw := 5, man := 10, bias := 15, ieee := true }
def Fmt.bf16 : Fmt := { width := 16, signed := true, expw := 8, man := 7, bias := 127, ieee := true }
def Fmt.f32 : Fmt := { width := 32, signed := true, expw := 8, man := 23, bias := 127, ieee := true }
def Fmt.f64 : Fmt := { width := 64, signed := true, expw := 11, man := 52, bias := 1023, ieee := true }

def Fmt.hasInf (f : Fmt) : Bool := f.ieee && 1 ≤ f.man
def Fmt.hasNegZero (f : Fmt) : Bool := f.ieee && f.signed
/-- The weight of the sign bit. -/
def Fmt.signBit (f : Fmt) : Nat := 2 ^ (f.expw + f.man)
/-- The exponent of the subnormal spacing. -/
def Fmt.minQ (f : Fmt) : Int := 1 - f.bias - f.man

/-- The canonical NaN (R61, R67, R68). -/
def Fmt.nanCode (f : Fmt) : Nat :=
  if f.ieee then (2 ^ f.expw - 1) * 2 ^ f.man + (if f.man = 0 then 0 else 2 ^ (f.man - 1))
  else if f.signed then f.signBit
  else f.signBit - 1

/-- The largest positive finite code (R68). -/
def Fmt.maxCode (f : Fmt) : Nat :=
  if f.ieee then (2 ^ f.expw - 1) * 2 ^ f.man - 1
  else if f.signed then f.signBit - 1
  else f.signBit - 2

/-- The magnitude of a finite code without its sign: a mantissa and a power of two (R66). -/
def Fmt.magnitude (f : Fmt) (x : Nat) : Nat × Int :=
  let e := x / 2 ^ f.man
  let m := x % 2 ^ f.man
  if e = 0 then (m, f.minQ) else (2 ^ f.man + m, (e : Int) - f.bias - f.man)

/-- The value of a code (R66 to R68). -/
def Fmt.decode (f : Fmt) (code : Nat) : XReal :=
  let neg := f.signed && code / f.signBit % 2 = 1
  let x := code % f.signBit
  if f.ieee && x / 2 ^ f.man = 2 ^ f.expw - 1 then
    if f.hasInf && x % 2 ^ f.man = 0 then .inf neg else .nan
  else if !f.ieee && (if f.signed then neg && x = 0 else x = f.signBit - 1) then .nan
  else
    let me := f.magnitude x
    .num neg me.1 1 me.2

/-- The code of m * 2^q, which the format holds exactly. -/
def Fmt.encodeMag (f : Fmt) (m : Nat) (q : Int) : Nat :=
  if m = 0 then 0
  else
    let l : Int := Nat.log2 m + q
    let e : Int := max l (1 - f.bias)
    -- the mantissa in units of the code's own spacing
    let u := m * pow2Num (q - (e - f.man)) / pow2Den (q - (e - f.man))
    if u < 2 ^ f.man then u else ((e + f.bias).toNat) * 2 ^ f.man + (u - 2 ^ f.man)

/-- m * 2^q above the largest finite value. -/
def Fmt.aboveMax (f : Fmt) (m : Nat) (q : Int) : Bool :=
  let mx := f.magnitude f.maxCode
  magLt mx.1 1 mx.2 m 1 q

/-- The code of the format's infinity, or of its largest finite value, with a sign. -/
def Fmt.infCode (f : Fmt) (neg : Bool) : Nat := (if neg then f.signBit else 0) + (2 ^ f.expw - 1) * 2 ^ f.man
def Fmt.maxSigned (f : Fmt) (neg : Bool) : Nat := (if neg then f.signBit else 0) + f.maxCode

/-- What RoundToFormat returns above the largest finite value; `exactInf` for an infinite x. -/
def Fmt.overflow (f : Fmt) (r : Rnd) (sat exactInf neg : Bool) : Nat :=
  if !f.ieee || sat then f.maxSigned neg
  else if !f.hasInf then f.nanCode
  else if exactInf || r == .rne || r == .rna then f.infCode neg
  else if (r == .ru && !neg) || (r == .rd && neg) then f.infCode neg
  else f.maxSigned neg

/-- RoundToFormat (R71): the code of an exact value. -/
def Fmt.round (f : Fmt) (r : Rnd) (sat : Bool) : XReal → Nat
  | .nan => f.nanCode
  | .inf neg =>
    if !f.signed && neg then (if f.ieee then f.nanCode else 0)
    else f.overflow r sat true neg
  | .num neg n d e =>
    let zero := if f.hasNegZero && neg then f.signBit else 0
    if n = 0 then zero
    else
      let q : Int := max (floorLog2 n d e) (1 - f.bias) - f.man
      let m := roundDiv r neg (n * pow2Num (e - q)) (d * pow2Den (e - q))
      if m = 0 then zero
      else if !f.signed && neg then (if f.ieee then f.nanCode else 0)
      else if f.aboveMax m q then f.overflow r sat false neg
      else (if neg then f.signBit else 0) + f.encodeMag m q

/-- A value rounded to an integer and moved into a type's range; a NaN gives 0 (R72). -/
def toIntCode (r : Rnd) (signed : Bool) (w : Nat) : XReal → Nat
  | .nan => 0
  | .inf neg => wrapInt w (if neg then intMin signed w else intMax signed w)
  | .num neg n d e =>
    let m := roundDiv r neg (n * pow2Num e) (d * pow2Den e)
    wrapInt w (clampInt signed w (if neg then -(m : Int) else m))

/-- The exact sum of several terms, with the sign rule of R62 for a zero: minus when every term is a zero of
negative sign, otherwise plus, and minus under RD unless every term is a positive zero. -/
def sumExact (rd : Bool) (xs : List XReal) : XReal :=
  match xs with
  | [] => .num false 0 1 0
  | x :: rest => rest.foldl (fun s y => s.add rd y) x

/-! ## Element types (R58, R61, R73, R74) -/

/-- The type of an element: a signed or unsigned integer of a width, an IEEE float by its code, or a narrow
float of 8 or 4 bits under a format register. -/
inductive ElemTy where
  | sint (w : Nat)
  | uint (w : Nat)
  | ieee (code : Nat)
  | narrow8 (fm : Nat)
  | narrow4 (fm : Nat)
  deriving DecidableEq, Repr

def ElemTy.width : ElemTy → Nat
  | .sint w => w
  | .uint w => w
  | .ieee c => if c ≤ 1 then 16 else if c = 2 then 32 else 64
  | .narrow8 _ => 8
  | .narrow4 _ => 4

def ElemTy.is64 (t : ElemTy) : Bool := t.width == 64

/-- Elements per lane word; one for a 64-bit type (R58, R113). -/
def ElemTy.perLane (t : ElemTy) : Nat := if t.is64 then 1 else 32 / t.width

def ElemTy.isInt : ElemTy → Bool
  | .sint _ => true
  | .uint _ => true
  | _ => false

def ElemTy.isSigned : ElemTy → Bool
  | .sint _ => true
  | _ => false

def ElemTy.narrowIndex : ElemTy → Option Nat
  | .narrow8 fm => some fm
  | .narrow4 fm => some fm
  | _ => none

/-- The class of R74. -/
def ElemTy.cls : ElemTy → Nat
  | .sint _ => 1
  | .uint _ => 2
  | .ieee _ => 3
  | .narrow8 _ => 4
  | .narrow4 _ => 5

/-- The code of R74. -/
def ElemTy.code : ElemTy → Nat
  | .sint w => Nat.log2 (w / 8)
  | .uint w => Nat.log2 (w / 8)
  | .ieee c => c
  | .narrow8 fm => fm
  | .narrow4 fm => fm

/-- The tag of a type, unscaled (R73). -/
def ElemTy.tag (t : ElemTy) : BitVec 8 := BitVec.ofNat 8 (t.cls * 16 + t.code)

/-- The type of a class and a code. -/
def typeOfClass (cls code : Nat) : Option ElemTy :=
  if cls = 1 && code ≤ 3 then some (.sint (8 * 2 ^ code))
  else if cls = 2 && code ≤ 3 then some (.uint (8 * 2 ^ code))
  else if cls = 3 && code ≤ 3 then some (.ieee code)
  else if cls = 4 && code ≤ 15 then some (.narrow8 code)
  else if cls = 5 && code ≤ 15 then some (.narrow4 code)
  else none

/-- The class, the code and the scaled bit of a tag (R73). -/
def tagClass (t : BitVec 8) : Nat := (t.extractLsb' 4 3).toNat
def tagCode (t : BitVec 8) : Nat := (t.extractLsb' 0 4).toNat
def tagScaled (t : BitVec 8) : Bool := t.getLsbD 7

/-- The type a tag names; none for raw bits, a scale tile and a reserved tag. -/
def tagType (t : BitVec 8) : Option ElemTy := typeOfClass (tagClass t) (tagCode t)

/-- A reserved tag (R74); `tile` for a tile handle, which may carry class 6. -/
def tagReserved (tile : Bool) (t : BitVec 8) : Bool :=
  let c := tagClass t
  let k := tagCode t
  if c = 0 || c = 6 then k != 0 || tagScaled t || (c == 6 && !tile)
  else if c = 7 then true
  else if c ≤ 3 then 4 ≤ k || (tagScaled t && !(k == 0 && c != 3))
  else false

/-- The type that an ety code names; `fm` is the format register index under 13 and 14. -/
def etyType (ety : BitVec 4) (fm : Nat) : Option ElemTy :=
  let e := ety.toNat
  if 1 ≤ e && e ≤ 4 then some (.sint (8 * 2 ^ (e - 1)))
  else if 5 ≤ e && e ≤ 8 then some (.uint (8 * 2 ^ (e - 5)))
  else if 9 ≤ e && e ≤ 12 then some (.ieee (e - 9))
  else if e = 13 then some (.narrow8 fm)
  else if e = 14 then some (.narrow4 fm)
  else none

/-- Bytes per element of a memory ety (R140). -/
def etyBytes (ety : BitVec 4) : Nat := ((etyType ety 0).map ElemTy.width).getD 8 / 8

/-! ## Format registers (R63, R64) -/

def fmWid (v : BitVec 32) : Nat := if v.getLsbD 4 then 8 else 4
def fmExpw (v : BitVec 32) : Nat := (v.extractLsb' 1 3).toNat
def fmSgn (v : BitVec 32) : Bool := v.getLsbD 0

/-- A format register value that a write refuses: reserved bits, m below 0, or the IEEE-like mode without exponent (R64). -/
def fmInvalid (v : BitVec 32) : Bool :=
  v.extractLsb' 17 15 != 0 || v.extractLsb' 5 3 != 0 || fmWid v < fmExpw v + (if fmSgn v then 1 else 0) ||
    (!v.getLsbD 16 && fmExpw v == 0)

/-- The format a format register describes (R63). -/
def fmFmt (v : BitVec 32) : Fmt :=
  { width := fmWid v, signed := fmSgn v, expw := fmExpw v
    man := fmWid v - fmExpw v - (if fmSgn v then 1 else 0)
    bias := (v.extractLsb' 8 8).toInt, ieee := !v.getLsbD 16 }

/-- The format of a float type, narrow types under the given format registers. -/
def ElemTy.fmt (fms : Vector (BitVec 32) 16) : ElemTy → Option Fmt
  | .ieee c => some (if c = 0 then .f16 else if c = 1 then .bf16 else if c = 2 then .f32 else .f64)
  | .narrow8 i => some (fmFmt (fms[i]?.getD 0))
  | .narrow4 i => some (fmFmt (fms[i]?.getD 0))
  | _ => none

/-- Whether a narrow type's format register holds another width than the type's (R405). -/
def ElemTy.widMismatch (fms : Vector (BitVec 32) 16) (t : ElemTy) : Bool :=
  match t.narrowIndex with
  | none => false
  | some i => fmWid (fms[i]?.getD 0) != t.width

/-- The exact value of an element: an integer's value, or a float's. -/
def ElemTy.value (fms : Vector (BitVec 32) 16) (t : ElemTy) (code : Nat) : XReal :=
  match t.fmt fms with
  | some f => f.decode code
  | none => .ofInt (intOf t.isSigned t.width code)

/-- A conversion between two element types; to a wider integer it is an extension, whatever sat holds (R72). -/
def convert (fms : Vector (BitVec 32) 16) (src dst : ElemTy) (r : Rnd) (sat : Bool) (code : Nat) : Nat :=
  match dst.fmt fms, src.fmt fms with
  | some f, _ => f.round r sat (src.value fms code)
  | none, some g => toIntCode r dst.isSigned dst.width (g.decode code)
  | none, none => fitInt dst.isSigned dst.width (sat && dst.width ≤ src.width) (intOf src.isSigned src.width code)

end Sys2Proof.Machine
end

