-- ==== Sys2Proof/Config.lean ====
section
/-! DEFINITION. What the firmware or an implementation fixes, and the free values: opaque constants, so
that nothing can evaluate them. Each is named by a row of the assumption log. -/

namespace Sys2Proof.Config

/-! Fields whose Reset column reads "fw" (R11): the single firmware image chooses them (log 3). The
argument of a per-die field is the die identifier. -/

opaque fwSliceHash : BitVec 64
opaque fwTierSize : BitVec 64
opaque fwPrivBase : Nat → BitVec 64
opaque fwPrivStride : Nat → BitVec 64
opaque fwLandBase : Nat → BitVec 64
opaque fwSaveBase : Nat → BitVec 64
opaque fwSaveStride : Nat → BitVec 64
opaque fwPoisonBase : Nat → BitVec 64
opaque fwPoisonSize : Nat → BitVec 16
opaque fwTraceBase : Nat → BitVec 64
opaque fwTraceSize : Nat → BitVec 16
opaque fwLogBase : Nat → BitVec 64
opaque fwLogSize : Nat → BitVec 20
opaque fwGovCfg : Nat → BitVec 64
opaque fwGovCar : Nat → BitVec 32
opaque fwEvqWin : BitVec 16
opaque fwPkgId : BitVec 15
opaque fwRouteBase : BitVec 64

/-! What manufacture fuses into the package (R397, R400). -/

opaque fusedKeyDigest : BitVec 256
opaque fusedMinSvn : BitVec 32
opaque deviceId : BitVec 128
opaque identityCertificate : List (BitVec 8)
opaque identityKey : BitVec 256
/-- What the far end of port n reports at training (R388): none when the port does not train. -/
opaque trainedPeer : Nat → Option (BitVec 15)

/-! Cryptography that the spec names by its standard and does not define (R397, R400 to R403; log 6). -/

/-- SM3 of a byte string. -/
opaque sm3 : List (BitVec 8) → BitVec 256
/-- SM2 signature check: public key, signed digest, signature (r then s). -/
opaque sm2Verify : BitVec 512 → BitVec 256 → BitVec 512 → Bool
/-- SM2 signature: private key, digest, and a draw that makes each signature's randomness its own. -/
opaque sm2Sign : BitVec 256 → BitVec 256 → Nat → BitVec 512
/-- The device's ephemeral SM2 public key of the n-th key agreement. -/
opaque sm2Ephemeral : Nat → BitVec 512
/-- The session key of the n-th key agreement with the control node's ephemeral key. -/
opaque sm2Agree : Nat → BitVec 512 → BitVec 128
/-- SM4-GCM opening: key, IV, additional data, ciphertext, tag; none when the tag does not verify. -/
opaque gcmOpen : BitVec 128 → BitVec 96 → List (BitVec 8) → List (BitVec 8) → BitVec 128 → Option (List (BitVec 8))
/-- SM4-GCM sealing: key, IV, additional data, clear text; the ciphertext and the tag. -/
opaque gcmSeal : BitVec 128 → BitVec 96 → List (BitVec 8) → List (BitVec 8) → List (BitVec 8) × BitVec 128
/-- A fresh random SM4-XTS key pair (R399, R402): the n-th drawn. -/
opaque freshKeyPair : Nat → BitVec 256
/-- What byte `offset` of a 128-byte line reads as when the line was stored under the first key pair and is
read under the second, the two differing; the whole stored line's clear bytes and its number are given (R403). -/
opaque xtsMismatch : BitVec 256 → BitVec 256 → Nat → List (BitVec 8) → Nat → BitVec 8

/-! Free values of cases the spec leaves open. -/

/-- Whether a line cached in its core's L1 lies in the 16 KiB that a berth takes for its spill area (R302): die, core, berth and
line number (log 83). -/
opaque spillShareHolds : Nat → Nat → Nat → Nat → Bool
/-- The value of a special function or of a logarithm that the interval search of Transcend.lean leaves undecided: the
first argument names the function, its format, rounding and saturation, the second is the argument's code (log 7). -/
opaque undecidedReal : Nat → Nat → BitVec 64
/-- A 64-bit value that the spec does not fix. The argument is the plain counter of State that each use advances, so
that two uses need not agree (log 8). -/
opaque freeWord : Nat → BitVec 64

end Sys2Proof.Config
end

