-- ==== Sys2Proof/Machine/State.lean ====
section
/-! DEFINITION. The state of the whole package as plain data: crews, cores, compute dies, the I/O die,
memory, and what is in flight between them; the reasons a step can stop; the state after cold reset.
Association lists stand for sparse tables: a key that is not listed has the reset value. -/

namespace Sys2Proof.Machine

/-- Why the machine stops. Raised by the meanings of words alone. Safe: the hardware has nothing to issue there either. -/
inductive Fault where
  /-- The berth that `State.cur` names holds no crew, so no word can issue. Raised by every word's meaning; an issue slot of an
  empty berth does nothing, so that a step ends so only where an agenda names a word as an event. Safe. -/
  | noCrew
  deriving DecidableEq, Repr

/-- Why a step has no meaning. -/
inductive Refusal where
  /-- The instruction of this mnemonic has no meaning yet. Raised by `exec`'s refused arms only. Safe. -/
  | notModelled (mnemonic : String)
  deriving DecidableEq, Repr

/-! ## Crews (R4) -/

/-- Where a crew runs: die identifier, core within the die, berth within the core (R8, R9). -/
structure CrewRef where
  die : Nat
  core : Nat
  berth : Nat
  deriving DecidableEq, Repr

/-- The kinds of rejoin stack entry (R96). -/
inductive EntryKind where
  | mark
  | path
  deriving DecidableEq, Repr

/-- One rejoin stack entry: its lane mask and its address. -/
structure StackEntry where
  kind : EntryKind
  mask : Mask
  addr : W64
  deriving DecidableEq, Repr

/-- A vector register (R59, R73, R351): its lane words (the empty list is a register never written, which reads
as zero, R78), its format tag and the lanes whose word is marked by an uncorrectable error. -/
structure VReg where
  words : List W32
  tag : BitVec 8
  marks : Mask
  deriving DecidableEq, Repr

/-- A tile handle (R171). -/
structure TileHandle where
  bound : Bool
  buf : BitVec 8
  tag : BitVec 8
  deriving DecidableEq, Repr

/-- The five wait counters (R101). -/
inductive Counter where
  | wl
  | ws
  | wm
  | wc
  | wg
  deriving DecidableEq, Repr

/-- One counted operation in flight: its counter, its ticket within the crew, whether it has completed while an
earlier one of its counter has not, and whether it completed with an error (R101). -/
structure Op where
  ctr : Counter
  ticket : Nat
  done : Bool
  err : Bool
  deriving DecidableEq, Repr

/-- Which operation of which crew an engine's command answers to. -/
structure OpRef where
  uid : Nat
  ticket : Nat
  deriving DecidableEq, Repr

/-- The barrier a crew waits at, with the generation it joined (R194, R213 to R216). -/
inductive Wait where
  | core (id : Nat) (gen : BitVec 16)
  | region (id : Nat) (gen : BitVec 16)
  /-- The generation is known once the arrival has been registered at the record's home slice here. -/
  | xbar (record : W64) (member : Nat) (gen : Option (BitVec 16))
  /-- No generation until the arrival has reached the I/O die. -/
  | phase (id : Nat) (gen : Option (BitVec 16))
  deriving DecidableEq, Repr

/-- A barrier wait and the scalar register that receives its result. -/
structure PendingWait where
  wait : Wait
  dest : BitVec 8
  deriving DecidableEq, Repr

/-- A crew's binding to one slot of a weir: the address that names its record, where the record lies, the slot, and whether
the kill notice has reached the crew (R209, R212). -/
structure WeirBinding where
  record : W64
  home : Nat
  slot : Nat
  notice : Bool
  deriving DecidableEq, Repr

/-- The order points whose arbitration a recording logs (R335, R375). -/
inductive PointKind where
  | bank
  | subSlice
  | tilePort
  | lock
  deriving DecidableEq, Repr

/-- A word of a crew that has begun and has not ended: a WAIT that waits (R102, R371), or an access that an order point
holds (R341). -/
inductive Begun where
  | no
  | wait
  | access (die : Nat) (kind : PointKind) (point : Nat)
  deriving DecidableEq, Repr

/-- The launch a crew came from: its node, its queue and the advance charged at its dispatch (R284). -/
structure Launched where
  node : W64
  queue : Nat
  advance : Nat
  deriving DecidableEq, Repr

/-- One crew: the context of R358 and what the hardware keeps beside it. -/
structure Crew where
  uid : Nat
  place : CrewRef
  region : Nat
  version : BitVec 16
  handler : Nat
  /-- Address of the handler's entry, from which POFF counts (R346). -/
  entry : W64
  lanes : Nat
  pc : W64
  sregs : Vector W64 64
  /-- m1 to m15 stand at indices 1 to 15; index 0 is not used, m0 reads as all ones. -/
  mregs : Vector Mask 16
  cur : Mask
  live : Mask
  stack : List StackEntry
  vregs : Vector VReg 256
  fmts : Vector (BitVec 32) 16
  tiles : Vector TileHandle 64
  sca : Option (BitVec 8)
  scb : Option (BitVec 8)
  ops : List Op
  nextTicket : Nat
  /-- Scalar registers whose value is still on its way (R187, R202, R205, R206). -/
  busy : List (BitVec 8)
  werr : BitVec 6
  cflags : BitVec 2
  /-- Record index of the barge of each row that is still held (R196). -/
  held : List (Option Nat)
  /-- The lock buffer this crew came with, to be given back (R240). -/
  lockBuf : Option Nat
  /-- The buffers, granules and private bytes of its footprint (R240), and the run of the private pool (R307). -/
  buffers : List Nat
  granules : Nat
  privBase : Nat
  privSize : Nat
  /-- Register blocks bound to granules, and spill blocks referenced (R241). -/
  boundBlocks : List Nat
  spillBlocks : List Nat
  declared : Nat
  weir : Option WeirBinding
  tie : Option W64
  /-- The record that a proxy absence token of this crew was sent to, until its presence token follows (R362). -/
  absent : Option W64
  wait : Option PendingWait
  started : Nat
  launched : Option Launched
  cid : BitVec 16
  fp : W64
  /-- The folds into the fingerprint so far (R337). -/
  folds : Nat
  /-- An EXIT that a flush or a cone walk injects at the crew's next issue slot (R287, R360). -/
  exitPending : Bool
  /-- A write-back of this crew's stores was discarded, and no release has reported it yet (R328). -/
  wbLost : Bool
  /-- Poison met by a load or a BGET, taken before the next instruction (R143): the detail, the address and the POFF of the
  word that met it. -/
  poison : Option (Nat × W64 × BitVec 21)
  /-- SEQs of the fault records that make its retry wait for service (R353). -/
  service : List (BitVec 48)
  /-- The single step of a debug stop is still to make (R373). -/
  stepLeft : Bool
  begun : Begun
  deriving DecidableEq, Repr

/-! ## Regions and locks -/

/-- One term kN.b = v of a trigger guard (R276). -/
structure PredTerm where
  k : Nat
  bit : Nat
  value : Bool
  deriving DecidableEq, Repr

/-- A handler entry (R52, R276); `tag` none accepts every tag. -/
structure Handler where
  index : Nat
  entry : W64
  enable : Bool
  tag : Option Nat
  chan : Nat
  lanes : Nat
  regs : Nat
  tiles : Nat
  priv : Nat
  preds : List PredTerm
  deriving DecidableEq, Repr

/-- A shape record (R54, R276): type code, extents and strides of four dimensions. -/
structure Shape where
  ty : BitVec 4
  ext : List Nat
  stride : List Int
  deriving DecidableEq, Repr

/-- A barge in an on-chip slot: its record, its entry cycle (R231), and the node of the crew of this die that boarded it,
or 0 (R369). -/
structure LockSlot where
  record : Nat
  entry : Nat
  by_ : W64
  deriving DecidableEq, Repr

/-- A lock: the configuration fields of its record and its live state (R230). -/
structure Lock where
  index : Nat
  recordAddr : W64
  fill : Nat
  timeout : Nat
  phen : Bool
  pseg : Nat
  outq : Nat
  pgen : Bool
  pgid : Nat
  pgph : Bool
  canalBase : W64
  canalSize : Nat
  head : Nat
  tail : Nat
  canal : Nat
  slots : List LockSlot
  fires : BitVec 32
  nextTag : Nat
  pendPh : Bool
  fillF : BitVec 16
  toF : BitVec 16
  phF : BitVec 16
  phDrop : BitVec 16
  blocked : BitVec 32
  poisoned : BitVec 32
  /-- An announcement of the carousel that reaches the lock in this cycle (R250). -/
  phaseEvent : Bool
  /-- The kind of flush under which the lock discards, if it does (R360): 2 or 3. -/
  discarding : Option Nat
  deriving DecidableEq, Repr

/-- A barrier of a core or of a region (R213). -/
structure Barrier where
  expected : Nat
  arrived : Nat
  gen : BitVec 16
  deriving DecidableEq, Repr

/-- What a region configuration holds, read from its descriptor (R275). -/
structure RegionCfg where
  addr : W64
  num : Nat
  version : BitVec 16
  coreCount : Nat
  layer : Option (BitVec 16)
  codeBase : W64
  privPool : Nat
  handlers : List Handler
  locks : List Lock
  fmts : List (BitVec 32)
  shapes : List Shape
  deriving DecidableEq, Repr

/-- How a resident region stands. -/
inductive RegionPhase where
  | running
  | preempting
  | flushing (kind : Nat)
  | stopping
  | stopped
  deriving DecidableEq, Repr

/-- A resident region of a die: its configuration, its cores and its .rgn barriers. -/
structure Region where
  cfg : RegionCfg
  cores : List Nat
  barriers : List Barrier
  phase : RegionPhase
  lastStart : Nat
  deriving DecidableEq, Repr

/-! ## Where an address leads (R299, R313) -/

/-- A virtual page: where it begins and its size, 64 KiB, 2 MiB or 512 MiB (R311). -/
structure VPage where
  va : Nat
  size : Nat
  deriving DecidableEq, Repr

/-- What an address names: physical memory under a key index, with the virtual page it was translated through (none for
the private window, which no translation makes); a byte of a basin or tile store; a byte of a die's barge store. -/
inductive Place where
  | pa (pa key : Nat) (page : Option VPage)
  | chip (key : Nat)
  | barge (die off : Nat)
  deriving DecidableEq, Repr

/-! ## A core -/

/-- What a firing or a launch puts at a channel's head (R235, R281). -/
inductive Token where
  | firing (lock tag cause : Nat) (records : List Nat) (wp : W64) (buf : Nat)
  | start (tag : Nat) (launch : Launched)
  deriving DecidableEq, Repr

/-- A row of lane words (R114): width, words, void and marked lanes, tag, dimension ends, the berth tag of its
head (R237) and the crew that has claimed it (R238). -/
structure Row where
  width : Nat
  words : List W32
  void : Mask
  marks : Mask
  tag : BitVec 8
  de : BitVec 4
  berthTag : Nat
  claimed : Option Nat
  deriving DecidableEq, Repr

/-- What a queued copy does (R156, R182, R183, R236). -/
inductive CopyKind where
  | linear
  | shaped (h : Shape)
  | tld (buf : Nat)
  | tst (buf : Nat) (rel : Bool)
  | gather (payloads : List W64) (buf : Nat)
  deriving DecidableEq, Repr

/-- Who started an engine's work: its place, its identity (none for a gather copy), its region, the run of the
private pool that path 0xF0 names, its CID, and the origin word of a fault that the work meets, with cause and detail 0. -/
structure Agent where
  place : CrewRef
  uid : Option Nat
  region : Nat
  privBase : Nat
  privSize : Nat
  cid : BitVec 16
  origin : W64
  deriving DecidableEq, Repr

/-- A chunk of a copy that has been read and has still to land: the places of the rest of its destination, and the bytes with
their marks; `old` when it was translated before an invalidation that waits for it (R157, R315). -/
structure CopyChunk where
  dst : List (Place × Nat)
  bytes : List Byte
  marks : List Bool
  old : Bool
  deriving DecidableEq, Repr

/-- A copy queued on a channel: its addresses, its length, the bytes landed, the chunk in flight, whether data it carried was
marked, the operation it answers to and who issued it. -/
structure CopyJob where
  kind : CopyKind
  dst : W64
  src : W64
  len : Nat
  off : Nat
  chunk : Option CopyChunk
  bad : Bool
  op : Option OpRef
  agent : Agent
  /-- Matrix commands queued before a TLD that still read its buffer hold the copy back (R182): their tickets. -/
  after : List OpRef
  deriving DecidableEq, Repr

/-- A row endpoint (R153). -/
inductive Endpoint where
  | rowQueue
  | stream (eng : Nat)
  | drainPort
  | lockOut (lock : Nat)
  deriving DecidableEq, Repr

/-- A copy channel and the row endpoint of its qN (R153, R154, R157). -/
structure Channel where
  wp : W64
  jobs : List CopyJob
  halted : Bool
  endpoint : Endpoint
  rows : List Row
  tokens : List Token
  deriving DecidableEq, Repr

/-- The states of a stream engine (R162). -/
inductive StreamState where
  | idle
  | ready
  | running
  | done
  | faulted
  deriving DecidableEq, Repr

/-- What a write stream that a SESTOP has stopped still has to store: the walk as it stood, the rows already pushed, and the
SESTOPs that wait for them (R162). -/
structure StreamTail where
  base : W64
  shape : Shape
  ctl : W64
  width : Nat
  next : Nat
  rows : List Row
  agent : Agent
  stops : List OpRef
  deriving DecidableEq, Repr

/-- An affine stream engine (R160, R161). -/
structure Stream where
  state : StreamState
  base : W64
  shape : Shape
  ctl : W64
  chan : Option Nat
  width : Nat
  next : Nat
  rows : List Row
  agent : Agent
  /-- The rows of stopped write streams that are not yet stored, the oldest stop first (R162). -/
  tails : List StreamTail
  deriving DecidableEq, Repr

/-- One accumulator c0 to c3: 2,048 words in row-major order (an empty list is all +0), and its poison state (R176). -/
structure Accum where
  words : List W32
  poison : Bool
  deriving DecidableEq, Repr

/-- An MMA or MMAZ as queued, with everything read at issue (R179). -/
structure MmaCmd where
  acc : Nat
  f64 : Bool
  aBuf : Nat
  bBuf : Nat
  aTag : BitVec 8
  bTag : BitVec 8
  aFmt : BitVec 32
  bFmt : BitVec 32
  sca : Option Nat
  scb : Option Nat
  k : Nat
  k0 : Nat
  zero : Bool
  /-- The pair leaves F64 mode with this command, so that its other register becomes +0 (R176). -/
  clears : Bool
  chunk : Nat
  deriving DecidableEq, Repr

/-- A DRAIN as queued (R184). -/
structure DrainCmd where
  acc : Nat
  f64 : Bool
  chan : Nat
  ety : BitVec 4
  fmtIndex : Nat
  fmt : BitVec 32
  rnd : BitVec 3
  sat : Bool
  z : Bool
  width : Nat
  row : Nat
  berthTag : Nat
  deriving DecidableEq, Repr

/-- A command of the matrix command queue (R175). -/
inductive MatCmd where
  | mma (m : MmaCmd)
  | accz (acc : Nat) (f64 clears : Bool)
  | trel (buf : Nat) (full : Bool)
  | drain (d : DrainCmd)
  deriving DecidableEq, Repr

/-- A queued command, the operation it answers to, and the issuing crew's stores still incomplete (TREL.full, R183). -/
structure MatEntry where
  cmd : MatCmd
  op : OpRef
  agent : Agent
  stores : List Nat
  /-- TLDs issued before an MMA on one of its buffers, which it waits for (R179). -/
  loads : List OpRef
  /-- A chunk of the MMA has ended in poison (R180). -/
  bad : Bool
  /-- An MMA that has run a chunk and stands in the queue for its next one (R189). -/
  begun : Bool
  deriving DecidableEq, Repr

/-- The MMA in flight: the groups of its current chunk that have run, the accumulator before the chunk, and
whether the chunk is being rerun (R179, R180). -/
structure MmaRun where
  entry : MatEntry
  group : Nat
  /-- The first of the two busy cycles of an F64 step has been spent (R178, R186). -/
  half : Bool
  shadow : List W32
  shadowHi : List W32
  rerun : Bool
  poisoned : Bool
  deriving DecidableEq, Repr

/-- A core's matrix engine (R170 to R187). -/
structure Matrix where
  accs : Vector Accum 4
  f64Modes : Vector Bool 2
  queue : List MatEntry
  running : Option MmaRun
  drainActive : Option MatEntry
  drainPending : Option MatEntry
  drainChan : Option Nat
  drainRows : List Row
  baton : Option Nat
  /-- Batons passed, taken or dropped in this cycle, applied at its end (R173). -/
  batonNext : Option (Option Nat)
  burst : Nat
  credit : Nat
  idle : Nat
  /-- The engine has run a group in this cycle (R186). -/
  busy : Bool
  asking : Bool
  deriving DecidableEq, Repr

/-- A queued copy of the weir copy unit (R211). -/
structure WeirCopy where
  op : OpRef
  agent : Agent
  record : W64
  home : Nat
  slot : Nat
  dest : BitVec 8
  src : W64
  dst : W64
  len : Nat
  off : Nat
  deriving DecidableEq, Repr

/-- One write to a core-shared register that waits for the end of its cycle (R104). -/
structure SharedWrite where
  berth : Nat
  reg : Nat
  op : BitVec 2
  value : W64
  deriving DecidableEq, Repr

/-- A TLB entry (R314, R315): the page, its physical base and its permissions. -/
structure TlbEntry where
  va : Nat
  size : Nat
  pa : Nat
  r : Bool
  w : Bool
  x : Bool
  key : Nat
  deriving DecidableEq, Repr

/-- What a crew that has left its berth gives back to its core in the next cycle (R240): tile buffers, its lock buffer among
them, granules, and its run of the private pool. -/
structure Returned where
  buffers : List Nat
  granules : Nat
  privBase : Nat
  privSize : Nat
  deriving DecidableEq, Repr

/-- One core (R1, R4, R103, R153, R160, R170). -/
structure Core where
  region : Option Nat
  berths : Vector (Option Crew) 4
  /-- The lowest berth whose crew may still issue in this cycle: the berths of a core issue in ascending order (R116, R307). -/
  slot : Nat
  returning : List Returned
  shared : Vector W64 16
  sharedWrites : List SharedWrite
  chans : Vector Channel 16
  streams : Vector Stream 8
  matrix : Matrix
  full : BitVec 256
  weirCopies : List WeirCopy
  barriers : Vector Barrier 16
  tlb : List TlbEntry
  /-- Slices received since the region was loaded (R249). -/
  ring : Nat
  rerun : W64
  spill : W64
  leaveWait : W64
  deriving DecidableEq, Repr

/-! ## A compute die -/

/-- A barge record (R226) and whether it carries an uncorrectable error (R351). -/
structure Barge where
  req : BitVec 32
  pos : BitVec 32
  seq : BitVec 48
  sgroup : BitVec 16
  parent : W64
  payload : W64
  hdr : W64
  origin : W64
  adapt : BitVec 16
  route : BitVec 8
  flags : BitVec 8
  kind : BitVec 2
  gen : BitVec 4
  depth : BitVec 4
  marked : Bool
  /-- The landing row that its payload came in: die and row (R256). -/
  landing : Option (Nat × Nat)
  /-- The SEQ of the fault record that poisoned it (R348). -/
  poisonSeq : BitVec 48
  deriving DecidableEq, Repr

/-- A barge handed on, waiting for the poison ring (R350). -/
structure HandedOn where
  record : Nat
  seq : BitVec 48
  lockRef : W64
  deriving DecidableEq, Repr

/-- A line that the L1s of a die hold beside its home slice: physical line number, key index, the bytes stores wrote, the
8-byte words marked by an uncorrectable error, the released mark, every crew and region whose stores are in it, the
virtual pages of its stores, and the identity of the last store (R301, R317, R326, R328, R351). -/
structure DirtyLine where
  line : Nat
  key : Nat
  bytes : List (Nat × Byte)
  marks : List Nat
  released : Bool
  uids : List Nat
  regions : List Nat
  pages : List VPage
  owner : CrewRef
  uid : Nat
  region : Nat
  version : BitVec 16
  handler : Nat
  poff : BitVec 21
  deriving DecidableEq, Repr

/-- The clock and the event count that a die stamps on a write that leaves it (R320, R364). -/
structure Image where
  clock : Vector (BitVec 32) 5
  evseq : BitVec 48
  deriving DecidableEq, Repr

/-- The stamp of the write that last wrote n cells from `lo` on, and the die that wrote them, 4 being the I/O die; none for a
write that did not leave its die (R320). -/
structure Stamp where
  lo : Nat
  n : Nat
  writer : Nat
  image : Option Image
  deriving DecidableEq, Repr

/-- A range source as the server holds it (R285, R286). -/
structure RangeSource where
  addr : W64
  first : Nat
  limit : Nat
  grain : Nat
  next : Nat
  base : W64
  bstep : W64
  deriving DecidableEq, Repr

/-- An accepted adapter (R257 to R259). -/
structure Adapter where
  aset : BitVec 16
  attach : BitVec 32
  entry : BitVec 32
  deriving DecidableEq, Repr

/-- A die's current graph partition (R274). -/
structure Partition where
  addr : W64
  regions : List RegionCfg
  nodes : List W64
  sources : List RangeSource
  adapters : List Adapter
  deriving DecidableEq, Repr

/-- A walk through a fault cone: the records still to visit, those visited, the origin and the policy (R287). -/
structure ConeWalk where
  todo : List W64
  visited : List W64
  origin : W64
  pol : Nat
  deriving DecidableEq, Repr

/-- A provisional byte kept beside the committed one (R210), and whether it carries an uncorrectable error (R143). -/
structure ProvByte where
  slot : Nat
  key : Nat
  value : Byte
  marked : Bool
  deriving DecidableEq, Repr

/-- What a weir's home bank keeps beside the record, which lies at the physical address `home` (R289): the crew bound to each
slot, the provisional values. -/
structure WeirBank where
  home : Nat
  bound : List (Nat × Nat)
  prov : List ProvByte
  deriving DecidableEq, Repr

/-- How a record names code: region, version, handler and POFF (R363). -/
structure Naming where
  region : Nat
  version : BitVec 16
  handler : Nat
  poff : BitVec 21
  deriving DecidableEq, Repr

/-- The kinds of request the collector runs (R355, R371); a stop writes a request record with B 1 or 2, and the second stop of a
single step, with B 0, writes none. -/
inductive CollectKind where
  | preempt
  | flush (kind : Nat)
  | stop (b : Nat) (name : Naming)
  deriving DecidableEq, Repr

/-- A request to the collector. -/
structure Collect where
  region : Nat
  kind : CollectKind
  since : Nat
  fromWalk : Bool
  deriving DecidableEq, Repr

/-- A saved core of a region (R357). -/
structure SavedCore where
  berths : Vector (Option Crew) 4
  shared : Vector W64 16
  chans : Vector Channel 16
  streams : Vector Stream 8
  matrix : Matrix
  full : BitVec 256
  weirCopies : List WeirCopy
  barriers : Vector Barrier 16
  deriving DecidableEq, Repr

/-- A region taken off its cores by a pre-emption or a debug stop (R356, R371). -/
structure SavedRegion where
  region : Region
  seq : BitVec 48
  cores : List SavedCore
  stopped : Bool
  deriving DecidableEq, Repr

/-- A fault record (R348) with the merge fields of its report entry (R387). -/
structure FaultRecord where
  origin : W64
  fatal : Bool
  notConsumed : Bool
  seq : BitVec 48
  infos : List W64
  merged : W64
  lastSeq : BitVec 48
  deriving DecidableEq, Repr

/-- An open chunk of a recording, or a chunk of a replay still unspent (R336, R340, R375). -/
structure Chunk where
  kind : PointKind
  point : Nat
  src : Nat
  cid : BitVec 16
  run : Nat
  seq : BitVec 48
  deriving DecidableEq, Repr

/-- A log entry that a replay has read and not yet spent (R334, R340). -/
structure LogEntry where
  kind : Nat
  seq : BitVec 48
  cid : BitVec 16
  a : BitVec 48
  b : W64
  c : W64
  deriving DecidableEq, Repr

/-- A die's recorder and order gates (R333 to R344, R374 to R376). -/
structure Recorder where
  mode : BitVec 2
  stall : Bool
  logBase : W64
  logSize : BitVec 20
  logHead : BitVec 20
  logTail : BitVec 20
  notReplay : Bool
  fromSeq : BitVec 48
  ended : Bool
  repCount : BitVec 16
  firstSeq : BitVec 48
  repReason : BitVec 4
  repCid : BitVec 16
  nextCid : Nat
  /-- Starts seen in a replay, by region and handler. -/
  starts : List (Nat × Nat)
  open_ : List Chunk
  chunks : List Chunk
  entries : List LogEntry
  /-- Entries due to a full log with STALL 1, oldest first (R376). -/
  pending : List LogEntry
  /-- The order points at which a requester waits for a full log: every later access waits behind it (R376). -/
  blocked : List (PointKind × Nat)
  deriving DecidableEq, Repr

/-- A die's trace and debug registers (R365). -/
structure Debug where
  sample : BitVec 32
  cpPeriod : BitVec 16
  traceEn : Bool
  traceBase : W64
  traceSize : BitVec 16
  dropped : BitVec 16
  traceHead : BitVec 16
  traceTail : BitVec 16
  traceMap : BitVec 256
  stopMap : BitVec 256
  stopRegion : Nat
  stopLimit : Nat
  stopStep : Bool
  stopFailed : Bool
  lastSample : Nat
  sampled : Option (Nat × Nat)
  firings : Nat
  retiredEnd : W64
  softFix : W64
  deriving DecidableEq, Repr

/-- A request for leave at a governor (R393). -/
inductive LeaveWho where
  | engine (core : Nat)
  | crew (core : Nat) (op : OpRef) (dest : BitVec 8)
  | carousel
  deriving DecidableEq, Repr

/-- A queued request: who asks, for how many cycles, and the cycle in which it reached the governor. -/
structure LeaveAsk where
  who : LeaveWho
  amount : Nat
  since : Nat
  deriving DecidableEq, Repr

/-- A die's power governor (R392 to R395). -/
structure Governor where
  depth : BitVec 31
  rate : BitVec 16
  tthrot : BitVec 8
  carAmount : BitVec 32
  trip : Bool
  temp : BitVec 8
  /-- Leave cycles in the bucket, in units of 1/512. -/
  bucket : Nat
  returned : Nat
  queue : List LeaveAsk
  deriving DecidableEq, Repr

/-- A die's control registers of the 0xE0 path that no other part holds (R247, R277, R310, R355). -/
structure DieRegs where
  partBase : W64
  refused : Bool
  partReason : BitVec 8
  swapping : Bool
  ptRoot : W64
  latchedRoot : W64
  tlbPage : BitVec 40
  tlbAll : Bool
  tlbBusy : Bool
  privBase : W64
  privStride : W64
  landBase : W64
  preRegion : Nat
  preKind : Nat
  statRegion : Nat
  statKind : Nat
  ack : BitVec 8
  preErr : Bool
  preDone : Bool
  saveBase : W64
  saveStride : W64
  poisonBase : W64
  poisonSize : BitVec 16
  poisonHead : BitVec 16
  poisonTail : BitVec 16
  deriving DecidableEq, Repr

/-- A local fault buffer and the fatal slot (R384 to R387). -/
structure FaultBuffer where
  entries : List FaultRecord
  fatal : Option FaultRecord
  fatalSent : Bool
  overflow : BitVec 16
  merged : BitVec 16
  deriving DecidableEq, Repr

/-- A retry launch held until SERVICE names one of its records (R353). -/
structure HeldRetry where
  node : W64
  queue : Nat
  seqs : List (BitVec 48)
  deriving DecidableEq, Repr

/-- A BOARD to another die whose send credit has not returned: the target's package (none for this one) and die, the
PSEQ, the operation and the region of the crew (R253, R361). -/
structure SentBarge where
  pkg : Option Nat
  die : Nat
  pseq : W64
  op : OpRef
  region : Nat
  deriving DecidableEq, Repr

/-- A landing row promised to a sender's next credit: the peer's package and die (R256). -/
structure Promise where
  pkg : Nat
  die : Nat
  row : Nat
  deriving DecidableEq, Repr

/-- A send credit that waits for a landing row to promise (R256): the peer's package and die, the PSEQ and the error. -/
structure OwedCredit where
  pkg : Nat
  die : Nat
  pseq : W64
  err : Bool
  deriving DecidableEq, Repr

/-- What a lock keeps beside a canal entry's 64 bytes: the SEQ of the record that poisoned the barge, and the node of the crew of
this die that boarded it (R350, R369). -/
structure CanalNote where
  region : Nat
  lock : Nat
  entry : Nat
  seq : BitVec 48
  by_ : W64
  deriving DecidableEq, Repr

/-- A compute die (R1). -/
structure Die where
  cores : List (Nat × Core)
  regions : List Region
  saved : List SavedRegion
  discarding : List (Nat × Nat)
  /-- The configurations of regions that have left their cores at a reconfiguration, with the on-chip slots of their
  locks (R233). -/
  parked : List RegionCfg
  barges : List (Nat × Barge)
  nextSeq : BitVec 48
  handedOn : List HandedOn
  canalNotes : List CanalNote
  /-- The rows of the landing area that are in use (R256). -/
  landing : List Nat
  promised : List Promise
  owed : List OwedCredit
  dirty : List DirtyLine
  part : Option Partition
  /-- Lock directory: region, lock and record address of every lock declared since cold reset (R205). -/
  lockDir : List (Nat × Nat × W64)
  walks : List ConeWalk
  /-- The nodes that a walk has made cancelling, each with the policy of the walk (R280, R287). -/
  cancelling : List (W64 × Nat)
  /-- Adapter records accepted and refused since cold reset (R258). -/
  accepted : Nat
  turnedAway : Nat
  weirs : List WeirBank
  heldRetries : List HeldRetry
  collector : Option Collect
  collectQueue : List Collect
  evseq : BitVec 48
  clock : Vector (BitVec 32) 5
  regs : DieRegs
  faults : FaultBuffer
  /-- The die's dedicated fatal line (R386, R395). -/
  fatalLine : Bool
  recorder : Recorder
  dbg : Debug
  gov : Governor
  /-- Send credits taken, with the BOARDs that took them, and the next PSEQ of each path (R253). -/
  sent : List SentBarge
  pseqOut : List ((Nat × Nat) × W64)
  pseqIn : List ((Nat × Nat) × W64)
  deriving DecidableEq, Repr

/-! ## The I/O die -/

/-- A launch that waits in a queue (R283). -/
structure Launch where
  node : W64
  deriving DecidableEq, Repr

/-- A launch queue (R277, R283). -/
structure LaunchQueue where
  en : Bool
  advance : BitVec 16
  quantum : BitVec 32
  deficit : Int
  pend : List Launch
  deriving DecidableEq, Repr

/-- A phase barrier (R216). -/
structure PhaseBarrier where
  phase : Bool
  expected : Nat
  arrived : Nat
  gen : BitVec 16
  deriving DecidableEq, Repr

/-- A slice that a streamer has read and some targets have not yet taken (R249). -/
structure HeldSlice where
  src : Nat
  slice : Nat
  bytes : List Byte
  marks : List Bool
  targets : List (Nat × Nat)
  deriving DecidableEq, Repr

/-- A streamer at work on an entry: its place in table order, the next slice, the cycle before which it reads none, and the
target regions with their cores (R248 to R250). -/
structure Streamer where
  order : Nat
  src : Nat
  slices : Nat
  next : Nat
  ready : Nat
  targets : List (Nat × Nat × List Nat)
  held : List HeldSlice
  deriving DecidableEq, Repr

/-- The carousel (R246 to R251). -/
structure Carousel where
  base : W64
  count : BitVec 20
  lead : BitVec 16
  halted : Bool
  run : Bool
  rots : BitVec 32
  next : BitVec 20
  leaveWait : BitVec 32
  bufWait : BitVec 32
  /-- Leave of entry 0: dies whose governor has still to grant, once asked. -/
  asked : Option (List Nat)
  granted : Bool
  /-- Entries started since cold reset: they give each streamer its place in table order. -/
  started : Nat
  streamers : Vector (Option Streamer) 8
  deriving DecidableEq, Repr

/-- A frame queued at a port, how often the link layer has retried it (R390), and the remote accesses that its release waits
for (R323). -/
structure QueuedFrame where
  frame : Frame
  tries : Nat
  after : List OpRef
  deriving DecidableEq, Repr

/-- A scale-up port (R388, R390). -/
structure Port where
  up : Bool
  farPkg : BitVec 15
  retry : BitVec 16
  discard : BitVec 16
  held : List QueuedFrame
  deriving DecidableEq, Repr

/-- The bring-up states (R396). -/
inductive BootState where
  | rom
  | load
  | verify
  | init
  | ready
  | failed
  deriving DecidableEq, Repr

/-- A remote atomic whose value after the operation is still to fold into its crew's fingerprint (R337, R391): its place in
the crew's folds, its operation and its operands. -/
structure OwedFold where
  at_ : Nat
  addr : W64
  code : Nat
  ety : BitVec 4
  x : W64
  y : W64
  deriving DecidableEq, Repr

/-- A remote access that waits for a peer's response (R391). -/
structure RemoteOp where
  op : OpRef
  place : CrewRef
  ctr : Counter
  dest : Option (BitVec 8)
  ety : BitVec 4
  addr : W64
  peer : Nat
  tdie : Nat
  pseq : W64
  xbar : Bool
  /-- The barrier tie that the crew had before this XBAR arrival (R362). -/
  oldTie : Option W64
  fold : Option OwedFold
  /-- The origin word of a fault of the crew at this word, with cause and detail 0. -/
  origin : W64
  deriving DecidableEq, Repr

/-- Bring-up, identity and keys (R396 to R404). -/
structure Security where
  state : BootState
  svn : BitVec 32
  reason : BitVec 4
  meas0 : BitVec 256
  meas1 : BitVec 256
  session : Option (BitVec 128)
  agreements : Nat
  signatures : Nat
  draws : Nat
  /-- Key pair and HOSTRW of each index 1 to 4,095 that a key has been drawn or loaded for. -/
  keys : List (Nat × BitVec 256 × Bool)
  /-- The key pair each encrypted line of memory is stored under; an unlisted line is stored in the clear. -/
  lineKeys : List (Nat × BitVec 256)
  deriving DecidableEq, Repr

/-- The I/O die. -/
structure IoDie where
  sliceHash : W64
  cacheEn : Bool
  tierSize : BitVec 12
  carousel : Carousel
  queues : Vector LaunchQueue 64
  arbiter : Nat
  /-- The arbiter stands in the loop of a visit that goes on (R283). -/
  visiting : Bool
  phases : Vector PhaseBarrier 16
  events : List (Nat × FaultRecord)
  sent : Nat
  evqWin : BitVec 16
  evqAck : Nat
  pkgId : BitVec 15
  routeBase : W64
  /-- The route table as read when ROUTEBASE was written (R388): package and port. -/
  routes : List (Nat × Nat)
  rwin : Vector W64 16
  ports : Vector Port 32
  remote : List RemoteOp
  evseq : BitVec 48
  clock : Vector (BitVec 32) 5
  faults : FaultBuffer
  fatalLine : Bool
  recorder : Recorder
  sec : Security
  deriving DecidableEq, Repr

/-! ## What is in flight -/

/-- Where a barge comes from: a core of a die, a path from another die, here or in a peer, or the control node. -/
inductive Sender where
  | core (die core : Nat)
  | path (pkg : Option Nat) (die : Nat)
  | host
  deriving DecidableEq, Repr

/-- The send credit that a barge packet holds: the sender's package (none for this one), its die, and the PSEQ (R253). -/
structure CreditRef where
  pkg : Option Nat
  die : Nat
  pseq : W64
  deriving DecidableEq, Repr

/-- A barge on its way into a lock (R231). -/
structure Arrival where
  die : Nat
  region : Nat
  lock : Nat
  record : Option Nat
  barge : Barge
  op : Option OpRef
  /-- The region of this die whose crew issued the BOARD (R259); none for a packet or a signal. -/
  fromRegion : Option Nat
  sender : Sender
  cid : BitVec 16
  credit : Option CreditRef
  /-- The tag of the signal to answer when the barge is placed (R383). -/
  answer : Option (BitVec 16)
  redirected : Bool
  /-- The node of the crew that issued the BOARD, or 0 (R369). -/
  by_ : W64
  /-- It waits for a record and keeps its place: later arrivals at the lock stand behind it (R231). -/
  waiting : Bool
  deriving DecidableEq, Repr

/-- A barge packet on its way between two compute dies of the package (R253, R254). -/
structure Packet where
  dst : Nat
  target : BitVec 32
  srcDie : Nat
  pseq : W64
  barge : Barge
  op : Option OpRef
  cid : BitVec 16
  clock : Vector (BitVec 32) 5
  evseq : BitVec 48
  deriving DecidableEq, Repr

/-- A send credit on its way back to a sender of the package (R253). -/
structure CreditMsg where
  sender : Nat
  target : Nat
  pseq : W64
  deriving DecidableEq, Repr

/-- Tokens on their way to a node (R206, R279, R282, R291): who posts them, the die under whose clock they are counted, the
operation to complete and where word 0 goes. -/
structure TokenPost where
  agent : Option Agent
  writer : Nat
  node : W64
  die : Nat
  count : Nat
  op : Option OpRef
  dest : Option (BitVec 8)
  pred : W64
  answer : Option (BitVec 16)
  deriving DecidableEq, Repr

/-- The kinds of weir operation (R209, R211). -/
inductive WeirKind where
  | killpt
  | jadd (src : W64)
  | warrive
  deriving DecidableEq, Repr

/-- A binding or an arrival on its way to a weir's home bank. -/
structure WeirMsg where
  kind : WeirKind
  agent : Agent
  record : W64
  home : Nat
  slot : Nat
  op : Option OpRef
  dest : BitVec 8
  deriving DecidableEq, Repr

/-- A bound crew's write to its weir's window, on its way to the bank (R210). -/
structure ProvWrite where
  uid : Nat
  record : W64
  home : Nat
  slot : Nat
  key : Nat
  bytes : List Byte
  /-- For each byte, whether it carries an uncorrectable error; the empty list marks none. -/
  marks : List Bool
  deriving DecidableEq, Repr

/-- A kill notice on its way to a crew (R212). -/
structure KillNotice where
  uid : Nat
  home : Nat
  slot : Nat
  deriving DecidableEq, Repr

/-- A physical address with the key index under which it is read (R300, R403). -/
structure HomeAddr where
  pa : Nat
  key : Nat
  deriving DecidableEq, Repr

/-- Who joins an XBAR: a crew of the package, or a peer through the die that answers for it (R215, R391). -/
inductive Party where
  | crew (uid : Nat)
  | peer (die pkg pdie : Nat) (pseq : W64)
  deriving DecidableEq, Repr

/-- An XBAR arrival on its way to a record's home slice (R215). -/
structure XbarMsg where
  record : W64
  home : HomeAddr
  member : Nat
  party : Party
  deriving DecidableEq, Repr

/-- An XBAR reply on its way to a member: a status with its generation, or a fault detail. -/
structure XbarReplyMsg where
  party : Party
  record : W64
  result : Sum W64 Nat
  /-- Whether the release acts as a release and acquire (not a time-out). -/
  released : Bool
  /-- The stamp of the record's last arrival, which a released member's die takes in (R215, R320). -/
  image : Option Image
  deriving DecidableEq, Repr

/-- What a home slice keeps for an XBAR record: the members that wait and the time-out count so far (R214). -/
structure XbarTimer where
  home : HomeAddr
  record : W64
  waiting : List Party
  count : Nat
  deriving DecidableEq, Repr

/-- A release of a weir that has fired and whose combine is running (R291): the die and the record, the result and its marks,
the bytes of it written so far, and the cells that keep the values of the arrived slots with theirs. -/
structure WeirRelease where
  die : Nat
  record : W64
  home : Nat
  result : List Byte
  marks : List Bool
  off : Nat
  previous : List (Nat × List Byte × List Bool)
  deriving DecidableEq, Repr

/-- A CANCEL that has not completed: its barge keeps its record, with the cancelled flag set, until then (R204). -/
structure Cancelled where
  op : OpRef
  die : Nat
  record : Nat
  deriving DecidableEq, Repr

/-- A PHASE arrival on its way to the I/O die, with the clock image of its die (R216, R320). -/
structure PhaseMsg where
  uid : Nat
  image : Image
  place : CrewRef
  id : Nat
  leaving : Bool
  count : Nat
  deriving DecidableEq, Repr

/-- A proxy absence or presence token on its way to an XBAR record (R362). -/
structure ProxyMsg where
  record : W64
  home : HomeAddr
  die : Nat
  deriving DecidableEq, Repr

/-- What one step of the machine is to be: the word that a named crew issues, an event, or the end of the cycle. -/
inductive Turn where
  | issue (who : CrewRef)
  | event (i : Instr)
  | cycle
  deriving DecidableEq, Repr

/-- What is in flight between the parts of the package. -/
structure Flight where
  arrivals : List Arrival
  packets : List Packet
  credits : List CreditMsg
  posts : List TokenPost
  weirs : List WeirMsg
  arrived : List WeirMsg
  releases : List WeirRelease
  provs : List ProvWrite
  notices : List KillNotice
  xbars : List XbarMsg
  xreplies : List XbarReplyMsg
  phases : List PhaseMsg
  absences : List ProxyMsg
  presences : List ProxyMsg
  cancels : List Cancelled
  deriving DecidableEq, Repr

/-- The machine. -/
structure State where
  /-- Memory: physical addresses, and the path addresses of basins and tile stores, as keys; strictly rising,
  no entry zero (log 2). -/
  mem : List Host.Cell
  /-- Eight-byte words marked by an uncorrectable error, by key (R351). -/
  memMarks : List Nat
  /-- The stamps of the writes to memory, the latest first (R320). -/
  stamps : List Stamp
  /-- What the stacks still hold of bytes that slices have taken new while the carousel runs, by physical address (R303, R325). -/
  stack : List (Nat × Byte)
  dies : Vector Die 4
  io : IoDie
  flight : Flight
  xtimers : List XbarTimer
  /-- Messages sent to the control node, oldest first. -/
  toHost : List HostMsg
  /-- Frames sent on the scale-up ports, oldest first. -/
  toPeers : List Frame
  /-- Cycles since cold reset (R106). -/
  now : Nat
  nextUid : Nat
  /-- The model's own: the berth whose crew issues when the agenda is empty. -/
  cur : CrewRef
  /-- The model's own: the turns that come next, in order. -/
  agenda : List Turn
  /-- The model's own: how many free values have been used. -/
  free : Nat
  deriving DecidableEq, Repr

/-! ## Reset (R11): every field at the value its map gives; "fw" fields hold zero until FIRMWARE_READY (log 3) -/

def Shape.unit : Shape := { ty := 0, ext := [1, 1, 1, 1], stride := [0, 0, 0, 0] }

def CrewRef.first : CrewRef := { die := 0, core := 0, berth := 0 }

def Agent.reset : Agent :=
  { place := CrewRef.first, uid := none, region := 0, privBase := 0, privSize := 0, cid := 0, origin := 0 }

def VReg.reset : VReg := { words := [], tag := 0, marks := 0 }

def TileHandle.reset : TileHandle := { bound := false, buf := 0, tag := 0 }

def Barrier.reset : Barrier := { expected := 0, arrived := 0, gen := 0 }

def Channel.reset : Channel :=
  { wp := 0, jobs := [], halted := false, endpoint := .rowQueue, rows := [], tokens := [] }

def Stream.reset : Stream :=
  { state := .idle, base := 0, shape := Shape.unit, ctl := 0, chan := none, width := 0, next := 0, rows := []
    agent := Agent.reset, tails := [] }

def Matrix.reset : Matrix :=
  { accs := Vector.replicate 4 { words := [], poison := false }, f64Modes := Vector.replicate 2 false
    queue := [], running := none, drainActive := none, drainPending := none, drainChan := none, drainRows := []
    baton := none, batonNext := none, burst := 0, credit := 0, idle := 0, busy := false, asking := false }

def Core.reset : Core :=
  { region := none, berths := Vector.replicate 4 none, slot := 0, returning := [], shared := Vector.replicate 16 0, sharedWrites := []
    chans := Vector.replicate 16 Channel.reset, streams := Vector.replicate 8 Stream.reset
    matrix := Matrix.reset, full := 0, weirCopies := [], barriers := Vector.replicate 16 Barrier.reset
    tlb := [], ring := 0, rerun := 0, spill := 0, leaveWait := 0 }

def FaultBuffer.reset : FaultBuffer :=
  { entries := [], fatal := none, fatalSent := false, overflow := 0, merged := 0 }

def Recorder.reset : Recorder :=
  { mode := 0, stall := false, logBase := 0, logSize := 0, logHead := 0, logTail := 0, notReplay := false
    fromSeq := 0, ended := false, repCount := 0, firstSeq := 0, repReason := 0, repCid := 0, nextCid := 1
    starts := [], open_ := [], chunks := [], entries := [], pending := [], blocked := [] }

def Debug.reset : Debug :=
  { sample := 0, cpPeriod := 0, traceEn := false, traceBase := 0, traceSize := 0, dropped := 0, traceHead := 0
    traceTail := 0, traceMap := 0, stopMap := 0, stopRegion := 0, stopLimit := 0, stopStep := false
    stopFailed := false, lastSample := 0, sampled := none, firings := 0, retiredEnd := 0
    softFix := 0 }

def Governor.reset : Governor :=
  { depth := 0, rate := 0, tthrot := 0, carAmount := 0, trip := false, temp := 0, bucket := 0, returned := 0
    queue := [] }

def DieRegs.reset : DieRegs :=
  { partBase := 0, refused := false, partReason := 0, swapping := false, ptRoot := 0, latchedRoot := 0
    tlbPage := 0, tlbAll := false, tlbBusy := false, privBase := 0, privStride := 0, landBase := 0
    preRegion := 0, preKind := 0, statRegion := 0, statKind := 0, ack := 0, preErr := false, preDone := false
    saveBase := 0, saveStride := 0, poisonBase := 0, poisonSize := 0, poisonHead := 0, poisonTail := 0 }

def Die.reset : Die :=
  { cores := [], regions := [], saved := [], discarding := [], parked := [], barges := [], nextSeq := 0, handedOn := []
    canalNotes := [], landing := [], promised := [], owed := [], dirty := [], part := none, lockDir := [], walks := [], cancelling := []
    accepted := 0, turnedAway := 0, weirs := []
    heldRetries := [], collector := none, collectQueue := [], evseq := 0, clock := Vector.replicate 5 0
    regs := DieRegs.reset, faults := FaultBuffer.reset, fatalLine := false, recorder := Recorder.reset, dbg := Debug.reset
    gov := Governor.reset, sent := [], pseqOut := [], pseqIn := [] }

def LaunchQueue.reset : LaunchQueue := { en := false, advance := 0, quantum := 0, deficit := 0, pend := [] }

def PhaseBarrier.reset : PhaseBarrier := { phase := false, expected := 0, arrived := 0, gen := 0 }

def Carousel.reset : Carousel :=
  { base := 0, count := 0, lead := 0, halted := false, run := false, rots := 0, next := 0, leaveWait := 0
    bufWait := 0, asked := none, granted := false, started := 0, streamers := Vector.replicate 8 none }

def Port.reset : Port := { up := false, farPkg := 0, retry := 0, discard := 0, held := [] }

def Security.reset : Security :=
  { state := .rom, svn := 0, reason := 0, meas0 := 0, meas1 := 0, session := none, agreements := 0, signatures := 0
    draws := 0, keys := [], lineKeys := [] }

def IoDie.reset : IoDie :=
  { sliceHash := 0, cacheEn := false, tierSize := 0, carousel := Carousel.reset
    queues := Vector.replicate 64 LaunchQueue.reset, arbiter := 0, visiting := false
    phases := Vector.replicate 16 PhaseBarrier.reset, events := [], sent := 0, evqWin := 0, evqAck := 0, pkgId := 0
    routeBase := 0, routes := [], rwin := Vector.replicate 16 0, ports := Vector.replicate 32 Port.reset
    remote := [], evseq := 0, clock := Vector.replicate 5 0, faults := FaultBuffer.reset, fatalLine := false, recorder := Recorder.reset
    sec := Security.reset }

def Flight.reset : Flight :=
  { arrivals := [], packets := [], credits := [], posts := [], weirs := [], arrived := [], releases := [], provs := []
    notices := [], xbars := [], xreplies := [], phases := [], absences := [], presences := [], cancels := [] }

/-- The package right after cold reset: the boot ROM is about to run (R396). No program is in it and no crew runs. -/
def State.reset : State :=
  { mem := [], memMarks := [], stamps := [], stack := [], dies := Vector.replicate 4 Die.reset, io := IoDie.reset, flight := Flight.reset
    xtimers := [], toHost := [], toPeers := [], now := 0, nextUid := 0, cur := CrewRef.first, agenda := [], free := 0 }

end Sys2Proof.Machine
end

