-- ==== Sys2Proof/Machine/Access.lean ====
section
/-! DEFINITION. Reading and replacing the parts of the state: sparse tables, dies, cores, crews, and a crew's
registers. Every register has one accessor, and what the spec hard-wires (s0, m0) is said there (R24, R94). -/

namespace Sys2Proof.Machine

/-! ## Sparse tables: lists of key and value in rising key order -/

/-- The value listed for a key. -/
def assocGet {α : Type} : List (Nat × α) → Nat → Option α
  | [], _ => none
  | (k, v) :: rest, key => if k = key then some v else assocGet rest key

/-- The table with a key's value put in. -/
def assocSet {α : Type} : List (Nat × α) → Nat → α → List (Nat × α)
  | [], key, x => [(key, x)]
  | (k, v) :: rest, key, x =>
    if key < k then (key, x) :: (k, v) :: rest
    else if key = k then (key, x) :: rest
    else (k, v) :: assocSet rest key x

/-- The table without a key. -/
def assocDel {α : Type} (xs : List (Nat × α)) (key : Nat) : List (Nat × α) := xs.filter fun p => p.1 != key

/-- The list with element i replaced by its image. -/
def modifyAt {α : Type} (xs : List α) (i : Nat) (f : α → α) : List α := xs.modify i f

/-- The vector with element i replaced by its image. -/
def modifyVec {α : Type} {n : Nat} (v : Vector α n) (i : Nat) (f : α → α) : Vector α n :=
  match v[i]? with
  | some x => v.setIfInBounds i (f x)
  | none => v

/-- A function on every element of a vector. -/
def mapVec {α β : Type} {n : Nat} (f : α → β) (v : Vector α n) : Vector β n :=
  ⟨(v.toArray.toList.map f).toArray, by simp⟩

/-- The vector of the values of a function at 0 to n - 1. -/
def tabulate {α : Type} (n : Nat) (f : Nat → α) : Vector α n := ⟨((List.range n).map f).toArray, by simp⟩

/-! ## Dies and cores -/

/-- Die d, C0 to C3. -/
def State.die (s : State) (d : Nat) : Die := s.dies[d]?.getD Die.reset

def State.setDie (s : State) (d : Nat) (x : Die) : State := { s with dies := s.dies.setIfInBounds d x }

def State.onDie (s : State) (d : Nat) (f : Die → Die) : State := s.setDie d (f (s.die d))

/-- A core of a die; one that is not listed is as reset left it. -/
def Die.core (x : Die) (c : Nat) : Core := (assocGet x.cores c).getD Core.reset

def Die.setCore (x : Die) (c : Nat) (k : Core) : Die := { x with cores := assocSet x.cores c k }

def State.core (s : State) (d c : Nat) : Core := (s.die d).core c

def State.setCore (s : State) (d c : Nat) (k : Core) : State := s.onDie d fun x => x.setCore c k

def State.onCore (s : State) (d c : Nat) (f : Core → Core) : State := s.setCore d c (f (s.core d c))

def State.onIo (s : State) (f : IoDie → IoDie) : State := { s with io := f s.io }

def State.onFlight (s : State) (f : Flight → Flight) : State := { s with flight := f s.flight }

/-- A resident region of a die, by number. -/
def Die.region (x : Die) (n : Nat) : Option Region := x.regions.find? fun r => r.cfg.num = n

def Die.onRegion (x : Die) (n : Nat) (f : Region → Region) : Die :=
  { x with regions := x.regions.map fun r => if r.cfg.num = n then f r else r }

def State.onRegion (s : State) (d n : Nat) (f : Region → Region) : State := s.onDie d fun x => x.onRegion n f

/-- A lock of a configuration, by number. -/
def RegionCfg.lock (g : RegionCfg) (j : Nat) : Option Lock := g.locks.find? fun l => l.index = j

/-- The lock of a resident region. -/
def Die.lock (x : Die) (n j : Nat) : Option Lock := (x.region n).bind fun r => r.cfg.lock j

def RegionCfg.onLock (g : RegionCfg) (j : Nat) (f : Lock → Lock) : RegionCfg :=
  { g with locks := g.locks.map fun l => if l.index = j then f l else l }

def State.onLock (s : State) (d n j : Nat) (f : Lock → Lock) : State :=
  s.onRegion d n fun r => { r with cfg := r.cfg.onLock j f }

/-! ## Crews -/

/-- The crew on a berth. -/
def Core.crew (k : Core) (b : Nat) : Option Crew := (k.berths[b]?).join

/-- The crew on a berth of the package, which names that berth as its place. -/
def State.crewAt (s : State) (r : CrewRef) : Option Crew :=
  ((s.core r.die r.core).crew r.berth).map fun c => { c with place := r }

def Core.setBerth (k : Core) (b : Nat) (c : Option Crew) : Core := { k with berths := k.berths.setIfInBounds b c }

def State.setBerth (s : State) (r : CrewRef) (c : Option Crew) : State :=
  s.onCore r.die r.core fun k => k.setBerth r.berth c

/-- A crew put back on its berth. -/
def State.putCrew (s : State) (c : Crew) : State := s.setBerth c.place (some c)

/-- The crews on the berths of a core, in ascending berth order. -/
def Core.crews (k : Core) : List Crew := k.berths.toList.filterMap id

def Die.crews (x : Die) : List Crew := x.cores.flatMap fun p => p.2.crews

/-- Every running crew of the package. -/
def State.allCrews (s : State) : List Crew := s.dies.toList.flatMap Die.crews

/-- The running crew with an identity, wherever it is. -/
def State.findCrew (s : State) (uid : Nat) : Option Crew :=
  (s.dies.toList.flatMap Die.crews).find? fun c => c.uid = uid

/-- A change to the crew of an identity, running or saved (R194, R357). -/
def onUid (uid : Nat) (f : Crew → Crew) (o : Option Crew) : Option Crew :=
  o.map fun c => if c.uid = uid then f c else c

def State.onCrew (s : State) (uid : Nat) (f : Crew → Crew) : State :=
  { s with
    dies := s.dies |> mapVec fun x =>
      { x with
        cores := x.cores.map fun p => (p.1, { p.2 with berths := mapVec (onUid uid f) p.2.berths })
        saved := x.saved.map fun r =>
          { r with cores := r.cores.map fun k => { k with berths := mapVec (onUid uid f) k.berths } } } }

/-- A crew of an identity, running or saved. -/
def State.anyCrew (s : State) (uid : Nat) : Option Crew :=
  (s.findCrew uid).or
    ((s.dies.toList.flatMap fun x => x.saved.flatMap fun r => r.cores.flatMap fun k =>
      k.berths.toList.filterMap id).find? fun c => c.uid = uid)

/-! ## A crew's registers -/

/-- A scalar register; s0 reads zero (R24). -/
def Crew.sreg (c : Crew) (f : BitVec 8) : W64 := if f = 0 then 0 else c.sregs[f.toNat]?.getD 0

/-- A write to a scalar register; s0 discards it (R24). -/
def Crew.setS (c : Crew) (f : BitVec 8) (v : W64) : Crew :=
  if f = 0 then c else { c with sregs := c.sregs.setIfInBounds f.toNat v }

/-- The program counter moved to the next word. -/
def Crew.advance (c : Crew) : Crew := { c with pc := c.pc + 8 }

/-- The lanes below L (R94). -/
def Crew.allLanes (c : Crew) : Mask := Mask.below c.lanes

/-- A mask register by its field value 0x40 to 0x4F; m0 reads as all ones (R94). -/
def Crew.mask (c : Crew) (f : BitVec 8) : Mask :=
  if f = 0x40 then Mask.full else c.mregs[f.toNat - 0x40]?.getD 0

/-- A write to a mask register clears the lanes at or above L (R94). -/
def Crew.setM (c : Crew) (f : BitVec 8) (m : Mask) : Crew :=
  { c with mregs := c.mregs.setIfInBounds (f.toNat - 0x40) (m &&& c.allLanes) }

/-- The lanes of a set below n, in ascending order. -/
def lanesOf (n : Nat) (m : Mask) : List Nat := (List.range n).filter fun l => m.getLsbD l

/-- The number of lanes of a set below n. -/
def countLanes (n : Nat) (m : Mask) : Nat := (lanesOf n m).length

/-- The set of the listed lanes. -/
def maskOf (ls : List Nat) : Mask := BitVec.ofNat 1024 (ls.foldl (fun a l => a ||| 1 <<< l) 0)

/-- The summary word: bit w is the OR of mask word w (R94). -/
def summaryOf (m : Mask) : BitVec 32 :=
  BitVec.ofNat 32 ((List.range 32).foldl (fun a w => if m.extractLsb' (32 * w) 32 != 0 then a + 2 ^ w else a) 0)

/-- The lane set E of R21. -/
def guardSet (guard : BitVec 5) (c : Crew) : Mask :=
  if guard = 0 then c.cur
  else
    let m := c.mask (0x40 + (guard.extractLsb' 0 4).setWidth 8)
    (if guard.getLsbD 4 then ~~~m else m) &&& c.cur

/-- A crew-level false guard (R21). -/
def guardFalse (guard : BitVec 5) (c : Crew) : Bool := guard != 0 && guardSet guard c == 0

/-- A vector register, as stored. -/
def Crew.vreg (c : Crew) (r : Nat) : VReg := c.vregs[r]?.getD VReg.reset

/-- The word of a lane; a register never written reads as zero (R78). -/
def VReg.word (v : VReg) (l : Nat) : W32 := v.words[l]?.getD 0

/-- The pair or the word of lane l at register r, as a number (R59). -/
def Crew.laneValue (c : Crew) (r : Nat) (pair : Bool) (l : Nat) : Nat :=
  if pair then ((c.vreg r).word l).toNat + 2 ^ 32 * ((c.vreg (r + 1)).word l).toNat else ((c.vreg r).word l).toNat

/-- A format register (R63). -/
def Crew.fmt (c : Crew) (i : Nat) : BitVec 32 := c.fmts[i]?.getD 0x10000

/-- The tile handle of a field value 0xA0 to 0xDF. -/
def Crew.tile (c : Crew) (f : BitVec 8) : TileHandle := c.tiles[f.toNat - 0xA0]?.getD TileHandle.reset

def Crew.setTile (c : Crew) (f : BitVec 8) (t : TileHandle) : Crew :=
  { c with tiles := c.tiles.setIfInBounds (f.toNat - 0xA0) t }

/-- The operations outstanding under a counter: the counter's value (R101). -/
def Crew.count (c : Crew) (k : Counter) : Nat := (c.ops.filter fun o => o.ctr = k).length

/-- The number of a counter in WERR, WCNT and WAIT's fn: wl, ws, wm, wc, wg (R102, R108). -/
def Counter.bit : Counter → Nat
  | .wl => 0
  | .ws => 1
  | .wm => 2
  | .wc => 3
  | .wg => 4

/-- The sticky error bit of a counter set (R101). -/
def Crew.setErr (c : Crew) (k : Counter) : Crew := { c with werr := c.werr ||| BitVec.ofNat 6 (2 ^ k.bit) }

/-- A counted operation taken at issue; `done` and `err` say how it stands at once (R101). -/
def Crew.addOp (c : Crew) (k : Counter) (done err : Bool) : Crew :=
  { c with ops := c.ops ++ [{ ctr := k, ticket := c.nextTicket, done := done, err := err }], nextTicket := c.nextTicket + 1 }

/-- The name of the operation that the next addOp makes. -/
def Crew.nextOp (c : Crew) : OpRef := { uid := c.uid, ticket := c.nextTicket }

/-- An operation has been performed, perhaps with an error; it still counts until it is retired (R101). -/
def Crew.finish (c : Crew) (ticket : Nat) (err : Bool) : Crew :=
  { c with ops := c.ops.map fun p => if p.ticket = ticket then { p with done := true, err := p.err || err } else p }

/-- The oldest outstanding operation of a counter. -/
def Crew.oldest (c : Crew) (k : Counter) : Option Op := c.ops.find? fun o => o.ctr = k

/-- Whether the decrement of an operation is no longer held back: it is performed, and every earlier operation of
its counter has been decremented (R101). -/
def Crew.mayRetire (c : Crew) (ticket : Nat) : Bool :=
  match c.ops.find? fun o => o.ticket = ticket with
  | none => false
  | some o => o.done && (c.oldest o.ctr).map Op.ticket == some ticket

/-- The decrement of an operation; one that ended with an error sets its counter's sticky bit (R101). -/
def Crew.retire (c : Crew) (ticket : Nat) : Crew :=
  match c.ops.find? fun o => o.ticket = ticket with
  | none => c
  | some o =>
    let c' : Crew := { c with ops := c.ops.filter fun p => p.ticket != ticket }
    if o.err then c'.setErr o.ctr else c'

/-- The operation that an engine was given has been performed. -/
def State.finishOp (s : State) (op : OpRef) (err : Bool) : State := s.onCrew op.uid fun c => c.finish op.ticket err

def State.finishOp? (s : State) (op : Option OpRef) (err : Bool) : State :=
  match op with
  | none => s
  | some o => s.finishOp o err

/-- A value that an operation returns into a scalar register, which is no longer awaited (R148, R202). -/
def Crew.deliver (c : Crew) (d : BitVec 8) (v : W64) : Crew :=
  { c.setS d v with busy := c.busy.erase d }

end Sys2Proof.Machine
end

