-- ==== Sys2Proof/Machine/Memory.lean ====
section
/-! DEFINITION. Memory: the cells, encryption, home slices, the L1s' dirty lines, the page table and the TLBs, the
paths of an address and the checks of an access (R140 to R143, R299 to R315, R324, R403). -/

namespace Sys2Proof.Machine

/-! ## Cells: rising addresses, and an unlisted cell reads as zero (log 2) -/

/-- The byte of a cell. -/
def cellRead : List Host.Cell → Nat → Byte
  | [], _ => 0
  | (k, b) :: rest, key => if k = key then b else cellRead rest key

/-- A byte put into a cell; writing zero removes the entry. -/
def cellWrite : List Host.Cell → Nat → Byte → List Host.Cell
  | [], key, x => if x = 0 then [] else [(key, x)]
  | (k, b) :: rest, key, x =>
    if key < k then (if x = 0 then (k, b) :: rest else (key, x) :: (k, b) :: rest)
    else if key = k then (if x = 0 then rest else (key, x) :: rest)
    else (k, b) :: cellWrite rest key x

/-- Addresses strictly rising above a bound, and no entry zero. -/
def cellsAbove : Nat → List Host.Cell → Bool
  | _, [] => true
  | low, (k, b) :: rest => low ≤ k && b != 0 && cellsAbove (k + 1) rest

/-- The canonical form of memory. -/
def Memory.wf (m : List Host.Cell) : Bool := cellsAbove 0 m

def State.cell (s : State) (k : Nat) : Byte := cellRead s.mem k

def State.setCell (s : State) (k : Nat) (b : Byte) : State := { s with mem := cellWrite s.mem k b }

/-! ## Encryption at the home slice (R403) -/

/-- The key pair of an index; index 0 and an index that holds no key store bytes in the clear. -/
def State.keyPair (s : State) (index : Nat) : Option (BitVec 256) :=
  if index = 0 then none else (s.io.sec.keys.find? fun k => k.1 = index).map fun k => k.2.1

/-- The key pair a line of memory is stored under. -/
def State.lineKey (s : State) (line : Nat) : Option (BitVec 256) :=
  (s.io.sec.lineKeys.find? fun k => k.1 = line).map Prod.snd

/-- The stored clear bytes of a line. -/
def State.lineBytes (s : State) (line : Nat) : List Byte := (List.range 128).map fun i => s.cell (128 * line + i)

/-- A byte of physical memory as its home slice gives it under a key index (R403). -/
def State.homeByte (s : State) (key pa : Nat) : Byte :=
  let want := s.keyPair key
  let have_ := s.lineKey (pa / 128)
  if want = have_ then s.cell pa
  else Config.xtsMismatch (have_.getD 0) (want.getD 0) (pa / 128) (s.lineBytes (pa / 128)) (pa % 128)

/-- A line brought under a key index before one of its bytes is written under that index. -/
def State.rekeyLine (s : State) (key line : Nat) : State :=
  let want := s.keyPair key
  if want = s.lineKey line then s
  else
    let bytes := (List.range 128).map fun i => s.homeByte key (128 * line + i)
    let s1 := bytes.zipIdx.foldl (fun t p => t.setCell (128 * line + p.2) p.1) s
    let others := s1.io.sec.lineKeys.filter fun k => k.1 != line
    s1.onIo fun io =>
      { io with sec := { io.sec with lineKeys := match want with
                                                  | none => others
                                                  | some p => (line, p) :: others } }

/-! ## Home dies, sub-slices and stacks (R300, R303, R304, R325) -/

/-- The index i of the memory-side die Mi whose slice and atomic unit are home for a physical address (R300). -/
def homeDie (pa : Nat) : Nat := if pa < 0x8000000000 then pa / 2 ^ 36 else pa / 2 ^ 16 % 8

/-- H(x): the exclusive or of the eleven 4-bit groups of a line number (R304). -/
def sliceHash (x : Nat) : Nat := (List.range 11).foldl (fun a i => a ^^^ x / 16 ^ i % 16) 0

/-- SkipHash(x, d): the lines of a slice whose sub-slice d is disabled (R304). -/
def skipHash (x d : Nat) : Nat := if x % 15 < d then x % 15 else x % 15 + 1

/-- The sub-slice of its home die that holds a line: DISi is bit 5i + 4 of SLICEHASH and IDXi its bits 5i + 3 to 5i
(R109, R304). -/
def State.subSlice (s : State) (pa : Nat) : Nat :=
  let i := homeDie pa
  if s.io.sliceHash.getLsbD (5 * i + 4) then skipHash (pa / 128) (s.io.sliceHash.extractLsb' (5 * i) 4).toNat
  else sliceHash (pa / 128)

/-- What a stack holds of a byte that its slice is about to take new is kept while the carousel runs: only the carousel
reads the stack beside the slice (R303, R325). -/
def State.keepOld (s : State) (pa : Nat) : State :=
  if s.io.cacheEn && s.io.carousel.run && pa < 0x8000000000 && (assocGet s.stack pa).isNone then
    { s with stack := assocSet s.stack pa (s.cell pa) }
  else s

/-- A byte written at its home slice. -/
def State.setHomeByte (s : State) (key pa : Nat) (b : Byte) : State :=
  ((s.rekeyLine key (pa / 128)).keepOld pa).setCell pa b

/-! ## Clocks, event counts and the stamps of writes (R320, R364) -/

/-- The later of two clock entries, compared as a signed difference modulo 2^32 (R320). -/
def laterClock (x y : BitVec 32) : BitVec 32 := if (y - x).toInt > 0 then y else x

def mergeClocks (x y : Vector (BitVec 32) 5) : Vector (BitVec 32) 5 :=
  tabulate 5 fun i => laterClock ((x[i]?).getD 0) ((y[i]?).getD 0)

/-- A die receives a message or reads a value that carries a clock image and an EVSEQ, before it goes on (R320, R364). -/
def State.receive (s : State) (die : Nat) (g : Image) : State :=
  if die = 4 then
    s.onIo fun x =>
      { x with clock := mergeClocks x.clock g.clock, evseq := if x.evseq < g.evseq + 1 then g.evseq + 1 else x.evseq }
  else
    s.onDie die fun x =>
      { x with clock := mergeClocks x.clock g.clock, evseq := if x.evseq < g.evseq + 1 then g.evseq + 1 else x.evseq }

/-- What a die stamps on a write that leaves it now, 4 being the I/O die. -/
def State.imageOf (s : State) (die : Nat) : Image :=
  if die = 4 then { clock := s.io.clock, evseq := s.io.evseq }
  else { clock := (s.die die).clock, evseq := (s.die die).evseq }

/-- The stamp's cells all lie among n cells from `lo` on. -/
def Stamp.within (g : Stamp) (lo n : Nat) : Bool := lo ≤ g.lo && g.lo + g.n ≤ lo + n

/-- Some cell of the stamp lies among n cells from `lo` on. -/
def Stamp.meets (g : Stamp) (lo n : Nat) : Bool := g.lo < lo + n && lo < g.lo + g.n

/-- n cells from `lo` on have been written by a die, with a stamp or without one. -/
def State.putStamp (s : State) (lo n writer : Nat) (image : Option Image) : State :=
  let rest := s.stamps.filter fun g => !g.within lo n
  { s with stamps := if image.isSome || rest.any fun g => g.meets lo n then ⟨lo, n, writer, image⟩ :: rest else rest }

/-- The stamp that a die takes in with a read of a cell: that of another die's write, for its own tell it nothing. -/
def State.stampAt (s : State) (die k : Nat) : Option Image :=
  (s.stamps.find? fun g => g.meets k 1).bind fun g => if g.writer = die then none else g.image

/-- A die merges the stamps of the writes whose values its read of the given cells returns (R320). -/
def State.mergeStamps (s : State) (die : Nat) (keys : List Nat) : State :=
  (keys.filterMap (s.stampAt die)).foldl (fun t g => t.receive die g) s

/-- The compute die of a basin's cell (R299). -/
def basinDie (k : Nat) : Option Nat :=
  if 0xB0 ≤ k / 2 ^ 56 && k / 2 ^ 56 ≤ 0xB3 then some (k / 2 ^ 56 - 0xB0) else none

/-- The maximal runs of consecutive numbers of a rising list: first and length. -/
def runsOf : List Nat → List (Nat × Nat)
  | [] => []
  | k :: rest =>
    match runsOf rest with
    | [] => [(k, 1)]
    | (lo, n) :: more => if k + 1 = lo then (k, n + 1) :: more else (k, 1) :: (lo, n) :: more

/-! ## Marks of uncorrectable errors (R351) -/

/-- The 8-byte word of a cell is marked. -/
def State.marked (s : State) (k : Nat) : Bool := s.memMarks.contains (k / 8)

/-- A write that covers the whole 8-byte word at cell k clears its mark. -/
def State.clearMark (s : State) (k : Nat) : State := { s with memMarks := s.memMarks.filter fun w => w != k / 8 }

def State.setMark (s : State) (k : Nat) : State :=
  if s.marked k then s else { s with memMarks := (k / 8) :: s.memMarks }

/-- The marks of the words that n bytes from k cover whole are cleared. -/
def State.clearMarks (s : State) (k n : Nat) : State :=
  { s with memMarks := s.memMarks.filter fun w => !(k ≤ 8 * w && 8 * w + 8 ≤ k + n) }

/-- Some word that n bytes from k touch is marked. -/
def State.anyMark (s : State) (k n : Nat) : Bool :=
  s.memMarks.any fun w => 8 * w < k + n && k < 8 * w + 8

/-! ## The L1s of a die: its dirty lines (R301) -/

/-- The dirty line of a die at a line number and key index. -/
def Die.dirtyLine (x : Die) (line key : Nat) : Option DirtyLine :=
  x.dirty.find? fun l => l.line = line && l.key = key

/-- A store has written a byte of an 8-byte word of the line: its L1 copy of the word stands beside memory's. -/
def DirtyLine.holds (l : DirtyLine) (w : Nat) : Bool := l.bytes.any fun p => p.1 / 8 = w

/-- Stores have written all eight bytes of a word of the line. -/
def DirtyLine.covers (l : DirtyLine) (w : Nat) : Bool := (List.range 8).all fun i => (assocGet l.bytes (8 * w + i)).isSome

/-- The marks of memory after a line has gone home: a marked copy marks its word, an unmarked one that covers its word
clears it (R351). -/
def State.landMarks (s : State) (l : DirtyLine) : State :=
  { s with memMarks := l.marks ++ s.memMarks.filter fun w => !(l.covers w || l.marks.contains w) }

/-- The bytes of a dirty line written to the home slice with their byte mask, and their words' marks, under the clock of
the die (R301, R320, R321). -/
def State.writeLine (s : State) (die : Nat) (l : DirtyLine) : State :=
  let t := (l.bytes.foldl (fun t p => t.setHomeByte l.key p.1 p.2) s).landMarks l
  (runsOf (l.bytes.map Prod.fst)).foldl (fun u r => u.putStamp r.1 r.2 die (some (s.imageOf die))) t

/-- The lines of a die that a test picks, written back and no longer dirty. -/
def State.writeBack (s : State) (die : Nat) (pick : DirtyLine → Bool) : State :=
  let s1 := ((s.die die).dirty.filter pick).foldl (fun t l => t.writeLine die l) s
  s1.onDie die fun x => { x with dirty := x.dirty.filter fun l => !pick l }

/-- A die's own dirty copy of a line goes home before an atomic or an engine write of that line (R324, R325). -/
def State.writeBackLine (s : State) (die pa : Nat) : State := s.writeBack die fun l => l.line = pa / 128

/-- An access under another key index than a line is cached under first writes the line back under its old index (R403). -/
def State.settleKey (s : State) (die key line : Nat) : State :=
  if (s.die die).dirty.any fun l => l.line = line && l.key != key then
    s.writeBack die fun l => l.line = line && l.key != key
  else s

/-- A byte as the L1s of a die give it: the latest completed store of that die, or the home slice's (R301, R403). -/
def State.l1Byte (s : State) (die key pa : Nat) : Byte :=
  match ((s.die die).dirtyLine (pa / 128) key).bind fun l => assocGet l.bytes pa with
  | some b => b
  | none => (s.settleKey die key (pa / 128)).homeByte key pa

/-- The 8-byte word of a byte is marked as the L1s of a die give it: their own copy where stores have made one, else
memory's word (R351). -/
def State.l1Marked (s : State) (die key pa : Nat) : Bool :=
  match (s.die die).dirtyLine (pa / 128) key with
  | some l => if l.holds (pa / 8) then l.marks.contains (pa / 8) else s.marked pa
  | none => (s.settleKey die key (pa / 128)).marked pa

/-- Who stores: the identity that a dirty line keeps (R328). -/
structure Storer where
  owner : CrewRef
  uid : Nat
  region : Nat
  version : BitVec 16
  handler : Nat
  poff : BitVec 21
  deriving DecidableEq, Repr

/-- POFF of R346: the word offset of the PC from the handler's entry. -/
def Crew.poff (c : Crew) : BitVec 21 := ((c.pc - c.entry) >>> 3).setWidth 21

def Crew.storer (c : Crew) : Storer :=
  { owner := c.place, uid := c.uid, region := c.region, version := c.version, handler := c.handler, poff := c.poff }

/-- An element put in front of a list that does not hold it. -/
def insertNew {α : Type} [BEq α] (x : α) (xs : List α) : List α := if xs.contains x then xs else x :: xs

/-- The dirty line of a store: the bytes, words, storers and pages of the line as it stood, with the store's own; a word
that the line first fetches brings memory's mark (R301, R328, R351). -/
def storedLine (old : Option DirtyLine) (who : Storer) (page : Option VPage) (key pa : Nat) (b : Byte) (marked : Bool) :
    DirtyLine :=
  let had := (old.map DirtyLine.marks).getD []
  { line := pa / 128, key := key, bytes := assocSet ((old.map DirtyLine.bytes).getD []) pa b
    marks := if (old.map fun l => l.holds (pa / 8)).getD false then had
             else (if marked then [pa / 8] else []) ++ had.filter fun w => w != pa / 8
    released := (old.map DirtyLine.released).getD false
    uids := insertNew who.uid ((old.map DirtyLine.uids).getD [])
    regions := insertNew who.region ((old.map DirtyLine.regions).getD [])
    pages := page.toList ++ ((old.map DirtyLine.pages).getD []).filter fun p => some p != page
    owner := who.owner, uid := who.uid, region := who.region, version := who.version, handler := who.handler
    poff := who.poff }

/-- A line put in the place of the die's line of the same number and key index. -/
def Die.putLine (x : Die) (l : DirtyLine) : Die :=
  { x with dirty := (x.dirty.filter fun o => !(o.line = l.line && o.key = l.key)) ++ [l] }

/-- A crew's byte stored on the generic path or the private window: into the die's L1, or at the home die's memory
while the caches are off (R301, R306). -/
def State.storeByte (s : State) (who : Storer) (page : Option VPage) (key pa : Nat) (b : Byte) : State :=
  let t := s.settleKey who.owner.die key (pa / 128)
  if s.io.cacheEn then
    t.onDie who.owner.die fun x => x.putLine (storedLine (x.dirtyLine (pa / 128) key) who page key pa b (t.marked pa))
  else t.setHomeByte key pa b

/-! ## The page table (R300, R311 to R313) -/

/-- A PA that names memory (R300). -/
def State.paValid (s : State) (pa : Nat) : Bool :=
  pa < 0x8000000000 || (0x10000000000 ≤ pa && pa < 0x10000000000 + s.io.tierSize.toNat * 2 ^ 30)

/-- n bytes from pa all name memory. -/
def State.paRange (s : State) (pa n : Nat) : Bool := n = 0 || (s.paValid pa && s.paValid (pa + n - 1) &&
  (pa < 0x8000000000 ↔ pa + n - 1 < 0x8000000000))

/-- Eight bytes at their home slice, as index 0 reads them. -/
def State.home64 (s : State) (pa : Nat) : W64 :=
  BitVec.ofNat 64 (natOfBytes ((List.range 8).map fun i => s.homeByte 0 (pa + i)))

/-- Word i of a record at its home slice (R214). -/
def State.homeWord (s : State) (h : HomeAddr) (i : Nat) : W64 :=
  BitVec.ofNat 64 (natOfBytes ((List.range 8).map fun k => s.homeByte h.key (h.pa + 8 * i + k)))

/-- The lowest VA bit and the number of entries of a level, and the log of its page's size (R311). -/
def levelLow (lvl : Nat) : Nat := if lvl = 0 then 42 else if lvl = 1 then 29 else if lvl = 2 then 21 else 16
def levelCount (lvl : Nat) : Nat := if lvl = 0 then 16384 else if lvl = 1 then 8192 else if lvl = 2 then 256 else 32
/-- The size of a level's table, which is also its alignment. -/
def tableSize (lvl : Nat) : Nat := 8 * levelCount lvl

/-- A malformed entry (R313). -/
def State.pteMalformed (s : State) (e : W64) (lvl : Nat) : Bool :=
  let leaf := e.getLsbD 1
  let addr := (e.extractLsb' 8 40).toNat * 256
  e.extractLsb' 48 4 != 0 || e.extractLsb' 5 3 != 0 || (leaf && lvl = 0) || (!leaf && lvl = 3) ||
    (!leaf && (e.extractLsb' 2 3 != 0 || e.extractLsb' 52 12 != 0)) || (e.getLsbD 3 && !e.getLsbD 2) ||
    (if leaf then addr % 2 ^ levelLow lvl != 0 || !s.paRange addr (2 ^ levelLow lvl)
     else addr % tableSize (lvl + 1) != 0 || !s.paRange addr (tableSize (lvl + 1)))

/-- The walk from one level down: `fuel` levels are left (R313). -/
def State.walkFrom (s : State) (va : Nat) : Nat → Nat → Option TlbEntry
  | 0, _ => none
  | fuel + 1, t =>
    let lvl := 3 - fuel
    let e := s.home64 (t + 8 * (va / 2 ^ levelLow lvl % levelCount lvl))
    if !e.getLsbD 0 || s.pteMalformed e lvl then none
    else
      let addr := (e.extractLsb' 8 40).toNat * 256
      if e.getLsbD 1 then
        let size := 2 ^ levelLow lvl
        some { va := va / size * size, size := size, pa := addr, r := e.getLsbD 2, w := e.getLsbD 3, x := e.getLsbD 4
               key := (e.extractLsb' 52 12).toNat }
      else s.walkFrom va fuel addr

/-- A walk through a root in the layout of PTROOT (R310, R313). -/
def State.walkRoot (s : State) (root : W64) (va : Nat) : Option TlbEntry :=
  if root.getLsbD 0 then s.walkFrom va 4 ((root.extractLsb' 17 31).toNat * 2 ^ 17) else none

/-- A walk through a die's latched root. -/
def State.walk (s : State) (die va : Nat) : Option TlbEntry := s.walkRoot (s.die die).regs.latchedRoot va

/-- The virtual page of an entry. -/
def TlbEntry.page (e : TlbEntry) : VPage := { va := e.va, size := e.size }

/-- The place of a generic address under an entry that covers it. -/
def TlbEntry.place (e : TlbEntry) (va : Nat) : Place := .pa (e.pa + (va - e.va)) e.key (some e.page)

/-- An entry maps an address. -/
def TlbEntry.covers (e : TlbEntry) (va : Nat) : Bool := e.va ≤ va && va < e.va + e.size

/-- The translation a core uses: its TLB's, else a walk (R314). -/
def State.translate (s : State) (die core va : Nat) : Option TlbEntry :=
  ((s.core die core).tlb.find? fun e => e.covers va).or (s.walk die va)

/-- The cells of the entries that a walk reads from one level down: `fuel` levels are left (R313). -/
def State.walkReads (s : State) (va : Nat) : Nat → Nat → List Nat
  | 0, _ => []
  | fuel + 1, t =>
    let lvl := 3 - fuel
    let k := t + 8 * (va / 2 ^ levelLow lvl % levelCount lvl)
    let e := s.home64 k
    (List.range 8).map (k + ·) ++
      (if !e.getLsbD 0 || s.pteMalformed e lvl || e.getLsbD 1 then []
       else s.walkReads va fuel ((e.extractLsb' 8 40).toNat * 256))

/-- A walker of a die reads the tables through the die's latched root: the stamps of their last writes come in with them
(R313, R320). -/
def State.seeWalk (s : State) (die va : Nat) : State :=
  let root := (s.die die).regs.latchedRoot
  if root.getLsbD 0 then s.mergeStamps die (s.walkReads va 4 ((root.extractLsb' 17 31).toNat * 2 ^ 17)) else s

/-- The core's TLB keeps a translation that was walked; it holds 512 entries (R314). -/
def State.keepTlb (s : State) (die core va : Nat) : State :=
  if (s.core die core).tlb.any fun e => e.covers va then s
  else
    match s.walk die va with
    | none => s.seeWalk die va
    | some e => (s.seeWalk die va).onCore die core fun k => { k with tlb := (e :: k.tlb).take 512 }

/-! ## Where an address leads (R141, R142, R299, R307) -/

/-- The kinds of access that R141 tells apart. -/
inductive Kind where
  | load
  | store
  | atomic
  /-- Reads and writes of copy channels and streams. -/
  | read
  | write
  deriving DecidableEq, Repr

def Kind.writes : Kind → Bool
  | .load => false
  | .read => false
  | _ => true

def topByte (a : W64) : Nat := (a >>> 56).toNat

/-- The private pool of a core (R307). -/
def State.poolBase (s : State) (die core : Nat) : Nat :=
  let r := (s.die die).regs
  r.privBase.toNat + core * r.privStride.toNat + 2 ^ 22

/-- The identifiers 5 to 7 name no die (R8). -/
def dieReserved (d : Nat) : Bool := 5 ≤ d && d ≤ 7

/-- The zero bits of a system-register address: bits 41:16 and 2:0, CORE in the die block, BERTH outside the berth block, and
a BLOCK that is not 3 (R308). -/
def regZeros (a : W64) : Bool :=
  let block := (a.extractLsb' 50 2).toNat
  a.extractLsb' 16 26 == 0 && a.extractLsb' 0 3 == 0 && block != 3 && (block != 0 || a.extractLsb' 44 6 == 0) &&
    (block = 2 || a.extractLsb' 42 2 == 0)

/-- Check 1 of R142: the top byte, the zero bits and the die field (R299). -/
def topOk (a : W64) : Bool :=
  let t := topByte a
  if t = 0 then true
  else if 0xB0 ≤ t && t ≤ 0xB3 then a.extractLsb' 27 29 == 0
  else if t = 0xC0 then (a.extractLsb' 52 4).toNat ≤ 3 && a.extractLsb' 22 24 == 0
  else if t = 0xD0 then (a.extractLsb' 52 4).toNat ≤ 3 && a.extractLsb' 22 30 == 0
  else if t = 0xE0 then regZeros a && !dieReserved (a.extractLsb' 52 4).toNat
  else if t = 0xF0 then a.extractLsb' 32 24 == 0
  else false

/-- The die and core of a tile-store address. -/
def tileDie (a : W64) : Nat := (a.extractLsb' 52 4).toNat
def tileCore (a : W64) : Nat := (a.extractLsb' 46 6).toNat

/-- The enabled remote window that claims a generic address, the lowest one (R391): EN in bit 63, TAG in bits 15:0. -/
def State.remoteWindow (s : State) (a : W64) : Option W64 :=
  if topByte a != 0 then none
  else s.io.rwin.toList.find? fun r => r.getLsbD 63 && r.extractLsb' 0 16 == a.extractLsb' 40 16

/-- Check 2 of R142: what R141 admits, for a tile store that its core holds the region (R307), and that a remote
address is named only by the instructions that may (R391), which do not come here. -/
def State.pathOk (s : State) (die region : Nat) (k : Kind) (a : W64) : Bool :=
  let t := topByte a
  if t = 0 then (s.remoteWindow a).isNone
  else if 0xB0 ≤ t && t ≤ 0xB3 then true
  else if t = 0xC0 then
    k != .atomic && tileDie a = die && (s.core die (tileCore a)).region == some region
  else if t = 0xD0 then k == .load || k == .read
  else if t = 0xF0 then k != .atomic
  else false

/-- Check 4 of R142: the offset against the path's range. -/
def rangeOk (privSize : Nat) (a : W64) (size : Nat) : Bool :=
  let t := topByte a
  if 0xB0 ≤ t && t ≤ 0xB3 then (a.extractLsb' 0 27).toNat + size ≤ 96 * 2 ^ 20
  else if t = 0xC0 || t = 0xD0 then (a.extractLsb' 0 22).toNat + size ≤ 2 ^ 22
  else if t = 0xF0 then (a.extractLsb' 0 32).toNat + size ≤ privSize
  else true

/-- Who accesses: a core, a region, and the private run of a crew. -/
structure Accessor where
  die : Nat
  core : Nat
  region : Nat
  privBase : Nat
  privSize : Nat
  deriving DecidableEq, Repr

def Crew.accessor (c : Crew) : Accessor :=
  { die := c.place.die, core := c.place.core, region := c.region, privBase := c.privBase, privSize := c.privSize }

/-- Checks 5 and 6 of R142 and the place an address names, for an address that passed the others. -/
def State.placeOf (s : State) (w : Accessor) (k : Kind) (a : W64) : Except Nat Place :=
  let t := topByte a
  if t = 0 then
    match s.translate w.die w.core a.toNat with
    | none => .error 4
    | some e =>
      if (if k.writes then !e.w else !e.r) then .error 5
      else .ok (e.place a.toNat)
  else if t = 0xD0 then .ok (.barge (tileDie a) (a.extractLsb' 0 22).toNat)
  else if t = 0xF0 then .ok (.pa (s.poolBase w.die w.core + w.privBase + (a.extractLsb' 0 32).toNat) 0 none)
  else .ok (.chip a.toNat)

/-- The checks of R142 in their order, for an access of `size` bytes that must be aligned to `align`. -/
def State.check (s : State) (w : Accessor) (k : Kind) (a : W64) (size align : Nat) : Except Nat Place :=
  if !topOk a then .error 3
  else if !s.pathOk w.die w.region k a then .error 2
  else if a.toNat % align != 0 then .error 1
  else if !rangeOk w.privSize a size then .error 3
  else s.placeOf w k a

/-! ## Reading and writing a place -/

/-- The 64 bytes of a barge record (R226). -/
def Barge.bytes (b : Barge) : List Byte :=
  bytesOfNat 4 b.req.toNat ++ bytesOfNat 4 b.pos.toNat ++ bytesOfNat 6 b.seq.toNat ++ bytesOfNat 2 b.sgroup.toNat ++
  wordBytes b.parent ++ wordBytes b.payload ++ wordBytes b.hdr ++ wordBytes b.origin ++
  bytesOfNat 2 b.adapt.toNat ++ [b.route, b.flags, b.kind.setWidth 8, b.gen ++ b.depth] ++ List.replicate 10 0

/-- A byte `i` places on from a place. -/
def Place.plus (p : Place) (i : Nat) : Place :=
  match p with
  | .pa x key page => .pa (x + i) key page
  | .chip k => .chip (k + i)
  | .barge d off => .barge d (off + i)

/-- A byte of the barge store; a free record reads as zero (R307). -/
def State.bargeByte (s : State) (die off : Nat) : Byte :=
  match assocGet (s.die die).barges (off / 64) with
  | none => 0
  | some b => b.bytes[off % 64]?.getD 0

/-- A byte as a crew or an engine of a die reads it. -/
def State.readByte (s : State) (die : Nat) (p : Place) : Byte :=
  match p with
  | .pa pa key _ => s.l1Byte die key pa
  | .chip k => s.cell k
  | .barge d off => s.bargeByte d off

/-- n bytes from a place. -/
def State.readBytes (s : State) (die : Nat) (p : Place) (n : Nat) : List Byte :=
  (List.range n).map fun i => s.readByte die (p.plus i)

/-- Some byte is marked as a crew or an engine of a die reads it (R143, R351). -/
def State.placeMarked (s : State) (die : Nat) (p : Place) (n : Nat) : Bool :=
  match p with
  | .barge d off => (List.range n).any fun i => ((assocGet (s.die d).barges ((off + i) / 64)).map Barge.marked).getD false
  | .pa pa key _ => (List.range n).any fun i => s.l1Marked die key (pa + i)
  | .chip k => s.anyMark k n

/-- Some byte is marked at its home slice, bank or port, where atomics and the hardware's own accesses read it (R351). -/
def State.homeMarked (s : State) (p : Place) (n : Nat) : Bool :=
  match p with
  | .barge d off => (List.range n).any fun i => ((assocGet (s.die d).barges ((off + i) / 64)).map Barge.marked).getD false
  | .pa pa _ _ => s.anyMark pa n
  | .chip k => s.anyMark k n

/-- The cells of n bytes from a place whose values come from no store in the die's own L1s. -/
def State.readCells (s : State) (die : Nat) (p : Place) (n : Nat) : List Nat :=
  (List.range n).filterMap fun i =>
    match p.plus i with
    | .pa pa key _ => if (((s.die die).dirtyLine (pa / 128) key).bind fun l => assocGet l.bytes pa).isSome then none else some pa
    | .chip k => some k
    | .barge _ _ => none

/-- Before an access of n bytes, at most a line's, what the die caches of their lines under another key index goes home (R403). -/
def State.settlePlace (s : State) (die : Nat) (p : Place) (n : Nat) : State :=
  match p with
  | .pa pa key _ => (s.settleKey die key (pa / 128)).settleKey die key ((pa + (n - 1)) / 128)
  | _ => s

/-- What a read of n bytes does beside returning them: lines cached under another key index have gone home, and the die's clock
and EVSEQ take in the stamps of the writes that it returns (R320, R364, R403). -/
def State.observe (s : State) (die : Nat) (p : Place) (n : Nat) : State :=
  let t := s.settlePlace die p n
  t.mergeStamps die (t.readCells die p n)

/-- The stamp of a write by a die to a place, none for its own basin and tile stores, which the write does not leave (R320). -/
def State.stampFor (s : State) (die : Nat) (p : Place) : Option Image :=
  match p with
  | .pa _ _ _ => some (s.imageOf die)
  | .chip k => if (basinDie k).getD die = die then none else some (s.imageOf die)
  | .barge _ _ => none

/-- n bytes from a place have been written by a die at their home slice, bank or port (R320). -/
def State.stampPlace (s : State) (die : Nat) (p : Place) (n : Nat) : State :=
  match p with
  | .pa pa _ _ => s.putStamp pa n die (s.stampFor die p)
  | .chip k => s.putStamp k n die (s.stampFor die p)
  | .barge _ _ => s

/-- A byte that a crew stores. -/
def State.storeAt (s : State) (who : Storer) (p : Place) (b : Byte) : State :=
  match p with
  | .pa pa key page => s.storeByte who page key pa b
  | .chip k => s.setCell k b
  | .barge _ _ => s

/-- The marks of memory's words that a write covers whole are cleared (R351). -/
def State.clearPlace (s : State) (p : Place) (n : Nat) : State :=
  match p with
  | .pa pa _ _ => s.clearMarks pa n
  | .chip k => s.clearMarks k n
  | .barge _ _ => s

/-- The marks of the words of a line that n bytes from pa cover whole are cleared in the L1 (R351). -/
def Die.clearLine (x : Die) (key pa n : Nat) : Die :=
  { x with dirty := x.dirty.map fun l =>
      if l.line = pa / 128 && l.key = key then
        { l with marks := l.marks.filter fun w => !(pa ≤ 8 * w && 8 * w + 8 ≤ pa + n) }
      else l }

/-- What a store of a crew leaves beside its bytes: the words that it covers whole lose their marks, in the L1 where the
caches are on and else in memory, and a store that left the die carries its stamp (R320, R351). -/
def State.afterStore (s : State) (die : Nat) (p : Place) (n : Nat) : State :=
  match p with
  | .pa pa key _ =>
    if s.io.cacheEn then s.onDie die fun x => x.clearLine key pa n
    else (s.clearPlace p n).stampPlace die p n
  | _ => (s.clearPlace p n).stampPlace die p n

/-- Bytes that a crew stores from a place on. -/
def State.storeBytes (s : State) (who : Storer) (p : Place) (bs : List Byte) : State :=
  (bs.zipIdx.foldl (fun t x => t.storeAt who (p.plus x.2) x.1) s).afterStore who.owner.die p bs.length

/-- A byte that an engine, an atomic or a bank writes: on the generic path at the home slice, after the die's own
dirty copy of the line has gone home (R324, R325). -/
def State.engineAt (s : State) (die : Nat) (p : Place) (b : Byte) : State :=
  match p with
  | .pa pa key _ => (s.writeBackLine die pa).setHomeByte key pa b
  | .chip k => s.setCell k b
  | .barge _ _ => s

def State.engineBytes (s : State) (die : Nat) (p : Place) (bs : List Byte) : State :=
  ((bs.zipIdx.foldl (fun t x => t.engineAt die (p.plus x.2) x.1) s).clearPlace p bs.length).stampPlace die p bs.length

/-- The value of a word at its home slice or bank, for an atomic (R163): the die's own dirty copy has gone home. -/
def State.homeRead (s : State) (p : Place) (n : Nat) : Nat :=
  natOfBytes ((List.range n).map fun i =>
    match p.plus i with
    | .pa pa key _ => s.homeByte key pa
    | .chip k => s.cell k
    | .barge d off => s.bargeByte d off)

/-- The die's own dirty copy of a place's line goes home (R324). -/
def State.flushPlace (s : State) (die : Nat) (p : Place) : State :=
  match p with
  | .pa pa _ _ => s.writeBackLine die pa
  | _ => s

/-! ## Words in memory that the hardware itself reads and writes: node, weir and lock records, descriptors -/

/-- The place of a virtual address on path 0x00 or a basin path, through the root of a die (R310). -/
def State.tablePlace (s : State) (root : W64) (write : Bool) (a : W64) : Except Nat Place :=
  let t := topByte a
  if t = 0 then
    match s.walkRoot root a.toNat with
    | none => .error 4
    | some e => if (if write then !e.w else !e.r) then .error 5 else .ok (e.place a.toNat)
  else if 0xB0 ≤ t && t ≤ 0xB3 then .ok (.chip a.toNat)
  else .error 3

/-- The same for the package's own accesses: a remote address is translated by no local table (R391). -/
def State.sysPlace (s : State) (root : W64) (write : Bool) (a : W64) : Except Nat Place :=
  if (s.remoteWindow a).isSome then .error 2 else s.tablePlace root write a

/-- An aligned 64-bit word at the home slice of a virtual address, through a die's latched root; a word that does
not translate reads as zero. -/
def State.sys64 (s : State) (die : Nat) (a : W64) : W64 :=
  match s.sysPlace (s.die die).regs.latchedRoot false a with
  | .ok p => BitVec.ofNat 64 (s.homeRead p 8)
  | .error _ => 0

/-- The same word written by a die, 4 being the I/O die, at the address that another die's root translates (R320). -/
def State.setSysBy (s : State) (writer die : Nat) (a v : W64) : State :=
  match s.sysPlace (s.die die).regs.latchedRoot false a with
  | .ok p => s.engineBytes writer p (wordBytes v)
  | .error _ => s

/-- The same word written by the die through whose root it is found. -/
def State.setSys64 (s : State) (die : Nat) (a v : W64) : State := s.setSysBy die die a v

/-- The cells of n bytes from a place. -/
def Place.cells (p : Place) (n : Nat) : List Nat :=
  match p with
  | .pa x _ _ => (List.range n).map (x + ·)
  | .chip k => (List.range n).map (k + ·)
  | .barge _ _ => []

/-- A die, 4 being the I/O die, reads n bytes of a record at its home slice and takes in the stamps of their last writes (R320). -/
def State.seeSys (s : State) (reader die : Nat) (a : W64) (n : Nat) : State :=
  match s.sysPlace (s.die die).regs.latchedRoot false a with
  | .ok p => s.mergeStamps reader (p.cells n)
  | .error _ => s

/-- Where a record lies: the cell that its address leads to through a die's latched root (R272, R289, R310). -/
def State.recordHome (s : State) (die : Nat) (a : W64) : Option Nat :=
  match s.sysPlace (s.die die).regs.latchedRoot false a with
  | .ok (.pa x _ _) => some x
  | .ok (.chip k) => some k
  | _ => none

/-- Consecutive words from an address. -/
def State.sysWords (s : State) (die : Nat) (a : W64) (n : Nat) : List W64 :=
  (List.range n).map fun i => s.sys64 die (a + BitVec.ofNat 64 (8 * i))

end Sys2Proof.Machine
end

