-- ==== Sys2Proof/Machine/Recorder.lean ====
section
/-! DEFINITION. A die's event sequence counter, its replay log and order gates, and its trace ring (R333 to R340, R363 to
R370, R374 to R376). -/

namespace Sys2Proof.Machine

/-- Saturating increment of a field. -/
def satInc {w : Nat} (x : BitVec w) : BitVec w := if x = BitVec.allOnes w then x else x + 1

/-! ## The event sequence counter (R364) -/

/-- The event sequence counter of a die, 4 being the I/O die. -/
def State.evseqOf (s : State) (die : Nat) : BitVec 48 := if die = 4 then s.io.evseq else (s.die die).evseq

/-- The event sequence counter moved on by one. -/
def State.bumpEvseq (s : State) (die : Nat) : State :=
  if die = 4 then s.onIo fun io => { io with evseq := io.evseq + 1 }
  else s.onDie die fun x => { x with evseq := x.evseq + 1 }

/-- Bytes that a die itself, 4 being the I/O die, writes to a physical address, in the clear and under its clock (R320). -/
def State.writePa (s : State) (die pa : Nat) (bs : List Byte) : State :=
  ((bs.zipIdx.foldl (fun t p => t.setHomeByte 0 (pa + p.2) p.1) s).clearMarks pa bs.length).putStamp pa bs.length die
    (some (s.imageOf die))

/-! ## The replay log (R334 to R336, R374 to R376) -/

def State.recorderOf (s : State) (die : Nat) : Recorder := if die = 4 then s.io.recorder else (s.die die).recorder

def State.onRecorder (s : State) (die : Nat) (f : Recorder → Recorder) : State :=
  if die = 4 then s.onIo fun io => { io with recorder := f io.recorder }
  else s.onDie die fun x => { x with recorder := f x.recorder }

/-- The log is full for an entry (R376); a log of size 0 takes none. -/
def Recorder.full (r : Recorder) : Bool := r.logSize = 0 || (r.logTail.toNat + 2) % r.logSize.toNat = r.logHead.toNat

/-- The requester of an entry that is due stalls: a full log with STALL 1 (R376). -/
def State.logStalls (s : State) (die : Nat) : Bool :=
  let r := s.recorderOf die
  r.mode = 1 && !r.ended && r.stall && (r.full || !r.pending.isEmpty)

/-- The bytes of a log entry (R334). -/
def logBytes (kind die : Nat) (seq : BitVec 48) (cid : BitVec 16) (a : BitVec 48) (b c : W64) : List Byte :=
  wordBytes (BitVec.ofNat 64 (kind * 2 ^ 60 + die * 2 ^ 56 + seq.toNat)) ++ wordBytes (cid ++ a) ++ wordBytes b ++ wordBytes c

/-- An entry written at TAIL with the die's next SEQ. -/
def State.putEntry (s : State) (die kind : Nat) (cid : BitVec 16) (a : BitVec 48) (b c : W64) : State :=
  let r := s.recorderOf die
  if r.logSize = 0 then s
  else
    let s1 := s.writePa die (r.logBase.toNat + 32 * r.logTail.toNat) (logBytes kind die (s.evseqOf die) cid a b c)
    (s1.bumpEvseq die).onRecorder die fun x =>
      { x with logTail := BitVec.ofNat 20 ((x.logTail.toNat + 1) % x.logSize.toNat) }

/-- Recording ends: a kind-9 entry names the first SEQ that is not logged, and the open chunks and the
entries that wait are dropped (R376). -/
def State.endLog (s : State) (die : Nat) : State :=
  let q := s.evseqOf die
  (s.putEntry die 9 0xFFFF q 0 0).onRecorder die fun x => { x with notReplay := true, fromSeq := q, open_ := [], pending := [], ended := true }

/-- A log entry that is due while the die records: a full log ends the recording, or with STALL 1 the entry waits (R376). -/
def State.logEntry (s : State) (die kind : Nat) (cid : BitVec 16) (a : BitVec 48) (b c : W64) : State :=
  let r := s.recorderOf die
  if r.mode != 1 || r.ended then s
  else if s.logStalls die then
    s.onRecorder die fun x =>
      { x with pending := x.pending ++ [{ kind := kind, seq := 0, cid := cid, a := a, b := b, c := c }] }
  else if r.full then s.endLog die
  else s.putEntry die kind cid a b c

/-- PKIND of R335; a lock's chunk is written as kind 6. -/
def PointKind.code : PointKind → Nat
  | .bank => 0
  | .subSlice => 1
  | .tilePort => 2
  | .lock => 3

/-- The A field of a chunk's entry (R335, R375). -/
def Chunk.fieldA (c : Chunk) : BitVec 48 :=
  match c.kind with
  | .lock => BitVec.ofNat 48 (c.point / 16 * 2 ^ 40 + c.point % 16 * 2 ^ 36 + c.src * 2 ^ 32 + c.run % 2 ^ 32)
  | k => BitVec.ofNat 48 (k.code * 2 ^ 46 + c.point * 2 ^ 32 + c.run % 2 ^ 32)

/-- An open chunk written to the log: kind 1, or kind 6 for a lock (R336, R375). -/
def State.writeChunk (s : State) (die : Nat) (c : Chunk) : State :=
  s.logEntry die (if c.kind = .lock then 6 else 1) c.cid c.fieldA 0 0

/-- A chunk belongs to an order point. -/
def Chunk.at_ (c : Chunk) (k : PointKind) (point : Nat) : Bool := c.kind = k && c.point = point

/-- n operations performed at an order point while its die records (R336). -/
def State.recordOp (s : State) (die : Nat) (k : PointKind) (point src : Nat) (cid : BitVec 16) (n : Nat) : State :=
  let r := s.recorderOf die
  if r.ended then s
  else
    match r.open_.find? fun c => c.at_ k point with
    | some c =>
      if c.cid = cid && c.src = src then
        s.onRecorder die fun x =>
          { x with open_ := x.open_.map fun c => if c.at_ k point then { c with run := c.run + n } else c }
      else
        let t := s.writeChunk die c
        if (t.recorderOf die).ended then t
        else t.onRecorder die fun x =>
          { x with open_ := x.open_.map fun c =>
              if c.at_ k point then { c with cid := cid, src := src, run := n } else c }
    | none =>
      s.onRecorder die fun x =>
        { x with open_ := x.open_ ++ [{ kind := k, point := point, src := src, cid := cid, run := n, seq := 0 }] }

/-- The open chunks in ascending PKIND and then ascending POINT (R336). -/
def Recorder.inOrder (r : Recorder) : List Chunk :=
  let top := r.open_.foldl (fun n c => max n c.point) 0
  [PointKind.bank, .subSlice, .tilePort, .lock].flatMap fun k => (List.range (top + 1)).flatMap fun p => r.open_.filter fun c => c.at_ k p

/-- Every open chunk is written, in order (R336). -/
def State.closeChunks (s : State) (die : Nat) : State :=
  ((s.recorderOf die).inOrder.foldl (fun t c => t.writeChunk die c) s).onRecorder die fun x => { x with open_ := [] }

/-! ## Replay (R340, R376) -/

/-- A divergence is counted; the first one since COUNT was cleared is kept (R376). -/
def State.diverge (s : State) (die : Nat) (seq : BitVec 48) (cid : BitVec 16) (reason : Nat) : State :=
  s.onRecorder die fun x =>
    if x.repCount = 0 then { x with repCount := 1, firstSeq := seq, repCid := cid, repReason := BitVec.ofNat 4 reason }
    else { x with repCount := satInc x.repCount }

/-- The current chunk of an order point. -/
def Recorder.current (r : Recorder) (k : PointKind) (point : Nat) : Option Chunk := r.chunks.find? fun c => c.at_ k point

/-- How many operations of a requester the chunks of a point let through before one of another requester, and whether the
chunks of the point end there (R340). -/
def runsAhead (k : PointKind) (point : Nat) (cid : BitVec 16) : List Chunk → Nat × Bool
  | [] => (0, true)
  | c :: rest =>
    if !c.at_ k point then runsAhead k point cid rest
    else if c.cid = cid then (c.run + (runsAhead k point cid rest).1, (runsAhead k point cid rest).2)
    else (0, false)

/-- An order point takes the n operations of a requester's word or chunk now: its chunks cover them, or no chunk is left (R340;
the word is taken whole, log 34). -/
def State.gateTakes (s : State) (die : Nat) (k : PointKind) (point : Nat) (cid : BitVec 16) (n : Nat) : Bool :=
  let r := s.recorderOf die
  r.mode != 2 || (let ahead := runsAhead k point cid r.chunks; n ≤ ahead.1 || ahead.2)

/-- An order point takes one request of a crew now (R340). -/
def State.gateOpen (s : State) (die : Nat) (k : PointKind) (point : Nat) (cid : BitVec 16) : Bool :=
  s.gateTakes die k point cid 1

/-- The chunks of a point with n more operations of a requester; those that are spent leave the list (R340). -/
def spendChunk (k : PointKind) (point : Nat) (cid : BitVec 16) : Nat → List Chunk → List Chunk
  | _, [] => []
  | n, c :: rest =>
    if !c.at_ k point then c :: spendChunk k point cid n rest
    else if n = 0 || c.cid != cid then c :: rest
    else if c.run ≤ n then spendChunk k point cid (n - c.run) rest
    else { c with run := c.run - n } :: rest

/-- The first entry of a replay that a test picks, and the entries without it. -/
def takeEntry (p : LogEntry → Bool) (es : List LogEntry) : Option (LogEntry × List LogEntry) :=
  let i := (es.takeWhile fun e => !p e).length
  es[i]?.map fun e => (e, es.eraseIdx i)

/-- A crew's final fingerprint as it leaves its berth for the last time: logged, or compared with its entry (R335, R340). -/
def State.finalPrint (s : State) (die : Nat) (cid : BitVec 16) (fp : W64) : State :=
  let r := s.recorderOf die
  if r.mode = 1 then s.logEntry die 4 cid 0 fp 0
  else if r.mode = 2 then
    match takeEntry (fun e => e.kind = 4 && e.cid = cid) r.entries with
    | none => if r.ended then s else s.diverge die 0 cid 4
    | some (e, rest) =>
      let t := s.onRecorder die fun x => { x with entries := rest }
      if e.b = fp then t else t.diverge die e.seq cid 3
  else s

/-- n operations taken at an order point during replay: each one beyond the point's last chunk is a divergence, before the
die's kind-9 entry (R340, R376). -/
def State.replayOp (s : State) (die : Nat) (k : PointKind) (point : Nat) (cid : BitVec 16) (n : Nat) : State :=
  let r := s.recorderOf die
  let ahead := runsAhead k point cid r.chunks
  let s1 := s.onRecorder die fun x => { x with chunks := spendChunk k point cid n x.chunks }
  if !ahead.2 || r.ended then s1
  else (List.range (n - ahead.1)).foldl (fun t _ => t.diverge die 0 cid 6) s1

/-- n operations performed at an order point, recorded or replayed. -/
def State.atPoint (s : State) (die : Nat) (k : PointKind) (point src : Nat) (cid : BitVec 16) (n : Nat) : State :=
  let m := (s.recorderOf die).mode
  if m = 1 then s.recordOp die k point src cid n
  else if m = 2 then s.replayOp die k point cid n
  else s

/-- The order point of a place and the die it lies on: the sub-slice of a physical address on its home die, identifier
8 + i; a basin bank; the port of a core's tile store (R8, R303, R307, R335). Memory-side dies have no recorder registers
(R365), so no chunk of a sub-slice is ever logged or gated (log 20). -/
def State.pointOf (s : State) (p : Place) : Option (Nat × PointKind × Nat) :=
  match p with
  | .pa pa _ _ => some (8 + homeDie pa, .subSlice, s.subSlice pa)
  | .chip k =>
    let a : W64 := BitVec.ofNat 64 k
    if topByte a = 0xC0 then some (tileDie a, .tilePort, tileCore a)
    else some (topByte a - 0xB0, .bank, (a.extractLsb' 0 27).toNat / 128 % 192)
  | .barge _ _ => none

/-- A requester waits at an order point for the full log: an operation of it makes the point's open chunk due, or it stands
behind one that waits there (R336, R376). -/
def State.chunkStalls (s : State) (die : Nat) (k : PointKind) (point src : Nat) (cid : BitVec 16) : Bool :=
  s.logStalls die &&
    (((s.recorderOf die).open_.any fun c => c.at_ k point && !(c.cid = cid && c.src = src)) ||
      (s.recorderOf die).blocked.contains (k, point))

/-- A requester that waits at an order point for the full log holds back every later access that reaches the point (R376). -/
def State.blockPoint (s : State) (die : Nat) (k : PointKind) (point src : Nat) (cid : BitVec 16) : State :=
  if s.chunkStalls die k point src cid then
    s.onRecorder die fun x => { x with blocked := insertNew (k, point) x.blocked }
  else s

/-- The order point that does not take the accesses of a word or chunk yet: its gate waits for other requesters, or the full
log holds it (R340, R376). -/
def State.pointsHeld (s : State) (cid : BitVec 16) (points : List (Nat × PointKind × Nat)) : Option (Nat × PointKind × Nat) :=
  points.find? fun q =>
    !s.gateTakes q.1 q.2.1 q.2.2 cid (points.count q) || s.chunkStalls q.1 q.2.1 q.2.2 0 cid

/-- The order point that holds one access. -/
def State.heldAt (s : State) (p : Place) (cid : BitVec 16) : Option (Nat × PointKind × Nat) :=
  s.pointsHeld cid (s.pointOf p).toList

/-- An access of a requester is held at its order point. -/
def State.held (s : State) (p : Place) (cid : BitVec 16) : Bool := (s.heldAt p cid).isSome

/-- An access performed at its order point. -/
def State.served (s : State) (p : Place) (cid : BitVec 16) : State :=
  match s.pointOf p with
  | none => s
  | some (d, k, n) => s.atPoint d k n 0 cid 1

/-- Where in its 128-byte line a place lies. -/
def Place.inLine (p : Place) : Nat :=
  match p with
  | .pa x _ _ => x % 128
  | .chip k => k % 128
  | .barge _ off => off % 128

/-- The first byte of a span in each 128-byte line that the span touches. -/
def Place.lines (p : Place) (n : Nat) : List Place :=
  if n = 0 then []
  else (List.range ((p.inLine + n + 127) / 128)).map fun i => if i = 0 then p else p.plus (128 * i - p.inLine)

/-- The accesses of a span, one per line, performed at their order points. -/
def State.servedSpan (s : State) (p : Place) (n : Nat) (cid : BitVec 16) : State :=
  (p.lines n).foldl (fun t q => t.served q cid) s

/-! ## Arrivals from the control node and the fabric, which the I/O die logs and gates (R335, R340) -/

/-- The next kind-8 entry of a replay. -/
def Recorder.nextArrival (r : Recorder) : Option LogEntry := r.entries.find? fun e => e.kind = 8

/-- The I/O die takes an arrival now. -/
def State.arrivalOpen (s : State) (type : Nat) (addr : W64) : Bool :=
  let r := s.io.recorder
  !s.logStalls 4 &&
    (r.mode != 2 ||
      (match r.nextArrival with
       | none => true
       | some e => (e.a.extractLsb' 0 4).toNat = type && e.b = addr))

/-- An arrival is logged, or spends its entry. -/
def State.noteArrival (s : State) (type : Nat) (addr : W64) (count : Nat) : State :=
  let r := s.io.recorder
  if r.mode = 2 then
    match takeEntry (fun e => e.kind = 8) r.entries with
    | some (_, rest) => s.onRecorder 4 fun x => { x with entries := rest }
    | none => if r.ended then s else s.diverge 4 0 0xFFFF 4
  else s.logEntry 4 8 0xFFFF (BitVec.ofNat 48 type) addr (BitVec.ofNat 64 count)

/-! ## The trace ring (R363, R366, R367) -/

def Crew.naming (c : Crew) : Naming := { region := c.region, version := c.version, handler := c.handler, poff := c.poff }

/-- Trace records are written for a region (R366). -/
def Die.traces (x : Die) (region : Nat) : Bool := x.dbg.traceEn && x.dbg.traceMap.getLsbD region

/-- The key index of the leaf that maps a region's CODEBASE; a nonzero one makes the region confidential (R367). -/
def State.regionKey (s : State) (die region : Nat) : Nat :=
  match ((s.die die).region region).or
      (((s.die die).saved.find? fun r => r.region.cfg.num = region).map SavedRegion.region) with
  | some r => ((s.walk die r.cfg.codeBase.toNat).map TlbEntry.key).getD 0
  | none => 0

/-- The 64 bytes of a trace record (R366). -/
def traceBytes (die kind : Nat) (seq : BitVec 48) (n : Naming) (a b c0 c1 : W64) : List Byte :=
  wordBytes (BitVec.ofNat 64 (kind * 2 ^ 60 + die * 2 ^ 56 + seq.toNat)) ++
    wordBytes (BitVec.ofNat 64 (n.region * 2 ^ 56 + n.version.toNat * 2 ^ 40 + n.handler * 2 ^ 37 + n.poff.toNat)) ++
    wordBytes a ++ wordBytes b ++ wordBytes c0 ++ wordBytes c1 ++ List.replicate 16 0

/-- Bytes 127:64 of a ring entry, the tag apart: IV, key index and ENC (R367). -/
def traceIv (die : Nat) (seq : BitVec 48) (key : Nat) (enc : Bool) : List Byte :=
  [BitVec.ofNat 8 die] ++ bytesOfNat 6 seq.toNat ++ List.replicate 5 0 ++ bytesOfNat 2 key ++ [if enc then 1 else 0] ++
    List.replicate 33 0

/-- A trace record written into the die's ring, or dropped and counted when the ring is full (R366, R367). -/
def State.trace (s : State) (die kind : Nat) (n : Naming) (a b c0 c1 : W64) : State :=
  let x := s.die die
  let g := x.dbg
  if !x.traces n.region || g.traceSize = 0 then s
  else if (g.traceTail.toNat + 1) % g.traceSize.toNat = g.traceHead.toNat then
    s.onDie die fun y => { y with dbg := { y.dbg with dropped := satInc y.dbg.dropped } }
  else
    let q := x.evseq
    let clear := traceBytes die kind q n a b c0 c1
    let key := s.regionKey die n.region
    let iv := traceIv die q key (key != 0)
    let entry : List Byte :=
      if key = 0 then clear ++ List.replicate 16 0 ++ traceIv die q 0 false
      else
        let k := ((s.keyPair key).getD 0).extractLsb' 0 128
        let sealed_ := Config.gcmSeal k (BitVec.ofNat 96 (natOfBytes (iv.take 12))) (iv.take 16) clear
        sealed_.1 ++ bytesOfNat 16 sealed_.2.toNat ++ iv
    let s1 := s.writePa die (g.traceBase.toNat + 128 * g.traceTail.toNat) entry
    (s1.bumpEvseq die).onDie die fun y =>
      { y with dbg := { y.dbg with traceTail := BitVec.ofNat 16 ((y.dbg.traceTail.toNat + 1) % y.dbg.traceSize.toNat) } }

/-! ## Critical path (R369, R370) -/

/-- The index of a node in a die's current NODETAB. -/
def Die.nodeIndex (x : Die) (node : W64) : Option Nat :=
  (x.part.map Partition.nodes).bind fun ns => ns.findIdx? fun n => n = node

/-- The address of a node's entry in the last-arrival table (R369). -/
def Die.arrivalEntry (x : Die) (i : Nat) : Nat := x.dbg.traceBase.toNat + 128 * x.dbg.traceSize.toNat + 16 * i

/-- The last arrival of a node, when its region is traced (R369). -/
def State.lastArrival (s : State) (die region : Nat) (node pred : W64) : State :=
  let x := s.die die
  match x.nodeIndex node with
  | none => s
  | some i =>
    if !x.traces region then s
    else s.writePa die (x.arrivalEntry i) (wordBytes pred ++ wordBytes (x.evseq.setWidth 64))

/-- The steps of a critical-path walk: `fuel` are left (R370). -/
def State.critSteps (s : State) (die : Nat) (n : Naming) (bound : BitVec 48) (node : W64) : Nat → State
  | 0 => s
  | fuel + 1 =>
    let i := 63 - fuel
    let x := s.die die
    match x.nodeIndex node with
    | none => s.trace die 3 n node 0 0 (BitVec.ofNat 64 (2 * 2 ^ 56 + i))
    | some k =>
      let pred := s.home64 (x.arrivalEntry k)
      let seq := (s.home64 (x.arrivalEntry k + 8)).setWidth 48
      if bound ≤ seq then s.trace die 3 n node 0 0 (BitVec.ofNat 64 (3 * 2 ^ 56 + i))
      else
        let reason := if pred = 0 then 1 else 0
        let s1 := s.trace die 3 n node pred (seq.setWidth 64) (BitVec.ofNat 64 (reason * 2 ^ 56 + i))
        if pred = 0 then s1 else s1.critSteps die n seq pred fuel

/-- CritWalk of R370. -/
def State.critWalk (s : State) (die : Nat) (n : Naming) (node : W64) : State :=
  s.critSteps die n (s.die die).evseq node 64

end Sys2Proof.Machine
end

