-- ==== Sys2Proof/Machine/Ops.lean ====
section
/-! DEFINITION. The operations that the meanings share: how an instruction stops, fault records, taking a killing
fault and ending a crew (the machine's exception entry and return), barge records, node records and tokens,
releases (R21, R86, R280, R317, R345 to R350). -/

namespace Sys2Proof.Machine

/-! ## How an instruction ends -/

/-- A fault that kills its crew: cause, detail and the INFO words of R345. -/
structure CrewFault where
  cause : Nat
  detail : Nat
  infos : List W64
  deriving DecidableEq, Repr

/-- Why an instruction does not complete: it stalls before issue, an order point holds its access, or its crew is killed. -/
inductive Stop where
  | stall
  | stallAt (die : Nat) (kind : PointKind) (point : Nat)
  | fault (f : CrewFault)
  deriving DecidableEq, Repr

/-- The result of an instruction's own effect. -/
abbrev Eff := Except Stop

def raise {α : Type} (cause detail : Nat) (infos : List W64) : Eff α := .error (.fault ⟨cause, detail, infos⟩)
def stalled {α : Type} : Eff α := .error .stall

/-! ## Origin words and fault records (R346 to R348, R384 to R386) -/

/-- The origin word's fields in order (R346). -/
def originWord (die region : Nat) (version : BitVec 16) (handler berth cause detail : Nat) (poff : BitVec 21) : W64 :=
  BitVec.ofNat 4 die ++ BitVec.ofNat 8 region ++ version ++ BitVec.ofNat 3 handler ++ BitVec.ofNat 2 berth ++
    BitVec.ofNat 6 cause ++ BitVec.ofNat 4 detail ++ poff

/-- The origin of a fault of a crew. -/
def Crew.origin (c : Crew) (cause detail : Nat) : W64 :=
  originWord c.place.die c.region c.version c.handler c.place.berth cause detail c.poff

/-- The origin of a fault that names no crew (R347). -/
def noCrewOrigin (die region : Nat) (version : BitVec 16) (cause detail poff : Nat) : W64 :=
  originWord die region version 0 0 cause detail (BitVec.ofNat 21 poff)

/-- A record taken into a local fault buffer: entered, merged into one of the same origin but for POFF, or dropped
and counted; a fatal record goes to the fatal slot (R384 to R386). -/
def FaultBuffer.take (b : FaultBuffer) (r : FaultRecord) : FaultBuffer :=
  if r.fatal then { b with fatal := some r }
  else if b.entries.length < 64 then { b with entries := b.entries ++ [r] }
  else
    match b.entries.findIdx? fun e => e.origin.extractLsb' 21 43 = r.origin.extractLsb' 21 43 with
    | some i =>
      { b with
        entries := modifyAt b.entries i fun e => { e with merged := e.merged + 1, lastSeq := r.seq }
        merged := satInc b.merged }
    | none => { b with overflow := satInc b.overflow }

/-- The fault buffer of a die, 4 being the I/O die. -/
def State.faultsOf (s : State) (die : Nat) : FaultBuffer := if die = 4 then s.io.faults else (s.die die).faults

/-- A fault record written by a die: it takes the die's next SEQ; with a fatal record the die asserts its fatal line, and after
it the die writes none (R348, R386). -/
def State.record (s : State) (die : Nat) (origin : W64) (fatal notConsumed : Bool) (infos : List W64) : State :=
  if (s.faultsOf die).fatal.isSome then s
  else
    let q := s.evseqOf die
    let r : FaultRecord := { origin := origin, fatal := fatal, notConsumed := notConsumed, seq := q
                             infos := infos, merged := 0, lastSeq := q }
    let s1 := s.bumpEvseq die
    if die = 4 then s1.onIo fun io => { io with faults := io.faults.take r, fatalLine := io.fatalLine || fatal }
    else s1.onDie die fun x => { x with faults := x.faults.take r, fatalLine := x.fatalLine || fatal }

/-- A die has written a fatal record: it starts no crew, fires no lock and accepts no packet (R386). -/
def State.isFatal (s : State) (die : Nat) : Bool := (s.faultsOf die).fatal.isSome

/-! ## Barge records (R226 to R228, R350) -/

/-- The least number from n up, within a fuel, that is no key of a table in rising key order. -/
def firstFree {α : Type} : Nat → List (Nat × α) → Nat
  | n, [] => n
  | n, (k, _) :: rest => if k = n then firstFree (n + 1) rest else if k < n then firstFree n rest else n

/-- The lowest free record index of a die, if one is free (R228). -/
def Die.freeRecord (x : Die) : Option Nat :=
  let n := firstFree 0 x.barges
  if n < 65536 then some n else none

def Die.barge (x : Die) (i : Nat) : Option Barge := assocGet x.barges i

def State.barge (s : State) (die i : Nat) : Option Barge := (s.die die).barge i

def State.putBarge (s : State) (die i : Nat) (b : Barge) : State :=
  s.onDie die fun x => { x with barges := assocSet x.barges i b }

/-- A record freed; the barge goes on elsewhere (R227). -/
def State.freeRecord (s : State) (die i : Nat) : State :=
  s.onDie die fun x => { x with barges := assocDel x.barges i }

/-- The landing row of a barge that has ended, or whose payload has left the package, freed (R256). -/
def State.freeLanding (s : State) (b : Barge) : State :=
  match b.landing with
  | some r => s.onDie r.1 fun x => { x with landing := x.landing.erase r.2 }
  | none => s

/-- A barge ended: its record and its landing row are freed (R256, R350). -/
def State.freeBarge (s : State) (die i : Nat) : State :=
  match s.barge die i with
  | some b => (s.freeRecord die i).freeLanding b
  | none => s

/-- A barge poisoned with an origin and the SEQ of its fault record (R348, R349). -/
def Barge.poison (b : Barge) (origin : W64) (seq : BitVec 48) : Barge :=
  { b with flags := b.flags ||| 1, origin := origin, poisonSeq := seq }

/-- A barge handed on: it waits in its record for the poison ring, and with a ring of size 0 it is freed at once (R350). -/
def State.handOn (s : State) (die i : Nat) (seq : BitVec 48) (lockRef : W64) : State :=
  if (s.die die).regs.poisonSize = 0 then s.freeBarge die i
  else s.onDie die fun x => { x with handedOn := x.handedOn ++ [{ record := i, seq := seq, lockRef := lockRef }] }

/-- The records of a crew's held set, by row (R196). -/
def Crew.heldRecords (c : Crew) : List Nat := c.held.filterMap id

/-! ## Releases (R200, R317, R320, R328) -/

/-- A release by the crew or engine of an identity on a die, at a scope code of R145: at .crew to .die the lines that hold
bytes of its stores are marked released; at .pkg and .sys they and every released line of the die go home and the die's
own clock entry advances. -/
def State.releaseAs (s : State) (die uid scope : Nat) : State :=
  if scope ≤ 3 then
    s.onDie die fun x => { x with dirty := x.dirty.map fun l => { l with released := l.released || l.uids.contains uid } }
  else
    (s.writeBack die fun l => l.uids.contains uid || l.released).onDie die fun x =>
      { x with clock := x.clock.setIfInBounds die ((x.clock[die]?.getD 0) + 1) }

/-- The release part of an access of a crew. -/
def State.release (s : State) (c : Crew) (scope : Nat) : State := s.releaseAs c.place.die c.uid scope

/-- Whether a release at a scope reports a discarded write-back of this crew (R328). -/
def Crew.releaseErr (c : Crew) (scope : Nat) : Bool := 4 ≤ scope && c.wbLost

/-- The crew after a release: a reported discard is reported once. -/
def Crew.released (c : Crew) (scope : Nat) : Crew := if 4 ≤ scope then { c with wbLost := false } else c

/-! ## Node records (R270, R271, R280, R282) -/

def nodeKind (w : W64) : Nat := (w >>> 60).toNat
def nodeState (w : W64) : Nat := (w.extractLsb' 57 3).toNat
def nodeThresh (w : W64) : Nat := max 1 (w.extractLsb' 32 16).toNat
def nodeCount (w : W64) : Nat := (w.extractLsb' 16 16).toNat
def nodeRused (w : W64) : Nat := (w.extractLsb' 8 8).toNat
def nodeRetry (w : W64) : Nat := (w.extractLsb' 0 8).toNat

/-- Word 0 with another state. -/
def nodeWithState (w : W64) (st : Nat) : W64 :=
  (w &&& ~~~(0x7#64 <<< 57)) ||| (BitVec.ofNat 64 st <<< 57)

def nodeWithCount (w : W64) (n : Nat) : W64 :=
  (w &&& ~~~(0xFFFF#64 <<< 16)) ||| (BitVec.ofNat 64 (min n 65535) <<< 16)

def nodeWithRused (w : W64) (n : Nat) : W64 := (w &&& ~~~(0xFF#64 <<< 8)) ||| (BitVec.ofNat 64 (n % 256) <<< 8)

/-- LQ, POLICY and REGION of word 1. -/
def nodeQueue (w1 : W64) : Nat := (w1.extractLsb' 32 6).toNat
def nodePolicy (w1 : W64) : Nat := (w1.extractLsb' 28 2).toNat
def nodeRegion (w1 : W64) : Nat := (w1.extractLsb' 0 8).toNat
def nodeScore (w1 : W64) : Nat := (w1.extractLsb' 20 6).toNat
def nodeChan (w1 : W64) : Nat := (w1.extractLsb' 16 4).toNat

/-- The die whose current partition lists a node (R280). -/
def State.nodeDie (s : State) (node : W64) : Option Nat :=
  (List.range 4).find? fun d => ((s.die d).part.map fun p => p.nodes.contains node).getD false

/-- The die through whose table a node record is read: the one that lists it, else the given one. -/
def State.nodeHome (s : State) (node : W64) (die : Nat) : Nat := (s.nodeDie node).getD die

/-- A launch enters the tail of a queue (R280, R283). -/
def State.launch (s : State) (queue : Nat) (node : W64) : State :=
  s.onIo fun io =>
    { io with queues := modifyVec io.queues queue fun q => { q with pend := q.pend ++ [{ node := node }] } }

/-- The successors of a node record: SUCC0 to SUCC9 up to the first zero entry (R270). -/
def State.successors (s : State) (die : Nat) (node : W64) : List W64 :=
  (s.sysWords die (node + 48) 10).takeWhile fun w => w != 0

/-- One token posted towards a node (R279, R282). -/
def State.post (s : State) (p : TokenPost) : State := s.onFlight fun f => { f with posts := f.posts ++ [p] }

/-- A node has reached done: one token to each successor that is not a weir, in list order (R282). -/
def State.postSuccessors (s : State) (die : Nat) (node : W64) : State :=
  (s.successors die node).foldl (fun t n =>
    if nodeKind (t.sys64 die n) = 3 then t
    else t.post { agent := none, writer := die, node := n, die := die, count := 1, op := none, dest := none, pred := node, answer := none }) s

/-- A node of a die has fired: its last arrival is kept while its region is traced, and every CPPERIOD-th firing starts a
critical-path walk (R369, R370). -/
def State.noteFiring (s : State) (die : Nat) (node pred : W64) : State :=
  let region := nodeRegion (s.sys64 die (node + 8))
  let s1 := (s.lastArrival die region node pred).onDie die fun x => { x with dbg := { x.dbg with firings := x.dbg.firings + 1 } }
  let x := s1.die die
  let period := x.dbg.cpPeriod.toNat
  if period = 0 || x.dbg.firings % period != 0 then s1
  else
    let version := (((x.part.map Partition.regions).getD []).find? fun g => g.num = region).map RegionCfg.version
    s1.critWalk die { region := region, version := version.getD 0, handler := 0, poff := 0 } node

/-- Tokens of a predecessor counted at a node's home slice under the clock of the die that posts them (R206, R280, R320): the
old word 0, and whether the record takes no tokens. -/
def State.nodeTokens (s : State) (writer die : Nat) (node : W64) (n : Nat) (pred : W64) : State × W64 × Bool :=
  let old := s.sys64 die node
  let kind := nodeKind old
  let st := nodeState old
  let s := s.seeSys writer die node 8
  if !(kind = 1 || kind = 2 || kind = 4) then (s, old, true)
  else if st = 3 || 5 ≤ st then (s, old, false)
  else
    let w := nodeWithCount old (nodeCount old + n)
    if st = 0 || st = 1 then
      if nodeThresh old ≤ nodeCount w then
        if kind = 4 then ((s.setSysBy writer die node (nodeWithState w 3)).postSuccessors die node, old, false)
        else
          (((s.setSysBy writer die node (nodeWithState w 2)).noteFiring die node pred).launch
            (nodeQueue (s.sys64 die (node + 8))) node, old, false)
      else (s.setSysBy writer die node (nodeWithState w 1), old, false)
    else (s.setSysBy writer die node w, old, false)

/-- A walk of a die over a list of successors begins, if there is one to visit: under policy 2 the weirs alone (R287). -/
def State.addWalk (s : State) (owner die : Nat) (succ : List W64) (origin : W64) (pol : Nat) : State :=
  let todo := if pol = 2 then succ.filter fun n => nodeKind (s.sys64 die n) = 3 else succ
  if todo.isEmpty then s
  else s.onDie owner fun x => { x with walks := x.walks ++ [{ todo := todo, visited := [], origin := origin, pol := pol }] }

/-- A cone walk begins at a faulting node under a policy (R287). -/
def State.startWalk (s : State) (die : Nat) (node origin : W64) (pol : Nat) : State :=
  s.addWalk die die (s.successors die node) origin pol

/-- A node enters poisoned with an origin, and its fault is handled under its own policy (R280, R287). -/
def State.poisonNode (s : State) (die : Nat) (node origin : W64) : State :=
  let s1 := s.setSys64 die node (nodeWithState (s.sys64 die node) 7)
  let s2 := s1.setSys64 die (node + 24) origin
  s2.startWalk die node origin (nodePolicy (s.sys64 die (node + 8)))

/-! ## How a crew ends (R99, R197, R212, R280, R284, R349) -/

/-- The ways a crew leaves its berth. -/
inductive Ending where
  /-- Live() became empty under R99. -/
  | exited
  /-- Killed at a kill point under R212. -/
  | killPoint
  /-- Killed by a fault or a trap, with the origin and the record's SEQ. -/
  | killed (origin : W64) (seq : BitVec 48)
  /-- Ended by a flush, which treats held barges by its kind (R360): cancelled and freed, or poisoned with the origin. -/
  | flushed (kind : Nat) (origin : W64) (seq : BitVec 48)
  deriving DecidableEq, Repr

/-- One held barge at the end of its crew (R197, R360). -/
def State.endBarge (s : State) (die : Nat) (how : Ending) (i : Nat) : State :=
  match how with
  | .exited =>
    (s.freeBarge die i).onDie die fun x => { x with dbg := { x.dbg with retiredEnd := x.dbg.retiredEnd + 1 } }
  | .killPoint => s.freeBarge die i
  | .killed origin seq =>
    match s.barge die i with
    | none => s
    | some b => (s.putBarge die i (b.poison origin seq)).handOn die i seq 0
  | .flushed kind origin seq =>
    if kind = 2 then s.freeBarge die i
    else
      match s.barge die i with
      | none => s
      | some b => (s.putBarge die i (b.poison origin seq)).handOn die i seq 0

/-- The die whose weir bank keeps the record that lies at an address (R289). -/
def State.weirBankDie (s : State) (home : Nat) : Option Nat :=
  (List.range 4).find? fun d => (s.die d).weirs.any fun b => b.home = home

/-- A slot's binding ends: the bank forgets the crew, and the record's BNDMASK bit is cleared (R209, R272, R289). -/
def State.unbindSlot (s : State) (die : Nat) (b : WeirBinding) (uid : Nat) : State :=
  match s.weirBankDie b.home with
  | none => s
  | some d =>
    if (s.die d).weirs.any fun k => k.home = b.home && k.bound.any fun p => p.1 = b.slot && p.2 = uid then
      let s1 := s.onDie d fun x =>
        { x with weirs := x.weirs.map fun k =>
            if k.home = b.home then { k with bound := k.bound.filter fun p => p.1 != b.slot } else k }
      s1.setSysBy d die (b.record + 48) (s1.sys64 die (b.record + 48) &&& ~~~(1#64 <<< b.slot))
    else s

/-- The queue that a crew's charge goes to: LQ of the node it was launched from, else of the node bound to its
region (R284). -/
def State.chargeQueue (s : State) (c : Crew) : Option Nat :=
  match c.launched with
  | some l => some l.queue
  | none =>
    match (s.die c.place.die).part with
    | none => none
    | some p =>
      (p.nodes.find? fun n =>
        let w := s.sys64 c.place.die n
        (nodeKind w = 1 || nodeKind w = 2) && nodeRegion (s.sys64 c.place.die (n + 8)) = c.region).map
          fun n => nodeQueue (s.sys64 c.place.die (n + 8))

/-- The node of a crew: the one it was launched from, else the operator node bound to its region, else 0 (R369). -/
def State.nodeOfCrew (s : State) (c : Crew) : W64 :=
  match c.launched with
  | some l => l.node
  | none =>
    (((s.die c.place.die).part.map Partition.nodes).getD [] |>.find? fun n =>
      nodeKind (s.sys64 c.place.die n) = 1 && nodeRegion (s.sys64 c.place.die (n + 8)) = c.region).getD 0

/-- DEFICIT saturates at 2^31 - 1 either way (R277). -/
def clampDeficit (v : Int) : Int := max (-(2 ^ 31 - 1)) (min v (2 ^ 31 - 1))

/-- The charge of a crew that leaves its berth (R284). -/
def State.charge (s : State) (c : Crew) : State :=
  match s.chargeQueue c with
  | none => s
  | some q =>
    let a : Int := (c.launched.map Launched.advance).getD 0
    s.onIo fun io =>
      { io with queues := modifyVec io.queues q fun x =>
          { x with deficit := clampDeficit (x.deficit + a - (s.now - c.started : Nat)) } }

/-- A retry's launch re-enters its queue, or is held until a SERVICE write when its crew collected service needed (R280, R353). -/
def State.retryLaunch (s : State) (die : Nat) (c : Crew) (node : W64) : State :=
  let q := nodeQueue (s.sys64 die (node + 8))
  if c.service.isEmpty then s.launch q node
  else s.onDie die fun x => { x with heldRetries := x.heldRetries ++ [{ node := node, queue := q, seqs := c.service }] }

/-- A node that a walk has made cancelling ends as the walk's policy says: poisoned under policy 1, else cancelled (R280). -/
def State.endCancelling (s : State) (die : Nat) (node : W64) : State :=
  let pol := ((s.die die).cancelling.find? fun p => p.1 = node).map Prod.snd
  (s.setSys64 die node (nodeWithState (s.sys64 die node) (if pol = some 1 then 7 else 6))).onDie die fun x =>
    { x with cancelling := x.cancelling.filter fun p => p.1 != node }

/-- The task node of a crew moves as R280 gives, when the crew leaves its berth. -/
def State.endNode (s : State) (c : Crew) (how : Ending) : State :=
  match c.launched with
  | none => s
  | some l =>
    let d := s.nodeHome l.node c.place.die
    -- the crew no longer holds a berth (LIVE of R270)
    let s0 := s.setSys64 d (l.node + 32) 0
    let w := s0.sys64 d l.node
    let st := nodeState w
    if st = 5 then s0.endCancelling d l.node
    else if st != 2 then s0
    else
      match how with
      | .killed origin _ =>
        if nodeRused w < nodeRetry w then
          (s0.setSys64 d l.node (nodeWithState (nodeWithRused w (nodeRused w + 1)) 4)).retryLaunch d c l.node
        else s0.poisonNode d l.node origin
      | .flushed _ _ _ => s0
      | _ => ((s0.release c 4).setSys64 d l.node (nodeWithState w 3)).postSuccessors d l.node

/-- The barges whose CANCEL is still in flight are freed with the crew that cancelled them (R204). -/
def State.endCancels (s : State) (uid : Nat) : State :=
  ((s.flight.cancels.filter fun k => k.op.uid = uid).foldl (fun t k => t.freeBarge k.die k.record) s).onFlight fun f =>
    { f with cancels := f.cancels.filter fun k => k.op.uid != uid }

/-- What ends with a crew beside its berth: its held barges as R197 says, a bound weir slot, which stays non-arrived, its
node's state and its charge (R217, R280, R284). -/
def State.endContext (s : State) (c : Crew) (how : Ending) : State :=
  let s1 := (c.heldRecords.foldl (fun t i => t.endBarge c.place.die how i) s).endCancels c.uid
  let s2 := match c.weir with
            | none => s1
            | some b => s1.unbindSlot c.place.die b c.uid
  (s2.finalPrint c.place.die c.cid c.fp |>.endNode c how).charge c

/-- The baton when the crew of a berth leaves: dropped at the end of the cycle, unless the crew has passed it on (R173). -/
def Matrix.leaveBaton (m : Matrix) (berth : Nat) : Matrix :=
  match m.batonNext with
  | some holder => if holder = some berth then { m with batonNext := some none } else m
  | none => if m.baton = some berth then { m with batonNext := some none } else m

/-- What a crew gives back to its core (R240). -/
def Crew.givesBack (c : Crew) : Returned :=
  { buffers := c.buffers ++ c.lockBuf.toList, granules := c.granules, privBase := c.privBase, privSize := c.privSize }

/-- A crew leaves its berth; its granules, buffers and private bytes return in the next cycle (R240). -/
def State.endCrew (s : State) (c : Crew) (how : Ending) : State :=
  let s1 := (s.endContext c how).onCore c.place.die c.place.core fun k =>
    { k with matrix := k.matrix.leaveBaton c.place.berth, returning := k.returning ++ [c.givesBack] }
  s1.setBerth c.place none

/-- TAKING A KILLING FAULT (R349): the crew's die writes the record, the held barges are poisoned with its origin
and handed on, and the crew, whose Live() is empty, leaves its berth. The faulting word has no other effect. -/
def State.killCrew (s : State) (c : Crew) (f : CrewFault) : State :=
  let origin := c.origin f.cause f.detail
  let seq := s.evseqOf c.place.die
  let s1 := s.record c.place.die origin false false f.infos
  let needs := f.cause = 6 && (f.detail = 4 || f.detail = 5)
  let c1 : Crew := { c with live := 0, cur := 0, service := if needs then c.service ++ [seq] else c.service }
  s1.endCrew c1 (.killed origin seq)

/-- The EXIT that a flush or a cone walk injects at a crew's issue slot (R287, R360): every live lane is removed; under
a flush held barges are cancelled and freed, or poisoned with cause 19 and handed on. -/
def State.injectExit (s : State) (c : Crew) : State :=
  let c1 : Crew := { c with live := 0, cur := 0, exitPending := false }
  match ((s.die c.place.die).region c.region).map Region.phase with
  | some (.flushing kind) =>
    let origin := c.origin 19 1
    let seq := s.evseqOf c.place.die
    let s1 := if kind = 3 && c.heldRecords.length != 0 then s.record c.place.die origin false false [] else s
    s1.endCrew c1 (.flushed kind origin seq)
  | _ => s.endCrew c1 .exited

/-- A crew at its start (R242): every item that R242's table and the items' own rules give a start value. -/
def Crew.start (uid : Nat) (place : CrewRef) (cfgFmts : List (BitVec 32)) (entry : W64) (lanes : Nat) : Crew :=
  { uid := uid, place := place, region := 0, version := 0, handler := 0, entry := entry, lanes := lanes, pc := entry
    sregs := Vector.replicate 64 0, mregs := Vector.replicate 16 0, cur := Mask.below lanes, live := Mask.below lanes
    stack := [], vregs := Vector.replicate 256 VReg.reset
    fmts := tabulate 16 fun i => cfgFmts[i]?.getD 0x10000
    tiles := Vector.replicate 64 TileHandle.reset, sca := none, scb := none, ops := [], nextTicket := 0, busy := []
    werr := 0, cflags := 0, held := [], lockBuf := none, buffers := [], granules := 0, privBase := 0, privSize := 0
    boundBlocks := [], spillBlocks := [], declared := 256, weir := none, tie := none, absent := none, wait := none
    started := 0, launched := none, cid := 0, fp := 0, folds := 0, exitPending := false, wbLost := false, poison := none
    service := [], stepLeft := false, begun := .no }

/-! ## Answers to the control node (R378 to R382) -/

/-- The header word 0 of a Wilite message that the device sends (R378). -/
def hostHead (type : Nat) (resp : Bool) (status die tag len : Nat) : W64 :=
  BitVec.ofNat 64 (type * 2 ^ 60 + (if resp then 2 ^ 59 else 0) + status * 2 ^ 56 + die * 2 ^ 52 + tag * 2 ^ 32 + len)

/-- A response with a status and a payload (R379, R380). -/
def State.respond (s : State) (type tag status : Nat) (payload : List W64) : State :=
  { s with toHost := s.toHost ++
      [{ head := hostHead type true status 0 tag payload.length, addr := 0, arg := 0, last := 0, payload := payload }] }

/-! ## The frame of an instruction (R21, R86) -/

/-- An access of a crew waits at an order point: the word has begun, and for a full log later accesses wait behind it
(R341, R376). -/
def State.holdAt (s : State) (c : Crew) (die : Nat) (k : PointKind) (point : Nat) : State :=
  (s.putCrew { c with begun := .access die k point }).blockPoint die k point 0 c.cid

/-- An instruction's effect on the crew that issues it. -/
def runBody (s : State) (c : Crew) (body : State → Crew → Eff State) : Host.Outcome State Fault Refusal :=
  match body s c with
  | .ok t => .next t
  | .error .stall => .next s
  | .error (.stallAt die k point) => .next (s.holdAt c die k point)
  | .error (.fault f) => .next (s.killCrew c f)

/-- A crew-guarded word (R21): once, unless its guard is false for the crew. -/
def crewInstr (guard : BitVec 5) (s : State) (body : State → Crew → Eff State) : Host.Outcome State Fault Refusal :=
  match s.crewAt s.cur with
  | none => .fault .noCrew
  | some c => if guardFalse guard c then .next (s.putCrew c.advance) else runBody s c body

/-- A word without a crew-level guard: lane-guarded words, P words, and words that are killed at issue. -/
def anyInstr (s : State) (body : State → Crew → Eff State) : Host.Outcome State Fault Refusal :=
  match s.crewAt s.cur with
  | none => .fault .noCrew
  | some c => runBody s c body

/-- An effect on the crew alone, after which the pc advances. -/
def crewStep (guard : BitVec 5) (s : State) (f : Crew → Crew) : Host.Outcome State Fault Refusal :=
  crewInstr guard s fun s c => .ok (s.putCrew (f c).advance)

/-- A scalar result written to d (R86, R87). -/
def scalarStep (guard : BitVec 5) (d : BitVec 8) (s : State) (f : Crew → W64) : Host.Outcome State Fault Refusal :=
  crewStep guard s fun c => c.setS d (f c)

/-- A counted operation adds 1 at issue; at 255 the instruction stalls until the counter drops (R101). -/
def roomFor (c : Crew) (k : Counter) : Eff Unit := if c.count k < 255 then .ok () else stalled

end Sys2Proof.Machine
end

