-- ==== Sys2Proof/Machine/Flags.lean ====
section
/-! DEFINITION. The status registers of a crew and the flag computations of the spec (R102, R106 to R108, R241). -/

namespace Sys2Proof.Machine

/-- CREW (R107). -/
def Crew.crewReg (c : Crew) : W64 :=
  (0 : BitVec 24) ++ c.version ++ BitVec.ofNat 8 c.region ++ BitVec.ofNat 3 c.handler ++ BitVec.ofNat 2 c.place.berth ++
    BitVec.ofNat 6 c.place.core ++ (0 : BitVec 1) ++ BitVec.ofNat 4 c.place.die

/-- RDEPTH: the depth and the kind of the top entry (R107). The stack list has its top first. -/
def Crew.rdepth (c : Crew) : W64 :=
  let top : Nat := match c.stack with
                   | [] => 0
                   | e :: _ => if e.kind = .path then 32 else 0
  BitVec.ofNat 64 (top + c.stack.length)

/-- WCNT: the five wait counters (R108). -/
def Crew.wcnt (c : Crew) : W64 :=
  BitVec.ofNat 64 (c.count .wl + 256 * c.count .ws + 65536 * c.count .wm + 2 ^ 24 * c.count .wc + 2 ^ 32 * c.count .wg)

/-- The counters that WAIT's fn selects (R102). -/
def waitSet (fn : BitVec 7) : List Counter := [.wl, .ws, .wm, .wc, .wg].filter fun k => fn.getLsbD k.bit

/-- Some selected counter is above n (R102). -/
def Crew.waits (c : Crew) (fn : BitVec 7) (n : Nat) : Bool := (waitSet fn).any fun k => n < c.count k

/-- WAIT's status: the selected sticky bits, and FLUSHED (R102). -/
def waitStatus (werr : BitVec 6) (fn : BitVec 7) : W64 :=
  (werr &&& ((fn.extractLsb' 0 5).setWidth 6 ||| 0b100000)).setWidth 64

/-- WERR after WAIT (R102). -/
def waitClears (werr : BitVec 6) (fn : BitVec 7) : BitVec 6 := werr &&& ~~~((fn.extractLsb' 0 5).setWidth 6 ||| 0b100000)

/-- FLUSHED of WERR (R108). -/
def Crew.setFlushed (c : Crew) : Crew := { c with werr := c.werr ||| 0b100000 }

/-- VOIDREAD of CFLAGS (R108, R134). -/
def Crew.setVoidRead (c : Crew) : Crew := { c with cflags := c.cflags ||| 1 }

/-- The register blocks that a reference to a register binds or spills (R241): a write to a block of v0 to v(n-1)
binds it; the first reference to a spill block sets REGSPILL. The second part counts new spill blocks. -/
def Crew.touch (c : Crew) (write : Bool) (r : Nat) : Crew × Nat :=
  let b := r / 8
  if r < c.declared then
    if write && !c.boundBlocks.contains b then ({ c with boundBlocks := b :: c.boundBlocks }, 0) else (c, 0)
  else if c.spillBlocks.contains b then (c, 0)
  else ({ c with spillBlocks := b :: c.spillBlocks, cflags := c.cflags ||| 2 }, 1)

/-- References to several registers: reads, then writes. -/
def Crew.touchAll (c : Crew) (reads writes : List Nat) : Crew × Nat :=
  let step (write : Bool) (p : Crew × Nat) (r : Nat) : Crew × Nat :=
    let q := p.1.touch write r
    (q.1, p.2 + q.2)
  writes.foldl (step true) (reads.foldl (step false) (c, 0))

/-- New spill blocks are counted at the core (R241). -/
def State.countSpills (s : State) (c : Crew) (n : Nat) : State :=
  if n = 0 then s
  else s.onCore c.place.die c.place.core fun k => { k with spill := k.spill + BitVec.ofNat 64 n }

/-! ## Spill blocks (R241, R302, R307) -/

/-- The spill blocks in the berth's 16 KiB share of the L1: the first that the crew referred to, as many as fit. -/
def Crew.shareBlocks (c : Crew) : List Nat := c.spillBlocks.reverse.take (16384 / (32 * c.lanes))

/-- The further ones, which lie in the berth's spill window. -/
def Crew.windowBlocks (c : Crew) : List Nat := c.spillBlocks.reverse.drop (16384 / (32 * c.lanes))

/-- The KiB of its L1 in which a core caches lines: 256, less the share of every berth whose crew has a spill block (R302). -/
def Core.cacheKiB (k : Core) : Nat := 256 - 16 * (k.crews.filter fun c => !c.spillBlocks.isEmpty).length

/-- The 1 MiB spill window of a berth (R307). -/
def State.spillWindow (s : State) (who : CrewRef) : Nat :=
  let r := (s.die who.die).regs
  r.privBase.toNat + who.core * r.privStride.toNat + 2 ^ 20 * who.berth

/-- The words of a register as bytes. -/
def Crew.regBytes (c : Crew) (r : Nat) : List Byte := (List.range c.lanes).flatMap fun l => bytesOfNat 4 ((c.vreg r).word l).toNat

/-- Where a register of a spill block lies within a spill window: block k from byte 32 L k on, its registers in order (R307,
log 83). -/
def Crew.windowOffset (c : Crew) (r : Nat) : Nat := 32 * c.lanes * (r / 8) + 4 * c.lanes * (r % 8)

/-- Registers of a crew's window blocks written to its spill window. -/
def State.spillOut (s : State) (c : Crew) (rs : List Nat) : State :=
  rs.foldl (fun t r => t.writePa c.place.die (t.spillWindow c.place + c.windowOffset r) (c.regBytes r)) s

/-- The registers of a crew's window blocks that a word has brought there or changed. -/
def Crew.spilled (old new : Crew) : List Nat :=
  (new.windowBlocks.flatMap fun b => (List.range 8).map (8 * b + ·)).filter fun r =>
    !old.windowBlocks.contains (r / 8) || old.vreg r != new.vreg r

/-- What a word does to the spill area, between its crew before and after it: the crew's first spill block takes the berth's
share from the cache, whose dirty lines there go home, and what it writes to window blocks reaches the spill window
(R241, R302, R307). -/
def State.spillTurn (s : State) (old new : Crew) : State :=
  let who := new.place
  let t := if old.spillBlocks.isEmpty && !new.spillBlocks.isEmpty then
             s.writeBack who.die fun l =>
               l.owner.core = who.core && Config.spillShareHolds who.die who.core who.berth l.line
           else s
  t.spillOut new (old.spilled new)

end Sys2Proof.Machine
end

