-- ==== Sys2Proof/Machine/Operands.lean ====
section
/-! DEFINITION. The operand forms of vector instructions: registers and pairs, rows of channels, tag checks, the
tensor form's steps, and the write of a result (R73 to R78, R113 to R118, R153, R154, R352, R405). -/

namespace Sys2Proof.Machine

/-! ## Faults -/

/-- A format-tag fault: the offending tag and the operand position, 0 d, 1 a, 2 b, 3 c, 4 a popped row (R76, R345). -/
def tagFault {α : Type} (kind pos : Nat) (tag : BitVec 8) : Eff α :=
  raise 4 kind [BitVec.ofNat 64 (tag.toNat + 256 * pos)]

/-- A vector-operand fault (R119). -/
def vecFault {α : Type} (detail : Nat) : Eff α := raise 5 detail []

/-- A data error in a register word: register and lane (R345, R352). -/
def markFault {α : Type} (reg lane : Nat) : Eff α := raise 15 1 [BitVec.ofNat 64 reg, BitVec.ofNat 64 lane]

/-! ## Sources -/

/-- A vector source as it was read at issue: its tag, each lane's word or pair, the lanes a row leaves void, the
marked lanes, and what names it in a record: a register, or none for a row. -/
structure Source where
  tag : BitVec 8
  lane : Nat → Nat
  void : Mask
  marks : Mask
  reg : Option Nat

/-- A register source, as a word or a pair. -/
def Crew.source (c : Crew) (r : Nat) (pair : Bool) : Source :=
  { tag := (c.vreg r).tag, lane := c.laneValue r pair, void := 0
    marks := if pair then (c.vreg r).marks ||| (c.vreg (r + 1)).marks else (c.vreg r).marks, reg := some r }

/-- A popped row as a source. -/
def Row.source (r : Row) : Source :=
  { tag := r.tag, lane := fun l => (r.words[l]?.getD 0).toNat, void := r.void, marks := r.marks, reg := none }

/-- A source with a marked word in an active lane raises poison (R113, R352). -/
def Source.consume (x : Source) (n : Nat) (ev : Mask) : Eff Unit :=
  match (lanesOf n (x.marks &&& ev)).head? with
  | none => .ok ()
  | some l =>
    match x.reg with
    | some r => markFault r l
    | none => raise 15 5 [BitVec.ofNat 64 l]

/-! ## Tag checks (R75, R405) -/

/-- The check of a bit-level source: a reserved tag alone (R75). -/
def checkReserved (pos : Nat) (tag : BitVec 8) : Eff Unit := if tagReserved false tag then tagFault 1 pos tag else .ok ()

/-- The check of a typed source against WantType; under ety 13 and 14 the tag's own format register index stands (R20,
R75, R122). -/
def checkTyped (fms : Vector (BitVec 32) 16) (ety : BitVec 4) (want : ElemTy) (pos : Nat) (tag : BitVec 8) : Eff Unit :=
  if tagReserved false tag then tagFault 1 pos tag
  else
    match tagType tag with
    | none => if ety = 0 || ety = 13 || ety = 14 then tagFault 3 pos tag else .ok ()
    | some t =>
      if t.widMismatch fms then tagFault 2 pos tag
      else if (if ety = 13 || ety = 14 then t.cls != want.cls else t != want) then tagFault 2 pos tag
      else if tagScaled tag then tagFault 4 pos tag
      else .ok ()

/-- The type of the first source: what ety names, or under ety 0 its tag's type; `accept` says which types known only
at issue the instruction takes (R75, R113, R128). -/
def firstType (fms : Vector (BitVec 32) 16) (ety : BitVec 4) (accept : ElemTy → Bool) (pos : Nat) (tag : BitVec 8) :
    Eff ElemTy :=
  if tagReserved false tag then tagFault 1 pos tag
  else
    match tagType tag with
    | none =>
      if ety = 0 || ety = 13 || ety = 14 then tagFault 3 pos tag
      else
        match etyType ety 0 with
        | some t => .ok t
        | none => tagFault 3 pos tag
    | some t =>
      if t.widMismatch fms then tagFault 2 pos tag
      else if ety != 0 && (if ety = 13 || ety = 14 then t.cls != ety.toNat - 9 else some t != etyType ety 0) then
        tagFault 2 pos tag
      else if ety = 0 && !accept t then tagFault 2 pos tag
      else if tagScaled tag then tagFault 4 pos tag
      else .ok t

/-- The check, under ety 0, of a source that must carry one of the listed 32-bit tags: a reserved tag, raw bits, then any
other type (R75, R165, R166). -/
def checkWord (allowed : List (BitVec 8)) (pos : Nat) (tag : BitVec 8) : Eff Unit :=
  if tagReserved false tag then tagFault 1 pos tag
  else if (tagType tag).isNone then tagFault 3 pos tag
  else if !allowed.contains tag then tagFault 2 pos tag
  else .ok ()

/-- A narrow result encoded under a format register of another width raises the tag fault at position d (R405). -/
def checkResult (fms : Vector (BitVec 32) 16) (t : ElemTy) : Eff Unit :=
  if t.widMismatch fms then tagFault 2 0 t.tag else .ok ()

/-- The type that a checked source's elements have: its tag's, or for raw bits the named type (R75). -/
def sourceType (want : ElemTy) (tag : BitVec 8) : ElemTy := (tagType tag).getD want

/-- The tag's type occupies a register pair (R59). -/
def tagIs64 (tag : BitVec 8) : Bool := ((tagType tag).map ElemTy.is64).getD false

/-- A register that must name a pair known only at issue (R113). -/
def needEven (pair : Bool) (r : Nat) : Eff Unit := if pair && r % 2 = 1 then vecFault 3 else .ok ()

/-! ## Elements of a lane (R59) -/

/-- Element e of width w of a lane's word or pair. -/
def elemOf (w x e : Nat) : Nat := x / 2 ^ (w * e) % 2 ^ w

/-- The lane value whose elements are given, element 0 lowest. -/
def packElems (w : Nat) : List Nat → Nat
  | [] => 0
  | x :: rest => x % 2 ^ w + 2 ^ w * packElems w rest

/-- A lane value computed element by element. -/
def laneMap (w p : Nat) (f : Nat → Nat) : Nat := packElems w ((List.range p).map f)

/-! ## Results -/

/-- A register's words after the lanes of ev have been written. -/
def VReg.write (v : VReg) (n : Nat) (ev : Mask) (f : Nat → Nat) (tag : BitVec 8) : VReg :=
  { words := (List.range n).map fun l => if ev.getLsbD l then BitVec.ofNat 32 (f l) else v.word l
    tag := tag, marks := v.marks &&& ~~~ev }

/-- A result written to the lanes of ev of a register, or of a pair whose two registers take the same tag (R77). -/
def Crew.writeVec (c : Crew) (r : Nat) (pair : Bool) (ev : Mask) (f : Nat → Nat) (tag : BitVec 8) : Crew :=
  let low := c.vregs.setIfInBounds r ((c.vreg r).write c.lanes ev f tag)
  if pair then
    { c with vregs := low.setIfInBounds (r + 1) ((c.vreg (r + 1)).write c.lanes ev (fun l => f l / 2 ^ 32) tag) }
  else { c with vregs := low }

/-- The registers of an operand, for the lazy binding and the spill count of R241. -/
def regsOf (r : Nat) (pair : Bool) : List Nat := if pair then [r, r + 1] else [r]

/-- A vector instruction has completed: its registers were referenced, and the pc advances (R241). -/
def State.finishVec (s : State) (c : Crew) (reads writes : List Nat) : State :=
  let t := c.touchAll reads writes
  ((s.spillTurn ((s.crewAt c.place).getD c) t.1).putCrew t.1.advance).countSpills c t.2

/-! ## Channels as operands (R114, R115, R153, R154) -/

/-- The number of a channel operand, 0x70 to 0x7F. -/
def chanIndex (f : BitVec 8) : Nat := f.toNat - 0x70

def State.chan (s : State) (die core n : Nat) : Channel := ((s.core die core).chans[n]?).getD Channel.reset

def State.onChan (s : State) (die core n : Nat) (f : Channel → Channel) : State :=
  s.onCore die core fun k => { k with chans := modifyVec k.chans n f }

def State.stream (s : State) (die core e : Nat) : Stream := ((s.core die core).streams[e]?).getD Stream.reset

def State.onStream (s : State) (die core e : Nat) (f : Stream → Stream) : State :=
  s.onCore die core fun k => { k with streams := modifyVec k.streams e f }

/-- DIR of a stream's control word: a write stream (R160). -/
def Stream.isWrite (x : Stream) : Bool := x.ctl.getLsbD 3

/-- The rows in an engine: those of its channel, and those of stopped write streams that are still to be stored (R162). -/
def Stream.waiting (x : Stream) : Nat := x.rows.length + (x.tails.map fun t => t.rows.length).sum

/-- The rows a channel's endpoint holds (R153). -/
def State.rowsOf (s : State) (die core n : Nat) : List Row :=
  let ch := s.chan die core n
  match ch.endpoint with
  | .rowQueue => ch.rows
  | .stream e => (s.stream die core e).rows
  | .drainPort => (s.core die core).matrix.drainRows
  | .lockOut _ => []

/-- The rows of a channel's endpoint replaced. -/
def State.setRows (s : State) (die core n : Nat) (rows : List Row) : State :=
  let ch := s.chan die core n
  match ch.endpoint with
  | .rowQueue => s.onChan die core n fun x => { x with rows := rows }
  | .stream e => s.onStream die core e fun x => { x with rows := rows }
  | .drainPort => s.onCore die core fun k => { k with matrix := { k.matrix with drainRows := rows } }
  | .lockOut _ => s

/-- The row a crew's pop returns: the one it claimed at its start, else the oldest that no crew has claimed (R238). -/
def headFor (uid : Nat) (rows : List Row) : Option Nat :=
  (rows.findIdx? fun r => r.claimed = some uid).or (rows.findIdx? fun r => r.claimed = none)

/-- Drains bound to a channel that are queued or held by the drain unit (R158). -/
def drainOn (n : Nat) (e : MatEntry) : Bool :=
  match e.cmd with
  | .drain d => d.chan = n
  | _ => false

def Matrix.drainsOn (m : Matrix) (n : Nat) : Bool :=
  m.queue.any (drainOn n) || (m.drainActive.map (drainOn n)).getD false || (m.drainPending.map (drainOn n)).getD false

/-- Whether an empty endpoint may still give a row: a pop from it stalls, and otherwise it raises detail 4 (R154). -/
def State.mayGive (s : State) (die core n : Nat) : Bool :=
  match (s.chan die core n).endpoint with
  | .rowQueue => true
  | .stream e =>
    let x := s.stream die core e
    !x.isWrite && (x.state = .ready || x.state = .running)
  | .drainPort => true
  | .lockOut _ => false

/-- A crew pops a row (R115, R154). -/
def State.popRow (s : State) (c : Crew) (n : Nat) : Eff (Row × State) :=
  let d := c.place.die
  let k := c.place.core
  let rows := s.rowsOf d k n
  let writes := match (s.chan d k n).endpoint with
                | .stream e => (s.stream d k e).isWrite
                | .lockOut _ => true
                | _ => false
  if writes then vecFault 4
  else
    match headFor c.uid rows with
    | none => if s.mayGive d k n then stalled else vecFault 4
    | some i =>
      match rows[i]? with
      | none => stalled
      | some r => if r.width != c.lanes then vecFault 4 else .ok (r, s.setRows d k n (rows.eraseIdx i))

/-- Whether a crew's push finds room, stalls, or is refused with detail 4 (R115, R154). -/
def State.pushReady (s : State) (c : Crew) (n : Nat) : Eff Unit :=
  let d := c.place.die
  let k := c.place.core
  match (s.chan d k n).endpoint with
  | .rowQueue => if (s.chan d k n).rows.length < 8 then .ok () else stalled
  | .stream e =>
    let x := s.stream d k e
    if !x.isWrite || x.state != .running || x.width != c.lanes then vecFault 4
    else if x.waiting < 4 then .ok () else stalled
  | _ => vecFault 4

/-- A row pushed by a crew: void outside ev (R22, R114). -/
def Crew.makeRow (c : Crew) (ev : Mask) (f : Nat → Nat) (marks : Mask) (tag : BitVec 8) : Row :=
  { width := c.lanes, words := (List.range c.lanes).map fun l => if ev.getLsbD l then BitVec.ofNat 32 (f l) else 0
    void := c.allLanes &&& ~~~ev, marks := marks &&& ev, tag := tag, de := 0, berthTag := c.place.berth, claimed := none }

/-- The row enters the channel. -/
def State.pushRow (s : State) (c : Crew) (n : Nat) (r : Row) : State :=
  s.setRows c.place.die c.place.core n (s.rowsOf c.place.die c.place.core n ++ [r])

/-! ## The tensor form (R117, R118) -/

/-- The shape of a handle of the crew's region; a handle that is not declared has extent 1 and stride 0 everywhere (R276). -/
def State.shape (s : State) (die region n : Nat) : Shape :=
  (((s.die die).region region).bind fun r => r.cfg.shapes[n]?).getD Shape.unit

def Shape.extent (h : Shape) (i : Nat) : Nat := (h.ext[i]?).getD 1
def Shape.strideOf (h : Shape) (i : Nat) : Int := (h.stride[i]?).getD 0

/-- The number of points of a shape. -/
def Shape.points (h : Shape) : Nat := h.extent 0 * h.extent 1 * h.extent 2 * h.extent 3

/-- The index vector of point k, dimension 0 varying fastest. -/
def Shape.index (h : Shape) (k : Nat) : List Nat :=
  let k1 := k / h.extent 0
  let k2 := k1 / h.extent 1
  [k % h.extent 0, k1 % h.extent 1, k2 % h.extent 2, k2 / h.extent 2]

/-- The offset of point k: the sum of index times stride (R117). -/
def Shape.offset (h : Shape) (k : Nat) : Int :=
  (h.index k).zipIdx.foldl (fun a p => a + (p.1 : Int) * h.strideOf p.2) 0

/-- The offsets of the steps of a word: those of the shape in c with T set, else the single offset 0; more than 256
steps fault with detail 1 (R118). -/
def State.stepOffsets (s : State) (c : Crew) (t : Bool) (f : BitVec 8) : Eff (List Int) :=
  if t then
    let h := s.shape c.place.die c.region (f.toNat - 0x60)
    if h.points ≤ 256 then .ok ((List.range h.points).map h.offset) else vecFault 1
  else .ok [0]

/-- A step's register, which must lie in v0 to v255 with its pair (R118). -/
def stepReg (base : Nat) (o : Int) : Eff Nat :=
  let r := (base : Int) + o
  if 0 ≤ r && r ≤ 255 then .ok r.toNat else vecFault 2

end Sys2Proof.Machine
end

