-- ==== Sys2Proof/Machine/Engines.lean ====
section
/-! DEFINITION. What copy channels, streams and the weir copy unit share: the identity they act under, the checks of a
span of bytes, its reading and its landing, and the records of the faults they meet (R142, R143, R157, R159, R353). -/

namespace Sys2Proof.Machine

/-- The identity under which an engine works for a crew. -/
def Crew.agent (c : Crew) : Agent :=
  { place := c.place, uid := some c.uid, region := c.region, privBase := c.privBase, privSize := c.privSize
    cid := c.cid, origin := c.origin 0 0 }

def Agent.accessor (a : Agent) : Accessor :=
  { die := a.place.die, core := a.place.core, region := a.region, privBase := a.privBase, privSize := a.privSize }

/-- A span cut where it crosses a page of 64 KiB. -/
def spanParts (a : W64) (n : Nat) : List (W64 × Nat) :=
  let m := min n (65536 - a.toNat % 65536)
  if n = 0 then [] else if m = n then [(a, n)] else [(a, m), (a + BitVec.ofNat 64 m, n - m)]

/-- The checks of R142 on every byte of a span: its places, or the detail and address of the first part that fails. -/
def State.spanPlaces (s : State) (w : Accessor) (k : Kind) (a : W64) (n : Nat) : Except (Nat × W64) (List (Place × Nat)) :=
  (spanParts a n).mapM fun p =>
    match s.check w k p.1 p.2 1 with
    | .ok q => .ok (q, p.2)
    | .error d => .error (d, p.1)

/-- The places of several spans, in order. -/
def State.spansPlaces (s : State) (w : Accessor) (k : Kind) (spans : List (W64 × Nat)) :
    Except (Nat × W64) (List (Place × Nat)) := do
  let ps ← spans.mapM fun p => s.spanPlaces w k p.1 p.2
  .ok ps.flatten

/-- The bytes of a span. -/
def State.spanBytes (s : State) (die : Nat) (ps : List (Place × Nat)) : List Byte :=
  ps.flatMap fun p => s.readBytes die p.1 p.2

/-- For each byte of a span, whether it carries an uncorrectable error. -/
def State.spanMarks (s : State) (die : Nat) (ps : List (Place × Nat)) : List Bool :=
  ps.flatMap fun p => (List.range p.2).map fun i => s.placeMarked die (p.1.plus i) 1

/-- What the reading of a span does beside returning its bytes (R320, R403). -/
def State.observeSpan (s : State) (die : Nat) (ps : List (Place × Nat)) : State :=
  ps.foldl (fun t p => t.observe die p.1 p.2) s

/-- A place's byte is marked (R143). -/
def State.markPlace (s : State) (p : Place) : State :=
  match p with
  | .pa pa _ _ => s.setMark pa
  | .chip k => s.setMark k
  | .barge _ _ => s

/-- Bytes landed on a span, with the marks that they carry (R143). -/
def State.landSpan (s : State) (die : Nat) : List (Place × Nat) → List Byte → List Bool → State
  | [], _, _ => s
  | (p, n) :: rest, bs, ms =>
    let s1 := s.engineBytes die p (bs.take n)
    let s2 := (ms.take n).zipIdx.foldl (fun t m => if m.1 then t.markPlace (p.plus m.2) else t) s1
    s2.landSpan die rest (bs.drop n) (ms.drop n)

/-- The origin of a fault that an agent's work meets. -/
def Agent.fault (a : Agent) (cause detail : Nat) : W64 :=
  a.origin ||| (BitVec.ofNat 64 cause <<< 25) ||| (BitVec.ofNat 64 detail <<< 21)

/-- A fault record for an agent's work. Its crew goes on, and collects service needed for details 4 and 5 (R159, R353). -/
def State.agentFault (s : State) (a : Agent) (detail : Nat) (infos : List W64) : State :=
  let seq := s.evseqOf a.place.die
  let s1 := s.record a.place.die (a.fault 6 detail) false false infos
  match a.uid with
  | some u =>
    if (detail = 4 || detail = 5) && !s.isFatal a.place.die then
      s1.onCrew u fun c => { c with service := c.service ++ [seq] }
    else s1
  | none => s1

/-- A fault record of another cause for an agent's work (R206, R221). -/
def State.agentRecord (s : State) (a : Agent) (cause detail : Nat) (infos : List W64) : State :=
  s.record a.place.die (a.fault cause detail) false false infos

/-- The agent works for the crew of an identity. -/
def Agent.isCrew (a : Agent) (uid : Nat) : Bool := a.uid == some uid

/-- The order point that holds the accesses of a span (R340, R376). -/
def State.spanHeldAt (s : State) (cid : BitVec 16) (ps : List (Place × Nat)) : Option (Nat × PointKind × Nat) :=
  s.pointsHeld cid ((ps.flatMap fun p => p.1.lines p.2).filterMap s.pointOf)

def State.spanHeld (s : State) (cid : BitVec 16) (ps : List (Place × Nat)) : Bool := (s.spanHeldAt cid ps).isSome

/-- An engine that waits at an order point for the full log holds back every later access that reaches the point (R376). -/
def State.spanWaits (s : State) (cid : BitVec 16) (ps : List (Place × Nat)) : State :=
  match s.spanHeldAt cid ps with
  | some q => s.blockPoint q.1 q.2.1 q.2.2 0 cid
  | none => s

/-- The accesses of a span at their order points, one per 128-byte line (R336). -/
def State.spanServed (s : State) (cid : BitVec 16) (ps : List (Place × Nat)) : State :=
  ps.foldl (fun t p => t.servedSpan p.1 p.2 cid) s

/-- The engines of a region in a phase stand at their units (R354, R360); under a debug stop they go on (R371). -/
def RegionPhase.halts (p : RegionPhase) : Bool :=
  match p with
  | .preempting => true
  | .flushing _ => true
  | .stopped => true
  | .running => false
  | .stopping => false

/-- The region on a core is being pre-empted or flushed: its engines stand at their units (R354, R360). -/
def State.coreStopped (s : State) (die core : Nat) : Bool :=
  match (s.core die core).region.bind fun n => (s.die die).region n with
  | some r => r.phase.halts
  | none => false

/-- The base address of a buffer of a core's tile store (R170). -/
def bufferAddr (die core buf : Nat) : W64 :=
  BitVec.ofNat 64 (0xC0 * 2 ^ 56 + die * 2 ^ 52 + core * 2 ^ 46 + 16384 * buf)

/-- A buffer's full bit (R170). -/
def State.isFull (s : State) (die core buf : Nat) : Bool := (s.core die core).full.getLsbD buf

def State.setFull (s : State) (die core buf : Nat) (v : Bool) : State :=
  s.onCore die core fun k =>
    { k with full := if v then k.full ||| (1#256 <<< buf) else k.full &&& ~~~(1#256 <<< buf) }

/-- The matrix engine still holds a command: queued, running or in the drain unit (R175). -/
def Matrix.holds (m : Matrix) (r : OpRef) : Bool :=
  let is (e : MatEntry) : Bool := e.op = r
  m.queue.any is || (m.running.map fun x => is x.entry).getD false || (m.drainActive.map is).getD false ||
    (m.drainPending.map is).getD false

end Sys2Proof.Machine
end

