-- ==== Sys2Proof/Machine/Scalar.lean ====
section
/-! DEFINITION. The scalar integer, immediate and float instructions (R85 to R91). -/

namespace Sys2Proof.Machine

/-! ## Shared forms -/

/-- The width and signedness that an integer ety names; ety 0 is signed 64 bits (R87). -/
def scalarType (ety : BitVec 4) : Nat × Bool :=
  if ety = 0 then (64, true) else if ety.toNat ≤ 4 then (8 * 2 ^ (ety.toNat - 1), true) else (8 * 2 ^ (ety.toNat - 5), false)

/-- An exact operation on two registers at the ety's type, wrapped or clamped, and extended (R87, R60). -/
def scalarArith (ety : BitVec 4) (sat : BitVec 1) (op : Int → Int → Int) (x y : W64) : W64 :=
  let t := scalarType ety
  extend t.2 t.1 (fitInt t.2 t.1 (sat = 1) (op (intOf t.2 t.1 x.toNat) (intOf t.2 t.1 y.toNat)))

/-- The shift amount y[5:0] (R87). -/
def shiftBy (y : W64) : Nat := (y.extractLsb' 0 6).toNat

/-- 1 when a relation holds, else 0. -/
def flagWord (b : Bool) : W64 := if b then 1 else 0

def divSigned (x y : W64) : W64 := if y = 0 then -1 else x.sdiv y
def divUnsigned (x y : W64) : W64 := if y = 0 then -1 else x / y
def remSigned (x y : W64) : W64 := if y = 0 then x else x.srem y
def remUnsigned (x y : W64) : W64 := if y = 0 then x else x % y

/-- The high half of the exact product, signed or unsigned (R87). -/
def mulHigh (signed : Bool) (x y : W64) : W64 :=
  BitVec.ofInt 64 ((intOf signed 64 x.toNat * intOf signed 64 y.toNat) / 2 ^ 64)

/-- A register-form instruction of two sources. -/
def scalarOp2 (w : RegForm) (s : State) (f : W64 → W64 → W64) : Host.Outcome State Fault Refusal :=
  scalarStep w.guard w.d s fun c => f (c.sreg w.a) (c.sreg w.b)

/-- A register-form instruction of one source. -/
def scalarOp1 (w : RegForm) (s : State) (f : W64 → W64) : Host.Outcome State Fault Refusal :=
  scalarStep w.guard w.d s fun c => f (c.sreg w.a)

/-- imm31 sign-extended to 64 bits (R17). -/
def immSigned (w : ImmForm) : W64 := w.imm.signExtend 64

/-- An immediate-form instruction of one source and a signed immediate. -/
def scalarImm (w : ImmForm) (s : State) (f : W64 → W64 → W64) : Host.Outcome State Fault Refusal :=
  scalarStep w.guard w.d s fun c => f (c.sreg w.a) (immSigned w)

/-! ## Integer register forms (R87, R88) -/

/-- The sum of two scalar registers, wrapped or saturated to the element type (R87). -/
def execAdd (w : RegForm) (s : State) : Host.Outcome State Fault Refusal :=
  scalarOp2 w s (scalarArith w.ety w.sat fun x y => x + y)

/-- The difference (R87). -/
def execSub (w : RegForm) (s : State) : Host.Outcome State Fault Refusal :=
  scalarOp2 w s (scalarArith w.ety w.sat fun x y => x - y)

/-- The product (R87). -/
def execMul (w : RegForm) (s : State) : Host.Outcome State Fault Refusal :=
  scalarOp2 w s (scalarArith w.ety w.sat fun x y => x * y)

/-- Bits 127:64 of the signed product (R87). -/
def execMulh (w : RegForm) (s : State) : Host.Outcome State Fault Refusal :=
  scalarOp2 w s (mulHigh true)

/-- Bits 127:64 of the unsigned product (R87). -/
def execMulhu (w : RegForm) (s : State) : Host.Outcome State Fault Refusal :=
  scalarOp2 w s (mulHigh false)

/-- The signed quotient, truncated toward zero (R88). -/
def execDiv (w : RegForm) (s : State) : Host.Outcome State Fault Refusal :=
  scalarOp2 w s divSigned

/-- The unsigned quotient (R88). -/
def execDivu (w : RegForm) (s : State) : Host.Outcome State Fault Refusal :=
  scalarOp2 w s divUnsigned

/-- The signed remainder, with the sign of the dividend (R88). -/
def execRem (w : RegForm) (s : State) : Host.Outcome State Fault Refusal :=
  scalarOp2 w s remSigned

/-- The unsigned remainder (R88). -/
def execRemu (w : RegForm) (s : State) : Host.Outcome State Fault Refusal :=
  scalarOp2 w s remUnsigned

/-- Bitwise and (R87). -/
def execAnd (w : RegForm) (s : State) : Host.Outcome State Fault Refusal :=
  scalarOp2 w s fun x y => x &&& y

/-- Bitwise or (R87). -/
def execOr (w : RegForm) (s : State) : Host.Outcome State Fault Refusal :=
  scalarOp2 w s fun x y => x ||| y

/-- Bitwise exclusive or (R87). -/
def execXor (w : RegForm) (s : State) : Host.Outcome State Fault Refusal :=
  scalarOp2 w s fun x y => x ^^^ y

/-- x and not y (R87). -/
def execAndn (w : RegForm) (s : State) : Host.Outcome State Fault Refusal :=
  scalarOp2 w s fun x y => x &&& ~~~y

/-- Left shift by y[5:0] (R87). -/
def execShl (w : RegForm) (s : State) : Host.Outcome State Fault Refusal :=
  scalarOp2 w s fun x y => x <<< shiftBy y

/-- Right shift, zeros entering (R87). -/
def execShr (w : RegForm) (s : State) : Host.Outcome State Fault Refusal :=
  scalarOp2 w s fun x y => x >>> shiftBy y

/-- Right shift, bit 63 entering (R87). -/
def execSra (w : RegForm) (s : State) : Host.Outcome State Fault Refusal :=
  scalarOp2 w s fun x y => x.sshiftRight (shiftBy y)

/-- Left rotation by y[5:0] (R87). -/
def execRot (w : RegForm) (s : State) : Host.Outcome State Fault Refusal :=
  scalarOp2 w s fun x y => x.rotateLeft (shiftBy y)

/-- The smaller operand, signed (R87). -/
def execMin (w : RegForm) (s : State) : Host.Outcome State Fault Refusal :=
  scalarOp2 w s fun x y => if x.sle y then x else y

/-- The larger operand, signed (R87). -/
def execMax (w : RegForm) (s : State) : Host.Outcome State Fault Refusal :=
  scalarOp2 w s fun x y => if x.sle y then y else x

/-- The smaller operand, unsigned (R87). -/
def execMinu (w : RegForm) (s : State) : Host.Outcome State Fault Refusal :=
  scalarOp2 w s fun x y => if x ≤ y then x else y

/-- The larger operand, unsigned (R87). -/
def execMaxu (w : RegForm) (s : State) : Host.Outcome State Fault Refusal :=
  scalarOp2 w s fun x y => if x ≤ y then y else x

/-- Leading zero bits (R87). -/
def execClz (w : RegForm) (s : State) : Host.Outcome State Fault Refusal :=
  scalarOp1 w s fun x => BitVec.ofNat 64 (clzOf 64 x.toNat)

/-- Trailing zero bits (R87). -/
def execCtz (w : RegForm) (s : State) : Host.Outcome State Fault Refusal :=
  scalarOp1 w s fun x => BitVec.ofNat 64 (ctzOf 64 x.toNat)

/-- One bits (R87). -/
def execPopc (w : RegForm) (s : State) : Host.Outcome State Fault Refusal :=
  scalarOp1 w s fun x => BitVec.ofNat 64 (onesOf 64 x.toNat)

/-- The low bits of the ety's width, sign-extended (R87). -/
def execSext (w : RegForm) (s : State) : Host.Outcome State Fault Refusal :=
  scalarOp1 w s fun x => extend true (scalarType w.ety).1 x.toNat

/-- The low bits of the ety's width, zero-extended (R87). -/
def execZext (w : RegForm) (s : State) : Host.Outcome State Fault Refusal :=
  scalarOp1 w s fun x => extend false (scalarType w.ety).1 x.toNat

/-- x if z is not zero, else y (R87). -/
def execSel (w : RegForm) (s : State) : Host.Outcome State Fault Refusal :=
  scalarStep w.guard w.d s fun c => if c.sreg w.c != 0 then c.sreg w.a else c.sreg w.b

/-- x = y (R87). -/
def execCmpeq (w : RegForm) (s : State) : Host.Outcome State Fault Refusal :=
  scalarOp2 w s fun x y => flagWord (x == y)

/-- x is not y (R87). -/
def execCmpne (w : RegForm) (s : State) : Host.Outcome State Fault Refusal :=
  scalarOp2 w s fun x y => flagWord (x != y)

/-- x < y, signed (R87). -/
def execCmplt (w : RegForm) (s : State) : Host.Outcome State Fault Refusal :=
  scalarOp2 w s fun x y => flagWord (x.slt y)

/-- x < y, unsigned (R87). -/
def execCmpltu (w : RegForm) (s : State) : Host.Outcome State Fault Refusal :=
  scalarOp2 w s fun x y => flagWord (x.ult y)

/-- x at most y, signed (R87). -/
def execCmple (w : RegForm) (s : State) : Host.Outcome State Fault Refusal :=
  scalarOp2 w s fun x y => flagWord (x.sle y)

/-- x at most y, unsigned (R87). -/
def execCmpleu (w : RegForm) (s : State) : Host.Outcome State Fault Refusal :=
  scalarOp2 w s fun x y => flagWord (x.ule y)

/-! ## Integer immediate forms (R89) -/

/-- s[a] + i (R89). -/
def execAddi (w : ImmForm) (s : State) : Host.Outcome State Fault Refusal :=
  scalarImm w s fun x i => x + i

/-- The low 64 bits of s[a] times i (R89). -/
def execMuli (w : ImmForm) (s : State) : Host.Outcome State Fault Refusal :=
  scalarImm w s fun x i => x * i

/-- s[a] and i (R89). -/
def execAndi (w : ImmForm) (s : State) : Host.Outcome State Fault Refusal :=
  scalarImm w s fun x i => x &&& i

/-- s[a] or i (R89). -/
def execOri (w : ImmForm) (s : State) : Host.Outcome State Fault Refusal :=
  scalarImm w s fun x i => x ||| i

/-- s[a] xor i (R89). -/
def execXori (w : ImmForm) (s : State) : Host.Outcome State Fault Refusal :=
  scalarImm w s fun x i => x ^^^ i

/-- As SHL by n (R89). -/
def execShli (w : ImmForm) (s : State) : Host.Outcome State Fault Refusal :=
  scalarImm w s fun x i => x <<< shiftBy i

/-- As SHR by n (R89). -/
def execShri (w : ImmForm) (s : State) : Host.Outcome State Fault Refusal :=
  scalarImm w s fun x i => x >>> shiftBy i

/-- As SRA by n (R89). -/
def execSrai (w : ImmForm) (s : State) : Host.Outcome State Fault Refusal :=
  scalarImm w s fun x i => x.sshiftRight (shiftBy i)

/-- 1 if s[a] = i (R89). -/
def execCmpeqi (w : ImmForm) (s : State) : Host.Outcome State Fault Refusal :=
  scalarImm w s fun x i => flagWord (x == i)

/-- 1 if s[a] < i, signed (R89). -/
def execCmplti (w : ImmForm) (s : State) : Host.Outcome State Fault Refusal :=
  scalarImm w s fun x i => flagWord (x.slt i)

/-- 1 if s[a] < i, with i sign-extended and then compared unsigned (R89). -/
def execCmpltui (w : ImmForm) (s : State) : Host.Outcome State Fault Refusal :=
  scalarImm w s fun x i => flagWord (x.ult i)

/-- The immediate (R89). -/
def execLi (w : ImmForm) (s : State) : Host.Outcome State Fault Refusal :=
  scalarImm w s fun _ i => i

/-- s[a] with 16 of its bits replaced: bits 17:16 of the immediate say which, bits 15:0 are the new ones (R89). -/
def lihWord (imm : BitVec 31) (x : W64) : W64 :=
  let p := 16 * (imm.extractLsb' 16 2).toNat
  (x &&& ~~~(0xFFFF#64 <<< p)) ||| ((imm.extractLsb' 0 16).setWidth 64 <<< p)

/-- s[a] with bits 16p+15 to 16p replaced by h (R89). -/
def execLih (w : ImmForm) (s : State) : Host.Outcome State Fault Refusal :=
  scalarImm w s fun x _ => lihWord w.imm x

/-! ## Scalar floats (R90, R91) -/

/-- The format of a scalar float ety, 9 to 12. -/
def scalarFmt (ety : BitVec 4) : Fmt :=
  if ety = 9 then .f16 else if ety = 10 then .bf16 else if ety = 11 then .f32 else .f64

/-- A scalar register read as a float: the low bits of the format's width (R90). -/
def floatOf (f : Fmt) (x : W64) : XReal := f.decode (x.toNat % 2 ^ f.width)

/-- The relations of FCMP and VCMP by code (R91, R128). -/
def relHolds (rel : Nat) (x y : XReal) : Bool :=
  if rel = 1 then x.eqv y
  else if rel = 2 then !x.eqv y
  else if rel = 3 then x.lt y
  else if rel = 4 then x.lt y || x.eqv y
  else x.isNan || y.isNan

/-- A float instruction: an exact value of the sources, rounded once (R90). -/
def floatStep (w : RegForm) (s : State) (f : XReal → XReal → XReal → XReal) : Host.Outcome State Fault Refusal :=
  scalarStep w.guard w.d s fun c =>
    let g := scalarFmt w.ety
    BitVec.ofNat 64 (g.round (Rnd.of w.rnd) (w.sat = 1)
      (f (floatOf g (c.sreg w.a)) (floatOf g (c.sreg w.b)) (floatOf g (c.sreg w.c))))

/-- Whether the word's rounding mode is RD, which decides the sign of an exact zero sum (R62). -/
def rndDown (r : BitVec 3) : Bool := (Rnd.of r).isRd

/-- The sum (R90). -/
def execFadd (w : RegForm) (s : State) : Host.Outcome State Fault Refusal :=
  floatStep w s fun x y _ => x.add (rndDown w.rnd) y

/-- The difference (R90). -/
def execFsub (w : RegForm) (s : State) : Host.Outcome State Fault Refusal :=
  floatStep w s fun x y _ => x.sub (rndDown w.rnd) y

/-- The product (R90). -/
def execFmul (w : RegForm) (s : State) : Host.Outcome State Fault Refusal :=
  floatStep w s fun x y _ => x.mul y

/-- x times y plus z, rounded once (R90). -/
def execFfma (w : RegForm) (s : State) : Host.Outcome State Fault Refusal :=
  floatStep w s fun x y z => (x.mul y).add (rndDown w.rnd) z

/-- The quotient (R90). -/
def execFdiv (w : RegForm) (s : State) : Host.Outcome State Fault Refusal :=
  floatStep w s fun x y _ => x.div y

/-- The square root (R90). -/
def execFsqrt (w : RegForm) (s : State) : Host.Outcome State Fault Refusal :=
  floatStep w s fun x _ _ => x.sqrt

/-- The smaller operand under R62 (R90). -/
def execFmin (w : RegForm) (s : State) : Host.Outcome State Fault Refusal :=
  floatStep w s fun x y _ => if pickMin x y then x else y

/-- The larger operand under R62 (R90). -/
def execFmax (w : RegForm) (s : State) : Host.Outcome State Fault Refusal :=
  floatStep w s fun x y _ => if pickMax x y then x else y

/-- 1 when the relation that fn selects holds (R91). -/
def execFcmp (w : RegForm) (s : State) : Host.Outcome State Fault Refusal :=
  scalarOp2 w s fun x y => flagWord (relHolds w.fn.toNat (floatOf (scalarFmt w.ety) x) (floatOf (scalarFmt w.ety) y))

/-- s[a] converted from the type whose code stands in fn to the type that ety names, zero-extended (R91, R72, R90). -/
def execFcvt (w : RegForm) (s : State) : Host.Outcome State Fault Refusal :=
  scalarStep w.guard w.d s fun c =>
    match etyType (w.fn.setWidth 4) 0, etyType w.ety 0 with
    | some src, some dst =>
      BitVec.ofNat 64 (convert c.fmts src dst (Rnd.of w.rnd) (w.sat = 1) ((c.sreg w.a).toNat % 2 ^ src.width))
    | _, _ => 0

end Sys2Proof.Machine
end

