-- ==== Sys2Proof/Machine/Transcend.lean ====
section
/-! DEFINITION. The special functions of VSFU and the logarithms of VGUMBEL (R136, R137): the exact real value
passed once through RoundToFormat. A fixed-point approximation with a known error is rounded at both ends of its
interval; when the two ends agree the result is exact, otherwise the precision is raised, and a value left open at
the last precision is a free value of Config (log 7). A fixed-point number x at precision p stands for x / 2^p. -/

namespace Sys2Proof.Machine

/-! ## Fixed-point arithmetic -/

def fxMul (p : Nat) (x y : Int) : Int := (x * y).fdiv (2 ^ p)
def fxDiv (p : Nat) (x y : Int) : Int := (x * 2 ^ p).fdiv y

/-- n / d * 2^e at precision p, rounded down. -/
def fxOf (p : Nat) (neg : Bool) (n d : Nat) (e : Int) : Int :=
  let s : Int := e + p
  let m : Int := ((n * pow2Num s) / (d * pow2Den s) : Nat)
  if neg then -m else m

/-- The Taylor series of the exponential at |x| ≤ 1: `k` terms are left, `i` is the next divisor. -/
def fxExpAux (p : Nat) (x : Int) : Nat → Nat → Int → Int → Int
  | 0, _, _, acc => acc
  | k + 1, i, t, acc =>
    if t = 0 then acc
    else
      let t' := (fxMul p t x).tdiv i
      fxExpAux p x k (i + 1) t' (acc + t')

def fxExpSmall (p : Nat) (x : Int) : Int := fxExpAux p x p 1 (2 ^ p) (2 ^ p)

/-- The sum of (-1)^j or 1 times t^(2j+1) / (2j+1). -/
def fxAtanAux (p : Nat) (t2 : Int) (alt : Bool) : Nat → Nat → Int → Int → Int
  | 0, _, _, acc => acc
  | k + 1, i, u, acc =>
    if u = 0 then acc
    else
      let v := u.tdiv i
      let u' := fxMul p u t2
      fxAtanAux p t2 alt k (i + 2) (if alt then -u' else u') (acc + v)

/-- atanh t for |t| ≤ 1/3, and atan t for |t| ≤ 1/5. -/
def fxAtanh (p : Nat) (t : Int) : Int := fxAtanAux p (fxMul p t t) false p 1 t 0
def fxAtan (p : Nat) (t : Int) : Int := fxAtanAux p (fxMul p t t) true p 1 t 0

def fxLn2 (p : Nat) : Int := 2 * fxAtanh p (fxDiv p 1 3)
def fxPi (p : Nat) : Int := 16 * fxAtan p (fxDiv p 1 5) - 4 * fxAtan p (fxDiv p 1 239)

/-- The exponential of x, by x = k ln 2 + r. -/
def fxExp (p : Nat) (x : Int) : Int :=
  let l := fxLn2 p
  let k := x.fdiv l
  let y := fxExpSmall p (x - k * l)
  if 0 ≤ k then y * 2 ^ k.toNat else y.fdiv (2 ^ (-k).toNat)

/-- The natural logarithm of n / d * 2^e above 0. -/
def fxLn (p : Nat) (n d : Nat) (e : Int) : Int :=
  let k := floorLog2 n d e
  let m := fxOf p false n d (e - k)
  2 * fxAtanh p (fxDiv p (m - 2 ^ p) (m + 2 ^ p)) + k * fxLn2 p

/-- The sine of r, |r| ≤ 2, by its Taylor series. -/
def fxSinAux (p : Nat) (r2 : Int) : Nat → Nat → Int → Int → Int
  | 0, _, _, acc => acc
  | k + 1, i, t, acc =>
    if t = 0 then acc
    else
      let t' := -((fxMul p t r2).tdiv (i * (i + 1)))
      fxSinAux p r2 k (i + 2) t' (acc + t')

def fxSinSmall (p : Nat) (r : Int) : Int := fxSinAux p (fxMul p r r) p 2 r r
def fxCosSmall (p : Nat) (r : Int) : Int := fxSinAux p (fxMul p r r) p 1 (2 ^ p) (2 ^ p)

/-- The sine of x + q quarter turns. -/
def fxSin (p : Nat) (x : Int) (q : Int) : Int :=
  let h := (fxPi p).fdiv 2
  let k := x.fdiv h
  let r := x - k * h
  match ((k + q) % 4).toNat with
  | 0 => fxSinSmall p r
  | 1 => fxCosSmall p r
  | 2 => -fxSinSmall p r
  | _ => -fxCosSmall p r

/-! ## The functions -/

/-- The functions of VSFU by OP (R136). -/
inductive Sfu where
  | rcp
  | rsqrt
  | exp2
  | log2
  | sin
  | cos
  | tanh
  | sigm
  deriving DecidableEq, Repr

def Sfu.of (op : Nat) : Sfu :=
  if op = 0 then .rcp else if op = 1 then .rsqrt else if op = 2 then .exp2 else if op = 3 then .log2
  else if op = 4 then .sin else if op = 5 then .cos else if op = 6 then .tanh else .sigm

/-- The special inputs of R136: the table's rows, and the NaN inputs. -/
def sfuSpecial (f : Sfu) (x : XReal) : Option XReal :=
  let one : XReal := .num false 1 1 0
  let zeroP : XReal := .num false 0 1 0
  match x with
  | .nan => some .nan
  | .inf s =>
    match f with
    | .rcp => some (.num s 0 1 0)
    | .rsqrt => some (if s then .nan else zeroP)
    | .exp2 => some (if s then zeroP else .inf false)
    | .log2 => some (if s then .nan else .inf false)
    | .sin => some .nan
    | .cos => some .nan
    | .tanh => some (.num s 1 1 0)
    | .sigm => some (if s then zeroP else one)
  | .num s n _ _ =>
    if n = 0 then
      match f with
      | .rcp => some (.inf s)
      | .rsqrt => some (.inf s)
      | .exp2 => some one
      | .log2 => some (.inf true)
      | .sin => some (.num s 0 1 0)
      | .cos => some one
      | .tanh => some (.num s 0 1 0)
      | .sigm => some (.num false 1 2 0)
    else if s && (f == .rsqrt || f == .log2) then some .nan
    else none

/-- The value, or a value that rounds as it does, where it is rational or so far out that every format rounds it
alike; n / d * 2^e is the magnitude, above 0. -/
def sfuClosed (f : Sfu) (neg : Bool) (n d : Nat) (e : Int) : Option XReal :=
  let l := floorLog2 n d e
  match f with
  | .rcp => some (.num neg d n (-e))
  | .rsqrt => some (sqrtNum d n (-e))
  | .exp2 =>
    if 10 ≤ l then some (.num false 1 1 (if neg then -1024 else 1024))
    else if n * pow2Num e % (d * pow2Den e) = 0 then
      let k : Int := (n * pow2Num e / (d * pow2Den e) : Nat)
      some (.num false 1 1 (if neg then -k else k))
    else none
  | .log2 => if n * pow2Den l * pow2Num e = d * pow2Num l * pow2Den e then some (.ofInt l) else none
  | .tanh => if 8 ≤ l then some (.num neg (2 ^ 300 - 1) 1 (-300)) else none
  | .sigm =>
    if 9 ≤ l then some (if neg then .num false 1 1 (-500) else .num false (2 ^ 300 - 1) 1 (-300)) else none
  | _ => none

/-- The function at precision p, within 2^64 units; the magnitude of x is n / d * 2^e. -/
def sfuFx (p : Nat) (f : Sfu) (neg : Bool) (n d : Nat) (e : Int) : Int :=
  let x := fxOf p neg n d e
  match f with
  | .exp2 =>
    let k := x.fdiv (2 ^ p)
    let y := fxExpSmall p (fxMul p (x - k * 2 ^ p) (fxLn2 p))
    if 0 ≤ k then y * 2 ^ k.toNat else y.fdiv (2 ^ (-k).toNat)
  | .log2 => fxDiv p (fxLn p n d e) (fxLn2 p)
  | .sin => fxSin p x 0
  | .cos => fxSin p x 1
  | .tanh =>
    let y := fxExp p (-(2 * x.natAbs))
    let t := fxDiv p (2 ^ p - y) (2 ^ p + y)
    if neg then -t else t
  | .sigm => fxDiv p (2 ^ p) (2 ^ p + fxExp p (-x))
  | _ => 0

/-- The number of spare bits that cover the error of the approximations: 64, and the integer bits of x or of 2^x. -/
def sfuSpare (n d : Nat) (e : Int) : Nat := 1100 + (floorLog2 n d e).toNat

/-- An integer at precision p as an exact value. -/
def fxReal (p : Nat) (x : Int) : XReal := .num (x < 0) x.natAbs 1 (-(p : Int))

/-- The rounded value at precision p with `spare` bits of error, when both ends of the interval round alike. -/
def roundFx (fmt : Fmt) (r : Rnd) (sat : Bool) (p spare : Nat) (x : Int) : Option Nat :=
  let lo := fmt.round r sat (fxReal p (x - 2 ^ spare))
  let hi := fmt.round r sat (fxReal p (x + 2 ^ spare))
  if lo = hi then some lo else none

/-- Rounds an approximation at rising precisions. -/
def roundAt (fmt : Fmt) (r : Rnd) (sat : Bool) (spare : Nat) (f : Nat → Int) : List Nat → Option Nat
  | [] => none
  | p :: ps =>
    match roundFx fmt r sat (p + spare) spare (f (p + spare)) with
    | some c => some c
    | none => roundAt fmt r sat spare f ps

/-- The precisions tried, above the spare bits. -/
def precisions : List Nat := [64, 128, 512, 1024]

/-- VSFU on one value (R136): the code, and a free value where every precision leaves it open. -/
def sfu (f : Sfu) (fmt : Fmt) (r : Rnd) (sat : Bool) (x : XReal) (seed : Nat) : Nat :=
  match sfuSpecial f x with
  | some y => fmt.round r sat y
  | none =>
    match x with
    | .num neg n d e =>
      match sfuClosed f neg n d e with
      | some y => fmt.round r sat y
      | none =>
        match roundAt fmt r sat (sfuSpare n d e) (fun p => sfuFx p f neg n d e) precisions with
        | some c => c
        | none => (Config.undecidedReal seed (fmt.round .rne false x)).toNat % 2 ^ fmt.width
    | _ => fmt.nanCode

/-! ## Gumbel noise (R137) -/

/-- Mix of R137. -/
def mix (x : W64) : W64 :=
  let x1 := x ^^^ (x >>> 31)
  let x2 := x1 * 0x9A3F5C217B64E8D5
  let x3 := x2 ^^^ (x2 >>> 29)
  let x4 := x3 * 0xC2B71E4D93A56F17
  x4 ^^^ (x4 >>> 32)

/-- -Ln(-Ln(U)) with U = (2h + 1) / 2^25 at precision p, for 0 ≤ h < 2^24. -/
def gumbelFx (h p : Nat) : Int :=
  let l := (fxLn p (2 * h + 1) 1 (-25)).natAbs
  (-1) * fxLn p l 1 (-(p : Int))

/-- G of R137 for the 24 hash bits h: its F32 code. -/
def gumbel (h seed : Nat) : Nat :=
  match roundAt Fmt.f32 .rne false 128 (gumbelFx h) precisions with
  | some c => c
  | none => (Config.undecidedReal seed h).toNat % 2 ^ 32

end Sys2Proof.Machine
end

