-- ==== Sys2Proof/Machine/Elementwise.lean ====
section
/-! DEFINITION. The frame of elementwise vector instructions, with registers, tensor steps and channel operands, and
the element operations (R111 to R118, R120 to R123, R136). -/

namespace Sys2Proof.Machine

/-- What makes one elementwise instruction: whether it is bit-level, the types it takes under ety 0, the sources
beside a that it reads, and the result code of one element from the types and codes of a, b and d. -/
structure VecSpec where
  bit : Bool
  accept : ElemTy → Bool
  useB : Bool
  useD : Bool
  op : ElemTy → ElemTy → ElemTy → Nat → Nat → Nat → Nat

/-- The check of a step's first source: the element type, none for a bit-level instruction (R75). -/
def VecSpec.firstCheck (p : VecSpec) (c : Crew) (w : RegForm) (posA : Nat) (ta : BitVec 8) : Eff (Option ElemTy) := do
  if p.bit then
    checkReserved posA ta
    .ok none
  else (firstType c.fmts w.ety p.accept posA ta).map some

/-- The checks of a step's other sources (R75). -/
def VecSpec.restCheck (p : VecSpec) (c : Crew) (w : RegForm) (t : Option ElemTy) (tb td : BitVec 8) : Eff Unit :=
  match t with
  | none => if p.useB then checkReserved 2 tb else .ok ()
  | some t => do
    if p.useB then checkTyped c.fmts w.ety t 2 tb
    if p.useD then checkTyped c.fmts w.ety t 0 td

/-- Whether a step works on pairs (R113). -/
def pairStep (t : Option ElemTy) (ta : BitVec 8) : Bool :=
  match t with
  | none => tagIs64 ta
  | some t => t.is64

/-- The result of one lane. -/
def VecSpec.lane (p : VecSpec) (t : Option ElemTy) (ta tb td : BitVec 8) (x y z : Nat) : Nat :=
  match t with
  | none =>
    let u : ElemTy := .uint (if tagIs64 ta then 64 else 32)
    p.op u u u x y z % 2 ^ u.width
  | some t =>
    laneMap t.width t.perLane fun e =>
      p.op t (sourceType t tb) (sourceType t td) (elemOf t.width x e) (elemOf t.width y e) (elemOf t.width z e)

/-- The destination tag: the result type's, or the copied one (R77). -/
def resultTag (t : Option ElemTy) (ta : BitVec 8) : BitVec 8 :=
  match t with
  | none => ta
  | some t => t.tag

/-- The registers of one step of a word. -/
structure StepRegs where
  d : Nat
  a : Nat
  b : Nat
  deriving DecidableEq, Repr

/-- The registers of every step, all inside v0 to v255 (R117, R118). -/
def VecSpec.regs (p : VecSpec) (w : RegForm) (useA : Bool) (offs : List Int) : Eff (List StepRegs) :=
  offs.mapM fun o => do
    let d ← stepReg w.d.toNat o
    let a ← if useA then stepReg w.a.toNat o else .ok 0
    let b ← if p.useB then stepReg w.b.toNat o else .ok 0
    .ok ⟨d, a, b⟩

/-- The registers of one step are even where its type makes them pairs (R113, R118). -/
def VecSpec.checkPairs (p : VecSpec) (c : Crew) (w : RegForm) (r : StepRegs) : Eff Unit := do
  let pair := if w.ety = 0 then tagIs64 (c.vreg r.a).tag else ety64 w.ety
  needEven pair r.d
  needEven pair r.a
  needEven (pair && p.useB) r.b

/-- The checks of one step's sources (R75). -/
def VecSpec.checkStep (p : VecSpec) (c : Crew) (w : RegForm) (r : StepRegs) : Eff Unit := do
  let t ← p.firstCheck c w 1 (c.vreg r.a).tag
  p.restCheck c w t (c.vreg r.b).tag (c.vreg r.d).tag

/-- The checks of the single step: its first source, the pairs that the first source's type makes, the other sources
(R75, R113). -/
def VecSpec.checkOne (p : VecSpec) (c : Crew) (w : RegForm) (r : StepRegs) : Eff Unit := do
  let t ← p.firstCheck c w 1 (c.vreg r.a).tag
  p.checkPairs c w r
  p.restCheck c w t (c.vreg r.b).tag (c.vreg r.d).tag

/-- The checks before the first step writes: the tensor form checks every step's pairs and then every step's tags, in
the order in which R118 lists them. -/
def VecSpec.checkAll (p : VecSpec) (c : Crew) (w : RegForm) (rs : List StepRegs) : Eff Unit := do
  if fnT w then
    rs.forM (p.checkPairs c w)
    rs.forM (p.checkStep c w)
  else rs.forM (p.checkOne c w)

/-- The element type of a step that has passed its checks: none for a bit-level instruction, else its first source's own
type, or what ety names for raw bits (R113). -/
def VecSpec.runType (p : VecSpec) (w : RegForm) (ta : BitVec 8) : Option ElemTy :=
  if p.bit then none else some (sourceType ((etyType w.ety 0).getD (.uint 32)) ta)

/-- One step on registers, with its sources and their tags as the earlier steps have left them: the crew after it, and
the registers read and written (R113, R117). -/
def VecSpec.runStep (p : VecSpec) (w : RegForm) (ev : Mask) (acc : Crew × List Nat × List Nat) (r : StepRegs) :
    Eff (Crew × List Nat × List Nat) := do
  let c := acc.1
  let ta := (c.vreg r.a).tag
  let tb := (c.vreg r.b).tag
  let td := (c.vreg r.d).tag
  let t := p.runType w ta
  let pair := pairStep t ta
  let a := c.source r.a pair
  let b := c.source r.b pair
  let z := c.source r.d pair
  a.consume c.lanes ev
  if p.useB then b.consume c.lanes ev
  if p.useD then z.consume c.lanes ev
  .ok (c.writeVec r.d pair ev (fun l => p.lane t ta tb td (a.lane l) (b.lane l) (z.lane l)) (resultTag t ta),
    acc.2.1 ++ regsOf r.a pair ++ (if p.useB then regsOf r.b pair else []) ++ (if p.useD then regsOf r.d pair else []),
    acc.2.2 ++ regsOf r.d pair)

/-- An elementwise word on registers alone, in one step or in the steps of its tensor form. -/
def VecSpec.onRegs (p : VecSpec) (w : RegForm) (s : State) (c : Crew) (ev : Mask) : Eff State := do
  let offs ← s.stepOffsets c (fnT w) w.c
  let rs ← p.regs w true offs
  p.checkAll c w rs
  let x ← rs.foldlM (p.runStep w ev) (c, [], [])
  .ok (s.finishVec x.1 x.2.1 x.2.2)

/-- An elementwise word with a channel operand at d, at a, or at both (R114, R115). -/
def VecSpec.onChans (p : VecSpec) (w : RegForm) (s : State) (c : Crew) (ev : Mask) : Eff State := do
  let popped ← if fnQA w then (s.popRow c (chanIndex w.a)).map some else .ok none
  let s1 := (popped.map Prod.snd).getD s
  if fnQD w then s1.pushReady c (chanIndex w.d)
  let ta := ((popped.map fun x => x.1.tag).getD (c.vreg w.a.toNat).tag)
  let tb := (c.vreg w.b.toNat).tag
  let td := (c.vreg w.d.toNat).tag
  let t ← p.firstCheck c w (if fnQA w then 4 else 1) ta
  if pairStep t ta then vecFault 5
  p.restCheck c w t tb td
  let a := (popped.map fun x => x.1.source).getD (c.source w.a.toNat false)
  let b := c.source w.b.toNat false
  let z := c.source w.d.toNat false
  let ev1 := ev &&& ~~~a.void
  a.consume c.lanes ev1
  if p.useB then b.consume c.lanes ev1
  if p.useD then z.consume c.lanes ev1
  let f := fun l => p.lane t ta tb td (a.lane l) (b.lane l) (z.lane l)
  let reads := (if fnQA w then [] else [w.a.toNat]) ++ (if p.useB then [w.b.toNat] else []) ++
    (if p.useD then [w.d.toNat] else [])
  if fnQD w then
    .ok ((s1.pushRow c (chanIndex w.d) (c.makeRow ev1 f 0 (resultTag t ta))).finishVec c reads [])
  else .ok (s1.finishVec (c.writeVec w.d.toNat false ev1 f (resultTag t ta)) reads [w.d.toNat])

/-- An elementwise word (R113). -/
def vecRun (spec : Crew → VecSpec) (w : RegForm) (s : State) : Host.Outcome State Fault Refusal :=
  anyInstr s fun s c =>
    let ev := guardSet w.guard c
    if fnQD w || fnQA w then (spec c).onChans w s c ev else (spec c).onRegs w s c ev

/-! ## Element operations -/

def acceptIF (t : ElemTy) : Bool := t.narrowIndex.isNone
def acceptI (t : ElemTy) : Bool := t.isInt
def acceptF (t : ElemTy) : Bool := !t.isInt && t.narrowIndex.isNone
def acceptFN (t : ElemTy) : Bool := !t.isInt
def acceptAny (_ : ElemTy) : Bool := true

/-- Arithmetic with an exact integer result and an exact float result, fitted once (R113, R121, R122). R120 allows sat to VABS and
VNEG of integers alone; under ety 0 the word is legal and a's tag may name a float, whose result then takes sat in
RoundToFormat (DESIGN CHOICE, log 90). -/
def arithElem (fms : Vector (BitVec 32) 16) (r : BitVec 3) (sat : Bool) (fi : Int → Int → Int → Int)
    (ff : XReal → XReal → XReal → XReal) (ta tb td : ElemTy) (x y z : Nat) : Nat :=
  match ta.fmt fms with
  | none =>
    let w := ta.width
    fitInt ta.isSigned w sat (fi (intOf ta.isSigned w x) (intOf tb.isSigned w y) (intOf td.isSigned w z))
  | some f => f.round (Rnd.of r) sat (ff (ta.value fms x) (tb.value fms y) (td.value fms z))

/-- The smaller or larger of two elements, as a type and a code (R62, R122). -/
def chooseElem (fms : Vector (BitVec 32) 16) (large : Bool) (p q : ElemTy × Nat) : ElemTy × Nat :=
  let x := p.1.value fms p.2
  let y := q.1.value fms q.2
  if (if large then pickMax x y else pickMin x y) then p else q

/-- A chosen element written in a's type: an integer's code, or its value under a's format (R122). -/
def storeChosen (fms : Vector (BitVec 32) 16) (ta : ElemTy) (p : ElemTy × Nat) : Nat :=
  match ta.fmt fms with
  | none => p.2 % 2 ^ ta.width
  | some f => f.round .rne false (p.1.value fms p.2)

/-- Shifts by an unsigned amount; an amount of w or more clears, or fills with the sign bit (R121). -/
def shlElem (w x n : Nat) : Nat := if w ≤ n then 0 else x * 2 ^ n % 2 ^ w
def shrElem (w x n : Nat) : Nat := if w ≤ n then 0 else x / 2 ^ n
def sraElem (w x n : Nat) : Nat := wrapInt w (intOf true w x / 2 ^ min n w)

/-- |x| with the sign bit of y's code, through RoundToFormat; an unsigned format has no sign bit (R122). -/
def copySignElem (fms : Vector (BitVec 32) 16) (ta tb : ElemTy) (x y : Nat) : Nat :=
  match ta.fmt fms, tb.fmt fms with
  | some f, some g =>
    let neg := g.signed && y / g.signBit % 2 = 1
    let v := (f.decode x).abs
    f.round .rne false (if neg then v.neg else v)
  | _, _ => 0

/-- An elementwise instruction with an exact result of x, y and z (R120). -/
def arithSpec (w : RegForm) (accept : ElemTy → Bool) (useB useD : Bool) (fi : Int → Int → Int → Int)
    (ff : XReal → XReal → XReal → XReal) (c : Crew) : VecSpec :=
  { bit := false, accept := accept, useB := useB, useD := useD, op := arithElem c.fmts w.rnd (w.sat = 1) fi ff }

/-- An elementwise instruction on the codes of x and y in x's type (R120). -/
def codeSpec (accept : ElemTy → Bool) (useB : Bool) (f : ElemTy → Nat → Nat → Nat) (_ : Crew) : VecSpec :=
  { bit := false, accept := accept, useB := useB, useD := false, op := fun t _ _ x y _ => f t x y }

/-- A bit-level elementwise instruction on whole words or pairs (R123). -/
def bitSpec (useB : Bool) (f : Nat → Nat → Nat) (_ : Crew) : VecSpec :=
  { bit := true, accept := acceptAny, useB := useB, useD := false
    op := fun t _ _ x y _ => f x y % 2 ^ t.width }

end Sys2Proof.Machine
end

