-- ==== Sys2Proof/Machine/Frames.lean ====
section
/-! DEFINITION. Scale-up frames as they leave, and the accesses that go out to a peer (R388 to R391). -/

namespace Sys2Proof.Machine

/-- The 48-byte header of a frame as six words (R389). -/
def frameHead (ftype srcDie dstDie srcPkg dstPkg len : Nat) (pseq : W64) (clock : Vector (BitVec 32) 5)
    (evseq : BitVec 48) : List W64 :=
  let ck (i : Nat) : Nat := ((clock[i]?).getD 0).toNat
  [BitVec.ofNat 64 (ftype * 2 ^ 12 + srcDie * 2 ^ 8 + dstDie * 2 ^ 4 + srcPkg * 2 ^ 16 + dstPkg * 2 ^ 32 + len * 2 ^ 48),
   pseq,
   BitVec.ofNat 64 (ck 0 + 2 ^ 32 * ck 1),
   BitVec.ofNat 64 (ck 2 + 2 ^ 32 * ck 3),
   BitVec.ofNat 64 (ck 4 + 2 ^ 32 * (evseq.toNat % 2 ^ 32)),
   BitVec.ofNat 64 (evseq.toNat / 2 ^ 32)]

/-- The port towards a package, when the route table gives one (R388). -/
def State.routeTo (s : State) (pkg : Nat) : Option Nat := (s.io.routes.find? fun r => r.1 = pkg).map Prod.snd

def State.port (s : State) (n : Nat) : Port := (s.io.ports[n]?).getD Port.reset

def State.onPort (s : State) (n : Nat) (f : Port → Port) : State :=
  s.onIo fun io => { io with ports := modifyVec io.ports n f }

/-- A value listed for a pair of numbers. -/
def pairGet {α : Type} (paths : List ((Nat × Nat) × α)) (path : Nat × Nat) : Option α :=
  (paths.find? fun p => p.1 = path).map Prod.snd

/-- The list with a pair's value put in. -/
def pairSet {α : Type} (paths : List ((Nat × Nat) × α)) (path : Nat × Nat) (next : α) : List ((Nat × Nat) × α) :=
  (path, next) :: paths.filter fun p => p.1 != path

/-- The key of a path: the target's package, with 2^15 for this one, and its die. -/
def pathKey (pkg : Option Nat) (die : Nat) : Nat × Nat := (pkg.getD 32768, die)

/-- The PSEQ of the next packet or frame on a path (R253, R389); the first is 0 (log 25). -/
def State.nextPseq (s : State) (die : Nat) (pkg : Option Nat) (tdie : Nat) : W64 :=
  (pairGet (s.die die).pseqOut (pathKey pkg tdie)).getD 0

def State.bumpPseq (s : State) (die : Nat) (pkg : Option Nat) (tdie : Nat) : State :=
  let n := s.nextPseq die pkg tdie
  s.onDie die fun y => { y with pseqOut := pairSet y.pseqOut (pathKey pkg tdie) (n + 1) }

/-- A compute die sends a frame towards a die of a peer, with the next PSEQ of the path: it enters the queue of the port that the
route table gives, and leaves once some remote accesses have been acknowledged (R323, R389, R390). -/
def State.sendFrameAfter (s : State) (after : List OpRef) (die ftype peer tdie : Nat) (body : List W64) : State :=
  let x := s.die die
  let pseq := s.nextPseq die (some peer) tdie
  let port := (s.routeTo peer).getD 0
  let f : Frame := { head := frameHead ftype die tdie s.io.pkgId.toNat peer body.length pseq x.clock x.evseq
                     body := body, port := port }
  (s.bumpPseq die (some peer) tdie).onPort port fun p => { p with held := p.held ++ [{ frame := f, tries := 0, after := after }] }

/-- A frame that waits for no access. -/
def State.sendFrame (s : State) (die ftype peer tdie : Nat) (body : List W64) : State :=
  s.sendFrameAfter [] die ftype peer tdie body

/-- A queued frame leaves its port: the port is up, the link layer has not failed eight times on it, and the accesses that its
release waits for have been acknowledged (R323, R390). -/
def State.frameGoes (s : State) (p : Port) (q : QueuedFrame) : Bool :=
  p.up && q.tries < 8 && !(s.io.remote.any fun r => q.after.contains r.op)

/-- The frames of the ports leave at the end of a cycle, in the order of each queue; one that the link layer has failed on stands
before the later ones (R390). -/
def State.portsTurn (s : State) : State :=
  (List.range 32).foldl (fun t n =>
    let p := t.port n
    let out := p.held.takeWhile (t.frameGoes p)
    ({ t with toPeers := t.toPeers ++ out.map QueuedFrame.frame }).onPort n fun q => { q with held := q.held.drop out.length }) s

/-- Whether a package can be reached at this moment (R388, R391). -/
def State.reachable (s : State) (peer : Nat) : Bool :=
  match s.routeTo peer with
  | none => false
  | some n => (s.port n).up

/-- The value of a remote atomic joins the fingerprint at the atomic's own place in the fold order: what was folded for it was 0,
and every fold since has turned the fingerprint by one bit (R337). -/
def Crew.refold (c : Crew) (o : OwedFold) (v : Nat) : Crew :=
  let n := c.folds - o.at_
  let low : W64 := (BitVec.ofNat 64 (v % 2 ^ 32)).rotateLeft ((if etyBytes o.ety = 8 then n + 1 else n) % 64)
  let high : W64 := if etyBytes o.ety = 8 then (BitVec.ofNat 64 (v / 2 ^ 32 % 2 ^ 32)).rotateLeft (n % 64) else 0
  { c with fp := c.fp ^^^ low ^^^ high }

/-- The fault record of a remote access that failed: no crew is killed (R391). -/
def State.remoteFault (s : State) (c : Crew) (detail : Nat) (addr : W64) : State :=
  s.record c.place.die (c.origin 6 detail) false false [addr]

/-- A remote access goes out as a type-2 frame (R391). The body is the address, a word of operation number, element type
and release at .sys, and two operands; the spec does not lay it out (log 12). The instruction stays outstanding in its
counter until the response; with the route down it completes with an error at once, and its result, and what its fold would
hold, are free values (log 8). The crew's pc is left to the caller. -/
def State.remoteAccess (s : State) (c : Crew) (win addr : W64) (ctr : Counter) (dest : Option (BitVec 8)) (ety : BitVec 4)
    (code : Nat) (rel : Bool) (x y : W64) (fold : Option OwedFold) : State × Crew :=
  let peer := (win.extractLsb' 48 15).toNat
  let tdie := (win.extractLsb' 44 2).toNat
  if s.reachable peer then
    let s1 := s.sendFrame c.place.die 2 peer tdie [addr, BitVec.ofNat 64 (code + 32 * ety.toNat + (if rel then 512 else 0)), x, y]
    let r : RemoteOp := { op := c.nextOp, place := c.place, ctr := ctr, dest := dest, ety := ety, addr := addr, peer := peer
                          tdie := tdie, pseq := s.nextPseq c.place.die (some peer) tdie, xbar := false
                          oldTie := c.tie, fold := fold, origin := c.origin 0 0 }
    let c1 := c.addOp ctr false false
    (s1.onIo fun io => { io with remote := io.remote ++ [r] },
     match dest with
     | some d => if d = 0 then c1 else { c1 with busy := d :: c1.busy }
     | none => c1)
  else
    let c0 := c.addOp ctr true true
    let c1 := match fold with
              | some o => c0.refold o (Config.freeWord (s.free + 1)).toNat
              | none => c0
    ({ s.remoteFault c 4 addr with free := s.free + 2 },
     match dest with
     | some d => c1.setS d (Config.freeWord s.free)
     | none => c1)

end Sys2Proof.Machine
end

