-- ==== Sys2Proof/Machine/Loads.lean ====
section
/-! DEFINITION. Loads, stores, atomics, fences and prefetch, scalar and vector (R140 to R152, R163 to R168). Every
access is performed at its issue, one of the orders that R149 and R318 allow (log 9). -/

namespace Sys2Proof.Machine

/-! ## A crew's accesses -/

/-- The retractable window of the weir a crew is bound to: its base and size (R210, R272). -/
def State.weirWindow (s : State) (c : Crew) : Option (WeirBinding × Nat × Nat) :=
  c.weir.map fun b =>
    (b, (s.sys64 c.place.die (b.record + 24)).toNat, (s.sys64 c.place.die (b.record + 32)).toNat % 2 ^ 32)

/-- The binding under which a byte that a crew writes at a basin address is provisional (R210). -/
def State.provisional (s : State) (c : Crew) (k : Nat) : Option WeirBinding :=
  match s.weirWindow c with
  | none => none
  | some (b, base, size) => if base ≤ k && k < base + size then some b else none

/-- The provisional value of a byte that a bound crew wrote, and whether it is marked: the latest still on its way, else the
bank's (R143, R210). -/
def State.provCell (s : State) (c : Crew) (b : WeirBinding) (k : Nat) : Option (Byte × Bool) :=
  let mine := (s.flight.provs.filter fun p => p.uid = c.uid && p.key ≤ k && k < p.key + p.bytes.length).getLast?
  match mine with
  | some p => (p.bytes[k - p.key]?).map fun x => (x, (p.marks[k - p.key]?).getD false)
  | none =>
    ((s.dies.toList.flatMap Die.weirs).find? fun w => w.home = b.home).bind fun w =>
      (w.prov.find? fun p => p.slot = b.slot && p.key = k).map fun p => (p.value, p.marked)

def State.provByte (s : State) (c : Crew) (b : WeirBinding) (k : Nat) : Option Byte := (s.provCell c b k).map Prod.fst

/-- A byte as a crew reads it: the crew's own provisional value where it has one (R210), else memory's. -/
def State.crewByte (s : State) (c : Crew) (p : Place) : Byte :=
  match p with
  | .chip k =>
    match (c.weir.bind fun b => s.provByte c b k) with
    | some v => v
    | none => s.readByte c.place.die p
  | p => s.readByte c.place.die p

/-- Some of n bytes from a place is marked as a crew reads it (R143, R210). -/
def State.crewMarked (s : State) (c : Crew) (p : Place) (n : Nat) : Bool :=
  match p with
  | .chip k =>
    match c.weir with
    | none => s.placeMarked c.place.die p n
    | some b => (List.range n).any fun i =>
        match s.provCell c b (k + i) with
        | some v => v.2
        | none => s.placeMarked c.place.die (.chip (k + i)) 1
  | p => s.placeMarked c.place.die p n

def State.crewRead (s : State) (c : Crew) (p : Place) (n : Nat) : Nat :=
  natOfBytes ((List.range n).map fun i => s.crewByte c (p.plus i))

/-- Bytes that a crew stores: in its weir's window they travel to the bank as provisional values (R210). -/
def State.crewStore (s : State) (c : Crew) (p : Place) (bs : List Byte) : State :=
  match p with
  | .chip k =>
    match s.provisional c k with
    | some b =>
      s.onFlight fun f =>
        { f with provs := f.provs ++ [{ uid := c.uid, record := b.record, home := b.home, slot := b.slot, key := k, bytes := bs, marks := [] }] }
    | none => s.storeBytes c.storer p bs
  | p => s.storeBytes c.storer p bs

/-- The memory-access fault of R142: detail and address. -/
def memFault {α : Type} (detail : Nat) (addr : W64) : Eff α := raise 6 detail [addr]

/-- The checks of a crew's access, raising the fault of the first that fails (R142). -/
def State.crewPlace (s : State) (c : Crew) (k : Kind) (addr : W64) (size : Nat) : Eff Place :=
  match s.check c.accessor k addr size size with
  | .ok p => .ok p
  | .error d => memFault d addr

/-- The accesses of a word wait until their order points take them all (R340, R376, log 34). -/
def State.pointsOpen (s : State) (c : Crew) (ps : List Place) : Eff Unit :=
  match s.pointsHeld c.cid (ps.filterMap s.pointOf) with
  | some q => .error (.stallAt q.1 q.2.1 q.2.2)
  | none => .ok ()

/-- The place of a word's one access: its checks, then its order point. -/
def State.crewCheck (s : State) (c : Crew) (k : Kind) (addr : W64) (size : Nat) : Eff Place := do
  let p ← s.crewPlace c k addr size
  s.pointsOpen c [p]
  .ok p

/-- The detail of cause 15 for data read at an address (R345): 2 memory, 3 tile buffer, 4 barge record. -/
def markDetail (addr : W64) : Nat := if topByte addr = 0xC0 then 3 else if topByte addr = 0xD0 then 4 else 2

/-- A crew whose load or atomic returned marked data meets poison before its next instruction (R143); the record's POFF is
that of this word (R346). -/
def Crew.meetPoison (c : Crew) (bad : Bool) (addr : W64) : Crew :=
  if bad then { c with poison := some (markDetail addr, addr, c.poff) } else c

/-- What an access at an address leaves besides its bytes: the TLB keeps the translation of a generic address (R314), and the
order point of a basin or tile-store address has taken the access (R336, R340). -/
def State.noteAddr (s : State) (c : Crew) (addr : W64) : State :=
  if topByte addr = 0 then s.keepTlb c.place.die c.place.core addr.toNat
  else if topByte addr = 0xC0 || (0xB0 ≤ topByte addr && topByte addr ≤ 0xB3) then s.served (.chip addr.toNat) c.cid
  else s

/-- One word folded into a crew's fingerprint (R337). -/
def Crew.fold (c : Crew) (a : W64) (v : Nat) : Crew :=
  { c with fp := (c.fp.rotateLeft 1) ^^^ (a <<< 32) ^^^ BitVec.ofNat 64 (v % 2 ^ 32), folds := c.folds + 1 }

/-- A store or an atomic of `size` bytes folded into the fingerprint: an 8-byte value folds twice (R337). -/
def Crew.foldWord (c : Crew) (a : W64) (size v : Nat) : Crew :=
  if size = 8 then (c.fold a v).fold (a + 4) (v / 2 ^ 32) else c.fold a v

/-- A write that a die stamped 2^30 or more increments of its own entry ago is still on its way to another compute die, and
holds the die's next increment back (R320). -/
def State.clockHeld (s : State) (die : Nat) : Bool :=
  s.flight.packets.any fun p =>
    p.srcDie = die && 2 ^ 30 ≤ ((s.die die).clock[die]?.getD 0 - p.clock[die]?.getD 0).toInt

/-- A release at .sys waits until every earlier access of the crew to a peer has been acknowledged (R323), and one at .pkg or
.sys until its die's clock entry may move on (R320). -/
def State.mayRelease (s : State) (c : Crew) (scope : Nat) : Eff Unit :=
  if scope = 5 && s.io.remote.any (fun r => r.op.uid = c.uid) then stalled
  else if 4 ≤ scope && s.clockHeld c.place.die then stalled
  else .ok ()

/-! ## Scalar loads and stores (R144 to R147) -/

/-- A loaded value extended to 64 bits: sign from I types, zero from all others (R144). -/
def loadExtend (ety : BitVec 4) (x : Nat) : W64 :=
  match etyType ety 0 with
  | some t => extend t.isSigned t.width x
  | none => BitVec.ofNat 64 x

/-- The crew after a load: value, counter, and poison (R143, R144, R148). The pc is the caller's. -/
def State.loadInto (s : State) (c : Crew) (addr : W64) (ety : BitVec 4) (d : BitVec 8) : Eff (State × Crew) := do
  roomFor c .wl
  let n := etyBytes ety
  let p ← s.crewCheck c .load addr n
  let bad := s.crewMarked c p n
  let c1 := (c.setS d (loadExtend ety (s.crewRead c p n))).addOp .wl true bad
  .ok ((s.noteAddr c addr).observe c.place.die p n, c1.meetPoison bad addr)

/-- A scalar load (R144). -/
def loadScalar (s : State) (c : Crew) (addr : W64) (ety : BitVec 4) (d : BitVec 8) : Eff State := do
  let r ← s.loadInto c addr ety d
  .ok (r.1.putCrew r.2.advance)

/-- The state and crew after a store of the low bytes of a value (R144). -/
def State.storeFrom (s : State) (c : Crew) (addr : W64) (ety : BitVec 4) (v : W64) : Eff (State × Crew) := do
  roomFor c .ws
  let n := etyBytes ety
  let p ← s.crewCheck c .store addr n
  .ok ((s.noteAddr c addr).crewStore c p (bytesOfNat n v.toNat),
    (c.addOp .ws true false).foldWord addr n (v.toNat % 2 ^ (8 * n)))

/-- A scalar store (R144). -/
def storeScalar (s : State) (c : Crew) (addr : W64) (ety : BitVec 4) (v : W64) : Eff State := do
  let r ← s.storeFrom c addr ety v
  .ok (r.1.putCrew r.2.advance)

/-- s[d] := memory at s[a] + s[b] (R144). -/
def execLd (w : RegForm) (s : State) : Host.Outcome State Fault Refusal :=
  crewInstr w.guard s fun s c => loadScalar s c (c.sreg w.a + c.sreg w.b) w.ety w.d

/-- Memory at s[a] + s[b] := s[d] (R144). -/
def execSt (w : RegForm) (s : State) : Host.Outcome State Fault Refusal :=
  crewInstr w.guard s fun s c => storeScalar s c (c.sreg w.a + c.sreg w.b) w.ety (c.sreg w.d)

/-- The signed offset and the ety code of LDO and STO (R144). -/
def ldoAddr (w : ImmForm) (c : Crew) : W64 := c.sreg w.a + (w.imm.extractLsb' 4 27).signExtend 64
def ldoEty (w : ImmForm) : BitVec 4 := w.imm.extractLsb' 0 4

/-- As LD at a signed offset (R144). -/
def execLdo (w : ImmForm) (s : State) : Host.Outcome State Fault Refusal :=
  crewInstr w.guard s fun s c => loadScalar s c (ldoAddr w c) (ldoEty w) w.d

/-- As ST at a signed offset (R144). -/
def execSto (w : ImmForm) (s : State) : Host.Outcome State Fault Refusal :=
  crewInstr w.guard s fun s c => storeScalar s c (ldoAddr w c) (ldoEty w) (c.sreg w.d)

/-- A load with acquire: no later access of the crew is performed before it (R146). -/
def execLda (w : RegForm) (s : State) : Host.Outcome State Fault Refusal :=
  crewInstr w.guard s fun s c => loadScalar s c (c.sreg w.a + c.sreg w.b) w.ety w.d

/-- The release of an access at a scope, after the access itself: the crew and its operation's error (R317, R328). -/
def State.releaseFor (s : State) (c : Crew) (scope : Nat) : State × Crew × Bool :=
  (s.release c scope, c.released scope, c.releaseErr scope)

/-- A store with release at the scope of fn (R146). -/
def execStl (w : RegForm) (s : State) : Host.Outcome State Fault Refusal :=
  crewInstr w.guard s fun s c => do
    roomFor c .ws
    let addr := c.sreg w.a + c.sreg w.b
    let n := etyBytes w.ety
    let p ← s.crewCheck c .store addr n
    s.mayRelease c w.fn.toNat
    let v := (c.sreg w.d).toNat
    let s1 := (s.noteAddr c addr).crewStore c p (bytesOfNat n v)
    let r := s1.releaseFor (c.foldWord addr n (v % 2 ^ (8 * n))) w.fn.toNat
    .ok (r.1.putCrew (r.2.1.addOp .ws true r.2.2).advance)

/-! ## Atomics (R163, R164, R324) -/

/-- The operations of R163 on a word of a type. -/
def amoOp (t : ElemTy) (op old x : Nat) : Nat :=
  let fms := Vector.replicate 16 (0x10000#32)
  if op = 0 then arithElem fms 0 false (fun a b _ => a + b) (fun a b _ => a.add false b) t t t old x 0
  else if op = 1 then storeChosen fms t (chooseElem fms false (t, old) (t, x))
  else if op = 2 then storeChosen fms t (chooseElem fms true (t, old) (t, x))
  else if op = 3 then old &&& x
  else if op = 4 then old ||| x
  else if op = 5 then old ^^^ x
  else x

/-- An atomic of a die at the home slice or bank of a place, after its own dirty copy of the line has gone home: the old
value, whether it was marked, and the state with the word replaced by a function of it (R163, R320, R324). -/
def State.atomicAt (s : State) (die : Nat) (p : Place) (n : Nat) (f : Nat → Nat) (always : Bool) : Nat × Bool × State :=
  let s1 := (s.flushPlace die p).observe die p n
  let old := s1.homeRead p n
  (old, s1.homeMarked p n, if f old != old || always then s1.engineBytes die p (bytesOfNat n (f old)) else s1)

/-- An atomic at its home slice or bank: the word is replaced by a function of it; the old value, whether it was
marked, and the state (R163, R164). A bound crew's atomic on its weir's window acts on its provisional value (R210). -/
def State.atomic (s : State) (c : Crew) (p : Place) (n : Nat) (f : Nat → Nat) (always : Bool) : Nat × Bool × State :=
  match p with
  | .chip k =>
    match s.provisional c k with
    | some _ =>
      let old := s.crewRead c p n
      (old, s.crewMarked c p n,
        if f old != old || always then s.crewStore c p (bytesOfNat n (f old)) else s)
    | none => s.atomicAt c.place.die p n f always
  | p => s.atomicAt c.place.die p n f always

/-- The order of an S-form atomic in fn bits 4:3, and its scope in fn bits 6:5 as a code of R145 (R163). -/
def amoReleases (fn : BitVec 7) : Bool := fn.getLsbD 4
def amoScope (fn : BitVec 7) : Nat := 2 + (fn.extractLsb' 5 2).toNat

/-- A release before an atomic, when its order has one. -/
def State.amoRelease (s : State) (c : Crew) (fn : BitVec 7) : State × Crew × Bool :=
  if amoReleases fn then s.releaseFor c (amoScope fn) else (s, c, false)

def State.mayAmo (s : State) (c : Crew) (fn : BitVec 7) : Eff Unit :=
  if amoReleases fn then s.mayRelease c (amoScope fn) else .ok ()

/-- What an S-form atomic writes: the operations of R163 by their numbers, and from 16 on CAS (R164). -/
def atomicNew (ety : BitVec 4) (code : Nat) (x y : W64) (old : Nat) : Nat :=
  let w := 2 ^ (8 * etyBytes ety)
  if 16 ≤ code then (if old = x.toNat % w then y.toNat % w else old)
  else amoOp ((etyType ety 0).getD (.uint 64)) (code % 8) old (x.toNat % w)

/-- An exchange and a compare and swap always write (R164). -/
def atomicWrites (code : Nat) : Bool := code % 8 = 6 || 16 ≤ code

/-- An S-form atomic: `dest` receives the old value, under wl; without one the counter is ws (R164). A remote one folds what
the word holds afterwards: at once where the operation is an exchange, else when the response brings the old value, at
this word's place in the fold order (R337, R391). -/
def atomicScalar (w : RegForm) (s : State) (c : Crew) (dest : Option (BitVec 8)) (code : Nat) (x y : W64) : Eff State := do
  let ctr : Counter := if dest.isSome then .wl else .ws
  roomFor c ctr
  let addr := c.sreg w.a
  let n := etyBytes w.ety
  match s.remoteWindow addr with
  | some win =>
    if addr.toNat % n != 0 then memFault 1 addr
    else
      s.mayAmo c w.fn
      let r := s.amoRelease c w.fn
      let known := code % 8 = 6
      let c1 := r.2.1.foldWord addr n (if known then atomicNew w.ety code x y 0 else 0)
      let owed : Option OwedFold :=
        if known then none else some { at_ := c1.folds, addr := addr, code := code, ety := w.ety, x := x, y := y }
      let q := r.1.remoteAccess c1 win addr ctr dest w.ety code (amoReleases w.fn && amoScope w.fn = 5) x y owed
      .ok (q.1.putCrew q.2.advance)
  | none =>
    let p ← s.crewCheck c .atomic addr n
    s.mayAmo c w.fn
    let r := (s.noteAddr c addr).amoRelease c w.fn
    let a := r.1.atomic r.2.1 p n (atomicNew w.ety code x y) (atomicWrites code)
    let bad := a.2.1
    let c1 := ((r.2.1.addOp ctr true (bad || r.2.2)).meetPoison bad addr).foldWord addr n (atomicNew w.ety code x y a.1)
    let c2 := match dest with
              | some d => c1.setS d (loadExtend w.ety a.1)
              | none => c1
    .ok (a.2.2.putCrew c2.advance)

/-- Applies an operation to the word at s[a], returning nothing (R164). -/
def execAmo (w : RegForm) (s : State) : Host.Outcome State Fault Refusal :=
  crewInstr w.guard s fun s c => atomicScalar w s c none (w.fn.extractLsb' 0 3).toNat (c.sreg w.b) 0

/-- As AMO, with the old value written to s[d] (R164). -/
def execAmov (w : RegForm) (s : State) : Host.Outcome State Fault Refusal :=
  crewInstr w.guard s fun s c => atomicScalar w s c (some w.d) (8 + (w.fn.extractLsb' 0 3).toNat) (c.sreg w.b) 0

/-- Writes s[c] when the old word equals s[b] bit for bit; the old value goes to s[d] (R164). -/
def execCas (w : RegForm) (s : State) : Host.Outcome State Fault Refusal :=
  crewInstr w.guard s fun s c => atomicScalar w s c (some w.d) 16 (c.sreg w.b) (c.sreg w.c)

/-! ## Fences and prefetch (R167, R168) -/

/-- Orders the crew's accesses at a scope; a release fence at .pkg or .sys writes dirty lines back (R167). -/
def execFence (w : RegForm) (s : State) : Host.Outcome State Fault Refusal :=
  crewInstr w.guard s fun s c => do
    roomFor c .wg
    let scope := (w.fn.extractLsb' 0 3).toNat
    if w.fn.getLsbD 4 then s.mayRelease c scope
    let r := if w.fn.getLsbD 4 then s.releaseFor c scope else (s, c, false)
    .ok (r.1.putCrew (r.2.1.addOp .wg true r.2.2).advance)

/-- Brings a line into a cache: no register, counter or byte changes (R168). -/
def execPref (w : RegForm) (s : State) : Host.Outcome State Fault Refusal := crewStep w.guard s fun c => c

/-! ## Vector loads and stores (R150 to R152) -/

/-- The places of every active lane's access, in ascending lane order; the first failing lane raises its fault (R142, R151). -/
def State.lanePlaces (s : State) (c : Crew) (k : Kind) (size : Nat) (addr : Nat → W64) (ls : List Nat) :
    Eff (List (Nat × Place)) :=
  ls.mapM fun l => do
    let p ← s.crewPlace c k (addr l) size
    .ok (l, p)

/-- The offsets of a lane vector: I32 is read signed, N32 unsigned, any other tag faults with kind 2 (R150). -/
def Crew.offsetSource (c : Crew) (pos : Nat) (r : Nat) : Eff (Source × (Nat → W64)) := do
  let t := (c.vreg r).tag
  if tagReserved false t then tagFault 1 pos t
  if t != 0x12 && t != 0x22 then tagFault 2 pos t
  let x := c.source r false
  .ok (x, fun l => if t = 0x12 then extend true 32 (x.lane l) else BitVec.ofNat 64 (x.lane l))

/-- One step of a vector load: the crew after it (R151). -/
def State.loadStep (s : State) (c : Crew) (ev : Mask) (r size : Nat) (tag : BitVec 8) (places : List (Nat × Place)) : Crew :=
  let vals := places.map fun x => (x.1, s.crewRead c x.2 size)
  let bad := maskOf ((places.filter fun x => s.crewMarked c x.2 size).map Prod.fst)
  let c1 := c.writeVec r (size = 8) ev (fun l => (assocGet vals l).getD 0) tag
  let mark (v : Vector VReg 256) (i : Nat) : Vector VReg 256 := modifyVec v i fun x => { x with marks := x.marks ||| bad }
  { c1 with vregs := if size = 8 then mark (mark c1.vregs r) (r + 1) else mark c1.vregs r }

/-- A vector load of one register per step, at the lanes' addresses (R151). -/
def vecLoad (s : State) (c : Crew) (ev : Mask) (d size : Nat) (tag : BitVec 8) (addr : Nat → W64) (offs : List Int)
    (reads : List Nat) : Eff State := do
  roomFor c .wl
  let regs ← offs.mapM fun o => stepReg d o
  regs.forM fun r => needEven (size = 8) r
  let ls := lanesOf c.lanes ev
  let at_ (o : Int) (l : Nat) : W64 := addr l + BitVec.ofInt 64 (o * size)
  let steps ← offs.mapM fun o => s.lanePlaces c .load size (at_ o) ls
  s.pointsOpen c (steps.flatten.map Prod.snd)
  let c1 := (regs.zip steps).foldl (fun x p => s.loadStep x ev p.1 size tag p.2) c
  let s1 := offs.foldl (fun t o => ls.foldl (fun t l => t.noteAddr c (at_ o l)) t) s
  let s2 := steps.flatten.foldl (fun t x => t.observe c.place.die x.2 size) s1
  .ok (s2.finishVec (c1.addOp .wl true false) reads (regs.flatMap fun r => regsOf r (size = 8)))

/-- A vector store of one register per step (R151): the higher lane's bytes stand where lanes overlap. -/
def vecStore (s : State) (c : Crew) (ev : Mask) (d : Nat) (addr : Nat → Nat → W64) (offs : List Int) (reads : List Nat) :
    Eff State := do
  roomFor c .ws
  let regs ← offs.mapM fun o => stepReg d o
  let ls := lanesOf c.lanes ev
  regs.forM fun r => do
    checkReserved 0 (c.vreg r).tag
    needEven (tagIs64 (c.vreg r).tag) r
  let sized := (regs.zip offs).map fun p => (p.1, p.2, if tagIs64 (c.vreg p.1).tag then 8 else 4)
  let at_ (x : Nat × Int × Nat) (l : Nat) : W64 := addr x.2.2 l + BitVec.ofInt 64 (x.2.1 * x.2.2)
  let steps ← sized.mapM fun x => s.lanePlaces c .store x.2.2 (at_ x) ls
  sized.forM fun x => (c.source x.1 (x.2.2 = 8)).consume c.lanes ev
  s.pointsOpen c (steps.flatten.map Prod.snd)
  let s1 := sized.foldl (fun t x => ls.foldl (fun t l => t.noteAddr c (at_ x l)) t) s
  let s2 := (sized.zip steps).foldl (fun t p =>
    p.2.foldl (fun t lp => t.crewStore c lp.2 (bytesOfNat p.1.2.2 (c.laneValue p.1.1 (p.1.2.2 = 8) lp.1))) t) s1
  let c1 := sized.foldl (fun x p =>
    ls.foldl (fun x l => x.foldWord (at_ p l) p.2.2 (c.laneValue p.1 (p.2.2 = 8) l)) x) (c.addOp .ws true false)
  .ok (s2.finishVec c1 (reads ++ sized.flatMap fun x => regsOf x.1 (x.2.2 = 8)) [])

/-- The tag and lane size of a vector load's ety (R151). -/
def loadTag (ety : BitVec 4) : BitVec 8 := ((etyType ety 0).map ElemTy.tag).getD 0
def loadSize (ety : BitVec 4) : Nat := if ety64 ety then 8 else 4

/-- Lane l loads from s[a] + l times s[b] (R150). -/
def execVld (w : RegForm) (s : State) : Host.Outcome State Fault Refusal :=
  anyInstr s fun s c => do
    let offs ← s.stepOffsets c (fnT w) w.c
    vecLoad s c (guardSet w.guard c) w.d.toNat (loadSize w.ety) (loadTag w.ety)
      (fun l => c.sreg w.a + BitVec.ofNat 64 l * c.sreg w.b) offs []

/-- Lane l stores to s[a] + l times s[b] (R150). -/
def execVst (w : RegForm) (s : State) : Host.Outcome State Fault Refusal :=
  anyInstr s fun s c => do
    let offs ← s.stepOffsets c (fnT w) w.c
    vecStore s c (guardSet w.guard c) w.d.toNat (fun _ l => c.sreg w.a + BitVec.ofNat 64 l * c.sreg w.b) offs []

/-- Lane l loads from s[a] + b[l] (R150). -/
def execVgath (w : RegForm) (s : State) : Host.Outcome State Fault Refusal :=
  anyInstr s fun s c => do
    let ev := guardSet w.guard c
    let b ← c.offsetSource 2 w.b.toNat
    b.1.consume c.lanes ev
    vecLoad s c ev w.d.toNat (loadSize w.ety) (loadTag w.ety) (fun l => c.sreg w.a + b.2 l) [0] [w.b.toNat]

/-- Lane l stores to s[a] + b[l] (R150). -/
def execVscat (w : RegForm) (s : State) : Host.Outcome State Fault Refusal :=
  anyInstr s fun s c => do
    let ev := guardSet w.guard c
    let b ← c.offsetSource 2 w.b.toNat
    b.1.consume c.lanes ev
    vecStore s c ev w.d.toNat (fun _ l => c.sreg w.a + b.2 l) [0] [w.b.toNat]

/-- Lane l loads the lane word at s[a] + i + 4l; tag 0x00 (R152). -/
def execVldo (w : ImmForm) (s : State) : Host.Outcome State Fault Refusal :=
  anyInstr s fun s c =>
    vecLoad s c (guardSet w.guard c) w.d.toNat 4 0 (fun l => c.sreg w.a + immSigned w + BitVec.ofNat 64 (4 * l)) [0] []

/-- Lane l stores to s[a] + i + 4l, or 8l for a pair (R152). -/
def execVsto (w : ImmForm) (s : State) : Host.Outcome State Fault Refusal :=
  anyInstr s fun s c =>
    vecStore s c (guardSet w.guard c) w.d.toNat
      (fun size l => c.sreg w.a + immSigned w + BitVec.ofNat 64 (size * l)) [0] []

/-! ## Vector atomics (R165, R166) -/

/-- The lanes' atomics in ascending lane order: the old values and the state after them (R165). -/
def State.laneAtomics (s : State) (c : Crew) (n : Nat) (f : Nat → Nat → Nat) (always : Bool) :
    List (Nat × Place) → List (Nat × Nat) × List Nat × State
  | [] => ([], [], s)
  | (l, p) :: rest =>
    let a := s.atomic c p n (f l) always
    let r := a.2.2.laneAtomics c n f always rest
    ((l, a.1) :: r.1, (if a.2.1 then l :: r.2.1 else r.2.1), r.2.2)

/-- The address of a marked word among the lanes, for the poison that a scalar or vector atomic meets (R143). -/
def firstBad (bad : List Nat) (addr : Nat → W64) : Bool × W64 :=
  match bad with
  | [] => (false, 0)
  | l :: _ => (true, addr l)

/-- An atomic per lane; with .ret the old values go to d (R165). -/
def execVamo (w : RegForm) (s : State) : Host.Outcome State Fault Refusal :=
  anyInstr s fun s c => do
    let ev := guardSet w.guard c
    let op := ((fnOP w).extractLsb' 0 3).toNat
    let ret := (fnOP w).getLsbD 3
    let ctr : Counter := if ret then .wl else .ws
    roomFor c ctr
    let b ← c.offsetSource 2 w.b.toNat
    let tc := (c.vreg w.c.toNat).tag
    checkWord [0x12, 0x22, 0x32] 3 tc
    if 3 ≤ op && op ≤ 5 && tc = 0x32 then tagFault 2 3 tc
    let x := c.source w.c.toNat false
    b.1.consume c.lanes ev
    x.consume c.lanes ev
    let addr (l : Nat) : W64 := c.sreg w.a + b.2 l
    let ls := lanesOf c.lanes ev
    let places ← s.lanePlaces c .atomic 4 addr ls
    s.pointsOpen c (places.map Prod.snd)
    let t := (tagType tc).getD (.uint 32)
    let s1 := ls.foldl (fun t l => t.noteAddr c (addr l)) s
    let r := s1.laneAtomics c 4 (fun l old => amoOp t op old (x.lane l)) (op = 6) places
    let bad := firstBad r.2.1 addr
    let c0 := r.1.foldl (fun y p => y.foldWord (addr p.1) 4 (amoOp t op p.2 (x.lane p.1))) c
    let c1 := if ret then c0.writeVec w.d.toNat false ev (fun l => (assocGet r.1 l).getD 0) tc else c0
    .ok (r.2.2.finishVec ((c1.addOp ctr true bad.1).meetPoison bad.1 bad.2) [w.b.toNat, w.c.toNat]
      (if ret then [w.d.toNat] else []))

/-- The key of a value offered by VMAXVI; none for a NaN (R166). -/
def offerKey (tag : BitVec 8) (v : Nat) : Option Nat :=
  if tag = 0x32 then
    if (Fmt.f32.decode v).isNan then none
    else some (if v / 2 ^ 31 = 1 then 2 ^ 32 - 1 - v else v ^^^ 0x80000000)
  else if tag = 0x12 then some (v ^^^ 0x80000000)
  else some v

/-- Each lane offers its value and index to an 8-byte word, which keeps the unsigned maximum (R166). -/
def execVmaxvi (w : RegForm) (s : State) : Host.Outcome State Fault Refusal :=
  anyInstr s fun s c => do
    let ev := guardSet w.guard c
    let ix := fnOP w = 1
    roomFor c .ws
    let td := (c.vreg w.d.toNat).tag
    let tb := (c.vreg w.b.toNat).tag
    checkWord [0x22] 0 td
    checkWord [0x12, 0x22, 0x32] 2 tb
    let off ← if ix then (c.offsetSource 3 w.c.toNat).map some else .ok none
    let d := c.source w.d.toNat false
    let b := c.source w.b.toNat false
    d.consume c.lanes ev
    b.consume c.lanes ev
    match off with
    | some o => o.1.consume c.lanes ev
    | none => .ok ()
    let addr (l : Nat) : W64 := c.sreg w.a + (match off with
                                              | some o => o.2 l
                                              | none => 0)
    let ls := lanesOf c.lanes ev
    let places ← s.lanePlaces c .atomic 8 addr ls
    s.pointsOpen c (places.map Prod.snd)
    let s1 := ls.foldl (fun t l => t.noteAddr c (addr l)) s
    let offer (l old : Nat) : Nat :=
      match offerKey tb (b.lane l) with
      | none => old
      | some k => max old (k * 2 ^ 32 + (0xFFFFFFFF - d.lane l))
    let r := s1.laneAtomics c 8 offer false places
    let bad := firstBad r.2.1 addr
    let c1 := r.1.foldl (fun y p => y.foldWord (addr p.1) 8 (offer p.1 p.2)) c
    .ok (r.2.2.finishVec ((c1.addOp .ws true bad.1).meetPoison bad.1 bad.2)
      ([w.d.toNat, w.b.toNat] ++ (if ix then [w.c.toNat] else [])) [])

end Sys2Proof.Machine
end

