-- ==== Sys2Proof/Machine/Barges.lean ====
section
/-! DEFINITION. The instructions on barges: boarding, reading and writing records, cancelling and retiring, and the
occupancy of a lock (R194 to R205, R226 to R232, R253 to R259). -/

namespace Sys2Proof.Machine

/-! ## References (R195, R196, R198) -/

/-- The barge fault, with the reference (R221, R345). -/
def bargeFault {α : Type} (detail : Nat) (ref : W64) : Eff α := raise 11 detail [ref]

/-- The kinds of barge reference. -/
inductive BargeRef where
  | null
  | record (die index : Nat)
  | row (i : Nat)
  | malformed
  deriving DecidableEq, Repr

def bargeRef (v : W64) : BargeRef :=
  let k := (v.extractLsb' 62 2).toNat
  if v = 0 then .null
  else if k = 1 then
    if v.extractLsb' 20 42 != 0 || 4 ≤ (v.extractLsb' 16 4).toNat then .malformed
    else .record (v.extractLsb' 16 4).toNat (v.extractLsb' 0 16).toNat
  else if k = 2 then (if v.extractLsb' 5 57 != 0 then .malformed else .row (v.extractLsb' 0 5).toNat)
  else .malformed

/-- The record reference of a barge (R195). -/
def recordRef (die i : Nat) : W64 := BitVec.ofNat 64 (2 ^ 62 + die * 2 ^ 16 + i)

/-- The row reference of a row. -/
def rowRef (i : Nat) : W64 := BitVec.ofNat 64 (2 ^ 63 + i)

/-- The row and the record of a held barge that a reference names (R196). -/
def Crew.heldBarge (c : Crew) (ref : W64) : Eff (Nat × Nat) :=
  match bargeRef ref with
  | .null => bargeFault 1 ref
  | .malformed => bargeFault 1 ref
  | .row i =>
    match (c.held[i]?).join with
    | some r => .ok (i, r)
    | none => bargeFault 2 ref
  | .record d r =>
    match (if d = c.place.die then c.held.findIdx? fun o => o = some r else none) with
    | some i => .ok (i, r)
    | none => bargeFault 2 ref

/-- The barge of a row leaves the held set (R196). -/
def Crew.dropRow (c : Crew) (i : Nat) : Crew := { c with held := modifyAt c.held i fun _ => none }

/-- A lock reference taken apart (R198). -/
structure LockRef where
  peer : Option Nat
  die : Nat
  region : Nat
  lock : Nat
  deriving DecidableEq, Repr

/-- A lock reference that is not malformed (R198). -/
def lockRef (v : W64) : Option LockRef :=
  let remote := v.getLsbD 31
  let peer := (v.extractLsb' 16 15).toNat
  let die := (v.extractLsb' 12 4).toNat
  if v.extractLsb' 32 32 != 0 || 3 < die || (!remote && peer != 0) then none
  else some { peer := if remote then some peer else none, die := die, region := (v.extractLsb' 4 8).toNat, lock := (v.extractLsb' 0 4).toNat }

/-- The configuration of a region in a die's current partition (R274, R275). -/
def Die.declaredRegion (x : Die) (region : Nat) : Option RegionCfg := x.part.bind fun p => p.regions.find? fun g => g.num = region

/-- The lock that a die's current partition declares (R198). -/
def Die.declaredLock (x : Die) (region lock : Nat) : Option Lock := (x.declaredRegion region).bind fun g => g.lock lock

/-- CheckLockRef of R199. A peer without a route counts as declaring no lock (R388). -/
def State.checkLockRef (s : State) (v : W64) : Eff LockRef :=
  match lockRef v with
  | none => bargeFault 1 v
  | some r =>
    match r.peer with
    | some p => if (s.routeTo p).isSome then .ok r else bargeFault 5 v
    | none => if ((s.die r.die).declaredLock r.region r.lock).isSome then .ok r else bargeFault 5 v

/-! ## Locks as arrivals find them (R230 to R232, R259, R361) -/

/-- CANALSIZE/64, HEAD, TAIL and CANAL of a lock, from the lock itself or from its record. -/
structure CanalView where
  base : W64
  size : Nat
  head : Nat
  tail : Nat
  count : Nat
  deriving DecidableEq, Repr

/-- The canal of a lock record in memory (R230). -/
def State.recordCanal (s : State) (die : Nat) (addr : W64) : CanalView :=
  let ht := s.sys64 die (addr + 24)
  { base := s.sys64 die (addr + 8), size := (s.sys64 die (addr + 16)).toNat % 2 ^ 40 / 64
    head := (ht >>> 32).toNat, tail := ht.toNat % 2 ^ 32, count := (s.sys64 die (addr + 32)).toNat / 2 ^ 16 % 2 ^ 32 }

def Lock.canalView (l : Lock) : CanalView :=
  { base := l.canalBase, size := l.canalSize / 64, head := l.head, tail := l.tail, count := l.canal }

/-- The address of the record of a lock that a partition of the die has declared (R205). -/
def Die.recordOf (x : Die) (region lock : Nat) : Option W64 :=
  (x.lockDir.find? fun p => p.1 = region && p.2.1 = lock).map fun p => p.2.2

/-- The kind of flush under which arrivals at a lock are discarded, if they are (R360, R361). -/
def Die.discards (x : Die) (region lock : Nat) : Option Nat :=
  match x.lock region lock with
  | some l => l.discarding
  | none => (x.discarding.find? fun p => p.1 = region).map Prod.snd

/-- An arrival could be placed in an on-chip slot: the region is resident, the canal is empty and a slot is free (R231). -/
def Die.slotFree (x : Die) (region lock : Nat) : Bool :=
  match x.lock region lock with
  | some l => l.canal = 0 && l.slots.length < 1024
  | none => false

/-- The canal that an arrival at a lock would enter. -/
def State.canalOf (s : State) (die region lock : Nat) : CanalView :=
  match (s.die die).lock region lock with
  | some l => l.canalView
  | none =>
    match (s.die die).recordOf region lock with
    | some a => s.recordCanal die a
    | none => { base := 0, size := 0, head := 0, tail := 0, count := 0 }

/-- The lock has an on-chip slot or canal space for an arrival (R199). -/
def State.lockRoom (s : State) (die region lock : Nat) : Bool :=
  ((s.die die).discards region lock).isSome || (s.die die).slotFree region lock ||
    (let v := s.canalOf die region lock
     v.count < v.size)

/-- The region and lock at which a barge that is bound for a lock arrives (R259): an accepted adapter's ENTRY, unless a
crew of ENTRY's own region boards it. -/
def Die.redirect (x : Die) (die region lock : Nat) (b : Barge) (fromRegion : Option Nat) : Nat × Nat :=
  let here : BitVec 32 := BitVec.ofNat 32 (die * 2 ^ 12 + region * 2 ^ 4 + lock)
  if b.adapt = 0 then (region, lock)
  else
    match (x.part.map Partition.adapters).bind fun as_ => as_.find? fun a => a.aset = b.adapt && a.attach = here with
    | none => (region, lock)
    | some a =>
      let r := (a.entry.extractLsb' 4 8).toNat
      if fromRegion = some r then (region, lock) else (r, (a.entry.extractLsb' 0 4).toNat)

/-! ## Fields of a record (R201 to R203) -/

/-- A barge field's value (R201). -/
def Barge.field (b : Barge) (f : Nat) : W64 :=
  if f = 0 then b.req.setWidth 64
  else if f = 1 then b.seq.setWidth 64
  else if f = 2 then b.pos.setWidth 64
  else if f = 3 then b.kind.setWidth 64
  else if f = 4 then b.depth.setWidth 64
  else if f = 5 then b.parent
  else if f = 6 then b.sgroup.setWidth 64
  else if f = 7 then b.adapt.setWidth 64
  else if f = 8 then b.gen.setWidth 64
  else if f = 9 then b.route.setWidth 64
  else if f = 10 then b.payload
  else if f = 11 then b.hdr
  else if f = 12 then b.flags.setWidth 64
  else b.origin

/-- A payload address that R203 admits. -/
def payloadOk (v : W64) : Bool :=
  let t := topByte v
  v.toNat % 128 = 0 && (t = 0 || (0xB0 ≤ t && t ≤ 0xB3) || t = 0xC0)

/-- A write to a field; none for a value outside the limits of R203. -/
def Barge.setField (b : Barge) (f : Nat) (v : W64) : Option Barge :=
  if f = 2 then if v.toNat < 2 ^ 32 then some { b with pos := v.setWidth 32 } else none
  else if f = 3 then if v = 1 && b.kind = 2 then some { b with kind := 1 } else none
  else if f = 6 then if v.toNat < 2 ^ 16 then some { b with sgroup := v.setWidth 16 } else none
  else if f = 7 then if v.toNat < 2 ^ 16 then some { b with adapt := v.setWidth 16 } else none
  else if f = 9 then if v.toNat < 2 ^ 8 then some { b with route := v.setWidth 8 } else none
  else if f = 10 then if payloadOk v then some { b with payload := v } else none
  else some { b with hdr := v }

/-- A record that no barge holds reads as zero. -/
def Barge.zero : Barge :=
  { req := 0, pos := 0, seq := 0, sgroup := 0, parent := 0, payload := 0, hdr := 0, origin := 0, adapt := 0, route := 0
    flags := 0, kind := 0, gen := 0, depth := 0, marked := false, landing := none, poisonSeq := 0 }

/-- A read of a field of a record of the package; a marked record raises poison in the crew (R143, R202). -/
def bgetRecord (s : State) (c : Crew) (d : BitVec 8) (f die i : Nat) : State :=
  let b := (s.barge die i).getD Barge.zero
  let addr : W64 := BitVec.ofNat 64 (0xD0 * 2 ^ 56 + die * 2 ^ 52 + 64 * i)
  let c1 := c.setS d (b.field f)
  s.putCrew (if b.marked then { c1 with poison := some (4, addr, c.poff) } else c1).advance

/-- Reads field F of a held barge, or of any record of the package (R202). -/
def execBget (w : RegForm) (s : State) : Host.Outcome State Fault Refusal :=
  crewInstr w.guard s fun s c =>
    let ref := c.sreg w.a
    match bargeRef ref with
    | .record die i => .ok (bgetRecord s c w.d w.fn.toNat die i)
    | _ => do
      let h ← c.heldBarge ref
      .ok (bgetRecord s c w.d w.fn.toNat c.place.die h.2)

/-- The row and the field of BGETI and BSETI (R193). -/
def immRow (w : ImmForm) : Nat := (w.imm.extractLsb' 0 5).toNat
def immField (w : ImmForm) : Nat := (w.imm.extractLsb' 5 4).toNat

/-- Reads field F of the barge of a row (R202). -/
def execBgeti (w : ImmForm) (s : State) : Host.Outcome State Fault Refusal :=
  crewInstr w.guard s fun s c => do
    let h ← c.heldBarge (rowRef (immRow w))
    .ok (bgetRecord s c w.d (immField w) c.place.die h.2)

/-- A value written into a field of a held barge (R203). -/
def bsetRecord (s : State) (c : Crew) (ref : W64) (f : Nat) (v : W64) : Eff State := do
  let h ← c.heldBarge ref
  match (s.barge c.place.die h.2).bind fun b => b.setField f v with
  | none => bargeFault 6 ref
  | some b => .ok ((s.putBarge c.place.die h.2 b).putCrew c.advance)

/-- Writes s[b] into field F of a held barge (R203). -/
def execBset (w : RegForm) (s : State) : Host.Outcome State Fault Refusal :=
  crewInstr w.guard s fun s c => bsetRecord s c (c.sreg w.a) w.fn.toNat (c.sreg w.b)

/-- Writes s[a] into field F of the barge of a row (R203). -/
def execBseti (w : ImmForm) (s : State) : Host.Outcome State Fault Refusal :=
  crewInstr w.guard s fun s c => bsetRecord s c (rowRef (immRow w)) (immField w) (c.sreg w.a)

/-! ## Ending barges (R204) -/

/-- A held barge is cancelled: its flag is set, it leaves the held set, and its record is freed when the CANCEL completes (R204). -/
def cancelHeld (s : State) (c : Crew) (h : Nat × Nat) (err : Bool) : State :=
  let b := (s.barge c.place.die h.2).getD Barge.zero
  ((s.putBarge c.place.die h.2 { b with flags := b.flags ||| 2 }).onFlight fun f =>
    { f with cancels := f.cancels ++ [{ op := c.nextOp, die := c.place.die, record := h.2 }] }).putCrew
      ((c.dropRow h.1).addOp .wg true err).advance

/-- Ends a held barge: it leaves the held set and its record is freed (R204). -/
def endHeld (s : State) (c : Crew) (h : Nat × Nat) (err : Bool) : State :=
  (s.freeBarge c.place.die h.2).putCrew ((c.dropRow h.1).addOp .wg true err).advance

/-- Cancels a held barge (R204). -/
def execCancel (w : RegForm) (s : State) : Host.Outcome State Fault Refusal :=
  crewInstr w.guard s fun s c => do
    roomFor c .wg
    let h ← c.heldBarge (c.sreg w.a)
    .ok (cancelHeld s c h false)

/-- Cancels a held barge after it has retracted its KV entries: AMO.and.rel.pkg.i64 on the word at s[b] with the
operand not s[c] (R204). -/
def execCancelKv (w : RegForm) (s : State) : Host.Outcome State Fault Refusal :=
  crewInstr w.guard s fun s c => do
    roomFor c .wg
    let h ← c.heldBarge (c.sreg w.a)
    let addr := c.sreg w.b
    let p ← s.crewCheck c .atomic addr 8
    s.mayRelease c 4
    let r := (s.noteAddr c addr).releaseFor c 4
    let x := ~~~(c.sreg w.c)
    let a := r.1.atomic r.2.1 p 8 (fun old => old &&& x.toNat) false
    let c1 := (r.2.1.foldWord addr 8 (a.1 &&& x.toNat)).meetPoison a.2.1 addr
    .ok (cancelHeld a.2.2 c1 h (a.2.1 || r.2.2))

/-- Retires a held barge (R204). -/
def execRetire (w : RegForm) (s : State) : Host.Outcome State Fault Refusal :=
  crewInstr w.guard s fun s c => do
    roomFor c .wg
    let h ← c.heldBarge (c.sreg w.a)
    .ok (endHeld s c h false)

/-! ## LOCKQ (R205) -/

/-- The occupancy word of a lock of the package (R205). -/
def State.lockWord (s : State) (r : LockRef) : W64 :=
  match (s.die r.die).lock r.region r.lock with
  | some l => BitVec.ofNat 64 (l.canal % 2 ^ 32 * 2 ^ 16 + l.slots.length)
  | none =>
    match (s.die r.die).recordOf r.region r.lock with
    | some a => s.sys64 r.die (a + 32)
    | none => 0

/-- Writes a lock's occupancy into s[d] (R205). -/
def execLockq (w : RegForm) (s : State) : Host.Outcome State Fault Refusal :=
  crewInstr w.guard s fun s c =>
    let v := c.sreg w.a
    match lockRef v with
    | none => bargeFault 1 v
    | some r =>
      if r.peer.isSome then bargeFault 1 v
      else .ok (s.putCrew (c.setS w.d (s.lockWord r)).advance)

/-! ## Boarding (R199, R200, R253, R256) -/

/-- What a BOARD sends: the row and record of a held barge that moves, or a child; its fields. -/
structure BoardItem where
  held : Option (Nat × Nat)
  barge : Barge
  deriving DecidableEq, Repr

/-- The kind of a child (R192, R199): K 0 keeps the parent's, or plain for a root. -/
def childKind (p : Option Barge) (k : Nat) : BitVec 2 :=
  if k = 0 then (p.map Barge.kind).getD 3 else BitVec.ofNat 2 k

/-- The child that BOARD .new makes, SEQ apart (R199). -/
def newBarge (c : Crew) (p : Option (Nat × Barge)) (k : BitVec 2) (depth : Nat) (pay : W64) : Barge :=
  let y := (p.map Prod.snd).getD Barge.zero
  { y with
    seq := 0, kind := k, depth := BitVec.ofNat 4 depth, gen := if p.isSome then y.gen + 1 else 0
    parent := (p.map fun q => recordRef c.place.die q.1).getD 0
    flags := 0, origin := 0, payload := pay, marked := false, landing := none, poisonSeq := 0 }

/-- The checks of BOARD .new on its parent, its kind and its payload (R199). -/
def State.checkNew (s : State) (c : Crew) (ref pay : W64) (k : Nat) : Eff BoardItem := do
  let p ← if ref = 0 then .ok none else (c.heldBarge ref).map some
  let b := p.map fun h => (h.2, (s.barge c.place.die h.2).getD Barge.zero)
  if ((b.map fun q => q.2.gen) = some 15) then bargeFault 3 ref
  let kind := childKind (b.map Prod.snd) k
  let depth := if kind = 2 then
                 match b with
                 | some q => if q.2.kind = 2 then q.2.depth.toNat + 1 else 1
                 | none => 1
               else 0
  if 15 < depth then bargeFault 4 ref
  if !payloadOk pay then bargeFault 6 ref
  .ok { held := none, barge := newBarge c b kind depth pay }

/-- The send credits that a die has taken towards a target (R253). -/
def Die.creditsTaken (x : Die) (pkg : Option Nat) (die : Nat) : Nat :=
  (x.sent.filter fun e => e.pkg = pkg && e.die = die).length

/-- WaitForRoom of R199: a slot or canal space, a free record for .new, and a send credit for another die. -/
def State.boardRoom (s : State) (c : Crew) (r : LockRef) (x : BoardItem) : Bool :=
  match r.peer with
  | some p => (s.die c.place.die).creditsTaken (some p) r.die < 64
  | none =>
    let y := s.die r.die
    let to_ := y.redirect r.die r.region r.lock x.barge (if r.die = c.place.die then some c.region else none)
    s.lockRoom r.die to_.1 to_.2 && (x.held.isSome || y.freeRecord.isSome) &&
      (r.die = c.place.die || (s.die c.place.die).creditsTaken none r.die < 32)

/-- The scope code of a BOARD's release (R145, R200). -/
def LockRef.scope (r : LockRef) (die : Nat) : Nat :=
  match r.peer with
  | some _ => 5
  | none => if r.die = die then 3 else 4

/-- The 80 bytes of a barge packet as ten words (R254). -/
def packetWords (r : LockRef) (myPkg die ptype : Nat) (pseq : W64) (b : Barge) : List W64 :=
  let target := r.lock + 16 * r.region + 2 ^ 12 * r.die + (match r.peer with
                                                           | some p => 2 ^ 31 + 2 ^ 16 * p
                                                           | none => 0)
  let rec_ := b.bytes
  [BitVec.ofNat 64 (target + 2 ^ 32 * myPkg + 2 ^ 48 * (16 * die + ptype)), pseq] ++
    (List.range 8).map fun i => BitVec.ofNat 64 (natOfBytes ((rec_.drop (8 * i)).take 8))

/-- The payload row's 64 words as the four beats carry them (R256); a row that cannot be read gives free values (log 8). -/
def State.payloadWords (s : State) (c : Crew) (pay : W64) : List W64 :=
  match s.spanPlaces c.accessor .read pay 512 with
  | .ok ps =>
    let bs := s.spanBytes c.place.die ps
    (List.range 64).map fun i => BitVec.ofNat 64 (natOfBytes ((bs.drop (8 * i)).take 8))
  | .error _ => (List.range 64).map fun i => Config.freeWord (s.free + i)

/-- A barge set off towards a lock of its own die: it stands among the arrivals (R231). -/
def State.boardHere (s : State) (c : Crew) (r : LockRef) (x : BoardItem) : State :=
  let d := r.die
  match x.held with
  | some h =>
    let a : Arrival :=
      { die := d, region := r.region, lock := r.lock, record := some h.2, barge := x.barge, op := some c.nextOp
        fromRegion := some c.region, sender := .core d c.place.core, cid := c.cid, credit := none, answer := none
        redirected := false, by_ := s.nodeOfCrew c, waiting := false }
    s.onFlight fun f => { f with arrivals := f.arrivals ++ [a] }
  | none =>
    let i := ((s.die d).freeRecord).getD 0
    let b : Barge := { x.barge with seq := (s.die d).nextSeq }
    let a : Arrival :=
      { die := d, region := r.region, lock := r.lock, record := some i, barge := b, op := some c.nextOp
        fromRegion := some c.region, sender := .core d c.place.core, cid := c.cid, credit := none, answer := none
        redirected := false, by_ := s.nodeOfCrew c, waiting := false }
    ((s.putBarge d i b).onDie d fun y => { y with nextSeq := y.nextSeq + 1 }).onFlight fun f =>
      { f with arrivals := f.arrivals ++ [a] }

/-- The credit that a BOARD to another die takes, and its PSEQ (R253). -/
def State.takeCredit (s : State) (c : Crew) (r : LockRef) : State :=
  let d := c.place.die
  s.onDie d fun x =>
    { x with sent := x.sent ++ [{ pkg := r.peer, die := r.die, pseq := s.nextPseq d r.peer r.die, op := c.nextOp
                                  region := c.region }] }

/-- A barge packet to another die of the package (R253). -/
def State.boardDie (s : State) (c : Crew) (r : LockRef) (x : BoardItem) : State :=
  let d := c.place.die
  let b : Barge := if x.held.isSome then x.barge else { x.barge with seq := (s.die r.die).nextSeq }
  let s1 := if x.held.isSome then s else s.onDie r.die fun y => { y with nextSeq := y.nextSeq + 1 }
  let s2 := s1.takeCredit c r
  let p : Packet :=
    { dst := r.die, target := BitVec.ofNat 32 (r.lock + 16 * r.region + 2 ^ 12 * r.die), srcDie := d
      pseq := s2.nextPseq d none r.die, barge := b, op := some c.nextOp, cid := c.cid
      clock := (s2.die d).clock, evseq := (s2.die d).evseq }
  let s3 := (s2.bumpPseq d none r.die).onFlight fun f => { f with packets := f.packets ++ [p] }
  match x.held with
  | some h => s3.freeRecord d h.2
  | none => s3

/-- A barge packet to a peer, with its payload row (R253, R256). The SEQ of a child comes from the peer's counter, which
this package does not hold: it is a free value (log 8). -/
def State.boardPeer (s : State) (c : Crew) (r : LockRef) (peer : Nat) (x : BoardItem) : State :=
  let d := c.place.die
  let beats := s.payloadWords c x.barge.payload
  let b : Barge := if x.held.isSome then x.barge else { x.barge with seq := (Config.freeWord (s.free + 64)).setWidth 48 }
  let words := packetWords r s.io.pkgId.toNat d 2 (s.nextPseq d (some peer) r.die) b ++ beats
  let earlier := (s.io.remote.filter fun q => q.op.uid = c.uid).map RemoteOp.op
  let s1 := ({ s with free := s.free + 65 }.takeCredit c r).sendFrameAfter earlier d 1 peer r.die words
  match x.held with
  | some h => s1.freeBarge d h.2
  | none => s1

/-- BOARD and BOARDI once their reference and their barge are checked (R199); with .nb it does not wait for its release
either: a frame to a peer waits at its port for the crew's earlier accesses to peers (R323). -/
def boardItem (s : State) (c : Crew) (d : BitVec 8) (r : LockRef) (x : BoardItem) (nb : Bool) : Eff State := do
  if !s.boardRoom c r x then
    if nb then .ok (s.putCrew (c.setS d 1).advance) else stalled
  else
    let scope := r.scope c.place.die
    if !nb then s.mayRelease c scope
    let q := s.releaseFor c scope
    let c1 := q.2.1
    let s1 := match r.peer with
              | some p => q.1.boardPeer c1 r p x
              | none => if r.die = c1.place.die then q.1.boardHere c1 r x else q.1.boardDie c1 r x
    let c2 := match x.held with
              | some h => c1.dropRow h.1
              | none => c1
    .ok (s1.putCrew ((c2.addOp .wg false q.2.2).setS d 0).advance)

/-- The held barge that a BOARD without .new moves. -/
def State.heldItem (s : State) (c : Crew) (ref : W64) : Eff BoardItem := do
  let h ← c.heldBarge ref
  .ok { held := some h, barge := (s.barge c.place.die h.2).getD Barge.zero }

/-- BOARD of a held barge (R199). -/
def boardBody (w : RegForm) (s : State) (c : Crew) : Eff State := do
  roomFor c .wg
  let r ← s.checkLockRef (c.sreg w.b)
  let x ← s.heldItem c (c.sreg w.a)
  boardItem s c w.d r x (w.fn.getLsbD 1)

/-- BOARD of a new barge (R199). -/
def boardNewBody (w : RegForm) (s : State) (c : Crew) : Eff State := do
  roomFor c .wg
  let r ← s.checkLockRef (c.sreg w.b)
  let x ← s.checkNew c (c.sreg w.a) (c.sreg w.c) (w.fn.extractLsb' 2 2).toNat
  boardItem s c w.d r x (w.fn.getLsbD 1)

/-- BOARDI (R193, R199). -/
def boardiBody (w : ImmForm) (s : State) (c : Crew) : Eff State := do
  roomFor c .wg
  let r ← s.checkLockRef ((w.imm.extractLsb' 0 16).setWidth 64)
  let x ← s.heldItem c (c.sreg w.a)
  boardItem s c w.d r x false

/-- Boards a held barge into a lock (R199). -/
def execBoard (w : RegForm) (s : State) : Host.Outcome State Fault Refusal := crewInstr w.guard s (boardBody w)

/-- Boards a new barge, a child of a held one or a root (R199). -/
def execBoardNew (w : RegForm) (s : State) : Host.Outcome State Fault Refusal :=
  crewInstr w.guard s (boardNewBody w)

/-- As BOARD with fn 0, on the lock reference that the immediate's bits form (R193). -/
def execBoardi (w : ImmForm) (s : State) : Host.Outcome State Fault Refusal :=
  crewInstr w.guard s (boardiBody w)

end Sys2Proof.Machine
end

