-- ==== Sys2Proof/Machine/Issue.lean ====
section
/-! DEFINITION. What a crew issues next: the fetch of its word, the instruction it decodes to, and what holds it
back (R13, R37, R143, R148, R194, R202, R360, R373). -/

namespace Sys2Proof.Machine

/-- Where a crew's word lies, or the detail of the fetch fault (R13, R345): 1 a path other than 0x00, 2 no valid entry, which
a remote address never has here (R391), 3 X = 0. -/
def State.fetchPlace (s : State) (c : Crew) : Except Nat Place :=
  if topByte c.pc != 0 then .error 1
  else if (s.remoteWindow c.pc).isSome then .error 2
  else
    match s.translate c.place.die c.place.core c.pc.toNat with
    | none => .error 2
    | some e => if !e.x then .error 3 else .ok (e.place c.pc.toNat)

/-- The word at a crew's pc, read through the die's L1s (R301), or the detail of the fetch fault. -/
def State.fetchWord (s : State) (c : Crew) : Except Nat W64 :=
  match s.fetchPlace c with
  | .ok p => .ok (BitVec.ofNat 64 (natOfBytes (s.readBytes c.place.die p 8)))
  | .error d => .error d

/-- A crew takes its core's issue slot: berths below it have had theirs in this cycle, and no word of the crew is begun. -/
def State.takeSlot (s : State) (c : Crew) : State :=
  (s.putCrew { c with begun := .no }).onCore c.place.die c.place.core fun k => { k with slot := c.place.berth + 1 }

/-- What the issue of a crew's word does before the word itself: its slot is taken, and its fetch is a read of the die
(R301, R320, R403). -/
def State.fetched (s : State) (c : Crew) : State :=
  match s.fetchPlace c with
  | .ok p => (s.takeSlot c).observe c.place.die p 8
  | .error _ => s.takeSlot c

/-- The table row that the crew issues: the decoded instruction, the illegal word, or the refused fetch. -/
def State.nextInstr (s : State) (c : Crew) : Instr :=
  match s.fetchWord c with
  | .ok w => decodeIssued w
  | .error _ => .fetchFault

/-- The scalar registers that a word names, of whatever position. -/
def scalarOperands (i : Instr) : List (BitVec 8) :=
  match regSig i with
  | some (w, g) =>
    (if g.d = .sreg then [w.d] else []) ++ (if g.a = .sreg then [w.a] else []) ++
      (if g.b = .sreg then [w.b] else []) ++ (if g.c = .sreg then [w.c] else [])
  | none =>
    match immSig i with
    | some (w, g) => (if g.d = .sreg then [w.d] else []) ++ (if g.a = .sreg then [w.a] else [])
    | none =>
      match i with
      | .pWord a b =>
        (if sopVec a.sop then [] else [a.d, a.s]) ++ (if sopVec b.sop then [] else [b.d, b.s])
      | _ => []

/-- The instruction names a register whose value is still on its way (R148, R202). -/
def Crew.hazard (c : Crew) (i : Instr) : Bool := (scalarOperands i).any fun f => c.busy.contains f

/-- A word of the crew is an access that waits at an order point (R341). -/
def Begun.isAccess (b : Begun) : Bool :=
  match b with
  | .access _ _ _ => true
  | _ => false

/-- A crew stands at the boundary at which a debug stop holds it: no operation is outstanding, no word has begun and no step is
left (R371, R373). -/
def Crew.atStop (c : Crew) : Bool := c.ops.isEmpty && c.begun = .no && !c.stepLeft

/-- A crew that a barrier wait, a debug stop, a pre-emption or a tripped die keeps from issuing (R194, R355, R371, R395); a
pre-emption waits for an access that an order point holds (R341). -/
def State.heldBack (s : State) (c : Crew) : Bool :=
  c.wait.isSome || (s.die c.place.die).gov.trip ||
    (match (s.die c.place.die).region c.region with
     | some r => (r.phase = .preempting && !c.begun.isAccess) || (r.phase = .stopping && c.atStop)
     | none => false)

/-- A crew that makes the single step of a debug stop has made it once it has issued (R373). -/
def State.afterIssue (s : State) : State :=
  match s.crewAt s.cur with
  | none => s
  | some c => if c.stepLeft then s.putCrew { c with stepLeft := false } else s

/-- The crew that `placeWord` uses: the one on the current berth with nothing that keeps it from issuing, or a crew
of 32 lanes whose entry is address 0. -/
def State.readyCrew (s : State) : Crew :=
  match s.crewAt s.cur with
  | none => Crew.start s.nextUid s.cur [] 0 32
  | some c =>
    { c with
      pc := if topByte c.pc = 0 && (s.remoteWindow c.pc).isNone then c.pc else 0
      wait := none, busy := [], exitPending := false, poison := none, begun := .no }

/-- Eight bytes put where the crew on the current berth fetches next: a crew is there and may issue, the page of its
pc is mapped executable in the core's TLB when it is not yet, and no turn of the agenda comes before it. -/
def State.placeWord (s : State) (bytes : List Byte) : State :=
  let c := s.readyCrew
  let s1 := { ((s.putCrew c).onRegion c.place.die c.region (fun r => { r with phase := .running })).onCore c.place.die c.place.core
                (fun k => { k with slot := 0 }) with agenda := [] }
  let va := c.pc.toNat
  let page := va / 65536 * 65536
  let fresh : TlbEntry :=
    { va := page, size := 65536, pa := page % 2 ^ 36, r := true, w := true, x := true, key := 0 }
  let old := (s1.translate c.place.die c.place.core va).filter fun e => e.x
  let e := old.getD fresh
  let s2 := if old.isSome then s1 else s1.onCore c.place.die c.place.core fun k => { k with tlb := fresh :: k.tlb }
  s2.engineBytes c.place.die (e.place va) bytes

end Sys2Proof.Machine
end

