-- ==== Sys2Proof/Machine/Control.lean ====
section
/-! DEFINITION. Transfers of control, masks, divergence, WAIT and the special registers (R92 to R109); the word
that is no instruction and the refused fetch (R13, R37). -/

namespace Sys2Proof.Machine

/-! ## Transfers of control (R92, R93) -/

/-- PC + 8 times the signed immediate, modulo 2^64 (R92). -/
def branchTarget (pc : W64) (w : ImmForm) : W64 := pc + (immSigned w <<< 3)

/-- A branch of an immediate form, taken or not. -/
def branchIf (w : ImmForm) (s : State) (taken : Crew → Bool) : Host.Outcome State Fault Refusal :=
  crewInstr w.guard s fun s c =>
    .ok (s.putCrew (if taken c then { c with pc := branchTarget c.pc w } else c.advance))

/-- PC := target (R92). -/
def execBr (w : ImmForm) (s : State) : Host.Outcome State Fault Refusal := branchIf w s fun _ => true

/-- Taken if s[a] = 0 (R92). -/
def execBrz (w : ImmForm) (s : State) : Host.Outcome State Fault Refusal := branchIf w s fun c => c.sreg w.a == 0

/-- Taken if s[a] is not 0 (R92). -/
def execBrnz (w : ImmForm) (s : State) : Host.Outcome State Fault Refusal := branchIf w s fun c => c.sreg w.a != 0

/-- Taken if Mask(a) and the current mask meet (R92). -/
def execBrany (w : ImmForm) (s : State) : Host.Outcome State Fault Refusal :=
  branchIf w s fun c => c.mask w.a &&& c.cur != 0

/-- Taken if the current mask is contained in Mask(a) (R92). -/
def execBrall (w : ImmForm) (s : State) : Host.Outcome State Fault Refusal :=
  branchIf w s fun c => c.cur &&& ~~~(c.mask w.a) == 0

/-- s[d] := PC + 8; PC := target (R92). -/
def execCall (w : ImmForm) (s : State) : Host.Outcome State Fault Refusal :=
  crewInstr w.guard s fun s c =>
    .ok (s.putCrew { c.setS w.d (c.pc + 8) with pc := branchTarget c.pc w })

/-- A jump to a register's value, whose alignment is checked before anything changes (R93). -/
def jumpTo (s : State) (c c' : Crew) (target : W64) : Eff State :=
  if target.extractLsb' 0 3 != 0 then raise 3 1 [target]
  else .ok (s.putCrew { c' with pc := target, place := c.place })

/-- PC := s[a] (R92). -/
def execJmp (w : RegForm) (s : State) : Host.Outcome State Fault Refusal :=
  crewInstr w.guard s fun s c => jumpTo s c c (c.sreg w.a)

/-- PC := s[a]; the trace names it another kind of branch (R92). -/
def execRet (w : RegForm) (s : State) : Host.Outcome State Fault Refusal :=
  crewInstr w.guard s fun s c => jumpTo s c c (c.sreg w.a)

/-- t := s[a]; s[d] := PC + 8; PC := t (R92). -/
def execCallr (w : RegForm) (s : State) : Host.Outcome State Fault Refusal :=
  crewInstr w.guard s fun s c => jumpTo s c (c.setS w.d (c.pc + 8)) (c.sreg w.a)

/-! ## Masks (R95) -/

/-- With fn 1 the result is ANDed with the current mask (R95). -/
def curPart (w : RegForm) (c : Crew) (m : Mask) : Mask := if w.fn = 1 then m &&& c.cur else m

/-- A mask instruction that writes a mask register. -/
def maskStep (w : RegForm) (s : State) (f : Mask → Mask → Mask) : Host.Outcome State Fault Refusal :=
  crewStep w.guard s fun c => c.setM w.d (curPart w c (f (c.mask w.a) (c.mask w.b)))

/-- Mask(a) and Mask(b) (R95). -/
def execMand (w : RegForm) (s : State) : Host.Outcome State Fault Refusal := maskStep w s fun x y => x &&& y
/-- Mask(a) or Mask(b) (R95). -/
def execMor (w : RegForm) (s : State) : Host.Outcome State Fault Refusal := maskStep w s fun x y => x ||| y
/-- Mask(a) xor Mask(b) (R95). -/
def execMxor (w : RegForm) (s : State) : Host.Outcome State Fault Refusal := maskStep w s fun x y => x ^^^ y
/-- Not Mask(a) (R95). -/
def execMnot (w : RegForm) (s : State) : Host.Outcome State Fault Refusal := maskStep w s fun x _ => ~~~x

/-- The number of set lanes below L (R95). -/
def execMcnt (w : RegForm) (s : State) : Host.Outcome State Fault Refusal :=
  scalarStep w.guard w.d s fun c => BitVec.ofNat 64 (countLanes c.lanes (curPart w c (c.mask w.a)))

/-- 1 if any lane below L is set (R95). -/
def execMany (w : RegForm) (s : State) : Host.Outcome State Fault Refusal :=
  scalarStep w.guard w.d s fun c => flagWord (curPart w c (c.mask w.a) &&& c.allLanes != 0)

/-! ## Divergence (R96 to R100) -/

/-- JoinAction of R98 on the stack, whose top is first; it repeats while the restored mask is empty and entries are left. -/
def joinAction (live : Mask) : List StackEntry → Crew → Crew
  | [], c => c
  | e :: rest, c =>
    let m := e.mask &&& live
    let c' : Crew := { c with stack := rest, cur := m, pc := if e.kind = .path then e.addr else e.addr + 8 }
    if m = 0 && !rest.isEmpty then joinAction live rest c' else c'

/-- A crew whose current mask and rejoin stack are both empty ends (R99); any other crew stands on its berth. -/
def State.settle (s : State) (c : Crew) : State :=
  if c.cur = 0 && c.stack.isEmpty then s.endCrew { c with live := 0 } .exited else s.putCrew c

/-- The join address of the nearest MARK entry (R98). -/
def nearestMark (st : List StackEntry) : Option W64 := (st.find? fun e => e.kind = .mark).map StackEntry.addr

/-- A divergence fault: its INFO word is RDEPTH (R100, R345). -/
def divergence {α : Type} (c : Crew) (detail : Nat) : Eff α := raise 7 detail [c.rdepth]

/-- Pushes a MARK entry that holds the current mask (R97). -/
def execMark (w : ImmForm) (s : State) : Host.Outcome State Fault Refusal :=
  crewInstr w.guard s fun s c =>
    if c.stack.length = 16 then divergence c 1
    else .ok (s.putCrew { c with stack := ⟨.mark, c.cur, branchTarget c.pc w⟩ :: c.stack }.advance)

/-- The divergent branch: the taken lanes run first, the others wait in a PATH entry (R97). -/
def execBrd (w : ImmForm) (s : State) : Host.Outcome State Fault Refusal :=
  crewInstr w.guard s fun s c =>
    let t := guardSet w.guard c
    if t = 0 then .ok (s.putCrew c.advance)
    else if t = c.cur then .ok (s.putCrew { c with pc := branchTarget c.pc w })
    else if c.stack.length = 16 then divergence c 1
    else .ok (s.putCrew { c with stack := ⟨.path, c.cur &&& ~~~t, c.pc + 8⟩ :: c.stack, cur := t, pc := branchTarget c.pc w })

/-- Rejoins: the top entry's lanes that have not exited run on (R98, R99). -/
def execJoin (w : RegForm) (s : State) : Host.Outcome State Fault Refusal :=
  crewInstr w.guard s fun s c =>
    if c.stack.isEmpty then divergence c 2
    else if nearestMark c.stack != some c.pc then divergence c 3
    else .ok (s.settle (joinAction c.live c.stack c))

/-- The lanes of a set exit: they leave Live(), the current mask and every entry of the rejoin stack; an empty
current mask over a stack takes JoinAction at once (R99, R217). -/
def Crew.exitLanes (c : Crew) (e : Mask) : Crew :=
  let live := c.live &&& ~~~e
  let stack := c.stack.map fun x => { x with mask := x.mask &&& ~~~e }
  let c' : Crew := { c with live := live, cur := c.cur &&& ~~~e, stack := stack, pc := c.pc + 8 }
  if c'.cur = 0 && !stack.isEmpty then joinAction live stack c' else c'

/-- Removes the lanes of E (R217). -/
def execExit (w : RegForm) (s : State) : Host.Outcome State Fault Refusal :=
  crewInstr w.guard s fun s c => .ok (s.settle (c.exitLanes (guardSet w.guard c)))

/-! ## NOP and WAIT (R35, R102) -/

/-- Changes the pc alone (R35). -/
def execNop (w : RegForm) (s : State) : Host.Outcome State Fault Refusal := crewStep w.guard s fun c => c

/-- A WAIT that ends gives the selected error bits and clears them (R102). -/
def Crew.endWaitWord (c : Crew) (w : RegForm) : Crew :=
  { c.setS w.d (waitStatus c.werr w.fn) with werr := waitClears c.werr w.fn }.advance

/-- WAIT on its counters (R102); one that waits has begun, and a debug stop lets it end first (R371). -/
def waitBody (w : RegForm) (s : State) (c : Crew) : Eff State :=
  .ok (s.putCrew (if c.waits w.fn (c.sreg w.a).toNat then { c with begun := .wait } else c.endWaitWord w))

/-- Waits until no selected counter is above s[a], then gives and clears the selected error bits (R102). -/
def execWait (w : RegForm) (s : State) : Host.Outcome State Fault Refusal := crewInstr w.guard s (waitBody w)

/-! ## Special registers (R105 to R109) -/

/-- SLICEHASH, PC, CYCLE and the crew's registers as GETSR reads them (R106). -/
def State.readSr (s : State) (c : Crew) (n : Nat) : W64 :=
  if n = 0x000 then c.pc
  else if n = 0x001 then c.crewReg
  else if n = 0x002 then BitVec.ofNat 64 c.lanes
  else if n = 0x003 then (summaryOf c.cur).setWidth 64
  else if n = 0x004 then c.rdepth
  else if n = 0x005 then c.wcnt
  else if n = 0x006 then c.werr.setWidth 64
  else if n = 0x007 then c.cflags.setWidth 64
  else if n = 0x008 then BitVec.ofNat 64 s.now
  else if 0x010 ≤ n && n ≤ 0x01F then (c.fmt (n - 0x10)).setWidth 64
  else if 0x020 ≤ n && n ≤ 0x02F then ((s.core c.place.die c.place.core).shared[n - 0x20]?).getD 0
  else s.io.sliceHash

/-- The register number of GETSR and SETSR. -/
def srNumber (w : ImmForm) : Nat := (w.imm.extractLsb' 0 12).toNat

/-- s[d] := the register's value (R105). -/
def execGetsr (w : ImmForm) (s : State) : Host.Outcome State Fault Refusal :=
  crewInstr w.guard s fun s c => .ok (s.putCrew (c.setS w.d (s.readSr c (srNumber w))).advance)

/-- The reserved bits of a special register (R106 to R108). Of a format register R63 maps bits 31:0 alone; that bits 63:32 of the
value written are reserved as well is the model's reading (DEDUCED, log 90). -/
def srReserved (n : Nat) : W64 :=
  if n = 0x001 then 0xFFFFFF0000000010
  else if n = 0x002 then ~~~0x7FF#64
  else if n = 0x003 then 0xFFFFFFFF00000000
  else if n = 0x004 then ~~~0x3F#64
  else if n = 0x005 then 0xFFFFFF0000000000
  else if n = 0x006 then ~~~0x3F#64
  else if n = 0x007 then ~~~0x3#64
  else if 0x010 ≤ n && n ≤ 0x01F then ~~~0x1FF1F#64
  else 0

/-- The fields of a special register that a crew's write changes: the error and flag bits that a one clears, a format
register; every other field is read-only (R106, R108). -/
def Crew.writeSr (c : Crew) (n : Nat) (v : W64) : Crew :=
  if n = 0x006 then { c with werr := c.werr &&& ~~~(v.setWidth 6) }
  else if n = 0x007 then { c with cflags := c.cflags &&& ~~~(v.setWidth 2) }
  else if 0x010 ≤ n && n ≤ 0x01F then { c with fmts := c.fmts.setIfInBounds (n - 0x10) (v.setWidth 32) }
  else c

/-- A write to a core-shared register queued for the end of the cycle (R104). -/
def State.queueShared (s : State) (die core : Nat) (x : SharedWrite) : State :=
  s.onCore die core fun k => { k with sharedWrites := k.sharedWrites ++ [x] }

/-- Writes a special register, or sets, clears or inverts bits of a core-shared one (R105). No rule says which detail a write to
a format register reports that has both a reserved bit and an invalid value; the model gives 1, the reserved bit
(DESIGN CHOICE, log 90). -/
def execSetsr (w : ImmForm) (s : State) : Host.Outcome State Fault Refusal :=
  crewInstr w.guard s fun s c =>
    let n := srNumber w
    let v := c.sreg w.a
    if n = 0x040 then .ok (s.putCrew c.advance)
    else if 0x020 ≤ n && n ≤ 0x02F then
      .ok ((s.putCrew c.advance).queueShared c.place.die c.place.core
        { berth := c.place.berth, reg := n - 0x20, op := w.imm.extractLsb' 12 2, value := v })
    else if v &&& srReserved n != 0 then raise 8 1 [BitVec.ofNat 64 n, v]
    else if 0x010 ≤ n && n ≤ 0x01F && fmInvalid (v.setWidth 32) then raise 8 2 [BitVec.ofNat 64 n, v]
    else .ok (s.putCrew (c.writeSr n v).advance)

/-! ## Words that do not issue (R13, R37) -/

/-- An illegal word kills its crew, whatever its guard: cause 1, the decode reason, and the word (R37). -/
def execIllegalWord (x : W64) (s : State) : Host.Outcome State Fault Refusal :=
  anyInstr s fun _ _ =>
    match decodeWord x with
    | .error r => raise 1 r [x]
    | .ok _ => raise 1 0 [x]

/-- A refused fetch kills the crew: cause 2 with the fetch address (R13, R345). -/
def execFetchFault (s : State) : Host.Outcome State Fault Refusal :=
  anyInstr s fun s c =>
    match s.fetchWord c with
    | .error d => raise 2 d [c.pc]
    | .ok _ => .ok s

end Sys2Proof.Machine
end

