-- ==== Sys2Proof/Machine/Copies.lean ====
section
/-! DEFINITION. Copy channels and affine stream engines (R153, R156 to R162, R236). -/

namespace Sys2Proof.Machine

/-! ## A chunk of a copy (R156, R157) -/

/-- Bytes per element of a shape's type; 0 for a type that names no width (R156). -/
def Shape.elemBytes (h : Shape) : Nat := ((etyType h.ty 0).map ElemTy.width).getD 0 / 8

/-- The source spans of n bytes of a copy from an offset (R156, R236). -/
def CopyJob.sources (j : CopyJob) (off n : Nat) : List (W64 × Nat) :=
  match j.kind with
  | .shaped h =>
    let b := max 1 h.elemBytes
    (List.range (n / b)).map fun i => (j.src + BitVec.ofInt 64 (h.offset (off / b + i) * b), b)
  | .gather rows _ => (List.range (n / 512)).map fun i => ((rows[off / 512 + i]?).getD 0, 512)
  | _ => [(j.src + BitVec.ofNat 64 off, n)]

/-- The places of a chunk: every source byte, then every destination byte (R142, R157). -/
def State.chunkPlaces (s : State) (j : CopyJob) (off n : Nat) :
    Except (Nat × W64) (List (Place × Nat) × List (Place × Nat)) := do
  let a ← s.spansPlaces j.agent.accessor .read (j.sources off n)
  let b ← s.spanPlaces j.agent.accessor .write (j.dst + BitVec.ofNat 64 off) n
  .ok (a, b)

/-- The length of the chunk at an offset (R157). -/
def CopyJob.chunkLen (j : CopyJob) : Nat := min 4096 (j.len - j.off)

/-- A copy queued: it restarts a channel that stands stopped (R159). -/
def State.enqueueCopy (s : State) (die core ch : Nat) (j : CopyJob) : State :=
  s.onChan die core ch fun x => { x with jobs := x.jobs ++ [j], halted := false }

/-- A copy's end: its counter, and the full bit of a buffer that it filled or released (R170, R182, R183, R236). A gather
copy fills its buffer whatever marks its data carried; only a stop keeps the bit from it. -/
def State.endCopy (s : State) (die core : Nat) (j : CopyJob) (stopped err : Bool) : State :=
  let s1 := s.finishOp? j.op err
  match j.kind with
  | .tld b => if err then s1 else s1.setFull die core b true
  | .gather _ b => if stopped then s1 else s1.setFull die core b true
  | .tst b rel => if rel && !err then s1.setFull die core b false else s1
  | _ => s1

/-- A check of a chunk has failed: the channel stops with WP at the chunk's boundary, the fault is recorded, and the
copy and every copy behind it complete with an error (R159); a TLD leaves its buffer empty (R182). -/
def State.stopChannel (s : State) (die core ch : Nat) (j : CopyJob) (detail : Nat) (addr : W64) : State :=
  let x := s.chan die core ch
  let s1 := s.agentFault j.agent detail [addr, j.src, j.dst, BitVec.ofNat 64 j.len, x.wp]
  let s2 := match j.kind with
            | .tld b => s1.setFull die core b false
            | _ => s1
  let s3 := x.jobs.foldl (fun t k => t.endCopy die core k true true) s2
  s3.onChan die core ch fun y => { y with jobs := [], halted := true }

/-- Whether the copy at a channel's head may run its next chunk: no matrix command still reads a TLD's buffer, and a
TST's buffer is full at its start (R182, R183). -/
def State.copyReady (s : State) (die core : Nat) (j : CopyJob) : Bool :=
  match j.kind with
  | .tld _ => !(j.after.any fun r => (s.core die core).matrix.holds r)
  | .tst b _ => j.off != 0 || s.isFull die core b
  | _ => true

/-- The crew that a copy serves, with the window of the weir it is bound to (R210). -/
def State.copyWindow (s : State) (a : Agent) : Option (Nat × WeirBinding × Nat × Nat) :=
  (a.uid.bind s.findCrew).bind fun c => (s.weirWindow c).map fun w => (c.uid, w)

/-- One part of a copy landed: bytes in the window of the crew's weir travel to the bank as provisional values (R210). -/
def State.landPart (s : State) (die : Nat) (w : Nat × WeirBinding × Nat × Nat) (p : Place) (bs : List Byte)
    (ms : List Bool) : State :=
  match p with
  | .chip k =>
    let lo := max k w.2.2.1
    let hi := min (k + bs.length) (w.2.2.1 + w.2.2.2)
    if hi ≤ lo then s.landSpan die [(p, bs.length)] bs ms
    else
      let s1 := s.landSpan die [(p, lo - k)] bs ms
      let s2 := s1.onFlight fun f =>
        { f with provs := f.provs ++ [{ uid := w.1, record := w.2.1.record, home := w.2.1.home, slot := w.2.1.slot, key := lo
                                        bytes := (bs.drop (lo - k)).take (hi - lo)
                                        marks := (ms.drop (lo - k)).take (hi - lo) }] }
      s2.landSpan die [(.chip hi, k + bs.length - hi)] (bs.drop (hi - k)) (ms.drop (hi - k))
  | p => s.landSpan die [(p, bs.length)] bs ms

/-- The bytes of a copy landed on its destination (R143, R210). -/
def State.landCopy (s : State) (die : Nat) (a : Agent) (ps : List (Place × Nat)) (bs : List Byte) (ms : List Bool) : State :=
  match s.copyWindow a with
  | none => s.landSpan die ps bs ms
  | some w =>
    (ps.foldl (fun (t : State × List Byte × List Bool) p =>
      (t.1.landPart die w p.1 (t.2.1.take p.2) (t.2.2.take p.2), t.2.1.drop p.2, t.2.2.drop p.2)) (s, bs, ms)).1

/-- The places of the first n bytes of a span, and the rest. -/
def splitSpan : Nat → List (Place × Nat) → List (Place × Nat) × List (Place × Nat)
  | _, [] => ([], [])
  | n, (p, m) :: rest =>
    if n = 0 then ([], (p, m) :: rest)
    else if m ≤ n then ((p, m) :: (splitSpan (n - m) rest).1, (splitSpan (n - m) rest).2)
    else ([(p, n)], (p.plus n, m - n) :: rest)

/-- The copy at a channel's head as it goes on. -/
def State.setHead (s : State) (die core ch : Nat) (j : CopyJob) : State :=
  s.onChan die core ch fun x => { x with jobs := j :: x.jobs.tail }

/-- The copy at a channel's head has completed (R157). -/
def State.popCopy (s : State) (die core ch : Nat) (j : CopyJob) : State :=
  (s.onChan die core ch fun x => { x with jobs := x.jobs.tail }).endCopy die core j false j.bad

/-- The next chunk of the copy at a channel's head is checked, and read whole before a byte of it lands (R157). -/
def State.readChunk (s : State) (die core ch : Nat) (j : CopyJob) : State :=
  match s.chunkPlaces j j.off j.chunkLen with
  | .error e => s.stopChannel die core ch j e.1 e.2
  | .ok (src, dst) =>
    if s.spanHeld j.agent.cid src then s.spanWaits j.agent.cid src
    else
      let ms := s.spanMarks die src
      let x : CopyChunk := { dst := dst, bytes := s.spanBytes die src, marks := ms, old := false }
      ((s.observeSpan die src).spanServed j.agent.cid src).setHead die core ch
        { j with chunk := some x, bad := j.bad || ms.any id }

/-- The next piece of the chunk in flight lands: 128 bytes, or what is left of the chunk; then WP moves on (R157). The first
byte of a TLD empties its buffer (R182). -/
def State.landPiece (s : State) (die core ch : Nat) (j : CopyJob) (x : CopyChunk) : State :=
  let n := min 128 x.bytes.length
  let cut := splitSpan n x.dst
  if s.spanHeld j.agent.cid cut.1 then s.spanWaits j.agent.cid cut.1
  else
    let s1 := match j.kind with
              | .tld b => if j.off = 0 then s.setFull die core b false else s
              | _ => s
    let s2 := (s1.landCopy die j.agent cut.1 (x.bytes.take n) (x.marks.take n)).spanServed j.agent.cid cut.1
    let s3 := s2.onChan die core ch fun y => { y with wp := y.wp + BitVec.ofNat 64 n }
    let rest : CopyChunk := { x with dst := cut.2, bytes := x.bytes.drop n, marks := x.marks.drop n }
    let j1 : CopyJob := { j with off := j.off + n, chunk := if rest.bytes.isEmpty then none else some rest }
    if j1.off < j1.len then s3.setHead die core ch j1 else s3.popCopy die core ch j1

/-- The turn of the copy at a channel's head: a copy of length 0 completes; a chunk is read; a piece of it lands (R157). -/
def State.runCopy (s : State) (die core ch : Nat) (j : CopyJob) : State :=
  match j.chunk with
  | some x => s.landPiece die core ch j x
  | none => if j.off < j.len then s.readChunk die core ch j else s.popCopy die core ch j

/-- Whether a copy is a lock's gather copy. -/
def CopyJob.isGather (j : CopyJob) : Bool :=
  match j.kind with
  | .gather _ _ => true
  | _ => false

/-- The copy that a channel may run now, gather copy or not: a pre-empted or flushed core's channel stops at a chunk
boundary, so a chunk in flight still lands (R157, R159, R354). -/
def State.dueCopy (s : State) (die core ch : Nat) (gather : Bool) : Option CopyJob :=
  (s.chan die core ch).jobs.head?.filter fun j =>
    j.isGather == gather && (j.chunk.isSome || (!s.coreStopped die core && s.copyReady die core j))

/-- A copy channel reads a chunk of the copy at its head, or lands one piece of it (R157). -/
def execCopyChunk (die core ch : Nat) (s : State) : Host.Outcome State Fault Refusal :=
  match s.dueCopy die core ch false with
  | none => .next s
  | some j => .next (s.runCopy die core ch j)

/-- A lock's gather copy reads payload rows or lands a piece of them, and its last piece sets the buffer's full bit (R236). -/
def execGatherCopy (die core ch : Nat) (s : State) : Host.Outcome State Fault Refusal :=
  match s.dueCopy die core ch true with
  | none => .next s
  | some j => .next (s.runCopy die core ch j)

/-! ## CPY and CHWAIT (R156, R158) -/

/-- A set-up value out of range (R142, detail 6). -/
def setupFault {α : Type} (addr : W64) : Eff α := memFault 6 addr

/-- The kind and length of a CPY, whose limits are checked (R156). -/
def State.cpyShape (s : State) (c : Crew) (w : RegForm) : Eff (CopyKind × Nat) :=
  if w.fn.getLsbD 0 then
    let h := s.shape c.place.die c.region (w.c.toNat - 0x60)
    if h.elemBytes = 0 || 2 ^ 40 ≤ h.points * h.elemBytes then setupFault (c.sreg w.b)
    else .ok (.shaped h, h.points * h.elemBytes)
  else if 2 ^ 40 ≤ (c.sreg w.c).toNat then setupFault (c.sreg w.b)
  else .ok (.linear, (c.sreg w.c).toNat)

/-- Room on a channel: 8 queued copies (R156). -/
def State.roomOn (s : State) (c : Crew) (ch : Nat) : Eff Unit :=
  if (s.chan c.place.die c.place.core ch).jobs.length < 8 then .ok () else stalled

/-- A span of a first chunk checked at issue (R142, R156). -/
def checkFirst {α : Type} (r : Except (Nat × W64) α) : Eff α :=
  match r with
  | .ok x => .ok x
  | .error e => memFault e.1 e.2

/-- Queues one copy; its first chunk alone is checked at issue (R156). -/
def execCpy (w : RegForm) (s : State) : Host.Outcome State Fault Refusal :=
  crewInstr w.guard s fun s c => do
    let ch := chanIndex w.d
    roomFor c .wc
    s.roomOn c ch
    let k ← s.cpyShape c w
    let j : CopyJob := { kind := k.1, dst := c.sreg w.a, src := c.sreg w.b, len := k.2, off := 0, chunk := none, bad := false
                         op := some c.nextOp, agent := c.agent, after := [] }
    let _ ← checkFirst (s.chunkPlaces j 0 j.chunkLen)
    .ok ((s.enqueueCopy c.place.die c.place.core ch j).putCrew (c.addOp .wc false false).advance)

/-- CHWAIT on a channel's write pointer (R158). -/
def chwaitBody (w : RegForm) (s : State) (c : Crew) : Eff State :=
  let x := s.chan c.place.die c.place.core (chanIndex w.a)
  let want := c.sreg w.b
  if x.wp < want && !x.halted then stalled
  else
    let c1 := if x.wp < want then c.setErr .wc else c
    .ok (s.putCrew (c1.setS w.d x.wp).advance)

/-- Waits until a channel's write pointer reaches s[b] or the channel is stopped by a fault, then reads WP (R158). -/
def execChwait (w : RegForm) (s : State) : Host.Outcome State Fault Refusal := crewInstr w.guard s (chwaitBody w)

/-- DONE of a channel's endpoint (R158). -/
def State.endpointDone (s : State) (die core n : Nat) : Bool :=
  match (s.chan die core n).endpoint with
  | .rowQueue => false
  | .stream e =>
    let x := s.stream die core e
    x.isWrite || x.state = .idle || x.state = .done || x.state = .faulted
  | .drainPort => !(s.core die core).matrix.drainsOn n
  | .lockOut _ => true

/-- ERR of a channel's endpoint (R158). -/
def State.endpointErr (s : State) (die core n : Nat) : Bool :=
  match (s.chan die core n).endpoint with
  | .stream e => (s.stream die core e).state = .faulted
  | _ => false

/-- The rows that an endpoint can hold (R154, R161, R184). -/
def State.endpointDepth (s : State) (die core n : Nat) : Nat :=
  match (s.chan die core n).endpoint with
  | .stream _ => 4
  | .lockOut _ => 0
  | _ => 8

/-- The rows that an endpoint holds; a write stream's are all that wait to be stored, a stopped stream's with them (R158, R162). -/
def State.rowCount (s : State) (die core n : Nat) : Nat :=
  match (s.chan die core n).endpoint with
  | .stream e => (s.stream die core e).waiting
  | _ => (s.rowsOf die core n).length

/-- The status of CHWAIT.rows (R158). -/
def State.rowStatus (s : State) (die core n : Nat) : W64 :=
  let de := (((s.rowsOf die core n).head?.map Row.de).getD 0).toNat
  BitVec.ofNat 64 (s.rowCount die core n + 256 * de + (if s.endpointDone die core n then 4096 else 0) +
    (if s.endpointErr die core n then 8192 else 0))

/-- CHWAIT on the rows of an endpoint (R158). -/
def chwaitRowsBody (w : RegForm) (s : State) (c : Crew) : Eff State :=
  let d := c.place.die
  let k := c.place.core
  let n := chanIndex w.a
  if s.rowCount d k n < min (c.sreg w.b).toNat (s.endpointDepth d k n) && !s.endpointDone d k n &&
      !s.endpointErr d k n then stalled
  else .ok (s.putCrew (c.setS w.d (s.rowStatus d k n)).advance)

/-- Waits until an endpoint holds the rows asked for, or reports DONE or ERR, then reads its status (R158). -/
def execChwaitRows (w : RegForm) (s : State) : Host.Outcome State Fault Refusal := crewInstr w.guard s (chwaitRowsBody w)

/-! ## Stream engines (R160 to R162) -/

/-- The set-up checks of SECFG on its control word and shape (R160). -/
def streamSetupBad (ctl : W64) (h : Shape) : Bool :=
  let w := ((etyType h.ty 0).map ElemTy.width).getD 0
  ctl.extractLsb' 12 52 != 0 || tagReserved false (ctl.extractLsb' 4 8) || w = 0 ||
    (w = 4 && h.stride.any fun x => x % 2 != 0)

/-- An endpoint of a channel changed; an engine or a drain port that leaves goes unbound (R160, R184). -/
def State.bindEndpoint (s : State) (die core n : Nat) (e : Endpoint) : State :=
  let s1 := match (s.chan die core n).endpoint with
            | .stream i => s.onStream die core i fun x => { x with chan := none }
            | .drainPort => s.onCore die core fun k => { k with matrix := { k.matrix with drainChan := none } }
            | _ => s
  s1.onChan die core n fun x => { x with endpoint := e }

/-- A stream engine configured and bound to a channel, under a crew or on behalf of RANGE (R160, R208). -/
def State.configStream (s : State) (c : Crew) (n : Nat) (base ctl : W64) (h : Shape) : Eff State :=
  let d := c.place.die
  let k := c.place.core
  let e := (ctl.extractLsb' 0 3).toNat
  if streamSetupBad ctl h then setupFault base
  else if (s.stream d k e).state = .running then memFault 7 base
  else if (s.chan d k n).endpoint = .drainPort then memFault 7 base
  else
    match (s.chan d k n).endpoint with
    | .lockOut _ => memFault 7 base
    | _ =>
      let s1 := match (s.stream d k e).chan with
                | some m => s.onChan d k m fun x => { x with endpoint := .rowQueue }
                | none => s
      let s2 := s1.bindEndpoint d k n (.stream e)
      .ok (s2.onStream d k e fun _ =>
        { state := .ready, base := base, shape := h, ctl := ctl, chan := some n, width := c.lanes, next := 0, rows := []
          agent := c.agent, tails := (s.stream d k e).tails })

/-- Configures a stream engine and binds it to qd (R160). -/
def execSecfg (w : RegForm) (s : State) : Host.Outcome State Fault Refusal :=
  crewInstr w.guard s fun s c => do
    let h := s.shape c.place.die c.region (w.b.toNat - 0x60)
    let t ← s.configStream c (chanIndex w.d) (c.sreg w.a) (c.sreg w.c) h
    .ok (t.putCrew c.advance)

/-- The engine bound to a channel; a channel with none raises detail 7 (R162). -/
def State.engineOf (s : State) (c : Crew) (n : Nat) : Eff Nat :=
  match (s.chan c.place.die c.place.core n).endpoint with
  | .stream e => .ok e
  | _ => memFault 7 0

/-- SEGO on an engine (R162). -/
def State.startStream (s : State) (c : Crew) (e : Nat) : Eff State :=
  let d := c.place.die
  let k := c.place.core
  match (s.stream d k e).state with
  | .idle => memFault 7 (s.stream d k e).base
  | .faulted => memFault 7 (s.stream d k e).base
  | .running => .ok s
  | _ => .ok (s.onStream d k e fun x => { x with state := .running, next := 0, rows := [] })

/-- Starts the engine bound to qd (R162). -/
def execSego (w : RegForm) (s : State) : Host.Outcome State Fault Refusal :=
  crewInstr w.guard s fun s c => do
    let e ← s.engineOf c (chanIndex w.d)
    let t ← s.startStream c e
    .ok (t.putCrew c.advance)

/-- A stopped write stream's rows and walk, with the SESTOP that waits for them (R162). -/
def Stream.tail (x : Stream) (op : OpRef) : StreamTail :=
  { base := x.base, shape := x.shape, ctl := x.ctl, width := x.width, next := x.next, rows := x.rows, agent := x.agent
    stops := [op] }

/-- One more SESTOP waits for the last of the rows that are not yet stored (R162). -/
def addStop (op : OpRef) : List StreamTail → List StreamTail
  | [] => []
  | [t] => [{ t with stops := t.stops ++ [op] }]
  | t :: rest => t :: addStop op rest

/-- A stream after SESTOP, and whether the SESTOP waits for stores: a read stream that ran drops its prefetched rows, a
write stream that ran goes on storing the rows already pushed (R162). -/
def Stream.stopped (x : Stream) (op : OpRef) : Stream × Bool :=
  if x.isWrite then
    if x.state = .running && !x.rows.isEmpty then
      ({ x with state := .done, rows := [], tails := x.tails ++ [x.tail op] }, true)
    else ({ x with state := .done, tails := addStop op x.tails }, !x.tails.isEmpty)
  else ({ x with state := .done, rows := if x.state = .running then [] else x.rows }, false)

/-- Stops the engine bound to qd; it counts in wc until every store of a write stream is complete (R162). -/
def execSestop (w : RegForm) (s : State) : Host.Outcome State Fault Refusal :=
  crewInstr w.guard s fun s c => do
    roomFor c .wc
    let d := c.place.die
    let k := c.place.core
    let e ← s.engineOf c (chanIndex w.d)
    let x := s.stream d k e
    if x.state = .idle then memFault 7 x.base
    else
      let r := x.stopped c.nextOp
      .ok ((s.onStream d k e fun _ => r.1).putCrew (c.addOp .wc (!r.2) false).advance)

/-- The address of point k of a stream (R161). -/
def Stream.point (x : Stream) (k : Nat) : W64 :=
  let w : Int := ((etyType x.shape.ty 0).map ElemTy.width).getD 8
  x.base + BitVec.ofInt 64 (x.shape.offset k * w / 8)

/-- The dimension-end bits of the row that holds points first to last: bit m is set when some point stands at the last
value of dimensions 0 to m (R161). -/
def Stream.dimEnds (x : Stream) (points : List Nat) : BitVec 4 :=
  let e (i : Nat) : Nat := x.shape.extent i
  let last (m p : Nat) : Bool := (List.range (m + 1)).all fun i => ((x.shape.index p)[i]?).getD 0 + 1 = e i
  BitVec.ofNat 4 ((List.range 4).foldl (fun a m => if points.any (last m) then a + 2 ^ m else a) 0)

/-- The points of a stream's next row. -/
def Stream.rowPoints (x : Stream) : List Nat :=
  (List.range x.width).filterMap fun l => if x.next + l < x.shape.points then some (x.next + l) else none

/-- A point that fails its check stops the engine and is recorded (R161); rows of a write stream that are not yet stored,
and the SESTOPs that wait for them, end with it. `x` is the walk that fails: the engine's, or a stopped stream's. -/
def State.stopStream (s : State) (die core e : Nat) (x : Stream) (detail : Nat) (addr : W64) : State :=
  let n := BitVec.ofNat 64 (4 * x.shape.points)
  let wp := (x.chan.map fun c => (s.chan die core c).wp).getD 0
  let ends := if x.isWrite then [addr, 0, x.base, n, wp] else [addr, x.base, 0, n, wp]
  let s1 := s.agentFault x.agent detail ends
  let s2 := (x.tails.flatMap StreamTail.stops).foldl (fun t r => t.finishOp r true) s1
  s2.onStream die core e fun y => { y with state := .faulted, tails := [], rows := if y.isWrite then [] else y.rows }

/-- Marked data that a stream carried sets EC of its crew (R143). -/
def State.streamErr (s : State) (x : Stream) (bad : Bool) : State :=
  match x.agent.uid with
  | some u => if bad then s.onCrew u fun c => c.setErr .wc else s
  | none => s

/-- The places of a row's points. -/
def State.pointPlaces (s : State) (x : Stream) (k : Kind) (points : List Nat) : Except (Nat × W64) (List Place) :=
  points.mapM fun p =>
    match s.check x.agent.accessor k (x.point p) 4 4 with
    | .ok q => .ok q
    | .error d => .error (d, x.point p)

/-- A read stream reads its next row (R161). -/
def State.readRow (s : State) (die core e : Nat) : State :=
  let x := s.stream die core e
  let pts := x.rowPoints
  match s.pointPlaces x .read pts with
  | .error f => s.stopStream die core e x f.1 f.2
  | .ok places =>
    let spans := places.map fun p => (p, 4)
    if s.spanHeld x.agent.cid spans then s.spanWaits x.agent.cid spans
    else
    let words := places.map fun p => BitVec.ofNat 32 (natOfBytes (s.readBytes die p 4))
    let marks := maskOf (((places.map fun p => s.placeMarked die p 4).zipIdx.filter fun p => p.1).map Prod.snd)
    let row : Row :=
      { width := x.width, words := words ++ List.replicate (x.width - words.length) 0
        void := Mask.below x.width &&& ~~~(Mask.below pts.length), marks := marks, tag := x.ctl.extractLsb' 4 8
        de := x.dimEnds pts, berthTag := x.agent.place.berth, claimed := none }
    let s1 := s.onStream die core e fun y =>
      { y with rows := y.rows ++ [row], next := y.next + pts.length
               state := if y.shape.points ≤ y.next + pts.length then .done else y.state }
    ((s1.observeSpan die spans).streamErr x (marks != 0)).spanServed x.agent.cid spans

/-- The stores of one row of a write stream: the non-void lanes at their points, and whether they have been made, for an order
point may hold one (R161, R340). -/
def State.storeRow (s : State) (die : Nat) (x : Stream) (row : Row) : Except (Nat × W64) (Bool × State) :=
  let lanes := x.rowPoints.zipIdx.filter fun p => !row.void.getLsbD p.2
  match s.pointPlaces x .write (lanes.map Prod.fst) with
  | .error f => .error f
  | .ok places =>
    let spans := places.map fun p => (p, 4)
    if s.spanHeld x.agent.cid spans then .ok (false, s.spanWaits x.agent.cid spans)
    else
      let s1 := (lanes.zip places).foldl (fun t p =>
        t.landSpan die [(p.2, 4)] (bytesOfNat 4 (row.words[p.1.2]?.getD 0).toNat)
          (List.replicate 4 (row.marks.getLsbD p.1.2))) s
      .ok (true, (s1.streamErr x (lanes.any fun p => row.marks.getLsbD p.2)).spanServed x.agent.cid spans)

/-- A write stream stores its oldest row (R161). -/
def State.writeRow (s : State) (die core e : Nat) (row : Row) : State :=
  let x := s.stream die core e
  match s.storeRow die x row with
  | .error f => s.stopStream die core e x f.1 f.2
  | .ok (false, t) => t
  | .ok (true, t) =>
    t.onStream die core e fun y =>
      { y with rows := y.rows.tail, next := y.next + x.rowPoints.length
               state := if y.state = .running && y.shape.points ≤ y.next + x.rowPoints.length then .done else y.state }

/-- The engine with the walk of a stopped write stream. -/
def Stream.asTail (x : Stream) (t : StreamTail) : Stream :=
  { x with base := t.base, shape := t.shape, ctl := t.ctl, width := t.width, next := t.next, rows := t.rows, agent := t.agent }

/-- The oldest row of a stopped write stream is stored; with its last row the SESTOPs that wait for it complete (R162). -/
def State.writeTail (s : State) (die core e : Nat) (t : StreamTail) (row : Row) : State :=
  let x := (s.stream die core e).asTail t
  match s.storeRow die x row with
  | .error f => s.stopStream die core e x f.1 f.2
  | .ok (false, u) => u
  | .ok (true, u) =>
    let left : StreamTail := { t with rows := t.rows.tail, next := t.next + x.rowPoints.length }
    if left.rows.isEmpty then
      (t.stops.foldl (fun v r => v.finishOp r false) u).onStream die core e fun y => { y with tails := y.tails.tail }
    else u.onStream die core e fun y => { y with tails := left :: y.tails.tail }

/-- Whether a stream has a row to read or to store now (R161, R162, R354). -/
def State.streamDue (s : State) (die core e : Nat) : Bool :=
  let x := s.stream die core e
  !s.coreStopped die core &&
    (!x.tails.isEmpty ||
      (if x.isWrite then !x.rows.isEmpty && (x.state = .running || x.state = .done)
       else x.state = .running && x.rows.length < 4))

/-- A stream engine reads or stores the points of one row (R161). -/
def execStreamRow (die core eng : Nat) (s : State) : Host.Outcome State Fault Refusal :=
  if !s.streamDue die core eng then .next s
  else
    let x := s.stream die core eng
    match x.tails with
    | t :: _ => .next ((t.rows.head?.map fun row => s.writeTail die core eng t row).getD s)
    | [] =>
      if x.isWrite then .next ((x.rows.head?.map fun row => s.writeRow die core eng row).getD s)
      else .next (s.readRow die core eng)

/-! ## Completion of counted operations (R101) -/

/-- A CANCEL that completes frees the record of its barge (R204). -/
def State.completeCancel (s : State) (r : OpRef) : State :=
  ((s.flight.cancels.filter fun k => k.op = r).foldl (fun t k => t.freeBarge k.die k.record) s).onFlight fun f =>
    { f with cancels := f.cancels.filter fun k => k.op != r }

/-- An operation that has been performed is retired when every earlier operation of its counter has been (R101). -/
def execOperationComplete (uid ticket : Nat) (s : State) : Host.Outcome State Fault Refusal :=
  match s.findCrew uid with
  | none => .next s
  | some c =>
    if c.mayRetire ticket then .next ((s.putCrew (c.retire ticket)).completeCancel { uid := uid, ticket := ticket })
    else .next s

end Sys2Proof.Machine
end

