-- ==== Sys2Proof/Machine/Matrix.lean ====
section
/-! DEFINITION. The matrix engine: tile handles, the baton, the command queue, MMA with its chunks and checks, the
drain unit and leave (R79 to R81, R169 to R190). -/

namespace Sys2Proof.Machine

/-! ## Checks -/

/-- The matrix fault (R188). -/
def matFault {α : Type} (detail : Nat) : Eff α := raise 9 detail []

def State.matrix (s : State) (die core : Nat) : Matrix := (s.core die core).matrix

def State.onMatrix (s : State) (die core : Nat) (f : Matrix → Matrix) : State :=
  s.onCore die core fun k => { k with matrix := f k.matrix }

/-- The issuing berth must hold the baton, as it stood at the start of the cycle (R173, R174). -/
def State.needBaton (s : State) (c : Crew) : Eff Unit :=
  if (s.matrix c.place.die c.place.core).baton = some c.place.berth then .ok () else matFault 1

/-- A bound handle (R171). -/
def Crew.boundTile (c : Crew) (f : BitVec 8) : Eff TileHandle :=
  let t := c.tile f
  if t.bound then .ok t else matFault 2

/-- The commands that the queue holds: one that runs stands in it until it completes; a DRAIN leaves it for the drain unit
(R175). -/
def Matrix.queued (m : Matrix) : Nat := m.queue.length + m.running.toList.length

/-- Room in the command queue (R175). -/
def State.roomQueue (s : State) (c : Crew) : Eff Unit :=
  if (s.matrix c.place.die c.place.core).queued < 8 then .ok () else stalled

/-- The format of a tile's type read at issue; 0 for a type without a format register (R65). -/
def tileFmt (fms : Vector (BitVec 32) 16) (t : ElemTy) : BitVec 32 :=
  match t.narrowIndex with
  | some i => fms[i]?.getD 0
  | none => 0

/-- The types of R178. -/
def matType (t : ElemTy) : Bool := t.width = 8 || t.width = 4 || (!t.isInt)

/-- The check of a tile's tag on a matrix path (R75, R80, R405): `want` is what ety names, none under ety 0 for the
first tile. -/
def checkTile (fms : Vector (BitVec 32) 16) (ety : BitVec 4) (want : Option ElemTy) (pos : Nat) (tag : BitVec 8)
    (scaled : Bool) : Eff Unit :=
  if tagReserved true tag then tagFault 1 pos tag
  else if tagClass tag = 0 then
    if ety = 0 || ety = 13 || ety = 14 then tagFault 3 pos tag else .ok ()
  else
    match tagType tag with
    | none => tagFault 2 pos tag
    | some t =>
      if t.widMismatch fms || !matType t then tagFault 2 pos tag
      else if (match want with
               | none => false
               | some x => if ety = 13 || ety = 14 then t.cls != x.cls else t != x) then tagFault 2 pos tag
      else if tagScaled tag != scaled then tagFault 4 pos tag
      else .ok ()

/-! ## The command queue and the modes (R175, R176) -/

/-- The largest K of a type (R178); none for a type that the engine does not take. -/
def kMax (t : ElemTy) : Option Nat :=
  if !matType t then none
  else if t.width = 4 then some 512
  else if t.width = 8 then some 256
  else if t.width = 16 then some 128
  else if t.width = 32 then some 64
  else some 32

/-- The K-depth of one group (R81, R178). -/
def kDepth (w : Nat) : Nat := if w = 4 then 32 else if w = 8 then 16 else if w = 16 then 8 else if w = 32 then 2 else 1

/-- The limits of s[c] (R177). -/
def checkK (t : Option ElemTy) (v : W64) : Eff Unit :=
  let k := (v.extractLsb' 0 16).toNat
  let k0 := (v.extractLsb' 16 13).toNat
  let top := (t.bind kMax).getD 65535
  if v.extractLsb' 29 35 != 0 || k = 0 || top < k || k0 % 64 != 0 || 8192 < k0 + k then matFault 3 else .ok ()

/-- The pair's mode that the commands issued before leave (R176). -/
def State.f64Mode (s : State) (c : Crew) (acc : Nat) : Bool :=
  ((s.matrix c.place.die c.place.core).f64Modes[acc / 2]?).getD false

/-- The number of an accumulator operand. -/
def accIndex (f : BitVec 8) : Nat := f.toNat - 0x50

/-- A command enters the queue; its operation counts in wm (R175). -/
def State.enqueueMat (s : State) (c : Crew) (cmd : MatCmd) (stores : List Nat) (loads : List OpRef) : State :=
  (s.onMatrix c.place.die c.place.core fun m =>
    let e : MatEntry :=
      { cmd := cmd, op := c.nextOp, agent := c.agent, stores := stores, loads := loads, bad := false, begun := false }
    { m with queue := m.queue ++ [e] }).putCrew
      (c.addOp .wm false false).advance

/-- The TLDs on a buffer that issued before and have not completed (R179, R182). -/
def State.loadsOn (s : State) (die core : Nat) (bufs : List Nat) : List OpRef :=
  (s.core die core).chans.toList.flatMap fun ch => ch.jobs.filterMap fun j =>
    match j.kind with
    | .tld b => if bufs.contains b then j.op else none
    | _ => none

/-- MMA and MMAZ at issue, in the order of R179. -/
def issueMma (w : RegForm) (zero : Bool) (s : State) : Host.Outcome State Fault Refusal :=
  crewInstr w.guard s fun s c => do
    roomFor c .wm
    s.roomQueue c
    s.needBaton c
    let a ← c.boundTile w.a
    let b ← c.boundTile w.b
    let named := etyType w.ety 0
    let ty := if w.ety = 0 then tagType a.tag else named
    checkK ty (c.sreg w.c)
    let acc := accIndex w.d
    let f64 := w.ety = 12 || (w.ety = 0 && tagType a.tag = some (.ieee 3))
    let mode := s.f64Mode c acc
    if f64 && acc % 2 = 1 then matFault 7
    if !zero && f64 != mode then matFault 7
    checkTile c.fmts w.ety named 1 a.tag c.sca.isSome
    checkTile c.fmts w.ety (if w.ety = 0 then ty else named) 2 b.tag c.scb.isSome
    -- a raw tile is read as the type that ety names (R75)
    let ta := (tagType a.tag).getD (ty.getD (.sint 8))
    let tb := (tagType b.tag).getD (ty.getD (.sint 8))
    let m : MmaCmd :=
      { acc := acc, f64 := f64, aBuf := a.buf.toNat, bBuf := b.buf.toNat, aTag := ta.tag, bTag := tb.tag
        aFmt := tileFmt c.fmts ta, bFmt := tileFmt c.fmts tb, sca := c.sca.map BitVec.toNat, scb := c.scb.map BitVec.toNat
        k := (c.sreg w.c).toNat % 2 ^ 16, k0 := ((c.sreg w.c).extractLsb' 16 13).toNat, zero := zero
        clears := zero && mode && !f64, chunk := 0 }
    let loads := s.loadsOn c.place.die c.place.core ([m.aBuf, m.bBuf] ++ m.sca.toList ++ m.scb.toList)
    let s1 := if zero then s.onMatrix c.place.die c.place.core fun x =>
                { x with f64Modes := x.f64Modes.setIfInBounds (acc / 2) f64 }
              else s
    .ok (s1.enqueueMat c (.mma m) [] loads)

/-- Adds the product of an A tile and a B tile into an accumulator (R177, R179). -/
def execMma (w : RegForm) (s : State) : Host.Outcome State Fault Refusal := issueMma w false s

/-- As MMA, the accumulator taken as +0 first (R177, R179). -/
def execMmaz (w : RegForm) (s : State) : Host.Outcome State Fault Refusal := issueMma w true s

/-- Zeroes an accumulator, or a pair, at its turn (R181). -/
def execAccz (w : RegForm) (s : State) : Host.Outcome State Fault Refusal :=
  crewInstr w.guard s fun s c => do
    roomFor c .wm
    s.roomQueue c
    s.needBaton c
    let acc := accIndex w.d
    let f64 := w.ety = 12
    let mode := s.f64Mode c acc
    let s1 := s.onMatrix c.place.die c.place.core fun x => { x with f64Modes := x.f64Modes.setIfInBounds (acc / 2) f64 }
    .ok (s1.enqueueMat c (.accz acc f64 (mode && !f64)) [] [])

/-- The output type of a DRAIN (R184). -/
def drainType (w : RegForm) : ElemTy := (etyType w.ety (w.c.toNat - 0x90)).getD (.ieee 2)

/-- The binding conflicts of DRAIN (R184). -/
def State.drainConflict (s : State) (die core n : Nat) : Bool :=
  let m := s.matrix die core
  match (s.chan die core n).endpoint with
  | .stream _ => true
  | .drainPort => false
  | _ =>
    !(s.chan die core n).rows.isEmpty ||
      (match m.drainChan with
       | some q => q != n && (!m.drainRows.isEmpty || m.drainsOn q)
       | none => false)

/-- Binds the drain port to qd and queues a DRAIN (R184). -/
def execDrain (w : RegForm) (s : State) : Host.Outcome State Fault Refusal :=
  crewInstr w.guard s fun s c => do
    roomFor c .wm
    s.roomQueue c
    s.needBaton c
    let d := c.place.die
    let k := c.place.core
    let n := chanIndex w.d
    let acc := accIndex w.a
    if s.drainConflict d k n then matFault 5
    let f64 := s.f64Mode c acc
    if f64 && acc % 2 = 1 then matFault 7
    let t := drainType w
    checkResult c.fmts t
    let cmd : DrainCmd :=
      { acc := acc, f64 := f64, chan := n, ety := w.ety, fmtIndex := w.c.toNat - 0x90, fmt := tileFmt c.fmts t
        rnd := w.rnd, sat := w.sat = 1, z := w.fn.getLsbD 0, width := c.lanes, row := 0, berthTag := c.place.berth }
    let s1 := match (s.matrix d k).drainChan with
              | some q => if q = n then s else s.onChan d k q fun x => { x with endpoint := .rowQueue }
              | none => s
    let s2 := s1.onChan d k n fun x => { x with endpoint := .drainPort }
    let s3 := s2.onMatrix d k fun m => { m with drainChan := some n }
    .ok (s3.enqueueMat c (.drain cmd) [] [])

/-! ## SCALE, TLD, TST and TREL (R181 to R183) -/

/-- The scale tile that SCALE places on a path (R181). -/
def Crew.scaleTile (c : Crew) (f : BitVec 8) : Eff (BitVec 8) := do
  let t ← c.boundTile f
  if tagReserved true t.tag then tagFault 1 1 t.tag
  if t.tag != 0x60 then tagFault 2 1 t.tag
  .ok t.buf

/-- Places a scale tile on the A path (R181). -/
def execScaleA (w : RegForm) (s : State) : Host.Outcome State Fault Refusal :=
  crewInstr w.guard s fun s c => do
    let b ← c.scaleTile w.a
    .ok (s.putCrew { c with sca := some b }.advance)

/-- Places a scale tile on the B path (R181). -/
def execScaleB (w : RegForm) (s : State) : Host.Outcome State Fault Refusal :=
  crewInstr w.guard s fun s c => do
    let b ← c.scaleTile w.a
    .ok (s.putCrew { c with scb := some b }.advance)

/-- Empties the A path (R181). -/
def execScaleNoa (w : RegForm) (s : State) : Host.Outcome State Fault Refusal :=
  crewStep w.guard s fun c => { c with sca := none }

/-- Empties the B path (R181). -/
def execScaleNob (w : RegForm) (s : State) : Host.Outcome State Fault Refusal :=
  crewStep w.guard s fun c => { c with scb := none }

/-- The place of a core among its region's cores, counted in ascending number (R229). -/
def Region.coreIndex (r : Region) (core : Nat) : Nat := r.cores.idxOf core

/-- The core on which a lock of the region stands (R229). -/
def Region.lockCore (r : Region) (j : Nat) : Nat := (r.cores[j % max 1 r.cores.length]?).getD 0

/-- A buffer that the region reserves on one of its cores for a lock or for the carousel ring (R229, R249). -/
def Region.reserves (r : Region) (core buf : Nat) : Bool :=
  (r.cfg.locks.any fun l => r.lockCore l.index = core && 252 - 4 * l.index ≤ buf && buf ≤ 255 - 4 * l.index) ||
    (r.cfg.layer.isSome && 176 ≤ buf && buf ≤ 191)

/-- A buffer that the region holds on a core (R182). -/
def State.holdsBuffer (s : State) (die core region buf : Nat) : Bool :=
  (((s.die die).region region).map fun r => r.reserves core buf).getD false ||
    (s.core die core).crews.any fun c => c.region = region && (c.buffers.contains buf || c.lockBuf = some buf)

/-- The tag that TLD gives its handle (R182). -/
def tldTag (w : RegForm) : BitVec 8 :=
  if w.fn.getLsbD 5 then 0x60
  else
    match etyType w.ety (w.fn.extractLsb' 0 4).toNat with
    | none => 0
    | some t => t.tag ||| (if w.fn.getLsbD 4 then 0x80 else 0)

/-- The buffer number of TLD (R182). -/
def State.tldBuffer (s : State) (c : Crew) (v : W64) : Eff Nat :=
  let b := (v.extractLsb' 0 8).toNat
  if v.extractLsb' 8 56 != 0 || !s.holdsBuffer c.place.die c.place.core c.region b then matFault 4 else .ok b

/-- The queued matrix commands that still read a buffer (R182). -/
def Matrix.readers (m : Matrix) (buf : Nat) : List OpRef :=
  (m.queue ++ (m.running.map MmaRun.entry).toList).filterMap fun e =>
    match e.cmd with
    | .mma x => if ([x.aBuf, x.bBuf] ++ x.sca.toList ++ x.scb.toList).contains buf then some e.op else none
    | _ => none

/-- Binds and tags a handle, and queues the copy that fills its buffer (R182). -/
def execTld (w : RegForm) (s : State) : Host.Outcome State Fault Refusal :=
  crewInstr w.guard s fun s c => do
    let ch := chanIndex w.c
    roomFor c .wc
    s.roomOn c ch
    let b ← s.tldBuffer c (c.sreg w.b)
    let _ ← checkFirst (s.spanPlaces c.accessor .read (c.sreg w.a) 4096)
    let j : CopyJob :=
      { kind := .tld b, dst := bufferAddr c.place.die c.place.core b, src := c.sreg w.a, len := 16384, off := 0, chunk := none, bad := false
        op := some c.nextOp, agent := c.agent, after := (s.matrix c.place.die c.place.core).readers b }
    let c1 := (c.setTile w.d ⟨true, BitVec.ofNat 8 b, tldTag w⟩).addOp .wc false false
    .ok ((s.enqueueCopy c.place.die c.place.core ch j).putCrew c1.advance)

/-- Binds and tags a handle alone (R182). -/
def execTldBind (w : RegForm) (s : State) : Host.Outcome State Fault Refusal :=
  crewInstr w.guard s fun s c => do
    let b ← s.tldBuffer c (c.sreg w.b)
    .ok (s.putCrew (c.setTile w.d ⟨true, BitVec.ofNat 8 b, tldTag w⟩).advance)

/-- Queues the copy of a buffer to s[a] (R183). -/
def execTst (w : RegForm) (s : State) : Host.Outcome State Fault Refusal :=
  crewInstr w.guard s fun s c => do
    let ch := chanIndex w.c
    roomFor c .wc
    s.roomOn c ch
    let t ← c.boundTile w.d
    let _ ← checkFirst (s.spanPlaces c.accessor .write (c.sreg w.a) 4096)
    let j : CopyJob :=
      { kind := .tst t.buf.toNat (w.fn.getLsbD 0), dst := c.sreg w.a
        src := bufferAddr c.place.die c.place.core t.buf.toNat, len := 16384, off := 0, chunk := none, bad := false
        op := some c.nextOp, agent := c.agent, after := [] }
    .ok ((s.enqueueCopy c.place.die c.place.core ch j).putCrew (c.addOp .wc false false).advance)

/-- TREL queued: .full waits for the stores the crew issued before it (R183). -/
def issueTrel (w : RegForm) (full : Bool) (s : State) : Host.Outcome State Fault Refusal :=
  crewInstr w.guard s fun s c => do
    roomFor c .wm
    s.roomQueue c
    let t ← c.boundTile w.d
    let stores := (c.ops.filter fun o => o.ctr = .ws && !o.done).map Op.ticket
    .ok (s.enqueueMat c (.trel t.buf.toNat full) (if full then stores else []) [])

/-- Clears the buffer's full bit at its turn (R183). -/
def execTrelEmpty (w : RegForm) (s : State) : Host.Outcome State Fault Refusal := issueTrel w false s

/-- Sets the buffer's full bit at its turn (R183). -/
def execTrelFull (w : RegForm) (s : State) : Host.Outcome State Fault Refusal := issueTrel w true s

/-! ## The baton (R173) -/

/-- Makes the issuing berth the holder, once no other berth holds the baton (R173). -/
def execBatonTake (w : RegForm) (s : State) : Host.Outcome State Fault Refusal :=
  crewInstr w.guard s fun s c =>
    let m := s.matrix c.place.die c.place.core
    let me := c.place.berth
    if m.baton = some me then .ok (s.putCrew c.advance)
    else if m.baton.isSome then stalled
    else
      match m.batonNext with
      | some (some b) => if b = me then .ok (s.putCrew c.advance) else stalled
      | _ =>
        .ok ((s.onMatrix c.place.die c.place.core fun x => { x with batonNext := some (some me) }).putCrew c.advance)

/-- Makes another berth the holder at the end of the cycle; a berth without a live crew frees the baton (R173). -/
def execBatonPass (w : RegForm) (s : State) : Host.Outcome State Fault Refusal :=
  crewInstr w.guard s fun s c => do
    s.needBaton c
    let v := c.sreg w.a
    if v.extractLsb' 2 62 != 0 then matFault 1
    let dest := v.toNat
    let next := if ((s.core c.place.die c.place.core).crew dest).isSome then some dest else none
    .ok ((s.onMatrix c.place.die c.place.core fun x => { x with batonNext := some next }).putCrew c.advance)

/-- Frees the baton at the end of the cycle (R173). -/
def execBatonDrop (w : RegForm) (s : State) : Host.Outcome State Fault Refusal :=
  crewInstr w.guard s fun s c => do
    s.needBaton c
    .ok ((s.onMatrix c.place.die c.place.core fun x => { x with batonNext := some none }).putCrew c.advance)

/-! ## Leave (R186, R187, R393) -/

/-- The place of a request among those of its cycle: ascending core number, the carousel last (R393). -/
def LeaveWho.rank : LeaveWho → Nat
  | .engine core => core
  | .crew core _ _ => core
  | .carousel => 64

/-- A request enters a governor's queue after every request of an earlier cycle (R393). -/
def LeaveAsk.enter (x : LeaveAsk) : List LeaveAsk → List LeaveAsk
  | [] => [x]
  | y :: rest => if y.since = x.since && x.who.rank < y.who.rank then x :: y :: rest else y :: x.enter rest

/-- A request reaches a governor (R393). -/
def State.askLeave (s : State) (die : Nat) (who : LeaveWho) (amount : Nat) : State :=
  s.onDie die fun d =>
    { d with gov := { d.gov with queue := { who := who, amount := amount, since := s.now : LeaveAsk }.enter d.gov.queue } }

/-- Asks the governor for leave; the new CREDIT comes into s[d] at the grant (R187). -/
def execLeaveReq (w : RegForm) (s : State) : Host.Outcome State Fault Refusal :=
  crewInstr w.guard s fun s c => do
    roomFor c .wm
    let n := (c.sreg w.a).toNat
    if n = 0 || 2 ^ 24 < n then matFault 6
    let c1 := c.addOp .wm false false
    let c2 := if w.d = 0 then c1 else { c1 with busy := w.d :: c1.busy }
    .ok ((s.askLeave c.place.die (.crew c.place.core c.nextOp w.d) n).putCrew c2.advance)

/-- Returns CREDIT to the governor (R187). -/
def execLeaveRet (w : RegForm) (s : State) : Host.Outcome State Fault Refusal :=
  crewInstr w.guard s fun s c =>
    let n := (s.matrix c.place.die c.place.core).credit
    let s1 := s.onMatrix c.place.die c.place.core fun m => { m with credit := 0 }
    let s2 := s1.onDie c.place.die fun d => { d with gov := { d.gov with returned := d.gov.returned + n } }
    .ok (s2.putCrew (c.setS w.d (BitVec.ofNat 64 n)).advance)

/-! ## Accumulators -/

/-- Accumulator n. -/
def Matrix.acc (m : Matrix) (n : Nat) : Accum := (m.accs[n]?).getD { words := [], poison := false }

def Accum.word (a : Accum) (i : Nat) : W32 := a.words[i]?.getD 0

/-- Element i of an accumulator or a pair (R176): its code. -/
def Matrix.element (m : Matrix) (acc : Nat) (f64 : Bool) (i : Nat) : Nat :=
  if f64 then ((m.acc acc).word i).toNat + 2 ^ 32 * ((m.acc (acc + 1)).word i).toNat else ((m.acc acc).word i).toNat

/-- The accumulator's words, or the pair's, replaced by a list of element codes. -/
def Matrix.setElements (m : Matrix) (acc : Nat) (f64 : Bool) (xs : List Nat) : Matrix :=
  let low := modifyVec m.accs acc fun a => { a with words := xs.map (BitVec.ofNat 32) }
  { m with accs := if f64 then modifyVec low (acc + 1) fun a => { a with words := xs.map fun x => BitVec.ofNat 32 (x / 2 ^ 32) }
                   else low }

/-- The accumulators that a command touches. -/
def touchedAccs (acc : Nat) (both : Bool) : List Nat := if both then [acc / 2 * 2, acc / 2 * 2 + 1] else [acc]

/-- Accumulators set to +0 with their poison cleared (R179, R181). -/
def Matrix.zeroAccs (m : Matrix) (ns : List Nat) : Matrix :=
  { m with accs := ns.foldl (fun v n => modifyVec v n fun _ => { words := [], poison := false }) m.accs }

/-- A change of an accumulator's poison state. -/
def Matrix.setPoison (m : Matrix) (acc : Nat) (p : Bool) : Matrix :=
  { m with accs := modifyVec m.accs acc fun a => { a with poison := p } }

/-- A command's accumulators are read by a DRAIN that the drain unit holds (R179, R185). -/
def Matrix.drainReads (m : Matrix) (ns : List Nat) : Bool :=
  (m.drainActive.toList ++ m.drainPending.toList).any fun e =>
    match e.cmd with
    | .drain d => (touchedAccs d.acc d.f64).any fun n => ns.contains n
    | _ => false

/-- An MMA's entry works on one of some accumulators. -/
def MatEntry.worksOn (e : MatEntry) (ns : List Nat) : Bool :=
  match e.cmd with
  | .mma x => (touchedAccs x.acc x.f64).any fun n => ns.contains n
  | _ => false

/-- The MMA in flight works on one of some accumulators, or stands in the queue for its next chunk (R184, R189). -/
def Matrix.runs (m : Matrix) (ns : List Nat) : Bool :=
  (m.running.toList.map MmaRun.entry ++ m.queue.filter MatEntry.begun).any fun e => e.worksOn ns

/-! ## MMA at its turn (R179 to R181) -/

/-- The MMA at the head of the queue starts: a MMAZ zeroes its accumulator, and the chunk's shadow is taken (R179). -/
def Matrix.startMma (m : Matrix) (e : MatEntry) (x : MmaCmd) : Matrix :=
  let m1 := if x.zero && x.chunk = 0 then m.zeroAccs (touchedAccs x.acc (x.f64 || x.clears)) else m
  { m1 with
    queue := m1.queue.tail
    running := some { entry := e, group := 0, half := false, shadow := (m1.acc x.acc).words, shadowHi := (m1.acc (x.acc + 1)).words
                      rerun := false, poisoned := e.bad } }

/-- An MMA reaches its turn (R179); one that has run a chunk goes on before the DRAINs issued after it (R189). -/
def execMmaTurn (die core : Nat) (s : State) : Host.Outcome State Fault Refusal :=
  let m := s.matrix die core
  match m.queue with
  | [] => .next s
  | e :: _ =>
    match e.cmd with
    | .mma x =>
      if s.coreStopped die core || m.running.isSome ||
          (!e.begun && m.drainReads (touchedAccs x.acc (x.f64 || x.clears))) then .next s
      else .next (s.onMatrix die core fun m => m.startMma e x)
    | _ => .next s

/-- Groups in the chunk that an MMA stands in (R178): 256 K indices, the last chunk shorter. -/
def MmaCmd.groups (x : MmaCmd) : Nat :=
  let w := ((tagType x.aTag).map ElemTy.width).getD 8
  let n := min 256 (x.k - 256 * x.chunk)
  (n + kDepth w - 1) / kDepth w

/-- The code of element kk at a bit offset of a buffer's row or column. -/
def State.tileElem (s : State) (die core buf row w kk : Nat) : Nat :=
  let base := (bufferAddr die core buf).toNat + row
  if w = 4 then (s.cell (base + kk / 2)).toNat / 2 ^ (4 * (kk % 2)) % 16
  else natOfBytes ((List.range (w / 8)).map fun i => s.cell (base + kk * (w / 8) + i))

/-- The exact value of an element of a tile under the format register read at issue. -/
def tileValue (tag : BitVec 8) (fmt : BitVec 32) (code : Nat) : XReal :=
  match tagType tag with
  | some t => t.value (Vector.replicate 16 fmt) code
  | none => .ofInt 0

/-- A scale, or 1 on a path without one (R79, R81). -/
def State.scaleAt (s : State) (die core : Nat) (buf : Option Nat) (r j : Nat) : XReal :=
  match buf with
  | none => .ofInt 1
  | some b => Fmt.f16.decode (s.tileElem die core b (256 * r) 16 j)

/-- The product of one K index of a cell, scales included (R81). -/
def State.mmaTerm (s : State) (die core : Nat) (x : MmaCmd) (i j kk : Nat) : XReal :=
  let wa := ((tagType x.aTag).map ElemTy.width).getD 8
  let wb := ((tagType x.bTag).map ElemTy.width).getD 8
  let a := tileValue x.aTag x.aFmt (s.tileElem die core x.aBuf (512 * i) wa kk)
  let b := tileValue x.bTag x.bFmt (s.tileElem die core x.bBuf (256 * j) wb kk)
  let blk := (x.k0 + kk) / 64
  ((a.mul (s.scaleAt die core x.sca i blk)).mul b).mul (s.scaleAt die core x.scb j blk)

/-- The K indices of a group of an MMA's chunk. -/
def MmaCmd.indices (x : MmaCmd) (g : Nat) : List Nat :=
  let w := ((tagType x.aTag).map ElemTy.width).getD 8
  let first := 256 * x.chunk + g * kDepth w
  (List.range (kDepth w)).filterMap fun i => if first + i < x.k then some (first + i) else none

/-- One group: every cell's exact sum, rounded once (R81); a negative sum that rounds to zero gives -0, as RoundToFormat
does (DEDUCED, log 90). -/
def State.runGroup (s : State) (die core : Nat) (x : MmaCmd) (g : Nat) : List Nat :=
  let m := s.matrix die core
  let f : Fmt := if x.f64 then .f64 else .f32
  (List.range 2048).map fun n =>
    let c := f.decode (m.element x.acc x.f64 n)
    f.round .rne false (sumExact false (c :: (x.indices g).map fun kk => s.mmaTerm die core x (n / 64) (n % 64) kk))

/-- Some byte that a group reads carries an uncorrectable error (R351). -/
def State.groupMarked (s : State) (die core : Nat) (x : MmaCmd) (g : Nat) : Option W64 :=
  let wa := ((tagType x.aTag).map ElemTy.width).getD 8
  let wb := ((tagType x.bTag).map ElemTy.width).getD 8
  let ks := x.indices g
  let hit (buf row w kk : Nat) : Option W64 :=
    let a := (bufferAddr die core buf).toNat + row + kk * w / 8
    if s.anyMark a (max 1 (w / 8)) then some (BitVec.ofNat 64 a) else none
  let scale (buf : Option Nat) (r : Nat) : Option W64 :=
    buf.bind fun b => ks.findSome? fun kk => hit b (256 * r) 16 ((x.k0 + kk) / 64)
  ((List.range 32).findSome? fun i => (ks.findSome? fun kk => hit x.aBuf (512 * i) wa kk).or (scale x.sca i)).or
    ((List.range 64).findSome? fun j => (ks.findSome? fun kk => hit x.bBuf (256 * j) wb kk).or (scale x.scb j))

/-- The busy cycles of the current burst: 512 idle cycles end it (R186). -/
def Matrix.burstNow (m : Matrix) : Nat := if 512 ≤ m.idle then 0 else m.burst

/-- One busy cycle, drawn on the credit when the burst has reached 2,048 (R186). -/
def Matrix.spend (m : Matrix) : Matrix :=
  { m with
    credit := if 2048 ≤ m.burstNow then m.credit - 1 else m.credit, burst := min (m.burstNow + 1) (2 ^ 32 - 1)
    idle := 0, busy := true }

/-- The engine must ask for leave before its next busy cycle (R186). -/
def Matrix.needsLeave (m : Matrix) : Bool := 2048 ≤ m.burstNow && m.credit = 0

/-- The buffers that an MMA reads. -/
def MmaCmd.buffers (x : MmaCmd) : List Nat := [x.aBuf, x.bBuf] ++ x.sca.toList ++ x.scb.toList

/-- The operands of the next group are ready: every buffer is full, and every TLD on them that issued before is done (R179). -/
def State.groupReady (s : State) (die core : Nat) (e : MatEntry) (x : MmaCmd) : Bool :=
  (x.buffers.all fun b => s.isFull die core b) && !((s.loadsOn die core x.buffers).any fun r => e.loads.contains r)

/-- The accesses of a group at the core's tile port, one for each buffer that it reads (R336). -/
def MmaCmd.reads (x : MmaCmd) (die core : Nat) : List (Place × Nat) :=
  x.buffers.map fun b => (.chip (bufferAddr die core b).toNat, 1)

/-- A group's arithmetic, and the record of a marked byte that it reads (R81, R351). -/
def State.finishGroup (s : State) (die core : Nat) (r : MmaRun) (x : MmaCmd) : State :=
  let hit := if r.poisoned then none else s.groupMarked die core x r.group
  let s1 := match hit with
            | some a => s.record die (r.entry.agent.fault 15 3) false false [a]
            | none => s
  let xs := s.runGroup die core x r.group
  (s1.onMatrix die core fun y =>
    { (y.setElements x.acc x.f64 xs).spend with
      running := some { r with group := r.group + 1, half := false, poisoned := r.poisoned || hit.isSome } }).spanServed
    r.entry.agent.cid (x.reads die core)

/-- The next busy cycle of the MMA in flight (R179, R186): a group, or half of an F64 step, which takes two (R178); short of
credit the engine asks the governor and stalls. -/
def execMmaGroup (die core : Nat) (s : State) : Host.Outcome State Fault Refusal :=
  let m := s.matrix die core
  match m.running with
  | none => .next s
  | some r =>
    match r.entry.cmd with
    | .mma x =>
      if x.groups ≤ r.group || !s.groupReady die core r.entry x then .next s
      else if m.needsLeave then
        if m.asking then .next s
        else .next ((s.askLeave die (.engine core) 16384).onMatrix die core fun y => { y with asking := true })
      else if x.f64 && !r.half then
        .next (s.onMatrix die core fun y => { y.spend with running := some { r with half := true } })
      else if s.spanHeld r.entry.agent.cid (x.reads die core) then
        .next (s.spanWaits r.entry.agent.cid (x.reads die core))
      else .next (s.finishGroup die core r x)
    | _ => .next s

/-- A chunk that has failed its checks for the first time starts over from its shadow (R180). -/
def Matrix.restoreShadow (m : Matrix) (r : MmaRun) (x : MmaCmd) : Matrix :=
  let low := modifyVec m.accs x.acc fun a => { a with words := r.shadow }
  { m with
    accs := if x.f64 then modifyVec low (x.acc + 1) fun a => { a with words := r.shadowHi } else low
    running := some { r with group := 0, half := false, rerun := true } }

/-- A chunk has passed: the next chunk begins with a new shadow, or the MMA is complete (R179). -/
def State.nextChunk (s : State) (die core : Nat) (r : MmaRun) (x : MmaCmd) (poisoned : Bool) : State :=
  let s1 := if poisoned then s.onMatrix die core fun m => m.setPoison x.acc true else s
  let y : MmaCmd := { x with chunk := x.chunk + 1 }
  if 256 * y.chunk < x.k then
    let e : MatEntry := { r.entry with cmd := .mma y, bad := poisoned, begun := true }
    if s.coreStopped die core then
      -- pre-emption leaves the MMA at the head of the queue with its next chunk (R189)
      s1.onMatrix die core fun m => { m with queue := e :: m.queue, running := none }
    else
      s1.onMatrix die core fun m =>
        { m with running := some { entry := e, group := 0, half := false, shadow := (m.acc x.acc).words
                                   shadowHi := (m.acc (x.acc + 1)).words, rerun := false, poisoned := poisoned } }
  else (s1.onMatrix die core fun m => { m with running := none }).finishOp r.entry.op poisoned

/-- The checksums of a chunk whose groups have run are compared; `mismatch` is what the check found (R180). -/
def execChunkCheck (die core : Nat) (mismatch : Bool) (s : State) : Host.Outcome State Fault Refusal :=
  match (s.matrix die core).running with
  | none => .next s
  | some r =>
    match r.entry.cmd with
    | .mma x =>
      if r.group < x.groups then .next s
      else if mismatch && !r.rerun then
        .next ((s.onMatrix die core fun m => m.restoreShadow r x).onCore die core fun k => { k with rerun := k.rerun + 1 })
      else
        let s1 := if mismatch then
                    s.record die (r.entry.agent.fault 10 0) false false [BitVec.ofNat 64 x.acc, BitVec.ofNat 64 x.chunk]
                  else s
        .next (s1.nextChunk die core r x (r.poisoned || mismatch))
    | _ => .next s

/-- After 512 idle cycles the burst count returns to 0 (R186). -/
def execBurstIdleReset (die core : Nat) (s : State) : Host.Outcome State Fault Refusal :=
  if 512 ≤ (s.matrix die core).idle then .next (s.onMatrix die core fun m => { m with burst := 0 }) else .next s

/-- ACCZ at its turn (R181). -/
def execAcczTurn (die core : Nat) (s : State) : Host.Outcome State Fault Refusal :=
  let m := s.matrix die core
  match m.queue with
  | [] => .next s
  | e :: _ =>
    match e.cmd with
    | .accz acc f64 clears =>
      let ns := touchedAccs acc (f64 || clears)
      if s.coreStopped die core || m.running.isSome || m.drainReads ns then .next s
      else .next ((s.onMatrix die core fun x => { (x.zeroAccs ns) with queue := x.queue.tail }).finishOp e.op e.bad)
    | _ => .next s

/-- The stores that a TREL.full waits for are complete (R183). -/
def State.storesDone (s : State) (e : MatEntry) : Bool :=
  match s.anyCrew e.op.uid with
  | none => true
  | some c => !(c.ops.any fun o => e.stores.contains o.ticket && !o.done)

/-- TREL at its turn (R183). -/
def execTrelTurn (die core : Nat) (s : State) : Host.Outcome State Fault Refusal :=
  let m := s.matrix die core
  match m.queue with
  | [] => .next s
  | e :: _ =>
    match e.cmd with
    | .trel buf full =>
      if s.coreStopped die core || m.running.isSome || !s.storesDone e then .next s
      else .next (((s.setFull die core buf full).onMatrix die core fun x => { x with queue := x.queue.tail }).finishOp e.op e.bad)
    | _ => .next s

/-! ## The drain unit (R184, R185) -/

/-- A DRAIN passes from the queue to the drain unit, which holds one active and one pending (R175). -/
def execDrainTurn (die core : Nat) (s : State) : Host.Outcome State Fault Refusal :=
  let m := s.matrix die core
  match m.queue with
  | [] => .next s
  | e :: rest =>
    match e.cmd with
    | .drain _ =>
      if s.coreStopped die core || m.drainPending.isSome then .next s
      else if m.drainActive.isSome then .next (s.onMatrix die core fun x => { x with queue := rest, drainPending := some e })
      else .next (s.onMatrix die core fun x => { x with queue := rest, drainActive := some e })
    | _ => .next s

/-- The elements per lane word of a DRAIN's output, and the row tokens it makes (R184). -/
def DrainCmd.type (d : DrainCmd) : ElemTy := (etyType d.ety d.fmtIndex).getD (.ieee 2)
def DrainCmd.rows (d : DrainCmd) : Nat :=
  let n := d.type.perLane * max 1 d.width
  (2048 + n - 1) / n

/-- One element of a row token (R184). -/
def Matrix.fitElement (m : Matrix) (d : DrainCmd) (i : Nat) : Nat :=
  convert (Vector.replicate 16 d.fmt) (if d.f64 then .ieee 3 else .ieee 2) d.type (Rnd.of d.rnd) d.sat (m.element d.acc d.f64 i)

/-- The row token that a DRAIN forms next (R184). -/
def Matrix.rowToken (m : Matrix) (d : DrainCmd) : Row :=
  let p := d.type.perLane
  let first (l : Nat) : Nat := (d.row * d.width + l) * p
  let filled := (List.range d.width).filter fun l => first l < 2048
  { width := d.width
    words := (List.range d.width).map fun l =>
      if first l < 2048 then BitVec.ofNat 32 (packElems d.type.width ((List.range p).map fun e => m.fitElement d (first l + e)))
      else 0
    void := Mask.below d.width &&& ~~~(maskOf filled)
    marks := if (m.acc d.acc).poison then maskOf filled else 0
    tag := d.type.tag, de := if d.row + 1 = d.rows then 1 else 0, berthTag := d.berthTag, claimed := none }

/-- The elements that a row token with .z takes become +0 (R184). -/
def Matrix.zeroRow (m : Matrix) (d : DrainCmd) : Matrix :=
  if d.z then
    let n := d.type.perLane * d.width
    m.setElements d.acc d.f64 ((List.range 2048).map fun i =>
      if d.row * n ≤ i && i < (d.row + 1) * n then 0 else m.element d.acc d.f64 i)
  else m

/-- The drain unit forms and pushes one row token (R184, R185). -/
def execDrainRowToken (die core : Nat) (s : State) : Host.Outcome State Fault Refusal :=
  let m := s.matrix die core
  match m.drainActive with
  | none => .next s
  | some e =>
    match e.cmd with
    | .drain d =>
      if s.coreStopped die core || m.runs (touchedAccs d.acc d.f64) || 8 ≤ m.drainRows.length then .next s
      else
        let m1 : Matrix := { (m.zeroRow d) with drainRows := m.drainRows ++ [m.rowToken d] }
        if d.row + 1 < d.rows then
          let e1 : MatEntry := { e with cmd := .drain { d with row := d.row + 1 } }
          .next (s.onMatrix die core fun _ => { m1 with drainActive := some e1 })
        else
          let m2 := if d.z then m1.setPoison d.acc false else m1
          .next ((s.onMatrix die core fun _ => { m2 with drainActive := m.drainPending, drainPending := none }).finishOp e.op e.bad)
    | _ => .next s

end Sys2Proof.Machine
end

