-- ==== Sys2Proof/Machine/Cycle.lean ====
section
/-! DEFINITION. The end of a cycle: core-shared writes and batons take effect, and the counts of cycles move on
(R104, R106, R173, R214). -/

namespace Sys2Proof.Machine

/-- One write to a core-shared register: op 0 writes, 1 sets, 2 clears, 3 inverts the ones of the value (R105). -/
def applyShared (op : BitVec 2) (old v : W64) : W64 :=
  if op = 0 then v else if op = 1 then old ||| v else if op = 2 then old &&& ~~~v else old ^^^ v

/-- The writes of one cycle to a core's shared registers, in ascending berth order (R104). A write over the 0xE0
path stands after every berth's: its berth number is 4. -/
def Core.applySharedWrites (k : Core) : Core :=
  let ordered := (List.range 5).flatMap fun b => k.sharedWrites.filter fun w => w.berth = b
  { k with
    shared := ordered.foldl (fun v w => modifyVec v w.reg fun x => applyShared w.op x w.value) k.shared
    sharedWrites := [] }

/-- The baton after the passes and drops of the cycle (R173). -/
def Core.applyBaton (k : Core) : Core :=
  match k.matrix.batonNext with
  | none => k
  | some b => { k with matrix := { k.matrix with baton := b, batonNext := none } }

/-- The cycles that a matrix engine has neither run nor stalled for leave; 512 of them end its burst (R186). -/
def Matrix.endCycle (m : Matrix) : Matrix :=
  if m.busy || m.asking then { m with idle := 0, busy := false } else { m with idle := min 512 (m.idle + 1) }

/-- What the end of a cycle does in a core: every berth has its issue slot again, and what left crews gave back is free. -/
def Core.endCycle (k : Core) : Core :=
  let k1 := k.applySharedWrites.applyBaton
  { k1 with matrix := k1.matrix.endCycle, slot := 0, returning := [] }

/-- A crew of a core waits at the governor for leave (R187, R393). -/
def Governor.crewWaits (g : Governor) (core : Nat) : Bool :=
  g.queue.any fun a => match a.who with
                       | .crew k _ _ => k = core
                       | _ => false

/-- LEAVEWAIT counts a cycle of a core whose engine stalls for leave, or whose crew waits for it (R393). -/
def Core.countLeaveWait (k : Core) (g : Governor) (n : Nat) : Core :=
  if k.matrix.asking || g.crewWaits n then { k with leaveWait := k.leaveWait + 1 } else k

/-- What the end of a cycle does in a die: a die that has tripped asserts its fatal line from the next cycle (R395). -/
def Die.endCycle (x : Die) : Die :=
  { x with
    cores := x.cores.map fun p => (p.1, (p.2.countLeaveWait x.gov p.1).endCycle)
    fatalLine := x.fatalLine || x.gov.trip }

/-- The carousel waits at a governor (R251, R393). -/
def State.carouselWaits (s : State) : Bool :=
  s.dies.toList.any fun x => x.gov.queue.any fun a => a.who = .carousel

/-- The streamers that hold a slice which some target has not yet taken (R249). -/
def Carousel.stuck (c : Carousel) : Nat := (c.streamers.toList.filter fun o => (o.map fun t => !t.held.isEmpty).getD false).length

/-- CARSTALL counts the cycles in which a rotation waits for leave, and those in which a streamer reads no further slice (R249,
R251). -/
def State.carouselEndCycle (s : State) : Carousel :=
  let c := s.io.carousel
  { c with
    leaveWait := if s.carouselWaits then satInc c.leaveWait else c.leaveWait
    bufWait := (List.range c.stuck).foldl (fun n _ => satInc n) c.bufWait }

/-- ABSENT of an XBAR record's word 0 (R214). -/
def xbarAbsent (w : W64) : Nat := (w.extractLsb' 37 11).toNat

/-- The time-out count of an XBAR record: it stands still while ABSENT is nonzero (R214). -/
def XbarTimer.tick (s : State) (t : XbarTimer) : XbarTimer :=
  if xbarAbsent (s.homeWord t.home 0) = 0 then { t with count := t.count + 1 } else t

/-- The end of a cycle of the package. -/
def State.endCycle (s : State) : State :=
  { s with
    dies := mapVec Die.endCycle s.dies
    io := { s.io with carousel := s.carouselEndCycle }
    xtimers := s.xtimers.map (XbarTimer.tick s)
    now := s.now + 1 }

end Sys2Proof.Machine
end

