-- ==== Sys2Proof/Machine/Graph.lean ====
section
/-! DEFINITION. Tokens, node states and index ranges: FIRE, FIREI, NSTATE, RANGE, and tokens at a record's home slice
(R206 to R208, R279, R280, R285, R286). -/

namespace Sys2Proof.Machine

/-! ## Record addresses (R206) -/

/-- The checks of a node or weir address: path 0x00 and 128-byte alignment under R142. -/
def State.nodeCheck (s : State) (c : Crew) (k : Kind) (a : W64) : Eff Unit :=
  if !topOk a then memFault 3 a
  else if topByte a != 0 then memFault 2 a
  else
    match s.check c.accessor k a 8 128 with
    | .ok _ => .ok ()
    | .error d => memFault d a

/-- The graph fault with its record address and slot (R221, R345). -/
def graphFault {α : Type} (detail : Nat) (record : W64) (slot : W64) : Eff α := raise 12 detail [record, slot]

/-- A scalar register that receives a value later: s0 never does (R148). -/
def Crew.await (c : Crew) (d : BitVec 8) : Crew := if d = 0 then c else { c with busy := d :: c.busy }

/-! ## FIRE (R206) -/

/-- Posts tokens to a node at a scope (R206); a node in a peer's memory is reached by a remote access (R391). -/
def fireNode (s : State) (c : Crew) (d : BitVec 8) (a n : W64) (scope : Nat) : Eff State := do
  roomFor c .wg
  if n = 0 || 65535 < n.toNat then graphFault 1 a 0
  match s.remoteWindow a with
  | some win =>
    if a.toNat % 128 != 0 then memFault 1 a
    else
      s.mayRelease c scope
      let r := s.releaseFor c scope
      let q := r.1.remoteAccess r.2.1 win a .wg (some d) 0 17 (scope = 5) n 0 none
      .ok (q.1.putCrew q.2.advance)
  | none =>
    s.nodeCheck c .atomic a
    s.mayRelease c scope
    let r := (s.noteAddr c a).releaseFor c scope
    let p : TokenPost :=
      { agent := some c.agent, writer := c.place.die, node := a, die := c.place.die, count := n.toNat, op := some c.nextOp, dest := some d
        pred := s.nodeOfCrew c, answer := none }
    .ok ((r.1.post p).putCrew ((r.2.1.addOp .wg false r.2.2).await d).advance)

/-- Posts s[b] tokens to the node at s[a] (R206). -/
def execFire (w : RegForm) (s : State) : Host.Outcome State Fault Refusal :=
  crewInstr w.guard s fun s c => fireNode s c w.d (c.sreg w.a) (c.sreg w.b) w.fn.toNat

/-- Posts one token to the node at s[a] + 128 i, at scope .pkg (R193, R206). -/
def execFirei (w : ImmForm) (s : State) : Host.Outcome State Fault Refusal :=
  crewInstr w.guard s fun s c => fireNode s c 0 (c.sreg w.a + (immSigned w <<< 7)) 1 4

/-- No earlier post of the same crew to the same record is still on its way. -/
def Flight.postFirst (f : Flight) (n : Nat) (p : TokenPost) : Bool :=
  !((f.posts.take n).any fun q => q.node = p.node && q.op.isSome && q.op.map OpRef.uid == p.op.map OpRef.uid)

/-- Tokens reach a record's home slice (R206, R280): word 0 before them goes to the crew or to the control node. -/
def execNodeTokens (n : Nat) (s : State) : Host.Outcome State Fault Refusal :=
  match s.flight.posts[n]? with
  | none => .next s
  | some p =>
    if !s.flight.postFirst n p then .next s
    else
      let s1 := s.onFlight fun f => { f with posts := f.posts.eraseIdx n }
      let r := s1.nodeTokens p.writer (s1.nodeHome p.node p.die) p.node p.count p.pred
      let s2 := match p.agent with
                | some a => if r.2.2 then r.1.agentRecord a 12 2 [p.node, 0] else r.1
                | none => r.1
      let s3 := match p.op, p.dest with
                | some o, some d => (s2.onCrew o.uid fun c => c.deliver d r.2.1).finishOp o r.2.2
                | _, _ => s2
      .next (match p.answer with
             | some tag => s3.respond 3 tag.toNat (if r.2.2 then 1 else 0) (if r.2.2 then [] else [r.2.1])
             | none => s3)

/-! ## NSTATE (R207) -/

/-- The crew has an earlier FIRE, FIREI, JADD or WARRIVE on a record that has not completed (R207). -/
def State.recordBusy (s : State) (c : Crew) (a : W64) : Bool :=
  (s.flight.posts.any fun p => p.node = a && p.op.map OpRef.uid == some c.uid) ||
    (s.flight.weirs.any fun m => m.record = a && m.agent.isCrew c.uid) ||
    (s.flight.arrived.any fun m => m.record = a && m.agent.isCrew c.uid) ||
    ((s.core c.place.die c.place.core).weirCopies.any fun m => m.record = a && m.agent.isCrew c.uid) ||
    (s.io.remote.any fun r => r.op.uid = c.uid && r.ctr = .wg && r.addr = a)

/-- Reads word 0 of a node or weir record with acquire at .pkg, after the crew's earlier operations on it (R207). -/
def execNstate (w : RegForm) (s : State) : Host.Outcome State Fault Refusal :=
  crewInstr w.guard s fun s c => do
    let a := c.sreg w.a
    roomFor c .wg
    if s.recordBusy c a then stalled
    match s.remoteWindow a with
    | some win =>
      if a.toNat % 128 != 0 then memFault 1 a
      else
        let q := s.remoteAccess c win a .wg (some w.d) 0 18 false 0 0 none
        .ok (q.1.putCrew q.2.advance)
    | none =>
      s.nodeCheck c .load a
      let home := s.nodeHome a c.place.die
      .ok (((s.noteAddr c a).seeSys c.place.die home a 8).putCrew
        ((c.setS w.d (s.sys64 home a)).addOp .wg true false).advance)

/-! ## RANGE (R208, R285, R286) -/

/-- The next token of a range source: first index and count, and the source after it (R286). -/
def RangeSource.take (r : RangeSource) : Nat × Nat × RangeSource :=
  let n := min r.grain (r.limit - r.next)
  (r.next, n, { r with next := r.next + n })

/-- A die's range source by number, when its partition is loaded (R285). -/
def Die.source (x : Die) (n : Nat) : Option RangeSource := x.part.bind fun p => p.sources[n]?

def State.putSource (s : State) (die n : Nat) (r : RangeSource) : State :=
  s.onDie die fun x => { x with part := x.part.map fun p => { p with sources := modifyAt p.sources n fun _ => r } }

/-- The engine that RANGE re-arms: bound to qa and not running (R208). -/
def State.rearmable (s : State) (c : Crew) (w : RegForm) : Eff (Option (Nat × Nat)) :=
  if w.a = 0 then .ok none
  else do
    let n := chanIndex w.a
    let e ← s.engineOf c n
    if (s.stream c.place.die c.place.core e).state = .running then memFault 7 0
    .ok (some (n, e))

/-- Takes the next index-range token of a source; with a channel, re-arms its stream engine (R208). -/
def execRange (w : RegForm) (s : State) : Host.Outcome State Fault Refusal :=
  crewInstr w.guard s fun s c => do
    roomFor c .wg
    let v := c.sreg w.b
    let d := c.place.die
    match (if v.extractLsb' 8 56 != 0 then none else (s.die d).source v.toNat) with
    | none => graphFault 5 v 0
    | some src =>
      let e ← s.rearmable c w
      let t := src.take
      let c1 := (c.setS w.d (if t.2.1 = 0 then 0 else BitVec.ofNat 64 (t.1 * 2 ^ 24 + t.2.1))).addOp .wg true false
      let s1 := s.putSource d v.toNat t.2.2
      match e with
      | none => .ok (s1.putCrew c1.advance)
      | some (n, e) =>
        if t.2.1 = 0 then .ok (s1.putCrew c1.advance)
        else
          let x := s.stream d c.place.core e
          let s2 ← s1.configStream c n (src.base + BitVec.ofNat 64 t.1 * src.bstep) x.ctl x.shape
          let s3 ← s2.startStream c e
          .ok (s3.putCrew c1.advance)

end Sys2Proof.Machine
end

