-- ==== Sys2Proof/Machine/Sync.lean ====
section
/-! DEFINITION. Barriers: BAR, XBAR and PHASE, the messages they exchange, and proxy tokens (R194, R213 to R216, R362);
traps (R218). -/

namespace Sys2Proof.Machine

/-! ## Waiting (R194) -/

/-- The synchronisation fault with the barrier id or the record address (R221, R345). -/
def syncFault {α : Type} (detail : Nat) (info : W64) : Eff α := raise 13 detail [info]

/-- A barrier wait ends: s[d] is written and the pc moves on (R194). -/
def Crew.endWait (c : Crew) (v : W64) : Crew :=
  match c.wait with
  | none => c
  | some p => { c.setS p.dest v with wait := none }.advance

/-- A change to every crew of the package, running or saved. -/
def State.mapCrews (s : State) (f : Crew → Crew) : State :=
  { s with
    dies := s.dies |> mapVec fun x =>
      { x with
        cores := x.cores.map fun p => (p.1, { p.2 with berths := mapVec (Option.map f) p.2.berths })
        saved := x.saved.map fun r =>
          { r with cores := r.cores.map fun k => { k with berths := mapVec (Option.map f) k.berths } } } }

/-- The crews that wait at a barrier go on with a value. -/
def State.endWaits (s : State) (which : Crew → Bool) (v : W64) : State :=
  s.mapCrews fun c => if which c then c.endWait v else c

/-- A token on its way to an XBAR record (R362); a peer's record is reached by a type-4 frame of kind 1 or 2 (log 12). -/
def State.sendToken (s : State) (die : Nat) (a : W64) (absent : Bool) : State :=
  match s.remoteWindow a with
  | some win =>
    s.sendFrame die 4 (win.extractLsb' 48 15).toNat (win.extractLsb' 44 2).toNat [a, if absent then 1 else 2, 0]
  | none =>
    match s.sysPlace (s.die die).regs.latchedRoot true a with
    | .ok (.pa pa key _) =>
      let m : ProxyMsg := { record := a, home := { pa := pa, key := key }, die := die }
      s.onFlight fun f => if absent then { f with absences := f.absences ++ [m] } else { f with presences := f.presences ++ [m] }
    | _ => s

/-- The token of a crew with a barrier tie: absence to the tie's record at a pre-emption, and presence to the record that has
its absence at a restore or an end (R362). -/
def State.proxyToken (s : State) (c : Crew) (absent : Bool) : State :=
  if absent then
    match c.tie, c.absent with
    | some a, none => (s.onCrew c.uid fun y => { y with absent := some a }).sendToken c.place.die a true
    | _, _ => s
  else
    match c.absent with
    | some a => (s.onCrew c.uid fun y => { y with absent := none }).sendToken c.place.die a false
    | none => s

/-- A crew killed by what comes back to its barrier wait; one that a pre-emption has already announced as absent is
present again (R349, R362). -/
def State.killWaiting (s : State) (c : Crew) (f : CrewFault) : State :=
  (s.killCrew { c with wait := none } f).proxyToken c false

/-! ## BAR (R213) -/

/-- One arrival at a barrier of an expected count: none when the count differs from the generation's; else the barrier
after it and whether the generation is released. -/
def Barrier.arrive (b : Barrier) (n : Nat) : Option (Barrier × Bool) :=
  if b.expected != 0 && b.expected != n then none
  else if b.arrived + 1 = n then some ({ expected := 0, arrived := 0, gen := b.gen + 1 }, true)
  else some ({ b with expected := n, arrived := b.arrived + 1 }, false)

/-- The barrier that a crew names, of its core or of its region. -/
def State.barrier (s : State) (c : Crew) (rgn : Bool) (id : Nat) : Barrier :=
  if rgn then
    (((s.die c.place.die).region c.region).bind fun r => r.barriers[id]?).getD Barrier.reset
  else ((s.core c.place.die c.place.core).barriers[id]?).getD Barrier.reset

def State.putBarrier (s : State) (c : Crew) (rgn : Bool) (id : Nat) (b : Barrier) : State :=
  if rgn then
    s.onRegion c.place.die c.region fun r => { r with barriers := modifyAt r.barriers id fun _ => b }
  else s.onCore c.place.die c.place.core fun k => { k with barriers := modifyVec k.barriers id fun _ => b }

/-- A crew waits for a generation of a barrier that another crew names. -/
def Crew.waitsWith (c y : Crew) (rgn : Bool) (id : Nat) (gen : BitVec 16) : Bool :=
  match y.wait.map PendingWait.wait with
  | some (.core i g) => !rgn && i = id && g = gen && y.place.die = c.place.die && y.place.core = c.place.core && y.region = c.region
  | some (.region i g) => rgn && i = id && g = gen && y.place.die = c.place.die && y.region = c.region
  | _ => false

/-- Meets other crews at a barrier of the core or of the region (R213). -/
def execBar (w : RegForm) (s : State) : Host.Outcome State Fault Refusal :=
  crewInstr w.guard s fun s c =>
    let rgn := w.fn = 2
    let id := c.sreg w.a
    let n := (c.sreg w.b).toNat
    if 15 < id.toNat || n = 0 || (if rgn then 256 else 4) < n then syncFault 1 id
    else
      let b := s.barrier c rgn id.toNat
      match b.arrive n with
      | none => syncFault 2 id
      | some (b1, released) =>
        let g : W64 := b.gen.setWidth 64
        let s1 := (s.release c (if rgn then 2 else 1)).putBarrier c rgn id.toNat b1
        if released then
          .ok ((s1.endWaits (fun y => c.waitsWith y rgn id.toNat b.gen) g).putCrew (c.setS w.d g).advance)
        else
          let wt : Wait := if rgn then .region id.toNat b.gen else .core id.toNat b.gen
          .ok (s1.putCrew { c with wait := some { wait := wt, dest := w.d } })

/-! ## XBAR (R214, R215, R391) -/

def xbarGen (w : W64) : Nat := (w.extractLsb' 48 16).toNat
def xbarArrived (w : W64) : Nat := (w.extractLsb' 26 11).toNat
def xbarMembers (w : W64) : Nat := (w.extractLsb' 15 11).toNat

/-- Word 0 of a record with other counts. -/
def xbarWord (w : W64) (gen absent arrived : Nat) : W64 :=
  (w &&& 0x3FFFFFF#64) ||| BitVec.ofNat 64 (gen % 65536 * 2 ^ 48 + absent * 2 ^ 37 + arrived * 2 ^ 26)

/-- A word of a record written at its home slice, for a die under its clock, or by the slice itself (R320). -/
def State.setHomeWord (s : State) (writer : Option Nat) (h : HomeAddr) (i : Nat) (v : W64) : State :=
  let a := h.pa + 8 * i
  let t := ((wordBytes v).zipIdx.foldl (fun t p => t.setHomeByte h.key (a + p.2) p.1) s).clearMarks a 8
  match writer with
  | some d => t.putStamp a 8 d (some (t.imageOf d))
  | none => t

/-- A record whose MEMBERS is out of range, or whose reserved field is nonzero, or a member that it does not have (R215). -/
def State.xbarMalformed (s : State) (h : HomeAddr) (member : Nat) : Bool :=
  let w := s.homeWord h 0
  let n := xbarMembers w
  n = 0 || 1024 < n || w.extractLsb' 2 13 != 0 || w.extractLsb' 0 2 == 3 || (s.homeWord h 1).extractLsb' 32 32 != 0 ||
    ((List.range 14).any fun i => s.homeWord h (2 + i) != 0) || n ≤ member

/-- Registers a member at an XBAR record and waits for its generation (R215); a peer's record is reached by a type-4
frame (R391), and the crew's barrier tie names it until the peer refuses (R362). The body of that frame is the record, a kind and the member; the spec does not lay it out (log 12). -/
def execXbar (w : RegForm) (s : State) : Host.Outcome State Fault Refusal :=
  crewInstr w.guard s fun s c => do
    let a := c.sreg w.a
    let member := (c.sreg w.b).toNat
    let c1 : Crew := { c with wait := some { wait := .xbar a member none, dest := w.d } }
    match s.remoteWindow a with
    | some win =>
      if a.toNat % 256 != 0 then memFault 1 a
      else
        s.mayRelease c 5
        let peer := (win.extractLsb' 48 15).toNat
        let tdie := (win.extractLsb' 44 2).toNat
        let s1 := s.release c 5
        if s.reachable peer then
          let r : RemoteOp :=
            { op := c.nextOp, place := c.place, ctr := .wg, dest := some w.d, ety := 0, addr := a, peer := peer, tdie := tdie
              pseq := s1.nextPseq c.place.die (some peer) tdie, xbar := true
              oldTie := c.tie, fold := none, origin := c.origin 0 0 }
          let s2 := s1.sendFrame c.place.die 4 peer tdie [a, 0, BitVec.ofNat 64 member]
          .ok ((s2.onIo fun io => { io with remote := io.remote ++ [r] }).putCrew { c1 with tie := some a })
        else
          let s2 := { s1.remoteFault c 4 a with free := s1.free + 1 }
          .ok (s2.putCrew (c.setS w.d (Config.freeWord s1.free)).advance)
    | none =>
      if topOk a && topByte a != 0 then memFault 2 a
      match s.check c.accessor .atomic a 256 256 with
      | .error d => memFault d a
      | .ok p =>
        s.mayRelease c 5
        let h : HomeAddr := match p with
                            | .pa pa key _ => { pa := pa, key := key }
                            | _ => { pa := 0, key := 0 }
        let s1 := (s.noteAddr c a).release c 5
        .ok ((s1.onFlight fun f =>
          { f with xbars := f.xbars ++ [{ record := a, home := h, member := member, party := .crew c.uid }] }).putCrew c1)

/-- The die of a party: its crew's, or the one that answers for a peer. -/
def State.partyDie (s : State) (p : Party) : Nat :=
  match p with
  | .crew u => ((s.anyCrew u).map fun c => c.place.die).getD 0
  | .peer die _ _ _ => die

/-- A reply sets off towards a member. -/
def State.xbarAnswer (s : State) (p : Party) (record : W64) (r : Sum W64 Nat) (image : Option Image) : State :=
  s.onFlight fun f =>
    { f with xreplies := f.xreplies ++ [{ party := p, record := record, result := r, released := image.isSome, image := image }] }

/-- A generation ends: every waiting member gets a status and the generation joined, the record is cleared and GEN moves
on; a release carries the clock of its last arrival, which has taken in those of the others (R215, R320). -/
def State.xbarEnd (s : State) (t : XbarTimer) (status : Nat) (last : Option Nat) : State :=
  let w := s.homeWord t.home 0
  let v : W64 := BitVec.ofNat 64 (xbarGen w * 2 ^ 48 + status)
  let s1 := s.setHomeWord last t.home 0 (xbarWord w (xbarGen w + 1) (xbarAbsent w) 0)
  let s2 := (List.range 16).foldl (fun u i => u.setHomeWord last t.home (16 + i) 0) s1
  let s3 := t.waiting.foldl (fun u p => u.xbarAnswer p t.record (.inl v) (last.map u.imageOf)) s2
  { s3 with xtimers := s3.xtimers.filter fun x => x.home != t.home }

/-- A crew has joined an XBAR record: the record is its barrier tie, and its wait keeps the generation (R194, R215, R362). -/
def Crew.joined (c : Crew) (record : W64) (member : Nat) (gen : BitVec 16) : Crew :=
  { c with
    tie := some record
    wait := c.wait.map fun x =>
      if x.wait = .xbar record member none then { x with wait := .xbar record member (some gen) } else x }

/-- A member is registered at a record that takes it: its ARRIVAL bit, ARRIVED, and with the first member the time-out count. -/
def State.xbarJoin (s : State) (m : XbarMsg) (bits : W64) : State :=
  let h := m.home
  let d := s.partyDie m.party
  let s1 := s.mergeStamps d ((List.range 256).map (h.pa + ·))
  let w := s1.homeWord h 0
  let s2 := s1.setHomeWord (some d) h (16 + m.member / 64) (bits ||| (1#64 <<< (m.member % 64)))
  let s3 := s2.setHomeWord (some d) h 0 (xbarWord w (xbarGen w) (xbarAbsent w) (xbarArrived w + 1))
  let old := (s3.xtimers.find? fun x => x.home = h).getD { home := h, record := m.record, waiting := [], count := 0 }
  let t : XbarTimer :=
    { old with waiting := old.waiting ++ [m.party], count := if xbarArrived w = 0 then 0 else old.count }
  let s4 := { s3 with xtimers := (s3.xtimers.filter fun x => x.home != h) ++ [t] }
  let s5 := match m.party with
            | .crew u => s4.onCrew u fun c => c.joined m.record m.member (BitVec.ofNat 16 (xbarGen w))
            | .peer _ _ _ _ => s4
  if xbarArrived w + 1 = xbarMembers w then s5.xbarEnd t 0 (some d) else s5

/-- A member's arrival at an XBAR record's home slice (R215). -/
def execXbarArrival (n : Nat) (s : State) : Host.Outcome State Fault Refusal :=
  match s.flight.xbars[n]? with
  | none => .next s
  | some m =>
    let s1 := s.onFlight fun f => { f with xbars := f.xbars.eraseIdx n }
    if s1.xbarMalformed m.home m.member then .next (s1.xbarAnswer m.party m.record (.inr 4) none)
    else
      let bits := s1.homeWord m.home (16 + m.member / 64)
      if bits.getLsbD (m.member % 64) then .next (s1.xbarAnswer m.party m.record (.inr 5) none)
      else .next (s1.xbarJoin m bits)

/-- A generation of an XBAR record times out (R214, R215). -/
def execXbarTimeout (n : Nat) (s : State) : Host.Outcome State Fault Refusal :=
  match s.xtimers[n]? with
  | none => .next s
  | some t =>
    let limit := (s.homeWord t.home 1).toNat % 2 ^ 32
    if limit = 0 || t.count < limit || xbarAbsent (s.homeWord t.home 0) != 0 then .next s else .next (s.xbarEnd t 1 none)

/-- The body of a type-3 frame, which answers a request: its PSEQ, a status and a value (log 12). -/
def State.answerPeer (s : State) (die pkg pdie : Nat) (pseq : W64) (status : Nat) (v : W64) : State :=
  s.sendFrame die 3 pkg pdie [pseq, BitVec.ofNat 64 status, v]

/-- An XBAR reply reaches its member: the wait ends, or the fault that the home slice found is raised (R215). A crew that
is saved meets its fault once it is restored. -/
def execXbarReply (n : Nat) (s : State) : Host.Outcome State Fault Refusal :=
  match s.flight.xreplies[n]? with
  | none => .next s
  | some m =>
    let s0 := s.onFlight fun f => { f with xreplies := f.xreplies.eraseIdx n }
    let s1 := match m.image with
              | some g => s0.receive (s0.partyDie m.party) g
              | none => s0
    match m.party, m.result with
    | .peer die pkg pdie pseq, .inl v => .next (s1.answerPeer die pkg pdie pseq 0 v)
    | .peer die pkg pdie pseq, .inr d => .next (s1.answerPeer die pkg pdie pseq (16 + d) 0)
    | .crew u, .inl v => .next (s1.onCrew u fun c => c.endWait v)
    | .crew u, .inr d =>
      match s.findCrew u with
      | some c => if c.wait.isSome then .next (s1.killWaiting c ⟨13, d, [m.record]⟩) else .next s1
      | none => if (s.anyCrew u).isSome then .next s else .next s1

/-! ## PHASE (R216) -/

/-- Leaves a phase of a batch at one of the package's phase barriers (R216). -/
def execPhase (w : RegForm) (s : State) : Host.Outcome State Fault Refusal :=
  crewInstr w.guard s fun s c => do
    let id := c.sreg w.a
    let v := c.sreg w.b
    let n := (v.extractLsb' 16 11).toNat
    if 15 < id.toNat || n = 0 || 1024 < n || v.extractLsb' 27 37 != 0 || v.extractLsb' 1 15 != 0 then syncFault 1 id
    else
      s.mayRelease c 4
      let s1 := s.release c 4
      let m : PhaseMsg := { uid := c.uid, image := s1.imageOf c.place.die, place := c.place, id := id.toNat, leaving := v.getLsbD 0, count := n }
      .ok ((s1.onFlight fun f => { f with phases := f.phases ++ [m] }).putCrew
        { c with wait := some { wait := .phase id.toNat none, dest := w.d } })

/-- A crew waits for a generation of a phase barrier. -/
def Crew.waitsPhase (c : Crew) (id : Nat) (gen : Option (BitVec 16)) : Bool :=
  match c.wait.map PendingWait.wait with
  | some (.phase i g) => i = id && g = gen
  | _ => false

/-- The dies on which crews wait for a generation of a phase barrier take in the I/O die's clock at its release (R216, R320). -/
def State.phaseAcquire (s : State) (id : Nat) (gen : BitVec 16) : State :=
  (List.range 4).foldl (fun t d =>
    if (t.die d).cores.any fun p => p.2.crews.any fun c => c.waitsPhase id (some gen) then t.receive d (t.imageOf 4) else t) s

/-- A PHASE arrival reaches the I/O die with its die's clock (R216, R320): a count or a phase that does not fit kills its crew. -/
def execPhaseArrival (n : Nat) (s : State) : Host.Outcome State Fault Refusal :=
  match s.flight.phases[n]? with
  | none => .next s
  | some m =>
    let s1 := (s.onFlight fun f => { f with phases := f.phases.eraseIdx n }).receive 4 m.image
    let p := (s.io.phases[m.id]?).getD PhaseBarrier.reset
    let fail (detail : Nat) : Host.Outcome State Fault Refusal :=
      match s.findCrew m.uid with
      | some c => .next (s1.killWaiting c ⟨13, detail, [BitVec.ofNat 64 m.id]⟩)
      | none => if (s.anyCrew m.uid).isSome then .next s else .next s1
    if p.expected != 0 && p.expected != m.count then fail 2
    else if p.phase != m.leaving then fail 3
    else
      let put (q : PhaseBarrier) (t : State) : State :=
        t.onIo fun io => { io with phases := modifyVec io.phases m.id fun _ => q }
      let s2 := s1.onCrew m.uid fun c =>
        if c.waitsPhase m.id none then
          { c with wait := c.wait.map fun x => { x with wait := .phase m.id (some p.gen) } } else c
      if p.arrived + 1 = m.count then
        let q : PhaseBarrier := { phase := !p.phase, expected := 0, arrived := 0, gen := p.gen + 1 }
        let v : W64 := BitVec.ofNat 64 (q.gen.toNat * 2 ^ 48 + (if q.phase then 1 else 0))
        .next (((put q s2).phaseAcquire m.id p.gen).endWaits (fun c => c.waitsPhase m.id (some p.gen)) v)
      else .next (put { p with expected := m.count, arrived := p.arrived + 1 } s2)

/-! ## Proxy tokens (R362) -/

/-- A token that would take ABSENT out of its range changes nothing and is recorded (R362). -/
def State.proxyFault (s : State) (m : ProxyMsg) : State :=
  s.record m.die (noCrewOrigin m.die 0 0 13 4 0) false false [m.record]

/-- A proxy absence token reaches an XBAR record: ABSENT + 1 (R362). -/
def execProxyAbsenceToken (n : Nat) (s : State) : Host.Outcome State Fault Refusal :=
  match s.flight.absences[n]? with
  | none => .next s
  | some m =>
    let s1 := s.onFlight fun f => { f with absences := f.absences.eraseIdx n }
    let w := s.homeWord m.home 0
    if xbarMembers w ≤ xbarAbsent w then .next (s1.proxyFault m)
    else .next (s1.setHomeWord (some m.die) m.home 0 (xbarWord w (xbarGen w) (xbarAbsent w + 1) (xbarArrived w)))

/-- A presence token reaches an XBAR record: ABSENT - 1 (R362). -/
def execPresenceToken (n : Nat) (s : State) : Host.Outcome State Fault Refusal :=
  match s.flight.presences[n]? with
  | none => .next s
  | some m =>
    let s1 := s.onFlight fun f => { f with presences := f.presences.eraseIdx n }
    let w := s.homeWord m.home 0
    if xbarAbsent w = 0 then .next (s1.proxyFault m)
    else .next (s1.setHomeWord (some m.die) m.home 0 (xbarWord w (xbarGen w) (xbarAbsent w - 1) (xbarArrived w)))

/-! ## Traps (R218) -/

/-- Raises the trap cause with the code s[a][15:0] (R218). -/
def execTrap (w : RegForm) (s : State) : Host.Outcome State Fault Refusal :=
  crewInstr w.guard s fun _ c => raise 14 0 [c.sreg w.a &&& 0xFFFF]

/-- Raises the trap cause with the immediate's code (R218). -/
def execTrapi (w : ImmForm) (s : State) : Host.Outcome State Fault Refusal :=
  crewInstr w.guard s fun _ _ => raise 14 0 [(w.imm.extractLsb' 0 16).setWidth 64]

end Sys2Proof.Machine
end

