-- ==== Sys2Proof/Machine/Regions.lean ====
section
/-! DEFINITION. Region descriptors, lock records and handler entries as memory holds them, with their checks; a region
configuration loaded onto cores, and taken off them (R229, R230, R233, R239, R240, R275, R276, R281, R326). -/

namespace Sys2Proof.Machine

/-! ## Reading tables (R278) -/

/-- Why a table could not be read: cause, detail and address (R278). -/
structure ReadFault where
  cause : Nat
  detail : Nat
  addr : W64
  deriving DecidableEq, Repr

/-- A word of a table on path 0x00, through a root; a marked word cannot be read. -/
def State.readWord (s : State) (root : W64) (a : W64) : Except ReadFault W64 :=
  if topByte a != 0 then .error ⟨6, 4, a⟩
  else
    match s.sysPlace root false a with
    | .error d => .error ⟨6, d, a⟩
    | .ok p => if s.homeMarked p 8 then .error ⟨15, 2, a⟩ else .ok (BitVec.ofNat 64 (s.homeRead p 8))

def State.readWords (s : State) (root : W64) (a : W64) (n : Nat) : Except ReadFault (List W64) :=
  (List.range n).mapM fun i => s.readWord root (a + BitVec.ofNat 64 (8 * i))

/-- A refused partition: its reason, and the read that failed (R278). -/
abbrev Checked (α : Type) := Except (Nat × Option ReadFault) α

def refuse {α : Type} (reason : Nat) : Checked α := .error (reason, none)

/-- A read that fails refuses with reason 5. -/
def reading {α : Type} (x : Except ReadFault α) : Checked α :=
  match x with
  | .ok v => .ok v
  | .error f => .error (5, some f)

/-- A limit that must hold, or the partition is refused. -/
def mustHold (reason : Nat) (p : Bool) : Checked Unit := if p then .ok () else refuse reason

def wordAt (ws : List W64) (i : Nat) : W64 := (ws[i]?).getD 0

/-! ## Lock records (R230) -/

/-- The fields of a lock record; the on-chip slots are not in it. -/
def lockOf (index : Nat) (addr : W64) (ws : List W64) : Lock :=
  let w := wordAt ws 0
  { index := index, recordAddr := addr, fill := (w >>> 58).toNat, timeout := (w.extractLsb' 34 24).toNat
    phen := w.getLsbD 33, pseg := (w.extractLsb' 13 20).toNat, outq := (w.extractLsb' 9 4).toNat
    pgen := w.getLsbD 8, pgid := (w.extractLsb' 4 4).toNat, pgph := w.getLsbD 3
    canalBase := wordAt ws 1, canalSize := (wordAt ws 2).toNat % 2 ^ 40
    head := (wordAt ws 3 >>> 32).toNat, tail := (wordAt ws 3).toNat % 2 ^ 32
    canal := (wordAt ws 4).toNat / 2 ^ 16 % 2 ^ 32, slots := []
    fires := (wordAt ws 5).extractLsb' 32 32, nextTag := ((wordAt ws 5).extractLsb' 30 2).toNat
    pendPh := (wordAt ws 5).getLsbD 29
    fillF := (wordAt ws 6).extractLsb' 48 16, toF := (wordAt ws 6).extractLsb' 32 16
    phF := (wordAt ws 6).extractLsb' 16 16, phDrop := (wordAt ws 6).extractLsb' 0 16
    blocked := (wordAt ws 7).extractLsb' 32 32, poisoned := (wordAt ws 7).extractLsb' 0 32
    phaseEvent := false, discarding := none }

/-- The limits of a lock record; one with FILL 0 is zero everywhere (R230). -/
def lockWordsOk (ws : List W64) : Bool :=
  let w := wordAt ws 0
  let fill := (w >>> 58).toNat
  if fill = 0 then ws.all fun x => x == 0
  else
    fill ≤ 32 && w.extractLsb' 0 3 == 0 && topByte (wordAt ws 1) = 0 && (wordAt ws 1).toNat % 64 = 0 &&
      (wordAt ws 2).extractLsb' 40 24 == 0 && (wordAt ws 2).toNat % 64 = 0 && 64 ≤ (wordAt ws 2).toNat &&
      (wordAt ws 2).toNat ≤ 2 ^ 38

/-- The LOCKQ word of a lock (R205). -/
def Lock.occ (l : Lock) : W64 := BitVec.ofNat 64 (l.canal % 2 ^ 32 * 2 ^ 16 + l.slots.length)

/-- The eight words of a lock record. -/
def Lock.words (l : Lock) : List W64 :=
  let b (x : Bool) : Nat := if x then 1 else 0
  [BitVec.ofNat 64 (l.fill * 2 ^ 58 + l.timeout * 2 ^ 34 + b l.phen * 2 ^ 33 + l.pseg * 2 ^ 13 + l.outq * 2 ^ 9 +
      b l.pgen * 2 ^ 8 + l.pgid * 2 ^ 4 + b l.pgph * 2 ^ 3),
   l.canalBase, BitVec.ofNat 64 l.canalSize, BitVec.ofNat 64 (l.head * 2 ^ 32 + l.tail), l.occ,
   BitVec.ofNat 64 (l.fires.toNat * 2 ^ 32 + l.nextTag * 2 ^ 30 + b l.pendPh * 2 ^ 29),
   l.fillF ++ l.toF ++ l.phF ++ l.phDrop, l.blocked ++ l.poisoned]

/-- A lock writes its whole record back (R230). -/
def State.writeLock (s : State) (die : Nat) (l : Lock) : State :=
  l.words.zipIdx.foldl (fun t p => t.setSys64 die (l.recordAddr + BitVec.ofNat 64 (8 * p.2)) p.1) s

/-! ## Handlers, formats and shapes (R63, R64, R276) -/

/-- The predicate terms of a handler entry. -/
def predTerms (w : W64) : List PredTerm :=
  (List.range 4).filterMap fun t =>
    let x := w.extractLsb' (12 * t) 12
    if x.getLsbD 11 then some { k := (x.extractLsb' 6 4).toNat, bit := (x.extractLsb' 0 6).toNat, value := x.getLsbD 10 }
    else none

def handlerOf (index : Nat) (ws : List W64) : Handler :=
  let w := wordAt ws 1
  let tag := (w.extractLsb' 59 3).toNat
  { index := index, entry := wordAt ws 0, enable := w.getLsbD 62, tag := if tag < 4 then some tag else none
    chan := (w.extractLsb' 55 4).toNat, lanes := (w.extractLsb' 44 11).toNat, regs := (w.extractLsb' 33 11).toNat
    tiles := (w.extractLsb' 24 9).toNat, priv := (wordAt ws 2).toNat % 2 ^ 32, preds := predTerms (wordAt ws 3) }

/-- An entry that declares a handler. -/
def handlerValid (ws : List W64) : Bool := (wordAt ws 1).getLsbD 63

/-- The limits of a declared handler, with those of its footprint (R239, R276). -/
def handlerOk (ws : List W64) : Bool :=
  let h := handlerOf 0 ws
  let w := wordAt ws 1
  h.entry.toNat % 8 = 0 && (w.extractLsb' 59 3).toNat ≤ 4 && h.lanes % 32 = 0 && 32 ≤ h.lanes && h.lanes ≤ 1024 &&
    1 ≤ h.regs && h.regs % (h.lanes / 32) = 0 && h.regs ≤ h.lanes && h.tiles ≤ 256 && h.priv % 64 = 0 &&
    w.extractLsb' 0 24 == 0 && (wordAt ws 2).extractLsb' 32 32 == 0 && (wordAt ws 3).extractLsb' 48 16 == 0

def shapeOf (ws : List W64) : Shape :=
  let half (i : Nat) : BitVec 32 := (wordAt ws (i / 2)).extractLsb' (32 * (i % 2)) 32
  { ty := (wordAt ws 0).extractLsb' 0 4, ext := (List.range 4).map fun i => (half (2 + i)).toNat
    stride := (List.range 4).map fun i => (half (6 + i)).toInt }

/-- The limits of a shape record (R276). R54 lists the shapes a record may hold and R278 no reason for one outside it: a record of TYPE
15, or of TYPE 0 with other extents or strides, is accepted here and faults at its use (R156, R160; DESIGN CHOICE, log 90). -/
def shapeOk (ws : List W64) : Bool :=
  (wordAt ws 0).extractLsb' 4 60 == 0 && wordAt ws 5 == 0 && ((shapeOf ws).ext.all fun e => e != 0)

def fmtsOf (ws : List W64) : List (BitVec 32) := ws.flatMap fun w => [w.extractLsb' 0 32, w.extractLsb' 32 32]

/-- A format word that a region may declare: valid, with every reserved field zero (R63, R64). -/
def fmtOk (v : BitVec 32) : Bool := !fmInvalid v && v.extractLsb' 17 15 == 0 && v.extractLsb' 5 3 == 0

/-! ## Region descriptors (R275) -/

def descriptorOk (ws : List W64) : Bool :=
  let w := wordAt ws 0
  1 ≤ (w.extractLsb' 33 7).toNat && (w.extractLsb' 33 7).toNat ≤ 64 && (w.extractLsb' 11 5).toNat ≤ 16 &&
    (w.extractLsb' 7 4).toNat ≤ 8 && w.extractLsb' 0 7 == 0 && topByte (wordAt ws 1) = 0 &&
    (wordAt ws 1).toNat % 8 = 0 && (wordAt ws 6).toNat % 64 = 0

/-- The buffers that a region's reservations leave on its core i (R230). -/
def RegionCfg.freeBuffers (g : RegionCfg) (i : Nat) : Nat :=
  256 - 4 * (g.locks.filter fun l => l.index % max 1 g.coreCount = i).length - (if g.layer.isSome then 16 else 0)

/-- A footprint that some core of the region could hold (R230, R240). -/
def RegionCfg.placeableHandler (g : RegionCfg) (h : Handler) : Bool :=
  h.priv ≤ g.privPool && (List.range g.coreCount).any fun i => h.tiles ≤ g.freeBuffers i

/-- No two locks name the same OUTQ (R230). -/
def distinctOutq (ls : List Lock) : Bool := (List.range 16).all fun q => (ls.countP fun l => l.outq = q) ≤ 1

/-- A region descriptor with everything it names, read through a root and checked (R278, reason 1). -/
def State.readRegion (s : State) (die : Nat) (root addr : W64) : Checked RegionCfg := do
  let ws ← reading (s.readWords root addr 8)
  mustHold 1 (descriptorOk ws)
  let w := wordAt ws 0
  let lockRecs ← (List.range (w.extractLsb' 11 5).toNat).mapM fun j => do
    let x ← reading (s.readWords root (wordAt ws 2 + BitVec.ofNat 64 (64 * j)) 8)
    mustHold 1 (lockWordsOk x)
    .ok (lockOf j (wordAt ws 2 + BitVec.ofNat 64 (64 * j)) x)
  let hands ← (List.range (w.extractLsb' 7 4).toNat).mapM fun h => do
    let x ← reading (s.readWords root (wordAt ws 3 + BitVec.ofNat 64 (32 * h)) 4)
    mustHold 1 (!handlerValid x || handlerOk x)
    .ok (if handlerValid x then some (handlerOf h x) else none)
  let fmts ← if wordAt ws 4 = 0 then .ok [] else reading (s.readWords root (wordAt ws 4) 8)
  mustHold 1 ((fmtsOf fmts).all fmtOk)
  let shapes ← if wordAt ws 5 = 0 then .ok []
               else (List.range 16).mapM fun i => do
                 let x ← reading (s.readWords root (wordAt ws 5 + BitVec.ofNat 64 (48 * i)) 6)
                 mustHold 1 (shapeOk x)
                 .ok (shapeOf x)
  let g : RegionCfg :=
    { addr := addr, num := (w.extractLsb' 40 8).toNat, version := w.extractLsb' 48 16
      coreCount := (w.extractLsb' 33 7).toNat
      layer := if w.getLsbD 32 then some (w.extractLsb' 16 16) else none
      codeBase := wordAt ws 1, privPool := (wordAt ws 6).toNat, handlers := hands.filterMap id
      locks := lockRecs.filter fun l => l.fill != 0, fmts := fmtsOf fmts, shapes := shapes }
  mustHold 1 (distinctOutq g.locks && g.handlers.all g.placeableHandler &&
    g.privPool + 2 ^ 22 ≤ (s.die die).regs.privStride.toNat)
  .ok g

/-! ## Loading (R230, R281, R326) -/

/-- The cores of a die that hold no resident configuration and are held for none (R281, R371), lowest first. -/
def Die.freeCores (x : Die) : List Nat :=
  (List.range 64).filter fun c => (x.core c).region.isNone && !(x.saved.any fun r => r.stopped && r.region.cores.contains c)

/-- A core as a load of a region leaves it; its counters and its TLB go on (R103, R157, R170, R173, R176, R186, R213, R249). -/
def Core.loaded (k : Core) (region : Nat) : Core :=
  { Core.reset with region := some region, tlb := k.tlb, rerun := k.rerun, spill := k.spill, leaveWait := k.leaveWait }

/-- A lock at the load of its region: a later load takes back the state of the last unload, and its saved barges take the
reload cycle as their entry cycle; a first load keeps only the canal (R230, R233). -/
def State.loadLock (s : State) (die : Nat) (l : Lock) (parked : Option RegionCfg) : Lock :=
  let m := lockOf l.index l.recordAddr (s.sysWords die l.recordAddr 8)
  match parked.bind fun g => g.lock l.index with
  | some old => { m with slots := old.slots.map fun x => { x with entry := s.now } }
  | none =>
    { m with
      fires := 0, nextTag := 0, pendPh := false, fillF := 0, toF := 0, phF := 0, phDrop := 0, blocked := 0, poisoned := 0 }

/-- The output channels of the locks are bound on the cores on which the locks stand (R229, R230). -/
def State.bindOutputs (s : State) (die : Nat) (r : Region) : State :=
  r.cfg.locks.foldl (fun t l => t.onChan die (r.lockCore l.index) l.outq fun x => { x with endpoint := .lockOut l.index }) s

/-- The reconfiguration token of a die's core: every line that holds bytes of the outgoing configuration's stores is written
back, and the die's clock entry advances (R326). -/
def State.passToken (s : State) (die region : Nat) : State :=
  (s.writeBack die fun l => l.regions.contains region).onDie die fun x =>
    { x with clock := x.clock.setIfInBounds die ((x.clock[die]?.getD 0) + 1) }

/-- A region configuration loaded onto cores (R230, R281). -/
def State.loadRegion (s : State) (die : Nat) (g : RegionCfg) (cores : List Nat) : State :=
  let parked := (s.die die).parked.find? fun p => p.num = g.num
  let r : Region :=
    { cfg := { g with locks := g.locks.map fun l => s.loadLock die l parked }, cores := cores
      barriers := List.replicate 16 Barrier.reset, phase := .running, lastStart := 0 }
  let s1 := cores.foldl (fun t c => t.onCore die c fun k => k.loaded g.num) s
  let s2 := s1.onDie die fun x =>
    { x with regions := x.regions ++ [r], parked := x.parked.filter fun p => p.num != g.num
             discarding := x.discarding.filter fun p => p.1 != g.num }
  (s2.bindOutputs die r).setSys64 die (g.addr + 56) (BitVec.ofNat 64 (cores.map fun c => 2 ^ c).sum)

/-! ## Unloading (R233, R281, R326, R392) -/

/-- The credit that a core's matrix engine holds goes back to the governor, and a request of the engine that still waits
there is dropped (R189, R392). -/
def State.returnCredit (s : State) (die core : Nat) : State :=
  let n := (s.matrix die core).credit
  (s.onMatrix die core fun m => { m with credit := 0, asking := false }).onDie die fun x =>
    { x with gov := { x.gov with returned := x.gov.returned + n, queue := x.gov.queue.filter fun a => a.who != .engine core } }

/-- A region leaves its cores: its locks write their records back and keep their slots, the token passes, and the cores
hold no configuration (R233, R326); no bit of CORESET then names a core (R275). A streamer drops the slices due to it (R249). -/
def State.unloadRegion (s : State) (die region : Nat) : State :=
  match (s.die die).region region with
  | none => s
  | some r =>
    let s1 := r.cfg.locks.foldl (fun t l => t.writeLock die l) s
    let s2 := r.cores.foldl (fun t c => t.returnCredit die c) (s1.passToken die region)
    let s3 := r.cores.foldl (fun t c => t.onCore die c fun k =>
      { Core.reset with tlb := k.tlb, rerun := k.rerun, spill := k.spill, leaveWait := k.leaveWait }) s2
    let s4 := s3.onDie die fun x =>
      { x with regions := x.regions.filter fun y => y.cfg.num != region
               parked := (x.parked.filter fun p => p.num != region) ++ [r.cfg] }
    (s4.setSys64 die (r.cfg.addr + 56) 0).onIo fun io =>
      { io with carousel := { io.carousel with
          streamers := mapVec (Option.map fun t =>
            { t with targets := t.targets.filter fun p => !(p.1 = die && p.2.1 = region)
                     held := t.held.map fun h => { h with targets := h.targets.filter fun p => !(p.1 = die && p.2 = region) } })
            io.carousel.streamers } }

/-- A stream engine has stored the rows that were pushed into it (R162). -/
def Stream.stored (x : Stream) : Bool := x.tails.isEmpty && !(x.isWrite && !x.rows.isEmpty)

/-- A core has no engine command queued or running, and no row to store (R326, R371). -/
def Core.drained (k : Core) : Bool :=
  (k.chans.toList.all fun c => c.jobs.isEmpty) && k.matrix.queue.isEmpty && k.matrix.running.isNone &&
    k.matrix.drainActive.isNone && k.matrix.drainPending.isNone && k.weirCopies.isEmpty &&
    k.streams.toList.all Stream.stored

/-- A core's engines have no work at all, and no stream runs (R281). -/
def Core.still (k : Core) : Bool := k.drained && k.streams.toList.all fun x => x.state != .running

/-- The nodes of a die's current partition that are bound to a region (R270). -/
def State.nodesOf (s : State) (die region : Nat) : List W64 :=
  ((s.die die).part.map Partition.nodes).getD [] |>.filter fun n =>
    let w := s.sys64 die n
    (nodeKind w = 1 || nodeKind w = 2) && nodeRegion (s.sys64 die (n + 8)) = region

end Sys2Proof.Machine
end

