-- ==== Sys2Proof/Machine/Locks.lean ====
section
/-! DEFINITION. Locks: arrivals, canals and refills, firing and the tile that it forms; the start of handlers; the poison
ring (R227 to R243, R259, R350, R360, R361, R369, R375). -/

namespace Sys2Proof.Machine

/-! ## Records read back from memory (R226) -/

def bytesAt (bs : List Byte) (i n : Nat) : Nat := natOfBytes ((bs.drop i).take n)

/-- A barge from the 64 bytes of its record. -/
def bargeOf (bs : List Byte) : Barge :=
  { req := BitVec.ofNat 32 (bytesAt bs 0 4), pos := BitVec.ofNat 32 (bytesAt bs 4 4), seq := BitVec.ofNat 48 (bytesAt bs 8 6)
    sgroup := BitVec.ofNat 16 (bytesAt bs 14 2), parent := BitVec.ofNat 64 (bytesAt bs 16 8)
    payload := BitVec.ofNat 64 (bytesAt bs 24 8), hdr := BitVec.ofNat 64 (bytesAt bs 32 8)
    origin := BitVec.ofNat 64 (bytesAt bs 40 8), adapt := BitVec.ofNat 16 (bytesAt bs 48 2)
    route := BitVec.ofNat 8 (bytesAt bs 50 1), flags := BitVec.ofNat 8 (bytesAt bs 51 1)
    kind := BitVec.ofNat 2 (bytesAt bs 52 1), gen := BitVec.ofNat 4 (bytesAt bs 53 1 / 16), depth := BitVec.ofNat 4 (bytesAt bs 53 1)
    marked := false, landing := none, poisonSeq := 0 }

/-- The landing row in use that a payload address names, on whichever die (R256). -/
def State.landingOf (s : State) (pay : W64) : Option (Nat × Nat) :=
  (List.range 4).findSome? fun d =>
    let base := (s.die d).regs.landBase
    let row := (pay - base).toNat / 512
    if topByte pay = 0 && base.toNat ≤ pay.toNat && (s.die d).landing.contains row then some (d, row) else none

/-- A record's bytes at a canal entry. -/
def State.setSysBytes (s : State) (die : Nat) (a : W64) (bs : List Byte) (marked : Bool) : State :=
  match s.sysPlace (s.die die).regs.latchedRoot false a with
  | .error _ => s
  | .ok p =>
    let t := s.engineBytes die p bs
    if marked then (List.range (bs.length / 8)).foldl (fun u i => u.markPlace (p.plus (8 * i))) t else t

/-- The bytes of a canal entry, and whether a word of it is marked; one that does not translate reads as zero. -/
def State.sysBytes (s : State) (die : Nat) (a : W64) (n : Nat) : List Byte × Bool :=
  match s.sysPlace (s.die die).regs.latchedRoot false a with
  | .error _ => (List.replicate n 0, false)
  | .ok p => (bytesOfNat n (s.homeRead p n), s.homeMarked p n)

/-! ## Placing an arrival (R231, R259, R360, R361) -/

/-- The reference of a lock of this package, as the poison ring and origins name it (R198). -/
def lockName (die region lock : Nat) : W64 := BitVec.ofNat 64 (die * 2 ^ 12 + region * 2 ^ 4 + lock)

/-- The origin of a poison that a lock raises (R347). -/
def State.lockOrigin (s : State) (die region lock cause detail : Nat) : W64 :=
  let g := ((s.die die).region region).map Region.cfg
  let v := (g.or ((s.die die).declaredRegion region)).map RegionCfg.version
  noCrewOrigin die region (v.getD 0) cause detail lock

/-- The barge as it stands: in its record, or with the arrival. -/
def State.arriving (s : State) (a : Arrival) : Barge := ((a.record.bind fun i => s.barge a.die i)).getD a.barge

/-- The region and lock that an arrival is bound for, after redirection (R259). -/
def State.bound (s : State) (a : Arrival) : Nat × Nat :=
  if a.redirected then (a.region, a.lock) else (s.die a.die).redirect a.die a.region a.lock (s.arriving a) a.fromRegion

/-- Arrivals at one lock keep the order of each sender, and later ones stand behind one that waits for a record (R200, R231). -/
def State.arrivalTurn (s : State) (n : Nat) (a : Arrival) : Bool :=
  !((s.flight.arrivals.take n).any fun b =>
    b.die = a.die && s.bound b == s.bound a && (b.sender = a.sender || b.waiting))

/-- The order point of a lock (R375). -/
def lockPoint (region lock : Nat) : Nat := 16 * region + lock

/-- The die of an arrival's boarding crew, 4 for the control node (R375). -/
def Sender.die : Sender → Nat
  | .core d _ => d
  | .path _ d => d
  | .host => 4

/-- The order gate of a lock admits an arrival (R340, R375). -/
def State.lockGate (s : State) (die region lock src : Nat) (cid : BitVec 16) : Bool :=
  let r := s.recorderOf die
  !s.chunkStalls die .lock (lockPoint region lock) src cid &&
    (r.mode != 2 ||
      (match r.current .lock (lockPoint region lock) with
       | none => true
       | some c => c.cid = cid && c.src = src))

/-- A barge put into its record, a fresh one when it holds none. -/
def State.takeRecord (s : State) (a : Arrival) (b : Barge) : Option (Nat × State) :=
  match a.record with
  | some i => some (i, s)
  | none => ((s.die a.die).freeRecord).map fun i => (i, s.putBarge a.die i b)

/-- The on-chip slots with an arrival: directly behind the youngest slot of its sample group, whose entry cycle it takes, or
at the young end (R231). -/
def insertSlot (same : LockSlot → Bool) (x : LockSlot) (slots : List LockSlot) : List LockSlot :=
  let ahead := (slots.reverse.dropWhile fun y => !same y).reverse
  match ahead.getLast? with
  | none => slots ++ [x]
  | some y => ahead ++ { x with entry := y.entry } :: slots.drop ahead.length

/-- An on-chip slot taken, by group insertion or at the young end (R231). -/
def State.enterSlot (s : State) (die region lock : Nat) (b : Barge) (x : LockSlot) : State :=
  let same (y : LockSlot) : Bool :=
    b.sgroup != 0 && (match s.barge die y.record with
                      | some o => o.req = b.req && o.sgroup = b.sgroup
                      | none => false)
  s.onLock die region lock fun l => { l with slots := insertSlot same x l.slots }

/-- What a lock keeps beside a canal entry (R350, R369). -/
def CanalNote.at_ (k : CanalNote) (region lock entry : Nat) : Bool := k.region = region && k.lock = lock && k.entry = entry

/-- A barge written to the canal entry at TAIL, with the SEQ of its poison and its boarding node kept beside it; the lock, or
its record in memory, counts it (R231, R232, R350, R369). -/
def State.enterCanal (s : State) (die region lock : Nat) (b : Barge) (by_ : W64) : State :=
  let v := s.canalOf die region lock
  let s0 := s.onDie die fun x =>
    { x with canalNotes := (x.canalNotes.filter fun k => !k.at_ region lock v.tail) ++
        [{ region := region, lock := lock, entry := v.tail, seq := b.poisonSeq, by_ := by_ }] }
  let s1 := s0.setSysBytes die (v.base + BitVec.ofNat 64 (64 * v.tail)) b.bytes b.marked
  let tail := (v.tail + 1) % max 1 v.size
  if ((s1.die die).lock region lock).isSome then
    s1.onLock die region lock fun l => { l with tail := tail, canal := l.canal + 1 }
  else
    match (s1.die die).recordOf region lock with
    | none => s1
    | some r =>
      let onchip := (s1.sys64 die (r + 32)).toNat % 2 ^ 16
      (s1.setSys64 die (r + 24) (BitVec.ofNat 64 (v.head * 2 ^ 32 + tail))).setSys64 die (r + 32)
        (BitVec.ofNat 64 ((v.count + 1) % 2 ^ 32 * 2 ^ 16 + onchip))

/-- POISONED counts a poisoned barge handed on, in a lock that is resident. -/
def State.countHandedOn (s : State) (die region lock : Nat) : State :=
  s.onLock die region lock fun l => { l with poisoned := l.poisoned + 1 }

/-- A barge in record i discarded by a lock: cancelled and freed under kind 2, else poisoned with cause 19 and handed on (R360). -/
def State.discardBarge (s : State) (die region lock kind i : Nat) : State :=
  if kind = 2 then s.freeBarge die i
  else
    match s.barge die i with
    | none => s
    | some b =>
      let origin := s.lockOrigin die region lock 19 2
      let seq := s.evseqOf die
      let s1 := s.record die origin false false []
      ((s1.putBarge die i (b.poison origin seq)).handOn die i seq (lockName die region lock)).countHandedOn die region lock

/-- The lowest landing row that is neither in use nor promised (R256). -/
def Die.freeRow (x : Die) : Option Nat :=
  (List.range 2048).find? fun r => !x.landing.contains r && !(x.promised.any fun p => p.row = r)

/-- A send credit goes back to a die of a peer against a landing row that the die promises to it; without a free row it is
owed until one is free (R253, R256). The type-5 frame names the PSEQ and whether the BOARD ends with an error (log 12). -/
def State.peerCredit (s : State) (die : Nat) (k : OwedCredit) : State :=
  match (s.die die).freeRow with
  | some row =>
    (s.onDie die fun x => { x with promised := x.promised ++ [{ pkg := k.pkg, die := k.die, row := row }] }).sendFrame
      die 5 k.pkg k.die [k.pseq, if k.err then 1 else 0]
  | none => s.onDie die fun x => { x with owed := x.owed ++ [k] }

/-- The credit of a packet goes back, with an error or without one (R253). -/
def State.giveCredit (s : State) (die : Nat) (k : CreditRef) (err : Bool) : State :=
  match k.pkg with
  | none => s.onFlight fun f => { f with credits := f.credits ++ [{ sender := k.die, target := die, pseq := k.pseq }] }
  | some p => s.peerCredit die { pkg := p, die := k.die, pseq := k.pseq, err := err }

/-- The credits that the dies owe go back while landing rows are free, the oldest first (R256). -/
def State.payCredits (s : State) : State :=
  (List.range 4).foldl (fun t d =>
    (t.die d).owed.foldl (fun u k => u.peerCredit d k) (t.onDie d fun x => { x with owed := [] })) s

/-- What follows the placing of an arrival: its operation, its send credit, and the answer to a signal (R199, R253, R383). -/
def State.arrived (s : State) (a : Arrival) : State :=
  let s1 := s.finishOp? a.op false
  let s2 := match a.credit with
            | none => s1
            | some k => s1.giveCredit a.die k false
  match a.answer with
  | none => s2
  | some tag => s2.respond 4 tag.toNat 0 []

/-- An arrival is placed at its lock: discarded, in a slot or in the canal; none while it must wait (R231, R361). -/
def State.placeArrival (s : State) (a : Arrival) (region lock : Nat) : Option State :=
  let b := s.arriving a
  let d := a.die
  match (s.die d).discards region lock with
  | some kind =>
    if kind = 2 && a.record.isNone then some (s.freeLanding b)
    else (s.takeRecord a b).map fun r => r.2.discardBarge d region lock kind r.1
  | none =>
    if (s.die d).slotFree region lock then
      (s.takeRecord a b).map fun r => r.2.enterSlot d region lock b { record := r.1, entry := s.now, by_ := a.by_ }
    else
      let v := s.canalOf d region lock
      if v.count < v.size then
        let t := s.enterCanal d region lock b a.by_
        some (match a.record with
              | some i => t.freeRecord d i
              | none => t)
      else none

/-- The lock of a region that a pre-emption freezes takes no arrival (R233, R354). -/
def Die.frozen (x : Die) (region : Nat) : Bool :=
  match x.region region with
  | some r => r.phase = .preempting
  | none => false

/-- A barge arrives at a lock: placed in an on-chip slot, by group insertion, or spilled to the canal (R231). -/
def execLockArrival (n : Nat) (s : State) : Host.Outcome State Fault Refusal :=
  match s.flight.arrivals[n]? with
  | none => .next s
  | some a =>
    let t := s.bound a
    let p := lockPoint t.1 t.2
    if !s.arrivalTurn n a || (s.die a.die).frozen t.1 then .next s
    else if !s.lockGate a.die t.1 t.2 a.sender.die a.cid then .next (s.blockPoint a.die .lock p a.sender.die a.cid)
    else
      match s.placeArrival a t.1 t.2 with
      | some s1 =>
        let s2 := s1.onFlight fun f => { f with arrivals := f.arrivals.eraseIdx n }
        .next ((s2.atPoint a.die .lock p a.sender.die a.cid 1).arrived a)
      | none =>
        .next (s.onFlight fun f =>
          { f with arrivals := modifyAt f.arrivals n fun b =>
              { b with region := t.1, lock := t.2, redirected := true, waiting := true } })

/-! ## Refill (R232) -/

/-- The canal entry at HEAD as a barge, and the node that boarded it. A marked entry makes a marked barge, poisoned at once
(R351); for an entry that the lock has kept nothing beside, the SEQ of its poison is a free value and the node 0 (log 8). -/
def State.canalHead (s : State) (die : Nat) (l : Lock) (region : Nat) : State × Barge × W64 :=
  let a := l.canalBase + BitVec.ofNat 64 (64 * l.head)
  let r := s.sysBytes die a 64
  let note := (s.die die).canalNotes.find? fun k => k.at_ region l.index l.head
  let b0 := bargeOf r.1
  let b : Barge :=
    { b0 with landing := s.landingOf b0.payload, poisonSeq := (note.map CanalNote.seq).getD ((Config.freeWord s.free).setWidth 48) }
  let s1 := ({ s with free := s.free + 1 }.seeSys die die a 64).onDie die fun x =>
    { x with canalNotes := x.canalNotes.filter fun k => !k.at_ region l.index l.head }
  if r.2 then
    let origin := noCrewOrigin die 0 0 15 4 0
    (s1.record die origin false false [a], { b.poison origin (s1.evseqOf die) with marked := true },
      (note.map CanalNote.by_).getD 0)
  else (s1, b, (note.map CanalNote.by_).getD 0)

/-- A lock moves its oldest canal entry on chip, into a newly allocated record; a discarding lock ends it at once (R232, R360). -/
def execLockRefill (die region lock : Nat) (s : State) : Host.Outcome State Fault Refusal :=
  match (s.die die).lock region lock with
  | none => .next s
  | some l =>
    if l.canal = 0 || 1024 ≤ l.slots.length || (s.die die).frozen region then .next s
    else
      match (s.die die).freeRecord with
      | none => .next s
      | some i =>
        let r := s.canalHead die l region
        let s1 := (r.1.putBarge die i r.2.1).onLock die region lock fun l =>
          { l with head := (l.head + 1) % max 1 (l.canalSize / 64), canal := l.canal - 1 }
        match l.discarding with
        | some kind => .next (s1.discardBarge die region lock kind i)
        | none =>
          .next (s1.onLock die region lock fun l => { l with slots := l.slots ++ [{ record := i, entry := s.now, by_ := r.2.2 }] })

/-! ## Firing (R234 to R236) -/

/-- Why a payload row cannot be gathered, with the detail of cause 16: 1 its path, zero bits, alignment or range, 2 its
translation or permission (R235, R345). -/
def State.payloadFault (s : State) (die core region : Nat) (pay : W64) : Option Nat :=
  let w : Accessor := { die := die, core := core, region := region, privBase := 0, privSize := 0 }
  if !payloadOk pay then some 1
  else
    match s.spanPlaces w .read pay 512 with
    | .ok _ => none
    | .error e => some (if e.1 = 4 || e.1 = 5 then 2 else 1)

/-- A barge handed on by a lock, poisoned (R235). -/
def State.lockHandOn (s : State) (die region lock i : Nat) (seq : BitVec 48) : State :=
  (s.handOn die i seq (lockName die region lock)).countHandedOn die region lock

/-- The rows of a tile taken from the old end of a lock's order: the state, the rows and the slots that stay (R235). -/
def State.takeRows (s : State) (die core region lock fill : Nat) (rows : List LockSlot) : List LockSlot →
    State × List LockSlot × List LockSlot
  | [] => (s, rows, [])
  | x :: rest =>
    if fill ≤ rows.length then (s, rows, x :: rest)
    else
      match s.barge die x.record with
      | none => s.takeRows die core region lock fill rows rest
      | some b =>
        if b.flags.getLsbD 0 then
          (s.lockHandOn die region lock x.record b.poisonSeq).takeRows die core region lock fill rows rest
        else
          match s.payloadFault die core region b.payload with
          | some d =>
            let origin := s.lockOrigin die region lock 16 d
            let seq := s.evseqOf die
            let s1 := (s.record die origin false false [b.payload]).putBarge die x.record (b.poison origin seq)
            (s1.lockHandOn die region lock x.record seq).takeRows die core region lock fill rows rest
          | none => s.takeRows die core region lock fill (rows ++ [x]) rest

/-- The sample group of a slot: its barge's REQ and SGROUP. -/
def State.groupOf (s : State) (die : Nat) (x : LockSlot) : BitVec 32 × BitVec 16 :=
  let b := (s.barge die x.record).getD Barge.zero
  (b.req, b.sgroup)

/-- A group that the tile would cut goes back to the old end (R235): the rows that stay, and the slots behind them. -/
def State.keepGroup (s : State) (die fill : Nat) (rows rest : List LockSlot) : List LockSlot × List LockSlot :=
  match rows.getLast?, rest.head?, rows.head? with
  | some z, some y, some x =>
    let g := s.groupOf die z
    if rows.length = fill && g.2 != 0 && s.groupOf die y == g && s.groupOf die x != g then
      (rows.filter (fun r => s.groupOf die r != g), rows.filter (fun r => s.groupOf die r == g) ++ rest)
    else (rows, rest)
  | _, _, _ => (rows, rest)

/-- The buffer of a lock for a berth tag (R229). -/
def lockBuffer (lock tag : Nat) : Nat := 255 - 4 * lock - tag

/-- The WP at which a copy queued now begins (R242). -/
def Channel.beginsAt (x : Channel) : W64 := x.wp + BitVec.ofNat 64 ((x.jobs.map fun j => j.len - j.off).sum)

/-- The counts of a firing in its lock (R235). -/
def Lock.fired (l : Lock) (cause : Nat) (slots : List LockSlot) : Lock :=
  { l with
    slots := slots, nextTag := (l.nextTag + 1) % 4, fires := l.fires + 1
    fillF := if cause = 1 then l.fillF + 1 else l.fillF, toF := if cause = 2 then l.toF + 1 else l.toF
    phF := if cause = 3 then l.phF + 1 else l.phF, pendPh := if cause = 3 then false else l.pendPh }

/-- The gather copy and the firing token of a tile (R235, R236). -/
def State.queueTile (s : State) (die core region : Nat) (l : Lock) (cause : Nat) (rows : List LockSlot) : State :=
  let buf := lockBuffer l.index l.nextTag
  let version := (((s.die die).region region).map fun r => r.cfg.version).getD 0
  let j : CopyJob :=
    { kind := .gather (rows.map fun x => ((s.barge die x.record).getD Barge.zero).payload) buf
      dst := bufferAddr die core buf, src := 0, len := 512 * rows.length, off := 0, chunk := none, bad := false, op := none
      agent := { place := { die := die, core := core, berth := 0 }, uid := none, region := region, privBase := 0, privSize := 0
                 cid := 0xFFFF, origin := noCrewOrigin die region version 0 0 l.index }
      after := [] }
  let t : Token := .firing l.index l.nextTag cause (rows.map LockSlot.record) (s.chan die core l.outq).beginsAt buf
  (s.enqueueCopy die core l.outq j).onChan die core l.outq fun x => { x with tokens := x.tokens ++ [t] }

/-- The last arrival of every operator node of a region, whose lock has fired a tile (R369). -/
def State.tileArrival (s : State) (die region : Nat) (rows : List LockSlot) : State :=
  let ops := (s.nodesOf die region).filter fun n => nodeKind (s.sys64 die n) = 1
  ops.foldl (fun t n => t.lastArrival die region n ((rows.getLast?.map LockSlot.by_).getD 0)) s

/-- The kind-7 entry of a time-out firing (R375). -/
def State.logTimeout (s : State) (die region : Nat) (l : Lock) (cause rows : Nat) : State :=
  if cause = 2 then
    s.logEntry die 7 0xFFFF (BitVec.ofNat 48 (region * 2 ^ 40 + l.index * 2 ^ 36 + rows)) ((l.fires + 1).setWidth 64) 0
  else s

/-- FormTile of R235. -/
def State.formTile (s : State) (die region : Nat) (l : Lock) (cause : Nat) : State :=
  let core := (((s.die die).region region).map fun r => r.lockCore l.index).getD 0
  let r := s.takeRows die core region l.index l.fill [] l.slots
  let k := r.1.keepGroup die l.fill r.2.1 r.2.2
  if k.1.isEmpty then r.1.onLock die region l.index fun x => { x with slots := k.2 }
  else
    let s1 := r.1.onLock die region l.index fun x => x.fired cause k.2
    let s2 := s1.queueTile die core region l cause k.1
    (s2.tileArrival die region k.1).logTimeout die region l cause k.1.length

/-- The next kind-7 entry of a replay for a lock (R375). -/
def Recorder.nextTimeout (r : Recorder) (region lock : Nat) : Option LogEntry :=
  r.entries.find? fun e => e.kind = 7 && (e.a.extractLsb' 40 8).toNat = region && (e.a.extractLsb' 36 4).toNat = lock

/-- The time-out trigger: by the head's entry cycle, and during replay by the lock's next kind-7 entry (R234, R375). -/
def State.timeoutDue (s : State) (die region : Nat) (l : Lock) : Bool :=
  let r := s.recorderOf die
  let expired := l.timeout != 0 && l.timeout ≤ s.now - ((l.slots.head?.map LockSlot.entry).getD 0)
  if r.mode = 2 then
    match r.nextTimeout region l.index with
    | some e => e.b.setWidth 32 = l.fires + 1 && (e.a.extractLsb' 0 6).toNat ≤ l.slots.length
    | none => r.ended && expired
  else expired && !s.logStalls die

/-- The kind-7 entry that a firing has met is spent. -/
def State.spendTimeout (s : State) (die region : Nat) (l : Lock) (cause : Nat) : State :=
  if cause = 2 && (s.recorderOf die).mode = 2 then
    s.onRecorder die fun r =>
      match r.nextTimeout region l.index with
      | some e => { r with entries := r.entries.erase e }
      | none => r
  else s

/-- The cause for which a lock fires now: 1 fill, 2 time-out, 3 phase (R234). -/
def State.fireCause (s : State) (die region : Nat) (l : Lock) : Option Nat :=
  if l.slots.isEmpty then none
  else if l.pgen && ((s.io.phases[l.pgid]?).getD PhaseBarrier.reset).phase != l.pgph then none
  else if l.fill ≤ l.slots.length then some 1
  else if l.pendPh then some 3
  else if s.timeoutDue die region l then some 2
  else none

/-- The next buffer of a lock is held by a crew or is on its way back from one, or its copy queue is full (R234, R240). -/
def State.lockBlocked (s : State) (die core : Nat) (l : Lock) : Bool :=
  ((s.core die core).crews.any fun c => c.lockBuf = some (lockBuffer l.index l.nextTag)) ||
    ((s.core die core).returning.any fun b => b.buffers.contains (lockBuffer l.index l.nextTag)) ||
    8 ≤ (s.chan die core l.outq).jobs.length

/-- A latched or discarded announcement of the carousel (R234, R250). -/
def Lock.latchPhase (l : Lock) : Lock :=
  if l.phen && l.phaseEvent then
    if l.slots.isEmpty then { l with phDrop := l.phDrop + 1, phaseEvent := false }
    else { l with pendPh := true, phaseEvent := false }
  else { l with phaseEvent := false }

/-- A lock may fire: its region runs, the die swaps no partition and has met no fatal error (R252, R355, R371, R386). -/
def State.mayFire (s : State) (die region : Nat) : Bool :=
  (((s.die die).region region).map Region.phase) == some .running && !(s.die die).regs.swapping && !s.isFatal die

/-- The firing of a lock for a cause, or one more blocked cycle (R234). -/
def State.fireLock (s : State) (die region : Nat) (l : Lock) (cause : Nat) : State :=
  let core := (((s.die die).region region).map fun r => r.lockCore l.index).getD 0
  if s.lockBlocked die core l then s.onLock die region l.index fun x => { x with blocked := satInc x.blocked }
  else (s.spendTimeout die region l cause).formTile die region l cause

/-- Every on-chip barge of a discarding lock ends (R360). -/
def State.discardSlots (s : State) (die region : Nat) (l : Lock) (kind : Nat) : State :=
  (l.slots.foldl (fun t x => t.discardBarge die region l.index kind x.record) s).onLock die region l.index fun x =>
    { x with slots := [] }

/-- LockCycle of R234; a discarding lock takes its on-chip barges (R360), and a frozen one does nothing (R354). -/
def execLockCycle (die region lock : Nat) (s : State) : Host.Outcome State Fault Refusal :=
  match (s.die die).lock region lock with
  | none => .next s
  | some l0 =>
    if (s.die die).frozen region then .next s
    else
      match l0.discarding with
      | some kind => .next (s.discardSlots die region l0 kind)
      | none =>
        let l := l0.latchPhase
        let s1 := s.onLock die region lock Lock.latchPhase
        if !s.mayFire die region then .next s1
        else
          match s1.fireCause die region l with
          | none => .next s1
          | some cause => .next (s1.fireLock die region l cause)

/-- The head barge's wait reaches TIMEOUT and the lock fires by time-out (R234). -/
def execLockTimeout (die region lock : Nat) (s : State) : Host.Outcome State Fault Refusal :=
  match (s.die die).lock region lock with
  | none => .next s
  | some l =>
    if s.mayFire die region && l.discarding.isNone && s.fireCause die region l == some 2 then .next (s.fireLock die region l 2)
    else .next s

/-! ## The start of a handler (R237 to R243) -/

/-- What stands at a channel's head: a token or an unclaimed row with its place (R237, R238). -/
inductive Head where
  | token (t : Token)
  | row (i : Nat) (r : Row)
  deriving DecidableEq, Repr

/-- The head that can trigger a handler; a write stream never triggers (R237). -/
def State.headOf (s : State) (die core n : Nat) : Option Head :=
  match (s.chan die core n).tokens with
  | t :: _ => some (.token t)
  | [] =>
    let writes := match (s.chan die core n).endpoint with
                  | .stream e => (s.stream die core e).isWrite
                  | _ => false
    if writes then none
    else
      let rows := s.rowsOf die core n
      (rows.findIdx? fun r => r.claimed = none).bind fun i => (rows[i]?).map fun r => .row i r

/-- The berth tag of a head (R237, R281). -/
def Head.tag : Head → Nat
  | .token (.firing _ tag _ _ _ _) => tag
  | .token (.start tag _) => tag
  | .row _ r => r.berthTag

/-- What a core's crews hold, and what those that left in this cycle still give back (R240). -/
def Core.taken (k : Core) : List Returned := k.crews.map Crew.givesBack ++ k.returning

/-- The lowest place at which p bytes of a private pool are free beside the runs that are taken: the pool's base, or the end
of a taken run (R307). -/
def freeRun (p pool : Nat) (runs : List Returned) : Option Nat :=
  let held := runs.filter fun r => r.privSize != 0
  let fits (o : Nat) : Bool := o + p ≤ pool && held.all fun r => o + p ≤ r.privBase || r.privBase + r.privSize ≤ o
  ((0 :: held.map fun r => r.privBase + r.privSize).filter fits).min?

/-- The buffers of a core that a footprint may take, lowest first (R240). -/
def State.freeBuffers (s : State) (die core : Nat) (r : Region) : List Nat :=
  let held := (s.core die core).taken.flatMap Returned.buffers
  (List.range 256).filter fun b => !r.reserves core b && !held.contains b

/-- A footprint that fits: its buffers and its private run (R240). -/
def State.footprint (s : State) (die core : Nat) (r : Region) (h : Handler) : Option (List Nat × Nat) :=
  let taken := (s.core die core).taken
  let bufs := s.freeBuffers die core r
  if 1024 < (taken.map Returned.granules).sum + h.regs || bufs.length < h.tiles then none
  else (if h.priv = 0 then some 0 else freeRun h.priv r.cfg.privPool taken).map fun p => (bufs.take h.tiles, p)

/-- A predicate term over the core-shared registers (R238). -/
def Core.holds (k : Core) (t : PredTerm) : Bool := ((k.shared[t.k]?).getD 0).getLsbD t.bit == t.value

/-- A handler is ready (R238). -/
def State.ready (s : State) (die core : Nat) (r : Region) (h : Handler) : Option (Head × List Nat × Nat) :=
  match s.headOf die core h.chan with
  | none => none
  | some x =>
    let width := match x with
                 | .row _ w => w.width == h.lanes
                 | .token _ => true
    if h.enable && (h.tag.isNone || h.tag == some x.tag) && (h.preds.all (s.core die core).holds) &&
        ((s.core die core).crew x.tag).isNone && width then
      (s.footprint die core r h).map fun f => (x, f)
    else none

/-- The lowest-numbered ready handler of a core (R238). -/
def State.readyHandler (s : State) (die core : Nat) (r : Region) : Option (Handler × Head × List Nat × Nat) :=
  r.cfg.handlers.findSome? fun h => (s.ready die core r h).map fun x => (h, x)

/-- The trigger's part of a start (R242, R243): s1, s2, s3, the live lanes, the held rows, the lock buffer and the launch. -/
structure Trigger where
  s1 : W64
  s2 : W64
  s3 : W64
  live : Mask
  held : List (Option Nat)
  lockBuf : Option Nat
  launched : Option Launched
  deriving DecidableEq, Repr

def Head.trigger (x : Head) (lanes : Nat) : Trigger :=
  match x with
  | .token (.firing lock tag cause records wp buf) =>
    { s1 := wp, s2 := BitVec.ofNat 64 records.length, s3 := BitVec.ofNat 64 (16 * lock + 4 * tag + cause)
      live := Mask.below (lanes / 32 * records.length), held := records.map some, lockBuf := some buf, launched := none }
  | .token (.start _ l) =>
    { s1 := 0, s2 := 0, s3 := 0, live := Mask.below lanes, held := [], lockBuf := none, launched := some l }
  | .row _ r =>
    { s1 := 0, s2 := 0, s3 := 0, live := Mask.below lanes &&& ~~~r.void, held := [], lockBuf := none, launched := none }

/-- The CID of a start (R333): counted while recording, the log's own while replaying, else 0xFFFF. -/
def State.startCid (s : State) (die region : Nat) (h : Handler) : BitVec 16 × State :=
  let r := s.recorderOf die
  if r.mode = 1 then
    let s1 := if 0xFFFF ≤ r.nextCid && !r.ended then s.endLog die else s
    (BitVec.ofNat 16 (min 0xFFFF r.nextCid), s1.onRecorder die fun x => { x with nextCid := x.nextCid + 1 })
  else if r.mode = 2 then
    let k := (r.starts.filter fun p => p.1 = region && p.2 = h.index).length
    let mine := r.entries.filter fun e =>
      e.kind = 2 && (e.a.extractLsb' 40 8).toNat = region && (e.a.extractLsb' 21 3).toNat = h.index
    let s1 := s.onRecorder die fun x => { x with starts := x.starts ++ [(region, h.index)] }
    match mine[k]? with
    | some e => (e.cid, s1)
    | none => (0xFFFF, if r.ended then s1 else s1.diverge die 0 0xFFFF 4)
  else (0xFFFF, s)

/-- The crew that a start makes (R240, R242, R243). -/
def startedCrew (uid : Nat) (place : CrewRef) (g : RegionCfg) (h : Handler) (t : Trigger) (bufs : List Nat) (priv : Nat)
    (cid : BitVec 16) (now : Nat) : Crew :=
  let c := Crew.start uid place g.fmts (g.codeBase + h.entry) h.lanes
  let c1 := ((c.setS 1 t.s1).setS 2 t.s2).setS 3 t.s3
  let bound := tabulate 64 fun i =>
    match bufs[i]? with
    | some b => { bound := true, buf := BitVec.ofNat 8 b, tag := 0 }
    | none => TileHandle.reset
  { c1 with
    region := g.num, version := g.version, handler := h.index, cur := t.live, live := t.live
    tiles := match t.lockBuf with
             | some b => bound.setIfInBounds 63 { bound := true, buf := BitVec.ofNat 8 b, tag := 0 }
             | none => bound
    held := t.held, lockBuf := t.lockBuf, buffers := bufs, granules := h.regs, privBase := priv, privSize := h.priv
    declared := 256 * h.regs / h.lanes, started := now, launched := t.launched, cid := cid }

/-- The head is consumed, or a row claimed (R238). -/
def State.takeHead (s : State) (die core n uid : Nat) (x : Head) : State :=
  match x with
  | .token _ => s.onChan die core n fun y => { y with tokens := y.tokens.tail }
  | .row i _ => s.setRows die core n (modifyAt (s.rowsOf die core n) i fun r => { r with claimed := some uid })

/-- The crew fields of a node record: LIVE, and where the crew runs (R270). -/
def CrewRef.nodeWord (r : CrewRef) : W64 := BitVec.ofNat 64 (2 ^ 12 + r.berth * 2 ^ 10 + r.core * 2 ^ 4 + r.die)

/-- The node of a started task: its crew fields, and retrying becomes fired (R270, R280). The crew of a node that is being
cancelled meets an EXIT at its first issue (R287). -/
def State.startNode (s : State) (c : Crew) : State × Crew :=
  match c.launched with
  | none => (s, c)
  | some l =>
    let d := s.nodeHome l.node c.place.die
    let w := s.sys64 d l.node
    let s1 := (s.seeSys c.place.die d l.node 64).setSysBy c.place.die d (l.node + 32) c.place.nodeWord
    if nodeState w = 4 then (s1.setSys64 d l.node (nodeWithState w 2), c)
    else if nodeState w = 5 then (s1, { c with exitPending := true })
    else (s1, c)

/-- A core starts its lowest ready handler on the tagged berth (R238); a crew whose row leaves it no live lane ends at once
(R99). A full log stalls the start, but not one that ends the recording (R333, R376). -/
def execHandlerStart (die core : Nat) (s : State) : Host.Outcome State Fault Refusal :=
  match (s.core die core).region.bind fun n => (s.die die).region n with
  | none => .next s
  | some r =>
    if !s.mayFire die r.cfg.num then .next s
    else
      match s.readyHandler die core r with
      | none => .next s
      | some (h, x, bufs, priv) =>
        let k := s.startCid die r.cfg.num h
        if k.2.logStalls die then .next s
        else
          let place : CrewRef := { die := die, core := core, berth := x.tag }
          let c := startedCrew s.nextUid place r.cfg h (x.trigger h.lanes) bufs priv k.1 s.now
          let s1 := { k.2 with nextUid := s.nextUid + 1 }.takeHead die core h.chan s.nextUid x
          let s2 := s1.onRegion die r.cfg.num fun y => { y with lastStart := s.now }
          let s3 := s2.logEntry die 2 k.1
            (BitVec.ofNat 48 (r.cfg.num * 2 ^ 40 + r.cfg.version.toNat * 2 ^ 24 + h.index * 2 ^ 21))
            (BitVec.ofNat 64 (core * 4 + x.tag)) 0
          let q := s3.startNode c
          .next (if q.2.live == (0 : Mask) then (q.1.putCrew q.2).endCrew q.2 .exited else q.1.putCrew q.2)

/-! ## The poison ring (R350) -/

/-- A handed-on barge is written to the ring of its die and its record freed; a full ring makes it wait (R350). -/
def execPoisonRingWrite (die : Nat) (s : State) : Host.Outcome State Fault Refusal :=
  match (s.die die).handedOn with
  | [] => .next s
  | h :: rest =>
    let r := (s.die die).regs
    let pop (t : State) : State := (t.freeBarge die h.record).onDie die fun x => { x with handedOn := rest }
    if r.poisonSize = 0 then .next (pop s)
    else if (r.poisonTail.toNat + 1) % r.poisonSize.toNat = r.poisonHead.toNat then .next s
    else
      let b := (s.barge die h.record).getD Barge.zero
      let entry := b.bytes ++ wordBytes (h.seq.setWidth 64) ++ wordBytes h.lockRef ++ List.replicate 48 0
      let s1 := s.writePa die (r.poisonBase.toNat + 128 * r.poisonTail.toNat) entry
      .next ((pop s1).onDie die fun x =>
        { x with regs := { x.regs with
            poisonTail := BitVec.ofNat 16 ((x.regs.poisonTail.toNat + 1) % x.regs.poisonSize.toNat) } })

end Sys2Proof.Machine
end

