-- ==== Sys2Proof/Machine/Packets.lean ====
section
/-! DEFINITION. What crosses between dies and packages: barge packets, send credits, frames from peers, remote accesses
performed and answered, and the scale-up ports (R253 to R256, R320, R323, R364, R388 to R391). -/

namespace Sys2Proof

/-! ## Frames as they arrive (R389, R390) -/

def Frame.word (f : Frame) (i : Nat) : W64 := (f.head[i]?).getD 0
def Frame.ftype (f : Frame) : Nat := ((f.word 0).extractLsb' 12 4).toNat
def Frame.srcDie (f : Frame) : Nat := ((f.word 0).extractLsb' 8 4).toNat
def Frame.dstDie (f : Frame) : Nat := ((f.word 0).extractLsb' 4 4).toNat
def Frame.srcPkg (f : Frame) : Nat := ((f.word 0).extractLsb' 16 15).toNat
def Frame.dstPkg (f : Frame) : Nat := ((f.word 0).extractLsb' 32 15).toNat
def Frame.pseq (f : Frame) : W64 := f.word 1
def Frame.at_ (f : Frame) (i : Nat) : W64 := (f.body[i]?).getD 0

/-- The clock image and the EVSEQ of a frame. -/
def Frame.clock (f : Frame) : Vector (BitVec 32) 5 :=
  Machine.tabulate 5 fun i => (f.word (2 + i / 2)).extractLsb' (32 * (i % 2)) 32

def Frame.evseq (f : Frame) : BitVec 48 := (f.word 5).extractLsb' 0 16 ++ (f.word 4).extractLsb' 32 32

def Frame.image (f : Frame) : Machine.Image := { clock := f.clock, evseq := f.evseq }

/-- The 80 bytes of a barge packet are without a reserved TYPE, a nonzero zero field or a reserved die identifier, which R8
treats as one (R254); the payload row follows. -/
def Frame.packetOk (f : Frame) : Bool :=
  let w := f.at_ 0
  (w.extractLsb' 48 4).toNat = 2 && !Machine.dieReserved (w.extractLsb' 12 4).toNat &&
    !Machine.dieReserved (w.extractLsb' 52 4).toNat && w.extractLsb' 47 1 == 0 && w.extractLsb' 56 8 == 0 && f.body.length = 74

/-- The address that a frame names, as the log of the I/O die keeps it: a packet's TARGET, else the first word. -/
def Frame.target (f : Frame) : W64 := if f.ftype = 1 then (f.at_ 0).extractLsb' 0 32 |>.setWidth 64 else f.at_ 0

end Sys2Proof

namespace Sys2Proof.Machine

/-- A frame without a reserved FTYPE or a nonzero zero field, for this package and one of its compute dies (R389, R390). -/
def State.frameOk (s : State) (f : Frame) : Bool :=
  let w := f.word 0
  1 ≤ f.ftype && f.ftype ≤ 5 && w.extractLsb' 0 4 == 0 && w.extractLsb' 31 1 == 0 && w.extractLsb' 47 1 == 0 &&
    w.extractLsb' 56 8 == 0 && (f.word 5).extractLsb' 16 48 == 0 && f.dstPkg = s.io.pkgId.toNat && f.dstDie < 4 &&
    f.srcDie < 4 && (f.ftype != 1 || f.packetOk)

/-- The PSEQ that a path accepts next: one above the highest that it has accepted, and 0 first (R253, R390, log 25). -/
def State.awaitedPseq (s : State) (die pkg src : Nat) : W64 :=
  ((pairGet (s.die die).pseqIn (pathKey (some pkg) src)).map fun n => n + 1).getD 0

/-- The frame is the next of its path on a port that is up (R389, R390). -/
def State.frameTurn (s : State) (f : Frame) : Bool :=
  (s.port f.port).up && f.pseq = s.awaitedPseq f.dstDie f.srcPkg f.srcDie

/-- A frame accepted: its PSEQ, and its clock and EVSEQ at the I/O die and at the target die (R320, R364, R390). -/
def State.acceptFrame (s : State) (f : Frame) : State :=
  let s1 := s.onDie f.dstDie fun x => { x with pseqIn := pairSet x.pseqIn (pathKey (some f.srcPkg) f.srcDie) f.pseq }
  (s1.receive 4 f.image).receive f.dstDie f.image

/-- A frame accepted, and noted by the log of the I/O die, which writes it under type 8 + FTYPE (R335, R390, log 20). -/
def State.takeFrame (s : State) (f : Frame) : State := (s.acceptFrame f).noteArrival (8 + f.ftype) f.target 0

/-- A frame of a type may be performed now. -/
def State.frameReady (s : State) (f : Frame) (ftype : Nat) : Bool :=
  s.frameOk f && f.ftype = ftype && s.frameTurn f && s.arrivalOpen (8 + f.ftype) f.target

/-- A damaged or misdirected frame is discarded, counted, and recorded by the I/O die under cause 20 (R390). The PSEQ of
one that is next on its path counts as accepted, so that the path goes on; the sender of a packet gets its credit back with
an error (log 12). -/
def execFrameDiscard (f : Frame) (s : State) : Host.Outcome State Fault Refusal :=
  if s.frameOk f || !(s.port f.port).up then .next s
  else
    let s1 := s.onPort f.port fun p => { p with discard := satInc p.discard }
    let first := if f.ftype = 1 then f.at_ 0 else f.word 0
    let s2 := s1.record 4 (noCrewOrigin 4 0 0 20 f.port f.port) false false [first]
    if f.dstPkg = s.io.pkgId.toNat && f.dstDie < 4 && f.srcDie < 4 && s.frameTurn f then
      let s3 := s2.acceptFrame f
      .next (if f.ftype = 1 then s3.sendFrame f.dstDie 5 f.srcPkg f.srcDie [f.at_ 1, 1] else s3)
    else .next s2

/-! ## Accepting a packet (R254, R256) -/

/-- The region and the lock of a TARGET. -/
def targetLock (w : BitVec 32) : Nat × Nat := ((w.extractLsb' 4 8).toNat, (w.extractLsb' 0 4).toNat)

/-- What a packet brings to a die: where it goes, the barge, its sender, its CID and the credit that it holds. -/
structure Incoming where
  die : Nat
  target : BitVec 32
  barge : Barge
  sender : Sender
  cid : BitVec 16
  credit : CreditRef
  deriving DecidableEq, Repr

/-- A packet is resolved against the die's current partition: the barge arrives at the lock, or it is poisoned with the
no-lock cause and handed on, for which it needs a record (R254). -/
def State.deliverPacket (s : State) (p : Incoming) : Option (State × Bool) :=
  let t := targetLock p.target
  let d := p.die
  if ((s.die d).declaredLock t.1 t.2).isSome then
    let a : Arrival :=
      { die := d, region := t.1, lock := t.2, record := none, barge := p.barge, op := none, fromRegion := none
        sender := p.sender, cid := p.cid, credit := some p.credit, answer := none, redirected := false, by_ := 0
        waiting := false }
    some (s.onFlight fun f => { f with arrivals := f.arrivals ++ [a] }, false)
  else
    match (s.die d).freeRecord with
    | none => none
    | some i =>
      let origin := noCrewOrigin d t.1 0 17 0 t.2
      let seq := s.evseqOf d
      let s1 := (s.record d origin false false [p.target.setWidth 64]).putBarge d i (p.barge.poison origin seq)
      some ((s1.handOn d i seq 0).giveCredit d p.credit true, true)

def Packet.image (p : Packet) : Image := { clock := p.clock, evseq := p.evseq }

/-- The packets of one path within the package are accepted in PSEQ order (R254). -/
def State.packetTurn (s : State) (n : Nat) (p : Packet) : Bool :=
  !(s.isFatal p.dst) && !((s.flight.packets.take n).any fun q => q.srcDie = p.srcDie && q.dst = p.dst)

/-- A packet from another die of the package. -/
def State.acceptHere (s : State) (n : Nat) (p : Packet) : State :=
  let s1 := (s.onFlight fun f => { f with packets := f.packets.eraseIdx n }).receive p.dst p.image
  let q : Incoming :=
    { die := p.dst, target := p.target, barge := p.barge, sender := .path none p.srcDie, cid := p.cid
      credit := { pkg := none, die := p.srcDie, pseq := p.pseq } }
  match s1.deliverPacket q with
  | none => s
  | some r => r.1.finishOp? p.op r.2

/-- The row in which a sender's next packet lands: the row promised to its oldest credit, else, for a credit that it holds
from reset, the lowest row that is neither in use nor promised (R256, log 25). -/
def Die.landingRow (x : Die) (pkg die : Nat) : Option Nat :=
  match x.promised.find? fun p => p.pkg = pkg && p.die = die with
  | some p => some p.row
  | none => x.freeRow

/-- The payload row's beats written to a landing row of the die, and PAYLOAD rewritten to it (R256). -/
def State.landPayload (s : State) (die row : Nat) (b : Barge) (beats : List W64) : State × Barge :=
  let a := (s.die die).regs.landBase + BitVec.ofNat 64 (512 * row)
  ((s.setSysBytes die a (beats.flatMap wordBytes) false).onDie die fun x =>
     { x with landing := x.landing ++ [row], promised := x.promised.filter fun p => p.row != row },
   { b with payload := a, landing := some (die, row) })

/-- The I/O die's clock entry advances at a release at .sys (R320, R323). -/
def State.ioRelease (s : State) : State :=
  s.onIo fun io => { io with clock := io.clock.setIfInBounds 4 ((io.clock[4]?.getD 0) + 1) }

/-- A packet from a peer, with its payload row: its BOARD was a release at .sys (R200, R323). -/
def State.acceptPeer (s : State) (f : Frame) : State :=
  let d := f.dstDie
  match (s.die d).landingRow f.srcPkg f.srcDie with
  | none => s
  | some row =>
    let w := f.at_ 0
    let s1 := (s.takeFrame f).ioRelease
    let b0 := bargeOf ((List.range 8).flatMap fun i => wordBytes (f.at_ (2 + i)))
    let r := s1.landPayload d row { b0 with poisonSeq := (Config.freeWord s1.free).setWidth 48 } (f.body.drop 10)
    let s2 := { r.1 with free := r.1.free + 1 }
    let q : Incoming :=
      { die := d, target := w.extractLsb' 0 32, barge := r.2, sender := .path (some f.srcPkg) f.srcDie, cid := 0xFFFF
        credit := { pkg := some f.srcPkg, die := f.srcDie, pseq := f.at_ 1 } }
    match s2.deliverPacket q with
    | none => s
    | some t => t.1

/-- A target die accepts a barge packet in PSEQ order (R254): packet n of the package, or a frame of a peer. -/
def execPacketAccept (n : Nat) (f : Option Frame) (s : State) : Host.Outcome State Fault Refusal :=
  match f with
  | none =>
    match s.flight.packets[n]? with
    | none => .next s
    | some p => if s.packetTurn n p then .next (s.acceptHere n p) else .next s
  | some f => if s.frameReady f 1 && !s.isFatal f.dstDie then .next (s.acceptPeer f) else .next s

/-! ## Credits (R253) -/

/-- The credit of a BOARD is free again: its entry goes, and the BOARD to a peer completes. -/
def State.returnSend (s : State) (sender : Nat) (pkg : Option Nat) (die : Nat) (pseq : W64) (done err : Bool) : State :=
  match (s.die sender).sent.find? fun e => e.pkg = pkg && e.die = die && e.pseq = pseq with
  | none => s
  | some e =>
    let s1 := s.onDie sender fun x => { x with sent := x.sent.erase e }
    if done then s1.finishOp e.op err else s1

/-- A send credit reaches its sender (R253): message n of the package, or a frame of a peer. -/
def execCreditReturn (n : Nat) (f : Option Frame) (s : State) : Host.Outcome State Fault Refusal :=
  match f with
  | none =>
    match s.flight.credits[n]? with
    | none => .next s
    | some m =>
      .next ((s.onFlight fun x => { x with credits := x.credits.eraseIdx n }).returnSend m.sender none m.target m.pseq false false)
  | some f =>
    if s.frameReady f 5 then
      .next ((s.takeFrame f).returnSend f.dstDie (some f.srcPkg) f.srcDie (f.at_ 0) true
        (f.at_ 1 != 0))
    else .next s

/-! ## Remote accesses performed here (R391) -/

/-- Bytes that enter the package through the I/O die, written at the home slice itself under its clock (R320). -/
def State.homeWrite (s : State) (p : Place) (bs : List Byte) : State :=
  match p with
  | .pa pa key _ =>
    ((bs.zipIdx.foldl (fun t x => t.setHomeByte key (pa + x.2) x.1) s).clearMarks pa bs.length).stampPlace 4 p bs.length
  | _ => s

/-- A peer's access performed at its home slice: the state, a status (0, or a detail of cause 6, 12 for a record that takes
no tokens, 15 for marked data) and the value returned. Operations 0 to 7 are AMO, 8 to 15 AMOV, 16 CAS, 17 FIRE and 18 NSTATE
(log 12); what it reads and writes passes the I/O die, whose clock stamps it (R320). -/
def State.peerAccess (s : State) (die : Nat) (addr : W64) (code : Nat) (ety : BitVec 4) (x y : W64) : State × Nat × W64 :=
  let size := if 17 ≤ code then 8 else etyBytes ety
  let align := if 17 ≤ code then 128 else size
  if topByte addr != 0 || addr.toNat % align != 0 then (s, 2, 0)
  else
    match s.tablePlace (s.die die).regs.latchedRoot (code != 18) addr with
    | .error d => (s, d, 0)
    | .ok p =>
      if s.homeMarked p size then (s, 15, 0)
      else
        let old := s.homeRead p size
        let t := s.mergeStamps 4 (p.cells size)
        if code = 18 then (t, 0, BitVec.ofNat 64 old)
        else if code = 17 then
          let r := t.nodeTokens die (t.nodeHome addr die) addr x.toNat 0
          (r.1, if r.2.2 then 12 else 0, r.2.1)
        else (t.homeWrite p (bytesOfNat size (atomicNew ety code x y old)), 0, BitVec.ofNat 64 old)

/-- A peer's remote access frame is translated, performed at its home slice and answered (R391). -/
def execRemoteAccessRequest (f : Frame) (s : State) : Host.Outcome State Fault Refusal :=
  if !s.frameReady f 2 then .next s
  else
    let w := f.at_ 1
    let code := (w.extractLsb' 0 5).toNat
    let s1 := s.takeFrame f
    let s2 := if w.getLsbD 9 then s1.ioRelease else s1
    let r := s2.peerAccess f.dstDie (f.at_ 0) code (w.extractLsb' 5 4) (f.at_ 2) (f.at_ 3)
    .next (r.1.answerPeer f.dstDie f.srcPkg f.srcDie f.pseq r.2.1 r.2.2)

/-! ## Responses (R391) -/

/-- A fault record for the crew that issued a remote access. -/
def State.remoteRecord (s : State) (r : RemoteOp) (cause detail : Nat) : State :=
  s.record r.place.die (r.origin ||| (BitVec.ofNat 64 cause <<< 25) ||| (BitVec.ofNat 64 detail <<< 21)) false false [r.addr]

/-- A value comes back to a waiting register. -/
def State.deliver? (s : State) (r : RemoteOp) (v : W64) : State :=
  match r.dest with
  | some d => s.onCrew r.op.uid fun c => c.deliver d v
  | none => s

/-- The value that a remote atomic left enters its crew's fingerprint (R337). -/
def State.foldBack (s : State) (r : RemoteOp) (v : Nat) : State :=
  match r.fold with
  | some o => s.onCrew r.op.uid fun c => c.refold o v
  | none => s

/-- What a remote atomic's word holds after the operation, from the old value that the response returns (R337). -/
def RemoteOp.newValue (r : RemoteOp) (old : Nat) : Nat :=
  match r.fold with
  | some o => atomicNew o.ety o.code o.x o.y old
  | none => 0

/-- The response to an access with an error: the record of cause 6 or 12, the operation's error, and a free value in its
register and in its fold; marked data poisons the crew (R143, R391). -/
def State.remoteFailed (s : State) (r : RemoteOp) (status : Nat) : State :=
  let s1 := if status = 15 then s.onCrew r.op.uid fun c => { c with poison := some (markDetail r.addr, r.addr, r.origin.extractLsb' 0 21) }
            else if status = 12 then s.remoteRecord r 12 2 else s.remoteRecord r 6 status
  let v := Config.freeWord s1.free
  (({ s1 with free := s1.free + 1 }.deliver? r v).foldBack r v.toNat).finishOp r.op true

/-- The response to an XBAR arrival at a peer's record: the wait ends, or the fault that the peer found is raised (R215). A record
that the crew did not join leaves its barrier tie as it was (R362). -/
def State.remoteXbar (s : State) (r : RemoteOp) (status : Nat) (v : W64) : State :=
  if status = 0 then s.onCrew r.op.uid fun c => c.endWait v
  else if 16 ≤ status then
    match s.findCrew r.op.uid with
    | some c => if c.wait.isSome then s.killWaiting c ⟨13, status - 16, [r.addr]⟩ else s
    | none => s
  else
    let s1 := s.remoteRecord r 6 status
    { s1 with free := s1.free + 1 }.onCrew r.op.uid fun c => { c.endWait (Config.freeWord s1.free) with tie := r.oldTie }

/-- A remote access response completes the issuing instruction (R391). -/
def execRemoteAccessResponse (f : Frame) (s : State) : Host.Outcome State Fault Refusal :=
  if !s.frameReady f 3 then .next s
  else
    let s1 := s.takeFrame f
    let mine (r : RemoteOp) : Bool :=
      r.place.die = f.dstDie && r.peer = f.srcPkg && r.tdie = f.srcDie && r.pseq = f.at_ 0
    match s1.io.remote.find? mine with
    | none => .next s1
    | some r =>
      let s2 := s1.onIo fun io => { io with remote := io.remote.erase r }
      let status := (f.at_ 1).toNat
      if r.xbar then .next (s2.remoteXbar r status (f.at_ 2))
      else if status = 0 then
        .next (((s2.deliver? r (loadExtend r.ety (f.at_ 2).toNat)).foldBack r (r.newValue (f.at_ 2).toNat)).finishOp r.op false)
      else .next (s2.remoteFailed r status)

/-! ## Barrier tokens (R215, R362, R389) -/

/-- A peer's arrival, absence or presence at an XBAR record of this package (R389); an arrival is a release at .sys (R215, R323). -/
def execBarrierTokenFrame (f : Frame) (s : State) : Host.Outcome State Fault Refusal :=
  if !s.frameReady f 4 then .next s
  else
    let d := f.dstDie
    let record := f.at_ 0
    let kind := (f.at_ 1).toNat
    let s0 := s.takeFrame f
    let s1 := if kind = 0 then s0.ioRelease else s0
    let bad (detail : Nat) : State := if kind = 0 then s1.answerPeer d f.srcPkg f.srcDie f.pseq detail 0 else s1
    if topByte record != 0 || record.toNat % 256 != 0 then .next (bad 2)
    else
      match s1.tablePlace (s1.die d).regs.latchedRoot true record with
      | .error e => .next (bad e)
      | .ok (.pa pa key _) =>
        let h : HomeAddr := { pa := pa, key := key }
        if kind = 0 then
          let m : XbarMsg :=
            { record := record, home := h, member := (f.at_ 2).toNat, party := .peer d f.srcPkg f.srcDie f.pseq }
          .next (s1.onFlight fun x => { x with xbars := x.xbars ++ [m] })
        else
          let m : ProxyMsg := { record := record, home := h, die := d }
          .next (s1.onFlight fun x =>
            if kind = 1 then { x with absences := x.absences ++ [m] } else { x with presences := x.presences ++ [m] })
      | .ok _ => .next (bad 2)

/-! ## Ports (R388, R390) -/

/-- How often the frame at the head of a port's queue has failed. -/
def Port.failures (p : Port) : Option Nat := p.held.head?.map QueuedFrame.tries

/-- The frame at the head of a port's queue has failed once more. -/
def Port.failOnce (p : Port) : Port :=
  match p.held with
  | q :: rest => { p with retry := satInc p.retry, held := { q with tries := q.tries + 1 } :: rest }
  | [] => p

/-- A port retries a damaged frame, the first of its queue, and counts it (R390). -/
def execLinkLayerRetry (port : Nat) (s : State) : Host.Outcome State Fault Refusal :=
  if (s.port port).up && ((s.port port).failures.any fun n => n < 8) then .next (s.onPort port Port.failOnce)
  else .next s

/-- After the eighth failure of one frame its port goes down, and the queue waits (R390). -/
def execPortDown (port : Nat) (s : State) : Host.Outcome State Fault Refusal :=
  if (s.port port).up && ((s.port port).failures.any fun n => 8 ≤ n) then
    .next (s.onPort port fun p => { p with up := false })
  else .next s

/-- The route table in memory: package and port of every byte that names a port (R388). -/
def State.readRoutes (s : State) (base : Nat) : List (Nat × Nat) :=
  (List.range 32768).filterMap fun p =>
    let b := (s.homeByte 0 (base + p)).toNat
    if b < 32 then some (p, b) else none

/-- The frames that wait at a port that is down go over to the port of the new route; one without a route goes on waiting (R390). -/
def State.releaseFrames (s : State) : State :=
  let down := s.io.ports.toList.filter fun p => !p.up
  let s1 := s.onIo fun io => { io with ports := mapVec (fun p => if p.up then p else { p with held := [] }) io.ports }
  (down.flatMap Port.held).foldl (fun t q =>
    let n := (t.routeTo q.frame.dstPkg).getD q.frame.port
    t.onPort n fun p => { p with held := p.held ++ [{ q with frame := { q.frame with port := n }, tries := 0 }] }) s1

end Sys2Proof.Machine
end

