-- ==== Sys2Proof/Machine/Launches.lean ====
section
/-! DEFINITION. The scheduler: placing launches and loading regions, the arbiter of the launch queues, and the swap of a
die's graph partition (R252, R258, R260, R274 to R285). -/

namespace Sys2Proof.Machine

/-! ## Placing launches (R281) -/

/-- A region that a die may load: declared, and not saved away. -/
def Die.loadable (x : Die) (region : Nat) : Option RegionCfg :=
  if x.saved.any fun r => r.region.cfg.num = region then none else x.declaredRegion region

/-- A configuration is confidential: the leaf that maps its CODEBASE has a nonzero KEY (R367). -/
def State.confidential (s : State) (die : Nat) (g : RegionCfg) : Bool :=
  ((s.walk die g.codeBase.toNat).map TlbEntry.key).getD 0 != 0

/-- The recorder of a die keeps a confidential region out (R374). -/
def State.barred (s : State) (die : Nat) (g : RegionCfg) : Bool :=
  (s.recorderOf die).mode != 0 && s.confidential die g

/-- The cores on which a region that is not resident would be loaded, lowest first (R281). -/
def Die.loadCores (x : Die) (g : RegionCfg) : Option (List Nat) :=
  if g.coreCount ≤ x.freeCores.length then some (x.freeCores.take g.coreCount) else none

/-- A channel has room at its head for a start token (R281). -/
def State.headRoom (s : State) (die core n : Nat) : Bool :=
  (s.chan die core n).tokens.isEmpty && (s.rowsOf die core n).isEmpty

/-- The lowest berth of a core that holds no crew. -/
def Core.freeBerth (k : Core) : Option Nat := (List.range 4).find? fun b => (k.crew b).isNone

/-- A resident region takes a task's start token on core SCORE, channel SCHAN. -/
def State.taskRoom (s : State) (die : Nat) (r : Region) (score chan : Nat) : Bool :=
  match r.cores[score]? with
  | none => false
  | some c => r.phase = .running && (s.core die c).freeBerth.isSome && s.headRoom die c chan

/-- A launch is placeable (R281): a node that no loaded partition lists is not. -/
def State.placeable (s : State) (node : W64) : Bool :=
  match s.nodeDie node with
  | none => false
  | some d =>
    let x := s.die d
    let w1 := s.sys64 d (node + 8)
    let task := nodeKind (s.sys64 d node) = 2
    match x.region (nodeRegion w1) with
    | some r => !s.barred d r.cfg && (!task || s.taskRoom d r (nodeScore w1) (nodeChan w1))
    | none =>
      match x.loadable (nodeRegion w1) with
      | none => false
      | some g => !s.barred d g && (x.loadCores g).isSome && (!task || nodeScore w1 < g.coreCount)

/-- A region without crews, without engine work, and without a waiting launch of a node bound to it (R281). -/
def State.idleRegion (s : State) (die : Nat) (r : Region) : Bool :=
  r.phase = .running && (r.cores.all fun c => (s.core die c).crews.isEmpty && (s.core die c).still) &&
    !(s.io.queues.toList.any fun q => q.pend.any fun l =>
      s.nodeDie l.node == some die && nodeRegion (s.sys64 die (l.node + 8)) = r.cfg.num)

/-- The idle region to unload first: the one whose last crew start is oldest, then the one of lower number. -/
def State.oldestIdle (s : State) (die : Nat) : Option Region :=
  ((s.die die).regions.filter (s.idleRegion die)).foldl (fun best r =>
    match best with
    | none => some r
    | some b => if (r.lastStart < b.lastStart) || (r.lastStart = b.lastStart && r.cfg.num < b.cfg.num) then some r else some b) none

/-- Idle regions are unloaded, one at a time, until a launch that needs cores can be placed or none is left. -/
def State.unloadIdle (s : State) (die need : Nat) : Nat → State
  | 0 => s
  | fuel + 1 =>
    if need ≤ (s.die die).freeCores.length then s
    else
      match s.oldestIdle die with
      | none => s
      | some r => (s.unloadRegion die r.cfg.num).unloadIdle die need fuel

/-- Cores made free for the launch at a queue's head (R281). -/
def State.makeRoom (s : State) (node : W64) : State :=
  match s.nodeDie node with
  | none => s
  | some d =>
    let region := nodeRegion (s.sys64 d (node + 8))
    match (s.die d).region region, (s.die d).loadable region with
    | none, some g => if s.barred d g then s else s.unloadIdle d g.coreCount (s.die d).regions.length
    | _, _ => s

/-- The region of a launch, loaded when it is not resident. -/
def State.ensureLoaded (s : State) (die region : Nat) : State :=
  match (s.die die).region region with
  | some _ => s
  | none =>
    match (s.die die).loadable region with
    | none => s
    | some g =>
      match (s.die die).loadCores g with
      | none => s
      | some cs => s.loadRegion die g cs

/-- Dispatch of a launch (R281): a region loaded, and a task's start token placed. -/
def State.dispatch (s : State) (node : W64) (queue : Nat) (advance : Nat) : State :=
  match s.nodeDie node with
  | none => s
  | some d =>
    let w1 := s.sys64 d (node + 8)
    let s1 := s.ensureLoaded d (nodeRegion w1)
    if nodeKind (s.sys64 d node) != 2 then s1
    else
      match ((s1.die d).region (nodeRegion w1)).bind fun r => r.cores[nodeScore w1]? with
      | none => s1
      | some c =>
        let tag := ((s1.core d c).freeBerth).getD 0
        s1.onChan d c (nodeChan w1) fun x =>
          { x with tokens := .start tag { node := node, queue := queue, advance := advance } :: x.tokens }

/-! ## The arbiter (R283) -/

def State.queue (s : State) (q : Nat) : LaunchQueue := (s.io.queues[q]?).getD LaunchQueue.reset

def State.onQueue (s : State) (q : Nat) (f : LaunchQueue → LaunchQueue) : State :=
  s.onIo fun io => { io with queues := modifyVec io.queues q f }

/-- The visit goes on to the next queue. -/
def State.nextQueue (s : State) : State := s.onIo fun io => { io with arbiter := (io.arbiter + 1) % 64, visiting := false }

/-- The head of a queue can be placed. -/
def State.headPlaceable (s : State) (q : Nat) : Bool :=
  match (s.queue q).pend with
  | [] => false
  | l :: _ => s.placeable l.node

/-- The condition under which the loop of a visit dispatches one more launch (R283). -/
def State.visitGoes (s : State) (q : Nat) : Bool := decide (0 < (s.queue q).deficit) && s.headPlaceable q

/-- One launch of a queue is dispatched and its advance charged; the visit stays while the loop's condition holds. -/
def State.dispatchHead (s : State) (q : Nat) : State :=
  match (s.queue q).pend with
  | [] => s.nextQueue
  | l :: rest =>
    let a := (s.queue q).advance.toNat
    let s1 := s.onQueue q fun x => { x with pend := rest, deficit := clampDeficit (x.deficit - a) }
    let s2 := s1.dispatch l.node q a
    if s2.visitGoes q then s2.onIo fun io => { io with visiting := true } else s2.nextQueue

/-- The arbiter's visit of one cycle to one launch queue (R283). -/
def execArbiterVisit (s : State) : Host.Outcome State Fault Refusal :=
  let q := s.io.arbiter
  let x := s.queue q
  if s.io.visiting then .next (if x.en && s.visitGoes q then s.dispatchHead q else s.nextQueue)
  else if !x.en then .next s.nextQueue
  else
    match x.pend with
    | [] => .next (s.onQueue q fun y => { y with deficit := min y.deficit 0 }).nextQueue
    | l :: _ =>
      let s1 := s.makeRoom l.node
      if !s1.placeable l.node then .next s1.nextQueue
      else
        let s2 := s1.onQueue q fun y => { y with deficit := clampDeficit (y.deficit + y.quantum.toNat) }
        .next (if s2.visitGoes q then s2.dispatchHead q else s2.nextQueue)

/-! ## Reading a partition (R274, R278, R285) -/

/-- A node or weir record without a reserved KIND or POLICY, a nonzero zero field, or a reserved die identifier in DIE, which
R8 treats as one (R278, reason 2). -/
def nodeWordsOk (ws : List W64) : Bool :=
  let w := wordAt ws 0
  if nodeKind w = 3 then
    w.extractLsb' 48 5 == 0 && w.extractLsb' 21 9 == 0 && (w.extractLsb' 53 2).toNat != 3 &&
      (wordAt ws 1).extractLsb' 36 12 == 0 && (wordAt ws 4).extractLsb' 32 32 == 0
  else
    (nodeKind w = 1 || nodeKind w = 2 || nodeKind w = 4) && w.extractLsb' 48 9 == 0 &&
      (wordAt ws 1).extractLsb' 38 26 == 0 && (wordAt ws 1).extractLsb' 30 2 == 0 && nodePolicy (wordAt ws 1) != 3 &&
      (wordAt ws 1).extractLsb' 26 2 == 0 && (wordAt ws 1).extractLsb' 8 8 == 0 && (wordAt ws 4).extractLsb' 13 51 == 0 &&
      !dieReserved ((wordAt ws 4).extractLsb' 0 4).toNat &&
      wordAt ws 5 == 0

/-- A range source record (R285). -/
def sourceOf (a : W64) (ws : List W64) : RangeSource :=
  let first := (wordAt ws 0).toNat % 2 ^ 40
  { addr := a, first := first, limit := (wordAt ws 1).toNat % 2 ^ 40, grain := (wordAt ws 1 >>> 40).toNat, next := first
    base := wordAt ws 2, bstep := wordAt ws 3 }

def sourceOk (ws : List W64) : Bool :=
  let r := sourceOf 0 ws
  (wordAt ws 0).extractLsb' 40 24 == 0 && 1 ≤ r.grain && r.first ≤ r.limit

/-- What a partition descriptor names, read and within its limits. -/
structure PartitionRead where
  part : Partition
  adapters : List (W64 × List W64)
  deriving DecidableEq, Repr

/-- The addresses in a table. -/
def State.readTable (s : State) (root base : W64) (n : Nat) : Checked (List W64) := reading (s.readWords root base n)

/-- No two configurations carry one region number. -/
def distinctRegions (cfgs : List RegionCfg) : Bool := cfgs.all fun g => (cfgs.countP fun h => h.num = g.num) = 1

/-- The checks of a partition at a swap, in the order of R278. -/
def State.readPartition (s : State) (die : Nat) (root addr : W64) : Checked PartitionRead := do
  let ws ← reading (s.readWords root addr 8)
  let w := wordAt ws 0
  let regs ← s.readTable root (wordAt ws 1) (w.extractLsb' 40 8).toNat
  let cfgs ← regs.mapM fun a => s.readRegion die root a
  let nodes ← s.readTable root (wordAt ws 2) (w.extractLsb' 48 16).toNat
  let _ ← nodes.mapM fun a => do
    let x ← reading (s.readWords root a 16)
    mustHold 2 (nodeWordsOk x)
  let sources ← (List.range (w.extractLsb' 32 8).toNat).mapM fun i => do
    let a := wordAt ws 3 + BitVec.ofNat 64 (32 * i)
    let x ← reading (s.readWords root a 4)
    mustHold 3 (sourceOk x)
    .ok (sourceOf a x)
  mustHold 4 (distinctRegions cfgs)
  let adapters ← (List.range (w.extractLsb' 20 12).toNat).mapM fun i => do
    let a := wordAt ws 4 + BitVec.ofNat 64 (64 * i)
    let x ← reading (s.readWords root a 8)
    .ok (a, x)
  mustHold 6 (!((List.range 4).any fun d =>
    d != die && (((s.die d).part.map Partition.nodes).getD []).any fun n => nodes.contains n))
  .ok { part := { addr := addr, regions := cfgs, nodes := nodes, sources := sources, adapters := [] }, adapters := adapters }

/-! ## Adapters (R257, R258) -/

/-- The lock of a partition of a die that a 32-bit reference names. -/
def partLock (die : Nat) (regions : List RegionCfg) (r : BitVec 32) : Option RegionCfg :=
  let region := (r.extractLsb' 4 8).toNat
  if (r.extractLsb' 12 4).toNat != die || r.extractLsb' 16 16 != 0 then none
  else (regions.find? fun g => g.num = region).filter fun g => (g.lock (r.extractLsb' 0 4).toNat).isSome

/-- The adapter fingerprint of the operator node that is bound to a region. -/
def State.operatorPrint (s : State) (die : Nat) (nodes : List W64) (region : Nat) : Option W64 :=
  (nodes.find? fun n => nodeKind (s.sys64 die n) = 1 && nodeRegion (s.sys64 die (n + 8)) = region).map fun n => s.sys64 die (n + 16)

/-- The reason for which an adapter record is refused, 0 for one that is accepted (R258). -/
def State.adapterReason (s : State) (die : Nat) (p : Partition) (ws : List W64) : Nat :=
  let aset := (wordAt ws 0).extractLsb' 0 16
  let attach := (wordAt ws 0).extractLsb' 32 32
  let entry := (wordAt ws 1).extractLsb' 0 32
  match partLock die p.regions attach with
  | none => 1
  | some g =>
    if s.operatorPrint die p.nodes g.num != some (wordAt ws 2) then 2
    else if (partLock die p.regions entry).isNone then 3
    else if (p.adapters.any fun a => a.aset = aset && a.attach = attach) || 1024 ≤ p.adapters.length then 4
    else if aset = 0 || (wordAt ws 1).extractLsb' 32 32 != 0 || (ws.drop 3).any fun x => x != 0 then 5
    else 0

/-- An adapter record is checked: STATUS and REASON are written back, the result is counted, and one that is accepted enters
the partition (R258). -/
def State.checkAdapter (s : State) (die : Nat) (x : W64 × List W64) : State :=
  match (s.die die).part with
  | none => s
  | some p =>
    let w := wordAt x.2 0
    let reason := s.adapterReason die p x.2
    let status := if reason = 0 then 1 else 2
    let s1 := s.setSys64 die x.1 ((w &&& ~~~(0xFFFF#64 <<< 16)) ||| BitVec.ofNat 64 (reason * 2 ^ 24 + status * 2 ^ 16))
    if reason = 0 then
      s1.onDie die fun y => { y with accepted := y.accepted + 1, part := some { p with adapters := p.adapters ++
        [{ aset := w.extractLsb' 0 16, attach := w.extractLsb' 32 32, entry := (wordAt x.2 1).extractLsb' 0 32 }] } }
    else s1.onDie die fun y => { y with turnedAway := y.turnedAway + 1 }

/-! ## The swap (R252, R277, R278, R280, R310) -/

/-- Every region of a die stands at a reconfiguration boundary (R252). -/
def State.atBoundary (s : State) (die : Nat) : Bool :=
  let x := s.die die
  x.crews.isEmpty && (x.cores.all fun p => p.2.drained) && x.collector.isNone && x.collectQueue.isEmpty

/-- The partition is refused whole; an unreadable table is recorded too (R278). -/
def State.refusePartition (s : State) (die : Nat) (why : Nat × Option ReadFault) : State :=
  let s1 := match why.2 with
            | some f => s.record die (noCrewOrigin die 0 0 f.cause f.detail 0) false false [f.addr]
            | none => s
  s1.onDie die fun x => { x with regs := { x.regs with swapping := false, refused := true, partReason := BitVec.ofNat 8 why.1 } }

/-- Operator nodes bound to a region that leaves at a swap: fired becomes done (R280, R282). -/
def State.finishOperators (s : State) (die region : Nat) : State :=
  (s.nodesOf die region).foldl (fun t n =>
    let w := t.sys64 die n
    if nodeKind w = 1 && nodeState w = 2 then (t.setSys64 die n (nodeWithState w 3)).postSuccessors die n else t) s

/-- A resident region stays: the new partition lists it at the same address and VERSION (R252). -/
def Region.stays (r : Region) (p : Partition) : Bool :=
  p.regions.any fun g => g.num = r.cfg.num && g.addr = r.cfg.addr && g.version = r.cfg.version

/-- The server writes NEXT into FIRST of each source of the partition that leaves (R285). -/
def State.saveSources (s : State) (die : Nat) : State :=
  (((s.die die).part.map Partition.sources).getD []).foldl (fun t r => t.setSys64 die r.addr (BitVec.ofNat 64 r.next)) s

/-- The locks of a partition, as the die keeps them beyond it (R205). -/
def lockEntries (p : Partition) : List (Nat × Nat × W64) :=
  p.regions.flatMap fun g => g.locks.map fun l => (g.num, l.index, l.recordAddr)

/-- The partition takes its place: the root is latched, the sources start at FIRST, discarding ends for regions that it does
not list (R285, R310, R361). -/
def State.installPartition (s : State) (die : Nat) (p : Partition) : State :=
  let x := s.die die
  let changed := x.regs.latchedRoot != x.regs.ptRoot
  let s1 := s.onDie die fun y =>
    { y with
      part := some p
      lockDir := (y.lockDir.filter fun e => !((lockEntries p).any fun f => f.1 = e.1 && f.2.1 = e.2.1)) ++ lockEntries p
      discarding := y.discarding.filter fun e => p.regions.any fun g => g.num = e.1
      cores := if changed then y.cores.map fun c => (c.1, { c.2 with tlb := [] }) else y.cores
      regs := { y.regs with latchedRoot := y.regs.ptRoot, swapping := false, refused := false, partReason := 0 } }
  s1.onDie die fun y => { y with part := y.part.map fun q => { q with
    sources := q.sources.map fun r => let f := (s1.sys64 die r.addr).toNat % 2 ^ 40
                                      { r with first := f, next := f } } }

/-- A partition that passed its checks replaces the old one. -/
def State.swapIn (s : State) (die : Nat) (p : PartitionRead) : State :=
  let gone := (s.die die).regions.filter fun r => !r.stays p.part
  let s1 := gone.foldl (fun t r => (t.unloadRegion die r.cfg.num).finishOperators die r.cfg.num) s
  p.adapters.foldl (fun t x => t.checkAdapter die x) ((s1.saveSources die).installPartition die p.part)

/-- At a reconfiguration boundary the die checks and swaps its graph partition (R252). -/
def execPartitionSwap (die : Nat) (s : State) : Host.Outcome State Fault Refusal :=
  let r := (s.die die).regs
  if !r.swapping || !s.atBoundary die then .next s
  else
    match s.readPartition die r.ptRoot r.partBase with
    | .error e => .next (s.refusePartition die e)
    | .ok p => .next (s.swapIn die p)

end Sys2Proof.Machine
end

