-- ==== Sys2Proof/Machine/Rotation.lean ====
section
/-! DEFINITION. The carousel's rotation, its streamers and the ring of each target core; the power governors and the
temperature of a die (R246 to R251, R392 to R395). -/

namespace Sys2Proof.Machine

def State.onCarousel (s : State) (f : Carousel → Carousel) : State := s.onIo fun io => { io with carousel := f io.carousel }

/-! ## Entries (R246, R248, R250) -/

/-- An entry of the carousel's table. -/
structure CarEntry where
  src : Nat
  layer : BitVec 16
  seg : Nat
  slices : Nat
  deriving DecidableEq, Repr

/-- The entry at an index, or none when it is invalid (R246). -/
def State.carEntry (s : State) (i : Nat) : Option CarEntry :=
  let base := s.io.carousel.base.toNat + 16 * i
  let w0 := s.home64 base
  let w1 := s.home64 (base + 8)
  let slices := (w1.extractLsb' 21 7).toNat
  if slices = 0 || 64 < slices || w0.extractLsb' 0 20 != 0 || w1.extractLsb' 0 21 != 0 || 0x8000000000 ≤ w0.toNat then none
  else some { src := w0.toNat, layer := w1.extractLsb' 48 16, seg := (w1.extractLsb' 28 20).toNat, slices := slices }

/-- A region is bound to a layer (R249). -/
def Region.boundTo (r : Region) (layer : BitVec 16) : Bool := r.cfg.layer = some layer

/-- The targets of an entry: the regions resident now that are bound to its layer (R249). -/
def State.carTargets (s : State) (layer : BitVec 16) : List (Nat × Nat × List Nat) :=
  (List.range 4).flatMap fun d => ((s.die d).regions.filter fun r => r.boundTo layer).map fun r => (d, r.cfg.num, r.cores)

/-- The announcement of an entry at every lock that it concerns (R250). -/
def State.announce (s : State) (e : CarEntry) : State :=
  { s with
    dies := mapVec (fun x =>
      { x with regions := x.regions.map fun r =>
          if r.boundTo e.layer then
            { r with cfg := { r.cfg with locks := r.cfg.locks.map fun l =>
                if l.phen && l.pseg = e.seg then { l with phaseEvent := true } else l } }
          else r }) s.dies }

/-- A region is being pre-empted, or a debug stop has all its crews held: its rings are freed no more (R354, R371). -/
def State.ringsFrozen (s : State) (die : Nat) (r : Region) : Bool :=
  r.phase = .preempting || (r.phase = .stopping && r.cores.all fun c => (s.core die c).crews.all Crew.atStop)

/-- A region bound to the carousel stops so, and no entry starts (R251, R354). -/
def State.carouselHeld (s : State) : Bool :=
  (List.range 4).any fun d => (s.die d).regions.any fun r => r.cfg.layer.isSome && s.ringsFrozen d r

/-- An invalid entry stops the carousel, and the I/O die reports it (R248). -/
def State.haltCarousel (s : State) (i : Nat) : State :=
  (s.record 4 (noCrewOrigin 4 0 0 21 0 i) false false [BitVec.ofNat 64 i]).onCarousel fun c =>
    { c with run := false, halted := true }

/-- The start of an entry on a streamer (R248). -/
def State.startEntry (s : State) (i m : Nat) (e : CarEntry) : State :=
  let c := s.io.carousel
  let t : Streamer :=
    { order := c.started, src := e.src, slices := e.slices, next := 0, ready := s.now + c.lead.toNat
      targets := s.carTargets e.layer, held := [] }
  (s.onCarousel fun c =>
    { c with
      next := BitVec.ofNat 20 ((i + 1) % c.count.toNat), rots := if i + 1 = c.count.toNat then c.rots + 1 else c.rots
      granted := if i = 0 then false else c.granted, started := c.started + 1
      streamers := c.streamers.setIfInBounds m (some t) }).announce e

/-- The carousel reads its next entry, starts and announces it, or halts on an invalid one (R248, R250). -/
def execCarouselEntryStart (s : State) : Host.Outcome State Fault Refusal :=
  let c := s.io.carousel
  let i := c.next.toNat
  if !c.run || s.carouselHeld then .next s
  else if c.count = 0 then .next (s.onCarousel fun c => { c with run := false })
  else if i = 0 && !c.granted then .next s
  else
    match s.carEntry i with
    | none => .next (s.haltCarousel i)
    | some e =>
      let m := e.src / 2 ^ 36
      if ((c.streamers[m]?).join).isSome then .next s else .next (s.startEntry i m e)

/-! ## Leave of a rotation (R251, R393) -/

/-- The compute dies that hold a resident region bound to the carousel. -/
def State.carouselDies (s : State) : List Nat :=
  (List.range 4).filter fun d => (s.die d).regions.any fun r => r.cfg.layer.isSome

/-- Before entry 0 of a rotation the I/O die asks the governor of every bound die for leave (R251). -/
def execCarouselRotationLeave (s : State) : Host.Outcome State Fault Refusal :=
  let c := s.io.carousel
  if !c.run || c.count = 0 || c.next != 0 || c.granted || c.asked.isSome then .next s
  else
    let ds := s.carouselDies
    if ds.isEmpty then .next (s.onCarousel fun c => { c with granted := true })
    else
      let s1 := ds.foldl (fun t d => t.askLeave d .carousel (t.die d).gov.carAmount.toNat) s
      .next (s1.onCarousel fun c => { c with asked := some ds })

/-! ## Slices (R249) -/

/-- A streamer still has a slice for a core of a region. -/
def Streamer.owes (t : Streamer) (die region core : Nat) : Bool :=
  t.targets.any fun p =>
    p.1 = die && p.2.1 = region &&
      (let n := max 1 p.2.2.length
       let goes (k : Nat) : Bool := p.2.2[k % n]? == some core
       ((List.range t.slices).any fun k => t.next ≤ k && goes k) ||
         t.held.any fun h => h.targets.contains (die, region) && goes h.slice)

/-- A core of a target takes slices in table order: no streamer of an earlier entry owes it one (R249). -/
def State.ringTurn (s : State) (order die region core : Nat) : Bool :=
  !(s.io.carousel.streamers.toList.any fun o =>
    match o with
    | some t => t.order < order && t.owes die region core
    | none => false)

/-- The ring buffer in which a core's next slice lands (R249). -/
def Core.ringBuffer (k : Core) : Nat := 176 + k.ring % 16

/-- A slice that meets a full buffer of a region that stops is dropped and counted (R354). -/
def State.dropSlice (s : State) : State := s.onCarousel fun c => { c with bufWait := satInc c.bufWait }

/-- A held slice lands on the core of one target, when its buffer is empty (R170, R249), or is dropped where that will not be
(R354); none while it must wait. -/
def State.landSlice (s : State) (t : Streamer) (h : HeldSlice) (p : Nat × Nat) : Option State :=
  match t.targets.find? fun q => q.1 = p.1 && q.2.1 = p.2 with
  | none => some s
  | some q =>
    match q.2.2[h.slice % max 1 q.2.2.length]? with
    | none => some s
    | some core =>
      let buf := (s.core p.1 core).ringBuffer
      let span := [(Place.chip (bufferAddr p.1 core buf).toNat, 16384)]
      if !s.ringTurn t.order p.1 p.2 core then none
      else if s.isFull p.1 core buf then
        if (((s.die p.1).region p.2).map (s.ringsFrozen p.1)) = some true then some s.dropSlice else none
      else if s.spanHeld 0xFFFF span then none
      else
        some ((((s.landSpan p.1 span h.bytes h.marks).setFull p.1 core buf true).onCore p.1 core fun k =>
          { k with ring := k.ring + 1 }).spanServed 0xFFFF span)

/-- The targets of a held slice that have not yet taken it, after each has been tried. -/
def State.landAll (s : State) (t : Streamer) (h : HeldSlice) : List (Nat × Nat) → State × List (Nat × Nat)
  | [] => (s, [])
  | p :: rest =>
    match s.landSlice t h p with
    | some s1 => s1.landAll t h rest
    | none =>
      let r := s.landAll t h rest
      (r.1, p :: r.2)

/-- A streamer replaced; one that has delivered its entry is free for the next. -/
def State.putStreamer (s : State) (m : Nat) (t : Streamer) : State :=
  let v := if t.slices ≤ t.next && t.held.isEmpty then none else some t
  s.onCarousel fun c => { c with streamers := c.streamers.setIfInBounds m v }

/-- Byte `pa` of a stack as the carousel reads it, the i-th of a slice: where the slice of its home die has taken a byte new
while the carousel runs, a free value says whether its write-back has reached the stack (R303, R325). -/
def State.stackByte (s : State) (pa i : Nat) : Byte :=
  match assocGet s.stack pa with
  | some old => if (Config.freeWord (s.free + i / 64)).getLsbD (i % 64) then old else s.homeByte 0 pa
  | none => s.homeByte 0 pa

/-- A slice read from its stack (R248, R249); what it returned new is in the stack from now on. -/
def State.readSlice (s : State) (t : Streamer) : HeldSlice × State :=
  let base := t.src + 16384 * t.next
  let stays (p : Nat × Byte) : Bool :=
    p.1 < base || base + 16384 ≤ p.1 || (Config.freeWord (s.free + (p.1 - base) / 64)).getLsbD ((p.1 - base) % 64)
  ({ src := base, slice := t.next, bytes := (List.range 16384).map fun i => s.stackByte (base + i) i
     marks := (List.range 16384).map fun i => s.marked (base + i), targets := t.targets.map fun p => (p.1, p.2.1) },
   { s with stack := s.stack.filter stays, free := s.free + 256 })

/-- A streamer lands the slice that it holds in the ring buffers of its targets; when it holds none, it reads the next
slice of its entry (R249). -/
def execCarouselSlice (mdie : Nat) (s : State) : Host.Outcome State Fault Refusal :=
  match (s.io.carousel.streamers[mdie]?).join with
  | none => .next s
  | some t =>
    match t.held with
    | h :: rest =>
      let r := s.landAll t h h.targets
      if r.2.isEmpty then .next (r.1.putStreamer mdie { t with held := rest })
      else .next (r.1.putStreamer mdie { t with held := { h with targets := r.2 } :: rest })
    | [] =>
      if t.slices ≤ t.next then .next (s.putStreamer mdie t)
      else if s.now < t.ready then .next s
      else
        let q := s.readSlice t
        let h := q.1
        let t1 : Streamer := { t with next := t.next + 1, held := [h] }
        let r := q.2.landAll t1 h h.targets
        .next (r.1.putStreamer mdie { t1 with held := if r.2.isEmpty then [] else [{ h with targets := r.2 }] })

/-! ## The governor (R392, R393, R395) -/

/-- What a cycle adds to the bucket, in units of 1/512: RATE/256, or half of it while the die is hot, and the amounts returned;
the bucket is held to DEPTH (R392, R395). -/
def Governor.refill (g : Governor) : Governor :=
  let rate := if g.tthrot.toNat ≤ g.temp.toNat then g.rate.toNat else 2 * g.rate.toNat
  { g with bucket := min (512 * g.depth.toNat) (g.bucket + rate + 512 * g.returned), returned := 0 }

/-- Requests granted from the head while the head's amount does not exceed the bucket (R392). -/
def grantHeads : Nat → List LeaveAsk → Nat × List LeaveAsk × List LeaveAsk
  | b, [] => (b, [], [])
  | b, a :: rest =>
    if 512 * a.amount ≤ b then
      let r := grantHeads (b - 512 * a.amount) rest
      (r.1, a :: r.2.1, r.2.2)
    else (b, [], a :: rest)

/-- A die of the carousel's request has granted (R251). -/
def Carousel.grantedBy (c : Carousel) (die : Nat) : Carousel :=
  match c.asked with
  | none => c
  | some ds =>
    let left := ds.erase die
    if left.isEmpty then { c with asked := none, granted := true } else { c with asked := some left }

/-- A grant takes effect: an engine's CREDIT grows and its stall ends, a LEAVE.req completes, the carousel hears it (R186, R187). -/
def State.grant (s : State) (die : Nat) (a : LeaveAsk) : State :=
  match a.who with
  | .engine core => s.onMatrix die core fun m => { m with credit := m.credit + a.amount, asking := false }
  | .crew _ op d =>
    match s.findCrew op.uid with
    | some c =>
      let core := c.place.core
      let v := min ((s.matrix die core).credit + a.amount) (2 ^ 24)
      let s1 := s.onMatrix die core fun m => { m with credit := v }
      (s1.onCrew op.uid fun c => c.deliver d (BitVec.ofNat 64 v)).finishOp op false
    | none =>
      -- a saved crew's core holds no credit (R189): the grant goes back to the bucket
      let s1 := s.onDie die fun x => { x with gov := { x.gov with returned := x.gov.returned + a.amount } }
      (s1.onCrew op.uid fun c => c.deliver d 0).finishOp op false
  | .carousel => s.onCarousel fun c => c.grantedBy die

/-- A cycle of a die's governor: it refills the bucket and grants the requests at the head of its queue (R392). -/
def execGovernorCycle (die : Nat) (s : State) : Host.Outcome State Fault Refusal :=
  let g := (s.die die).gov.refill
  let r := grantHeads g.bucket g.queue
  let s1 := s.onDie die fun x => { x with gov := { g with bucket := r.1, queue := r.2.2 } }
  .next (r.2.1.foldl (fun t a => t.grant die a) s1)

/-- The die samples its temperature: the governor throttles, or the die trips at 115 degrees (R395). -/
def execTempSample (die : Nat) (temp : BitVec 8) (s : State) : Host.Outcome State Fault Refusal :=
  .next (s.onDie die fun x => { x with gov := { x.gov with temp := temp, trip := x.gov.trip || 115 ≤ temp.toNat } })

end Sys2Proof.Machine
end

