-- ==== Sys2Proof/Machine/Save.lean ====
section
/-! DEFINITION. The saved context: the save area of a region as a pre-emption or a debug stop writes it, and what a restore
reads back from it (R356 to R359, R372). Where the spec says what a part of the area holds and not at which bytes, the bytes
are the model's (log 21), and a restore takes that part from the saved region itself. -/

namespace Sys2Proof.Machine

/-! ## The area (R356, R357) -/

/-- CB: the bytes of one core block. -/
def blockBytes (privPool : Nat) : Nat := 2 ^ 24 + (privPool + (2 ^ 20 - 1)) / 2 ^ 20 * 2 ^ 20

/-- The bytes that the save of a region needs. -/
def Region.saveBytes (r : Region) : Nat := 2 ^ 21 + r.cores.length * blockBytes r.cfg.privPool

/-- The save area of a region of a die. -/
def State.saveArea (s : State) (die region : Nat) : Nat :=
  (s.die die).regs.saveBase.toNat + region * (s.die die).regs.saveStride.toNat

/-- Core block i of an area. -/
def Region.block (r : Region) (area i : Nat) : Nat := area + 2 ^ 21 + blockBytes r.cfg.privPool * i

/-- The record of a berth in a core block. -/
def berthRecord (block b : Nat) : Nat := block + 0x600000 + 2 ^ 21 * b

/-- CORESET of a list of cores. -/
def coreSet (cores : List Nat) : W64 := BitVec.ofNat 64 (cores.map fun c => 2 ^ c).sum

/-- The header of an area. -/
def Region.header (r : Region) (seq : BitVec 48) : List Byte :=
  bytesOfNat 2 r.cfg.version.toNat ++ bytesOfNat 1 r.cfg.num ++ bytesOfNat 1 r.cores.length ++
    bytesOfNat 4 (blockBytes r.cfg.privPool / 2 ^ 20) ++ bytesOfNat 8 seq.toNat ++ wordBytes (coreSet r.cores) ++
    List.replicate 40 0

def Barrier.word (b : Barrier) : W64 := BitVec.ofNat 64 (b.gen.toNat * 2 ^ 18 + b.arrived * 2 ^ 9 + b.expected)

def barrierOf (w : W64) : Barrier :=
  { expected := w.toNat % 2 ^ 9, arrived := w.toNat / 2 ^ 9 % 2 ^ 9, gen := w.extractLsb' 18 16 }

/-! ## Bytes at physical addresses -/

/-- Bytes written at a physical address with their marks. -/
def State.writeMarked (s : State) (die pa : Nat) (bs : List Byte) (ms : List Bool) : State :=
  ms.zipIdx.foldl (fun t m => if m.1 then t.setMark (pa + m.2) else t) (s.writePa die pa bs)

def State.paBytes (s : State) (pa n : Nat) : List Byte := (List.range n).map fun i => s.homeByte 0 (pa + i)

def State.paMarks (s : State) (pa n : Nat) : List Bool := (List.range n).map fun i => s.marked (pa + i)

def State.paNat (s : State) (pa n : Nat) : Nat := natOfBytes (s.paBytes pa n)

/-! ## Berth records (R358) -/

def maskBytes (m : Mask) : List Byte := bytesOfNat 128 m.toNat

/-- A rejoin stack entry: its mask, and its address with the kind in bit 0, which the address leaves free (log 21). -/
def StackEntry.bytes (e : StackEntry) : List Byte :=
  maskBytes e.mask ++ wordBytes (e.addr ||| (if e.kind = .path then 1 else 0))

def TileHandle.word (t : TileHandle) : BitVec 32 := (0 : BitVec 15) ++ BitVec.ofBool t.bound ++ t.buf ++ t.tag

def tileHandleOf (w : BitVec 32) : TileHandle := { bound := w.getLsbD 16, buf := w.extractLsb' 8 8, tag := w.extractLsb' 0 8 }

/-- The granules that a saved core's register blocks take, in berth order and then in the order of their binding: berth,
block, first granule. -/
def blockGranules : Nat → List Crew → List (Nat × Nat × Nat)
  | _, [] => []
  | g, c :: rest =>
    let n := c.lanes / 32
    (c.boundBlocks.zipIdx.map fun p => (c.place.berth, p.1, g + n * p.2)) ++ blockGranules (g + n * c.boundBlocks.length) rest

/-- The granule table of a berth record: 32 blocks of 32 granule numbers, two bytes each. -/
def granuleTable (lanes berth : Nat) (gs : List (Nat × Nat × Nat)) : List Byte :=
  (List.range 32).flatMap fun b => (List.range 32).flatMap fun i =>
    match gs.find? fun g => g.1 = berth && g.2.1 = b with
    | some g => bytesOfNat 2 (if i < lanes / 32 then g.2.2 + i else 0)
    | none => bytesOfNat 2 0

/-- The parts of a berth record: offset and bytes. -/
def Crew.recordParts (c : Crew) (gs : List (Nat × Nat × Nat)) : List (Nat × List Byte) :=
  [(0, [1]), (8, wordBytes c.pc),
   (0x100, c.sregs.toList.flatMap wordBytes),
   (0x300, ((c.mregs.toList.drop 1).flatMap maskBytes) ++ maskBytes c.cur ++ maskBytes c.live),
   (0xC00, c.stack.reverse.flatMap StackEntry.bytes),
   (0x1800, c.vregs.toList.map VReg.tag),
   (0x1900, c.fmts.toList.flatMap fun f => bytesOfNat 4 f.toNat),
   (0x1940, c.tiles.toList.flatMap fun t => bytesOfNat 4 t.word.toNat),
   (0x1C00, (List.range 32).flatMap fun i =>
      wordBytes (match (c.held[i]?).join with
                 | some k => recordRef c.place.die k
                 | none => 0)),
   (0x2000, granuleTable c.lanes c.place.berth gs)]

/-- A granule of a register block: eight registers of 32 lanes, with its mark bits. -/
def Crew.granule (c : Crew) (block i : Nat) : List Byte × List Byte :=
  let cells := (List.range 8).flatMap fun j => (List.range 32).map fun l => (8 * block + j, 32 * i + l)
  (cells.flatMap fun p => bytesOfNat 4 ((c.vreg p.1).word p.2).toNat,
   bytesOfNat 32 ((cells.zipIdx.map fun p => if (c.vreg p.1.1).marks.getLsbD p.1.2 then 2 ^ p.2 else 0).sum))

/-- A word that may be absent: its value, and whether it is there. -/
def optWords (o : Option W64) : List W64 := [o.getD 0, if o.isSome then 1 else 0]

/-- What a crew waits for at a barrier: its kind, the barrier, its member, the generation joined, and whether that is known
(R194). -/
def Wait.words : Wait → List W64
  | .core id g => [1, BitVec.ofNat 64 id, 0, g.setWidth 64, 1]
  | .region id g => [2, BitVec.ofNat 64 id, 0, g.setWidth 64, 1]
  | .xbar record m g => [3, record, BitVec.ofNat 64 m] ++ optWords (g.map fun x => x.setWidth 64)
  | .phase id g => [4, BitVec.ofNat 64 id, 0] ++ optWords (g.map fun x => x.setWidth 64)

/-- The rest of the first 256 bytes of a berth record, from byte 0x10 on: L, handler and CID, FP, WCNT, WERR, CFLAGS, SCA, SCB,
the weir binding, the barrier tie and the pending wait (R358; their order and widths are log 21's). -/
def Crew.contextWords (c : Crew) : List W64 :=
  [BitVec.ofNat 64 (c.lanes + 2 ^ 16 * c.handler + 2 ^ 32 * c.cid.toNat), c.fp, c.wcnt, c.werr.setWidth 64, c.cflags.setWidth 64] ++
    optWords (c.sca.map fun x => x.setWidth 64) ++ optWords (c.scb.map fun x => x.setWidth 64) ++
    (match c.weir with
     | some b => [b.record, BitVec.ofNat 64 (1 + 2 * b.slot + (if b.notice then 2 ^ 16 else 0))]
     | none => [0, 0]) ++
    optWords c.tie ++
    (match c.wait with
     | some p => p.wait.words ++ [p.dest.setWidth 64]
     | none => List.replicate 6 0)

/-- Bytes filled up with zeros to a length. -/
def padTo (n : Nat) (bs : List Byte) : List Byte := (bs ++ List.replicate (n - bs.length) 0).take n

/-- A spill block of a crew, its registers in order (R307). -/
def Crew.blockBytes (c : Crew) (k : Nat) : List Byte := (List.range 8).flatMap fun j => c.regBytes (8 * k + j)

/-- The parts of a berth record that hold spill blocks: those of the share in the order in which they came into it, those of
the window where the window has them (R358). -/
def Crew.spillParts (c : Crew) : List (Nat × List Byte) :=
  (c.shareBlocks.zipIdx.map fun p => (0x4000 + 32 * c.lanes * p.2, c.blockBytes p.1)) ++
    c.windowBlocks.map fun k => (0x100000 + 32 * c.lanes * k, c.blockBytes k)

/-- A berth record and the granules of its crew written to a core block. -/
def State.saveCrew (s : State) (block : Nat) (gs : List (Nat × Nat × Nat)) (c : Crew) : State :=
  let parts := c.recordParts gs ++ (0x10, padTo 0xF0 (c.contextWords.flatMap wordBytes)) :: c.spillParts
  let s1 := parts.foldl (fun t p => t.writePa c.place.die (berthRecord block c.place.berth + p.1) p.2) s
  (gs.filter fun g => g.1 = c.place.berth).foldl (fun t g =>
    (List.range (c.lanes / 32)).foldl (fun u i =>
      let x := c.granule g.2.1 i
      (u.writePa c.place.die (block + 0x400000 + 1024 * (g.2.2 + i)) x.1).writePa c.place.die (block + 0x50B000 + 32 * (g.2.2 + i)) x.2) t) s1

/-! ## Core blocks (R357) -/

/-- The buffers of a core that a region holds: those it reserves and those of its crews. -/
def State.heldBuffers (s : State) (die core : Nat) (r : Region) : List Nat :=
  let mine := (s.core die core).crews.flatMap fun c => c.buffers ++ c.lockBuf.toList
  (List.range 256).filter fun b => r.reserves core b || mine.contains b

/-- A buffer of a tile store. -/
def bufferPlace (die core b : Nat) : Nat := (bufferAddr die core b).toNat

/-- k0 to k15, the full bits and the .core barriers. -/
def Core.sharedParts (k : Core) : List (Nat × List Byte) :=
  [(0x50A400, k.shared.toList.flatMap wordBytes), (0x50A480, bytesOfNat 32 k.full.toNat),
   (0x50A5A0, k.barriers.toList.flatMap fun b => wordBytes b.word)]

/-- The accumulators: 2,048 elements of four bytes each. -/
def Matrix.accBytes (m : Matrix) (n : Nat) : List Byte :=
  (List.range 2048).flatMap fun i => bytesOfNat 4 ((m.acc n).word i).toNat

/-- A command of the matrix queue as words: its kind and its fields in the order of their declaration (log 21). -/
def MatCmd.words : MatCmd → List Nat
  | .mma m =>
    [0, m.acc, if m.f64 then 1 else 0, m.aBuf, m.bBuf, m.aTag.toNat, m.bTag.toNat, m.aFmt.toNat, m.bFmt.toNat,
     (m.sca.map (· + 1)).getD 0, (m.scb.map (· + 1)).getD 0, m.k, m.k0, if m.zero then 1 else 0, if m.clears then 1 else 0, m.chunk]
  | .accz acc f64 clears => [1, acc, if f64 then 1 else 0, if clears then 1 else 0]
  | .trel buf full => [2, buf, if full then 1 else 0]
  | .drain d =>
    [3, d.acc, if d.f64 then 1 else 0, d.chan, d.ety.toNat, d.fmtIndex, d.fmt.toNat, d.rnd.toNat, if d.sat then 1 else 0,
     if d.z then 1 else 0, d.width, d.row, d.berthTag]

def MatEntry.bytes (e : MatEntry) : List Byte :=
  padTo 256 ((e.cmd.words ++ [e.agent.place.berth, e.op.ticket, if e.bad then 1 else 0]).flatMap fun n => bytesOfNat 8 n)

/-- The matrix engine's part of a core block: modes, poison states, baton and drain unit in the first 256 bytes, then the
eight queue entries and the active and the pending DRAIN (R357, log 21). -/
def Matrix.parts (m : Matrix) : List (Nat × List Byte) :=
  let flag (b : Bool) : Byte := if b then 1 else 0
  (0, padTo 256 (m.f64Modes.toList.map flag ++ m.accs.toList.map (fun a => flag a.poison) ++
      [BitVec.ofNat 8 ((m.baton.map (· + 1)).getD 0), BitVec.ofNat 8 ((m.drainChan.map (· + 1)).getD 0),
       BitVec.ofNat 8 m.queue.length, flag m.drainActive.isSome, flag m.drainPending.isSome])) ::
    ((m.queue.zipIdx.map fun p => (256 + 256 * p.2, p.1.bytes)) ++ (m.drainActive.toList.map fun e => (2304, e.bytes)) ++
      m.drainPending.toList.map fun e => (2560, e.bytes))

def CopyKind.code : CopyKind → Byte
  | .linear => 0
  | .shaped _ => 1
  | .tld _ => 2
  | .tst _ _ => 3
  | .gather _ _ => 4

/-- A copy channel's part: WP, whether it is halted, and the queued copies (R357, log 21). -/
def Channel.bytes (x : Channel) : List Byte :=
  padTo 256 (wordBytes x.wp ++ [if x.halted then 1 else 0, BitVec.ofNat 8 x.jobs.length] ++ List.replicate 6 0 ++
    padTo 8 (x.jobs.map fun j => j.kind.code) ++
    x.jobs.flatMap fun j => wordBytes j.dst ++ wordBytes j.src ++ bytesOfNat 4 j.len ++ bytesOfNat 4 j.off)

def StreamState.code : StreamState → Nat
  | .idle => 0
  | .ready => 1
  | .running => 2
  | .done => 3
  | .faulted => 4

/-- A stream engine's part: state, base, shape, control word and next point (R357, log 21). -/
def Stream.bytes (x : Stream) : List Byte :=
  padTo 128 (bytesOfNat 8 x.state.code ++ wordBytes x.base ++ wordBytes x.ctl ++ bytesOfNat 8 x.next ++
    bytesOfNat 4 x.shape.ty.toNat ++ bytesOfNat 4 x.width ++ x.shape.ext.flatMap (fun n => bytesOfNat 8 n) ++
    x.shape.stride.flatMap fun z => wordBytes (BitVec.ofInt 64 z))

/-- A row of a channel: lane words, void bits, tag, width, berth tag, DE (R357, log 21). -/
def Row.bytes (r : Row) : List Byte :=
  padTo 0x1100 (padTo 0x1000 (r.words.flatMap fun w => bytesOfNat 4 w.toNat) ++ maskBytes r.void ++ [r.tag, 0] ++
    bytesOfNat 2 r.width ++ bytesOfNat 2 r.berthTag ++ [r.de.setWidth 8])

/-- The rows saved for queue n, or at 16 for the drain port, whose own rows no queue has as well. -/
def State.savedRows (s : State) (die core n : Nat) : List Row :=
  if n = 16 then (s.core die core).matrix.drainRows
  else
    match (s.chan die core n).endpoint with
    | .drainPort => []
    | _ => s.rowsOf die core n

/-- The eight slots of a row queue; an empty one has width 0. -/
def rowParts (at_ : Nat) (rows : List Row) : List (Nat × List Byte) :=
  (List.range 8).map fun i =>
    match rows[i]? with
    | some r => (at_ + 0x1100 * i, r.bytes)
    | none => (at_ + 0x1100 * i + 0x1080, List.replicate 8 0)

/-- Who owns a buffer of a core: 1 to 4 for the crew on berth 0 to 3, 255 for the region, 0 for nobody (log 21). -/
def State.bufferOwner (s : State) (die core : Nat) (r : Region) (b : Nat) : Byte :=
  match (s.core die core).crews.find? fun c => c.buffers.contains b || c.lockBuf = some b with
  | some c => BitVec.ofNat 8 (c.place.berth + 1)
  | none => if r.reserves core b then 255 else 0

/-- The engines' parts of a core block (R357). -/
def State.engineParts (s : State) (die core : Nat) (r : Region) (m : Matrix) : List (Nat × List Byte) :=
  (m.parts.map fun p => (0x508000 + p.1, p.2)) ++
    ((List.range 16).map fun n => (0x509000 + 256 * n, (s.chan die core n).bytes)) ++
    ((List.range 8).map fun e => (0x50A000 + 128 * e, (s.stream die core e).bytes)) ++
    [(0x50A4A0, (List.range 256).map (s.bufferOwner die core r))] ++
    (List.range 17).flatMap fun n => rowParts (0x520000 + 0x8800 * n) (s.savedRows die core n)

/-- A core's matrix engine as it is kept beside the image: an MMA between chunks goes back to the head of the queue, a change
of the baton in the cycle of the save still takes effect, and the engine's credit and burst are gone (R173, R189). -/
def Matrix.saved (m : Matrix) : Matrix :=
  let queue := match m.running with
               | some r => { r.entry with begun := true } :: m.queue
               | none => m.queue
  { m with queue := queue, running := none, baton := m.batonNext.getD m.baton, batonNext := none, burst := 0, credit := 0, idle := 0
           busy := false, asking := false }

/-- One core of a region written to its block. -/
def State.saveCore (s : State) (die core : Nat) (r : Region) (block : Nat) : State :=
  let k := (s.core die core).applySharedWrites
  let gs := blockGranules 0 k.crews
  let s1 := (s.heldBuffers die core r).foldl (fun t b =>
    t.writeMarked die (block + 16384 * b) ((List.range 16384).map fun i => t.cell (bufferPlace die core b + i))
      ((List.range 16384).map fun i => t.marked (bufferPlace die core b + i))) s
  let s2 := (List.range 4).foldl (fun t n => t.writePa die (block + 0x500000 + 0x2000 * n) (k.matrix.accBytes n)) s1
  let s3 := (k.sharedParts ++ s.engineParts die core r k.matrix.saved).foldl (fun t p => t.writePa die (block + p.1) p.2) s2
  let s4 := (List.range 4).foldl (fun t b => t.writePa die (berthRecord block b) [0]) s3
  let s5 := k.crews.foldl (fun t c => t.saveCrew block gs c) s4
  let pool := s5.poolBase die core
  s5.writeMarked die (block + 2 ^ 24) (s5.paBytes pool r.cfg.privPool) (s5.paMarks pool r.cfg.privPool)

/-- The whole area of a region written (R356). -/
def State.saveImage (s : State) (die : Nat) (r : Region) (seq : BitVec 48) : State :=
  let area := s.saveArea die r.cfg.num
  let s1 := (s.writePa die area (r.header seq)).writePa die (area + 0x40) (r.barriers.flatMap fun b => wordBytes b.word)
  let s2 := r.cfg.locks.foldl (fun t l =>
    t.writePa die (area + 0x10000 + 0x10000 * l.index)
      (l.slots.flatMap fun x => ((t.barge die x.record).getD Barge.zero).bytes)) s1
  r.cores.zipIdx.foldl (fun t p => t.saveCore die p.1 r (r.block area p.2)) s2

/-- A core's context as it is kept beside the image; core-shared writes of the cycle of the save have taken effect (R104). -/
def Core.saved (o : Core) : SavedCore :=
  let k := o.applySharedWrites
  { berths := k.berths, shared := k.shared, chans := k.chans, streams := k.streams, matrix := k.matrix.saved, full := k.full
    weirCopies := k.weirCopies, barriers := k.barriers }

/-! ## Reading the area back (R359, R372) -/

/-- A word of a list at a physical address. -/
def State.readList (s : State) (pa n : Nat) : List W64 := (List.range n).map fun i => s.home64 (pa + 8 * i)

/-- The rejoin stack of a record at the depth of the saved one; the list has its top first. -/
def State.readStack (s : State) (pa depth : Nat) : List StackEntry :=
  ((List.range depth).map fun i =>
    let w := s.home64 (pa + 136 * i + 128)
    { kind := if w.getLsbD 0 then .path else .mark, mask := BitVec.ofNat 1024 (s.paNat (pa + 136 * i) 128), addr := w &&& ~~~1 }).reverse

/-- A register of a bound block read from its granules. -/
def State.readVreg (s : State) (block lanes first j : Nat) (tag : BitVec 8) : VReg :=
  let at_ (l : Nat) : Nat := block + 0x400000 + 1024 * (first + l / 32) + 128 * j + 4 * (l % 32)
  let mark (l : Nat) : Bool :=
    (s.homeByte 0 (block + 0x50B000 + 32 * (first + l / 32) + (32 * j + l % 32) / 8)).getLsbD (l % 8) || s.anyMark (at_ l) 4
  { words := (List.range lanes).map fun l => BitVec.ofNat 32 (s.paNat (at_ l) 4), tag := tag
    marks := maskOf ((List.range lanes).filter mark) }

/-- A register of a spill block read from the spill share or the spill window of a record; what its own marks say of it stands
(R359). -/
def State.readSpill (s : State) (rec_ : Nat) (c : Crew) (r : Nat) (tag : BitVec 8) : VReg :=
  let k := r / 8
  let first := match c.shareBlocks.findIdx? (· = k) with
               | some i => 0x4000 + 32 * c.lanes * i
               | none => 0x100000 + 32 * c.lanes * k
  let at_ (l : Nat) : Nat := rec_ + first + 4 * c.lanes * (r % 8) + 4 * l
  { words := (List.range c.lanes).map fun l => BitVec.ofNat 32 (s.paNat (at_ l) 4), tag := tag
    marks := (c.vreg r).marks ||| maskOf ((List.range c.lanes).filter fun l => s.anyMark (at_ l) 4) }

/-- A crew with what its record, its granules and its spill areas hold now. -/
def State.readCrew (s : State) (block : Nat) (gs : List (Nat × Nat × Nat)) (c : Crew) : Crew :=
  let rec_ := berthRecord block c.place.berth
  let mask (i : Nat) : Mask := BitVec.ofNat 1024 (s.paNat (rec_ + 0x300 + 128 * i) 128) &&& c.allLanes
  { c with
    pc := s.home64 (rec_ + 8)
    sregs := tabulate 64 fun i => if i = 0 then 0 else s.home64 (rec_ + 0x100 + 8 * i)
    mregs := tabulate 16 fun i => if i = 0 then 0 else mask (i - 1)
    cur := mask 15, live := mask 16
    stack := s.readStack (rec_ + 0xC00) c.stack.length
    vregs := tabulate 256 fun r =>
      let tag := s.homeByte 0 (rec_ + 0x1800 + r)
      match gs.find? fun g => g.1 = c.place.berth && g.2.1 = r / 8 with
      | some g => s.readVreg block c.lanes g.2.2 (r % 8) tag
      | none => if c.spillBlocks.contains (r / 8) then s.readSpill rec_ c r tag else { c.vreg r with tag := tag }
    fmts := tabulate 16 fun i => BitVec.ofNat 32 (s.paNat (rec_ + 0x1900 + 4 * i) 4)
    tiles := tabulate 64 fun i => tileHandleOf (BitVec.ofNat 32 (s.paNat (rec_ + 0x1940 + 4 * i) 4)) }

/-- An accumulator read back; a marked element puts it in poison state (R180, R359). -/
def State.readAcc (s : State) (pa : Nat) (old : Accum) : Accum :=
  { words := (List.range 2048).map fun i => BitVec.ofNat 32 (s.paNat (pa + 4 * i) 4), poison := old.poison || s.anyMark pa 8192 }

/-- An engine's work moved to another core. -/
def Agent.moveTo (a : Agent) (core : Nat) : Agent := { a with place := { a.place with core := core } }

def CopyJob.moveTo (j : CopyJob) (core : Nat) : CopyJob :=
  let j1 : CopyJob := { j with agent := j.agent.moveTo core }
  let die := j.agent.place.die
  match j.kind with
  | .tld b => { j1 with dst := bufferAddr die core b }
  | .gather _ b => { j1 with dst := bufferAddr die core b }
  | .tst b _ => { j1 with src := bufferAddr die core b }
  | _ => j1

def MatEntry.moveTo (e : MatEntry) (core : Nat) (bad : Bool) : MatEntry :=
  { e with agent := e.agent.moveTo core, bad := e.bad || bad }

/-- A channel moved to another core; copies of a marked part end with an error (R359). -/
def Channel.moveTo (x : Channel) (core : Nat) (bad : Bool) : Channel :=
  { x with jobs := x.jobs.map fun j => { j.moveTo core with bad := j.bad || bad } }

/-- The rows of a queue; those of marked slots are marked in every lane that they fill (R359). -/
def State.markRows (s : State) (at_ : Nat) (rows : List Row) : List Row :=
  rows.zipIdx.map fun p =>
    if s.anyMark (at_ + 0x1100 * p.2) 0x1100 then { p.1 with marks := Mask.below p.1.width &&& ~~~p.1.void } else p.1

def Stream.moveTo (x : Stream) (core : Nat) : Stream :=
  { x with agent := x.agent.moveTo core, tails := x.tails.map fun t => { t with agent := t.agent.moveTo core } }

/-- A stream engine whose part of the area is marked has faulted: its SESTOPs end with an error, and EC is set (R359, log 21). -/
def State.failStream (s : State) (die core e : Nat) : State :=
  let x := s.stream die core e
  if x.state = .idle then s
  else
    (((x.tails.flatMap StreamTail.stops).foldl (fun t r => t.finishOp r true) s).streamErr x true).onStream die core e fun y =>
      { y with state := .faulted, tails := [] }

/-- A matrix engine laid on a core: accumulators from the area, and queued commands that end with an error where the engine's
first bytes or their own entry are marked (R359). -/
def State.readMatrix (s : State) (block core : Nat) (m : Matrix) : Matrix :=
  let part := block + 0x508000
  let bad (i : Nat) : Bool := s.anyMark part 256 || s.anyMark (part + 256 + 256 * i) 256
  { m with
    accs := tabulate 4 fun n => s.readAcc (block + 0x500000 + 0x2000 * n) (m.acc n)
    queue := m.queue.zipIdx.map fun p => p.1.moveTo core (bad p.2)
    drainActive := m.drainActive.map fun e => e.moveTo core (bad 8)
    drainPending := m.drainPending.map fun e => e.moveTo core (bad 9)
    drainRows := s.markRows (block + 0x520000 + 0x8800 * 16) m.drainRows }

/-- The buffers that region core i holds in its block. -/
def Region.savedBuffers (r : Region) (i : Nat) (crews : List Crew) : List Nat :=
  (List.range 256).filter fun b =>
    (r.cfg.locks.any fun l => l.index % max 1 r.cores.length = i && lockBuffer l.index 3 ≤ b && b ≤ lockBuffer l.index 0) ||
      (r.cfg.layer.isSome && 176 ≤ b && b < 192) || crews.any fun c => c.buffers.contains b || c.lockBuf = some b

/-- Saved region core i laid on core `core` of its die: what the area holds, over what is kept beside it (R359). -/
def State.restoreCore (s : State) (die core i : Nat) (r : Region) (block : Nat) (k : SavedCore) : State :=
  let crews := k.berths.toList.filterMap id
  let gs := blockGranules 0 crews
  let back (c : Crew) : Crew := { s.readCrew block gs c with place := { c.place with core := core } }
  let badStream (e : Nat) : Bool := s.anyMark (block + 0x50A000 + 128 * e) 128
  let s1 := s.onCore die core fun o =>
    { Core.reset with
      region := some r.cfg.num
      berths := mapVec (Option.map back) k.berths
      shared := tabulate 16 fun i => s.home64 (block + 0x50A400 + 8 * i)
      chans := tabulate 16 fun n => ((k.chans[n]?).getD Channel.reset).moveTo core (s.anyMark (block + 0x509000 + 256 * n) 256)
      streams := tabulate 8 fun e => ((k.streams[e]?).getD Stream.reset).moveTo core
      matrix := s.readMatrix block core k.matrix
      full := BitVec.ofNat 256 (s.paNat (block + 0x50A480) 32)
      weirCopies := k.weirCopies.map fun j => { j with agent := j.agent.moveTo core }
      barriers := tabulate 16 fun i => barrierOf (s.home64 (block + 0x50A5A0 + 8 * i))
      tlb := o.tlb, rerun := o.rerun, spill := o.spill, leaveWait := o.leaveWait }
  let s2 := (List.range 16).foldl (fun t n =>
    match (t.chan die core n).endpoint with
    | .drainPort => t
    | _ => t.setRows die core n (s.markRows (block + 0x520000 + 0x8800 * n) (t.rowsOf die core n))) s1
  let s3 := (List.range 8).foldl (fun t e => if badStream e then t.failStream die core e else t) s2
  let s4 := crews.foldl (fun t c =>
    let x := back c
    t.spillOut x (x.windowBlocks.flatMap fun b => (List.range 8).map (8 * b + ·))) s3
  let s5 := (r.savedBuffers i crews).foldl (fun t b =>
    t.landSpan die [(.chip (bufferPlace die core b), 16384)] (t.paBytes (block + 16384 * b) 16384)
      (t.paMarks (block + 16384 * b) 16384)) s4
  s5.writeMarked die (s5.poolBase die core) (s5.paBytes (block + 2 ^ 24) r.cfg.privPool) (s5.paMarks (block + 2 ^ 24) r.cfg.privPool)

/-- The on-chip slots of a lock with the barges that the area holds now; a marked one is poisoned with cause 15, detail 4,
and handed on by its lock (R350, R359). The saved barges take the reload cycle as their entry cycle (R233). -/
def State.restoreSlots (s : State) (die region area : Nat) (l : Lock) : List LockSlot → Nat → State × List LockSlot
  | [], _ => (s, [])
  | x :: rest, i =>
    let pa := area + 0x10000 + 0x10000 * l.index + 64 * i
    let old := (s.barge die x.record).getD Barge.zero
    let b : Barge := { bargeOf (s.paBytes pa 64) with marked := old.marked, landing := old.landing, poisonSeq := old.poisonSeq }
    if s.anyMark pa 64 then
      let origin := noCrewOrigin die 0 0 15 4 0
      let seq := s.evseqOf die
      let s1 := s.record die origin false false [BitVec.ofNat 64 pa]
      ((s1.putBarge die x.record (b.poison origin seq)).handOn die x.record seq (lockName die region l.index)).restoreSlots die region
        area l rest (i + 1)
    else
      let r := (s.putBarge die x.record b).restoreSlots die region area l rest (i + 1)
      (r.1, { x with entry := s.now } :: r.2)

/-- Every lock of a restored region. -/
def State.restoreLocks (s : State) (die region area : Nat) : List Lock → State × List Lock
  | [] => (s, [])
  | l :: rest =>
    let a := s.restoreSlots die region area l l.slots 0
    let b := a.1.restoreLocks die region area rest
    (b.1, { l with slots := a.2, poisoned := l.poisoned + BitVec.ofNat 32 (l.slots.length - a.2.length) } :: b.2)

/-- Why a restore is refused: 1 the header differs from the descriptor, 2 a data error (R345, R359). -/
def State.restoreRefused (s : State) (die : Nat) (g : RegionCfg) (r : SavedRegion) : Option Nat :=
  let area := s.saveArea die r.region.cfg.num
  let w := s.home64 area
  let records := r.region.cores.zipIdx.flatMap fun p => (List.range 4).map fun b => berthRecord (r.region.block area p.2) b
  if s.anyMark area 64 then some 2
  else if w.extractLsb' 0 16 != g.version || (w.extractLsb' 16 8).toNat != g.num || (w.extractLsb' 24 8).toNat != g.coreCount
  then some 1
  else if records.any fun a => s.anyMark a 0x4000 then some 2
  else none

end Sys2Proof.Machine
end

