-- ==== Sys2Proof/Machine/Weirs.lean ====
section
/-! DEFINITION. Weirs: binding, kill points, provisional values, arrivals, release and loss of quorum; the walk through a
fault cone (R209 to R212, R272, R273, R287 to R293). -/

namespace Sys2Proof.Machine

/-! ## Weir records (R272, R273) -/

/-- A weir record taken apart (R272). -/
structure Weir where
  words : List W64
  deriving DecidableEq, Repr

def Weir.word (w : Weir) (i : Nat) : W64 := (w.words[i]?).getD 0

def weirState (w : Weir) : Nat := nodeState (w.word 0)
def weirFill (w : Weir) : Nat := ((w.word 0).extractLsb' 55 2).toNat
def weirPolicy (w : Weir) : Nat := ((w.word 0).extractLsb' 53 2).toNat
def weirExpected (w : Weir) : Nat := ((w.word 0).extractLsb' 42 6).toNat
def weirArrived (w : Weir) : Nat := ((w.word 0).extractLsb' 36 6).toNat
def weirPoisoned (w : Weir) : Nat := ((w.word 0).extractLsb' 30 6).toNat
def weirAweight (w : Weir) : Nat := ((w.word 0).extractLsb' 0 21).toNat
def weirQnum (w : Weir) : Nat := ((w.word 1).extractLsb' 16 16).toNat
def weirQden (w : Weir) : Nat := ((w.word 1).extractLsb' 0 16).toNat
def weirEty (w : Weir) : Nat := ((w.word 1).extractLsb' 32 4).toNat
def weirSlotLen (w : Weir) : Nat := ((w.word 1).extractLsb' 48 16).toNat
def weirSlotBase (w : Weir) : W64 := w.word 2
def weirWinBase (w : Weir) : W64 := w.word 3
def weirWinSize (w : Weir) : Nat := (w.word 4).toNat % 2 ^ 32
def weirFallback (w : Weir) : W64 := w.word 5
def weirBound (w : Weir) (j : Nat) : Bool := (w.word 6).getLsbD j
def weirHas (w : Weir) (j : Nat) : Bool := (w.word 6).getLsbD (32 + j)
def weirSucc (w : Weir) : W64 := w.word 7
def weirWeight (w : Weir) (j : Nat) : Nat := ((w.word (8 + j / 4)).extractLsb' (16 * (j % 4)) 16).toNat

/-- The sum of the weights of the expected slots (R272). -/
def weirTotal (w : Weir) : Nat := ((List.range (weirExpected w)).map (weirWeight w)).sum

/-- The address of slot j (R273). -/
def weirSlot (w : Weir) (j : Nat) : Nat := (weirSlotBase w).toNat + weirSlotLen w * j
def weirResult (w : Weir) : Nat := weirSlot w (weirExpected w)
def weirPrevious (w : Weir) (j : Nat) : Nat := weirSlot w (weirExpected w + 1 + j)

/-- The element type of the combine; code 0 is read as 11 (R272). -/
def weirType (w : Weir) : Option ElemTy := etyType (if weirEty w = 0 then 11 else BitVec.ofNat 4 (weirEty w)) 0

/-- A basin address. -/
def onBasin (a : W64) : Bool := 0xB0 ≤ topByte a && topByte a ≤ 0xB3 && a.extractLsb' 27 29 == 0

/-- n bytes from an offset lie inside a basin. -/
def insideBasin (a : W64) (n : Nat) : Bool := (a.extractLsb' 0 27).toNat + n ≤ 96 * 2 ^ 20

/-- A well-formed weir record (R273). -/
def weirOk (w : Weir) : Bool :=
  let n := weirExpected w
  let areas := if weirFill w = 3 then 2 * n + 1 else n + 1
  let fb := weirFallback w
  nodeKind (w.word 0) = 3 && (w.word 0).extractLsb' 48 5 == 0 && (w.word 0).extractLsb' 21 9 == 0 &&
    weirPolicy w != 3 && 1 ≤ n && n ≤ 32 && weirArrived w ≤ 32 && weirPoisoned w ≤ 32 && weirQden w != 0 &&
    weirQnum w ≤ weirQden w && (w.word 1).extractLsb' 36 12 == 0 && weirSlotLen w % 128 = 0 && weirSlotLen w != 0 &&
    weirSlotLen w ≤ 16384 && [0, 3, 7, 9, 10, 11].contains (weirEty w) && onBasin (weirSlotBase w) &&
    (weirSlotBase w).toNat % 128 = 0 && insideBasin (weirSlotBase w) (areas * weirSlotLen w) &&
    (w.word 4).extractLsb' 32 32 == 0 && weirWinSize w % 128 = 0 && weirWinSize w ≤ 2 ^ 20 &&
    (weirWinSize w = 0 || (topByte (weirWinBase w) = topByte (weirSlotBase w) && onBasin (weirWinBase w) &&
      (weirWinBase w).toNat % 128 = 0 && insideBasin (weirWinBase w) (weirWinSize w))) &&
    fb.toNat % 128 = 0 && (topByte fb = 0 || (onBasin fb && (weirFill w != 2 || insideBasin fb (n * weirSlotLen w))))

/-- The record at an address, through the table of a die. -/
def State.weirAt (s : State) (die : Nat) (record : W64) : Weir := { words := s.sysWords die record 16 }

/-- The die and the number of a weir's home bank (R289). -/
def weirDie (w : Weir) : Nat := topByte (weirSlotBase w) - 0xB0
def weirBankNo (w : Weir) : Nat := ((weirSlotBase w).extractLsb' 0 27).toNat / 128 % 192

/-- Word 0 with the fields that the home bank writes (R272). -/
def weirWord0 (w : Weir) (state arrived poisoned aweight : Nat) : W64 :=
  ((w.word 0) &&& ~~~((7#64 <<< 57) ||| (0xFFF#64 <<< 30) ||| 0x1FFFFF#64)) |||
    BitVec.ofNat 64 (state * 2 ^ 57 + arrived * 2 ^ 36 + poisoned * 2 ^ 30 + aweight)

/-- A change of state alone, which the home bank writes through to the record (R289). -/
def State.setWeirState (s : State) (die : Nat) (record : W64) (st : Nat) : State :=
  s.setSysBy (weirDie (s.weirAt die record)) die record (nodeWithState (s.sys64 die record) st)

/-! ## The home bank (R289) -/

/-- Where a weir's record lies, under which its home bank keeps what belongs to it (log 14). -/
def State.weirHome (s : State) (die : Nat) (record : W64) : Nat := (s.recordHome die record).getD 0

/-- What the bank of a weir keeps. -/
def State.bank (s : State) (d home : Nat) : WeirBank :=
  ((s.die d).weirs.find? fun b => b.home = home).getD { home := home, bound := [], prov := [] }

/-- An operation of a die's crew reaches the bank of a well-formed weir, in the bank's one order; from another die it brings that
die's clock (R289, R320, R336). -/
def State.reachBank (s : State) (die : Nat) (w : Weir) (cid : BitVec 16) : State :=
  let d := weirDie w
  if weirOk w then
    (if die = d then s else s.receive d (s.imageOf die)).atPoint d .bank (weirBankNo w) 0 cid 1
  else s

/-- The bank does not take an operation yet: its order gate or the full log holds it (R340, R376). -/
def State.bankHolds (s : State) (w : Weir) (cid : BitVec 16) : Bool :=
  weirOk w && (s.pointsHeld cid [(weirDie w, .bank, weirBankNo w)]).isSome

/-- What a held operation leaves: with a full log, later accesses wait behind it (R376). -/
def State.bankWaits (s : State) (w : Weir) (cid : BitVec 16) : State := s.blockPoint (weirDie w) .bank (weirBankNo w) 0 cid

/-- A bank's contents replaced; one that keeps nothing is not listed. -/
def State.setBank (s : State) (d : Nat) (b : WeirBank) : State :=
  s.onDie d fun x =>
    let rest := x.weirs.filter fun y => y.home != b.home
    { x with weirs := if b.bound.isEmpty && b.prov.isEmpty then rest else rest ++ [b] }

/-- The kill notice of a slot (R212). -/
def State.notify (s : State) (uid home slot : Nat) : State :=
  s.onFlight fun f => { f with notices := f.notices ++ [{ uid := uid, home := home, slot := slot }] }

/-- Notices to the crews bound to the non-arrived slots, whose provisional values and bindings go (R210, R291, R293). -/
def State.dropLate (s : State) (die d : Nat) (record : W64) : State :=
  let w := s.weirAt die record
  let home := s.weirHome die record
  let b := s.bank d home
  let s1 := b.bound.foldl (fun t p => if weirHas w p.1 then t else t.notify p.2 home p.1) s
  let s2 := s1.setBank d { b with bound := b.bound.filter fun p => weirHas w p.1
                                  prov := b.prov.filter fun p => weirHas w p.slot }
  s2.setSysBy d die (record + 48) (w.word 6 &&& (w.word 6 >>> 32 ||| (0xFFFFFFFF#64 <<< 32)))

/-- Zero in every byte of the non-arrived slots (R291, R293). -/
def State.clearLate (s : State) (d : Nat) (w : Weir) : State :=
  (List.range (weirExpected w)).foldl (fun t j =>
    if weirHas w j then t else t.engineBytes d (.chip (weirSlot w j)) (List.replicate (weirSlotLen w) 0)) s

/-! ## Release (R291) -/

/-- A fault record that names no crew, with the home bank in POFF (R291, R347). -/
def State.bankRecord (s : State) (d : Nat) (w : Weir) (cause detail : Nat) (infos : List W64) : State :=
  s.record d (noCrewOrigin d 0 0 cause detail (weirBankNo w)) false false infos

/-- The places of a span on path 0x00 or a basin, through the latched root of a die. -/
def State.sysSpan (s : State) (d : Nat) (a : W64) (n : Nat) : Except Nat (List (Place × Nat)) :=
  (spanParts a n).mapM fun p =>
    match s.sysPlace (s.die d).regs.latchedRoot false p.1 with
    | .ok q => .ok (q, p.2)
    | .error e => .error e

/-- The bytes of one contributor, with their marks. -/
structure SlotData where
  weight : Nat
  bytes : List Byte
  marks : List Bool
  deriving DecidableEq, Repr

def State.chipData (s : State) (weight key n : Nat) : SlotData :=
  { weight := weight, bytes := (List.range n).map fun i => s.cell (key + i)
    marks := (List.range n).map fun i => s.marked (key + i) }

/-- A fallback slot read (R291): one whose read fails is recorded and contributes nothing; a marked word is consumed. -/
def State.fallbackData (s : State) (d : Nat) (record : W64) (w : Weir) (j : Nat) : State × Option SlotData :=
  let a := weirFallback w + BitVec.ofNat 64 (weirSlotLen w * j)
  match s.sysSpan d a (weirSlotLen w) with
  | .error e => (s.bankRecord d w 6 e [a, record], none)
  | .ok ps =>
    let ms := ps.flatMap fun p => (List.range p.2).map fun i => s.homeMarked (p.1.plus i) 1
    (if ms.any id then s.bankRecord d w 15 2 [a] else s,
     some { weight := weirWeight w j, bytes := ps.flatMap fun p => bytesOfNat p.2 (s.homeRead p.1 p.2), marks := ms })

/-- The fallback slots of the non-arrived contributors. -/
def State.fallbacks (s : State) (d : Nat) (record : W64) (w : Weir) : List Nat → State × List SlotData
  | [] => (s, [])
  | j :: rest =>
    let x := s.fallbackData d record w j
    let y := x.1.fallbacks d record w rest
    (y.1, x.2.toList ++ y.2)

/-- The contributors of a release: the arrived slots, and the fallback or previous values that FILL adds (R291). -/
def State.contributors (s : State) (d : Nat) (record : W64) (w : Weir) : State × List SlotData :=
  let all := List.range (weirExpected w)
  let n := weirSlotLen w
  let here := (all.filter (weirHas w)).map fun j => s.chipData (weirWeight w j) (weirSlot w j) n
  let late := all.filter fun j => !weirHas w j
  if weirFill w = 2 then
    let f := s.fallbacks d record w late
    (f.1, here ++ f.2)
  else if weirFill w = 3 then (s, here ++ late.map fun j => s.chipData (weirWeight w j) (weirPrevious w j) n)
  else (s, here)

/-- The exact weighted sum of element k. -/
def weightedSum (t : ElemTy) (xs : List SlotData) (k : Nat) : XReal :=
  let b := t.width / 8
  let fms := Vector.replicate 16 (0x10000#32)
  sumExact false (xs.map fun x => (XReal.ofInt x.weight).mul (t.value fms (natOfBytes ((x.bytes.drop (b * k)).take b))))

/-- An element of the result, under RNE without saturation; integers are clamped (R291). -/
def weirFit (t : ElemTy) (v : XReal) : Nat :=
  match t.fmt (Vector.replicate 16 (0x10000#32)) with
  | some f => f.round .rne false v
  | none => toIntCode .rne t.isSigned t.width v

/-- Element k of the result under the fill rule (R291). -/
def weirElement (w : Weir) (t : ElemTy) (xs : List SlotData) (k : Nat) : Nat :=
  let v := weightedSum t xs k
  if weirFill w = 1 then
    if weirAweight w = 0 then 0
    else weirFit t ((v.mul (.ofInt (weirTotal w))).div (.ofInt (weirAweight w)))
  else weirFit t v

/-- The result area's bytes and marks. -/
def weirResultBytes (w : Weir) (t : ElemTy) (xs : List SlotData) : List Byte × List Bool :=
  let b := t.width / 8
  let ks := List.range (weirSlotLen w / b)
  (ks.flatMap fun k => bytesOfNat b (weirElement w t xs k),
   ks.flatMap fun k => List.replicate b (xs.any fun x => ((x.marks.drop (b * k)).take b).any id))

/-- The cells of a weir's slots, which the home bank reads at a release. -/
def weirCells (w : Weir) : List Nat :=
  (List.range (weirExpected w * weirSlotLen w)).map ((weirSlotBase w).toNat + ·)

/-- Release() of R291 begins: the weir is fired, what belongs to the non-arrived slots is dropped, and the combine runs; its
result is written a line at the end of each cycle (log 30). -/
def State.weirRelease (s : State) (die : Nat) (record : W64) : State :=
  let w := s.weirAt die record
  let d := weirDie w
  let s1 := (s.setWeirState die record 2).dropLate die d record
  let c := (s1.mergeStamps d (weirCells w)).contributors d record w
  let r := weirResultBytes w ((weirType w).getD (.ieee 2)) c.2
  let here := (List.range (weirExpected w)).filter (weirHas w)
  let keeps := if weirFill w = 3 then
                 here.map fun j =>
                   let x := s1.chipData 0 (weirSlot w j) (weirSlotLen w)
                   (weirPrevious w j, x.bytes, x.marks)
               else []
  c.1.onFlight fun f =>
    { f with releases := f.releases ++ [{ die := die, record := record, home := s.weirHome die record, result := r.1
                                          marks := r.2, off := 0, previous := keeps }] }

/-- The next 128 bytes of a release's result are written to the result area. -/
def State.writeResult (s : State) (x : WeirRelease) : State :=
  let w := s.weirAt x.die x.record
  let n := min 128 (x.result.length - x.off)
  s.landSpan (weirDie w) [(.chip (weirResult w + x.off), n)] ((x.result.drop x.off).take n) ((x.marks.drop x.off).take n)

/-- A release ends: the arrived slots go to their previous-value areas, the others are cleared, the weir is done and SUCC gets
its token (R291). -/
def State.endRelease (s : State) (x : WeirRelease) : State :=
  let w := s.weirAt x.die x.record
  let d := weirDie w
  let s1 := x.previous.foldl (fun t p => t.landSpan d [(.chip p.1, p.2.1.length)] p.2.1 p.2.2) s
  let s2 := (s1.clearLate d w).setWeirState x.die x.record 3
  if weirSucc w = 0 then s2
  else s2.post { agent := none, writer := d, node := weirSucc w, die := x.die, count := 1, op := none, dest := none
                 pred := x.record, answer := none }

/-- A cycle of the combines that run: each writes a line of its result, and one whose result is written ends (R291, log 30). -/
def State.combineTurn (s : State) : State :=
  let due := s.flight.releases
  let s1 := due.foldl (fun t x => if x.off < x.result.length then t.writeResult x else t.endRelease x) s
  s1.onFlight fun f =>
    { f with releases := (due.filter fun x => x.off < x.result.length).map fun x => { x with off := x.off + 128 } }

/-! ## Loss of quorum (R293) -/

/-- The weir is poisoned, and faults under its own POLICY with SUCC as its only successor (R293). -/
def State.weirLose (s : State) (die : Nat) (record : W64) : State :=
  let w := s.weirAt die record
  let d := weirDie w
  let s1 := ((s.setWeirState die record 7).dropLate die d record).clearLate d w
  let s2 := s1.bankRecord d w 18 0 [record]
  let succ := if weirSucc w = 0 then [] else [weirSucc w]
  s2.addWalk (s.nodeHome record die) die succ (noCrewOrigin d 0 0 18 0 (weirBankNo w)) (weirPolicy w)

/-- The quorum test of R290; an idle weir tests only the loss. -/
def State.testQuorum (s : State) (die : Nat) (record : W64) : State :=
  let w := s.weirAt die record
  if weirState w = 1 && weirQnum w * weirExpected w ≤ weirArrived w * weirQden w then s.weirRelease die record
  else if (weirExpected w - weirPoisoned w) * weirQden w < weirQnum w * weirExpected w then s.weirLose die record
  else s

/-- CountPoisoned of R287: an idle or an armed weir counts one poisoned contributor. -/
def State.countPoisoned (s : State) (die : Nat) (record : W64) : State :=
  let w := s.weirAt die record
  if !weirOk w || 1 < weirState w then s
  else
    (s.setSysBy (weirDie w) die record
      (weirWord0 w (weirState w) (weirArrived w) (min 32 (weirPoisoned w + 1)) (weirAweight w))).testQuorum die record

/-! ## Binding (R209, R290, R292) -/

/-- A crew of another identity that still lives is bound to a slot. -/
def State.boundElsewhere (s : State) (b : WeirBank) (slot uid : Nat) : Bool :=
  b.bound.any fun p => p.1 = slot && p.2 != uid && (s.anyCrew p.2).isSome

/-- A weir is armed by the first binding that reaches it while it is idle (R290). -/
def State.armWeir (s : State) (die : Nat) (record : W64) (slot uid : Nat) : State :=
  let w := s.weirAt die record
  let s1 := s.setSysBy (weirDie w) die record (weirWord0 w 1 0 (weirPoisoned w) 0)
  let s2 := s1.setSysBy (weirDie w) die (record + 48) (1#64 <<< slot)
  (s2.setBank (weirDie w) { home := s.weirHome die record, bound := [(slot, uid)], prov := [] }).testQuorum die record

/-- A binding at the home bank, or the detail that refuses it (R209). -/
def State.bindAt (s : State) (die : Nat) (record : W64) (slot uid : Nat) : Except Nat State :=
  let w := s.weirAt die record
  let d := weirDie w
  let b := s.bank d (s.weirHome die record)
  if !weirOk w then .error 2
  else if weirExpected w ≤ slot then .error 3
  else if weirState w = 0 then .ok (s.armWeir die record slot uid)
  else if weirHas w slot || s.boundElsewhere b slot uid then .error 4
  else if weirState w = 1 then
    .ok ((s.setBank d { b with bound := (b.bound.filter fun p => p.1 != slot) ++ [(slot, uid)] }).setSysBy d die (record + 48)
      (w.word 6 ||| (1#64 <<< slot)))
  else if weirState w = 2 || weirState w = 3 then .ok (s.notify uid (s.weirHome die record) slot)
  else .ok s

/-- The crew is bound to this slot of the weir whose record lies at an address. -/
def Crew.boundTo (c : Crew) (home slot : Nat) : Bool :=
  match c.weir with
  | some b => b.home = home && b.slot = slot
  | none => false

/-- A crew that a refusal leaves unbound: its writes on the way are plain stores (R209). -/
def State.refuseBinding (s : State) (die uid home slot : Nat) : State :=
  let mine (p : ProvWrite) : Bool := p.uid = uid && p.home = home && p.slot = slot
  let s1 := (s.flight.provs.filter mine).foldl (fun t p => t.landSpan die [(.chip p.key, p.bytes.length)] p.bytes p.marks) s
  let s2 := s1.onFlight fun f => { f with provs := f.provs.filter fun p => !mine p }
  s2.onCrew uid fun c => if c.boundTo home slot then { c with weir := none } else c

/-- A value that the spec leaves open arrives in a register (log 8). -/
def State.deliverFree (s : State) (uid : Nat) (d : BitVec 8) : State :=
  { s with free := s.free + 1 }.onCrew uid fun c => c.deliver d (Config.freeWord s.free)

/-- An operation on a weir that ends in an error: it is reported, and the operation completes with it (R206, R211). -/
def State.weirError (s : State) (m : WeirMsg) (detail : Nat) : State :=
  let s1 := s.agentRecord m.agent 12 detail [m.record, BitVec.ofNat 64 m.slot]
  match m.agent.uid with
  | none => s1
  | some u =>
    match m.op with
    | some o => (s1.deliverFree u m.dest).finishOp o true
    | none => s1.onCrew u fun c => c.setErr .wg

/-- A JADD enters the queue of its core's weir copy unit (R211). -/
def State.queueWeirCopy (s : State) (m : WeirMsg) (src : W64) : State :=
  let w := s.weirAt m.agent.place.die m.record
  match m.op with
  | none => s
  | some o =>
    let j : WeirCopy :=
      { op := o, agent := m.agent, record := m.record, home := m.home, slot := m.slot, dest := m.dest, src := src
        dst := BitVec.ofNat 64 (weirSlot w m.slot), len := weirSlotLen w, off := 0 }
    s.onCore m.agent.place.die m.agent.place.core fun k => { k with weirCopies := k.weirCopies ++ [j] }

/-- An operation on a weir goes on once its crew is bound. -/
def State.weirGoes (s : State) (m : WeirMsg) : State :=
  match m.kind with
  | .killpt => s
  | .jadd src => s.queueWeirCopy m src
  | .warrive => s.onFlight fun f => { f with arrived := f.arrived ++ [m] }

/-- The binding that a message on its way stands for. -/
def WeirMsg.binding (m : WeirMsg) : WeirBinding := { record := m.record, home := m.home, slot := m.slot, notice := false }

/-- A binding reaches a weir's home bank (R209, R292). -/
def execWeirBind (n : Nat) (s : State) : Host.Outcome State Fault Refusal :=
  match s.flight.weirs[n]? with
  | none => .next s
  | some m =>
    let u := m.agent.uid.getD 0
    let die := m.agent.place.die
    let w := s.weirAt die m.record
    if (s.flight.weirs.take n).any fun x => x.agent.isCrew u then .next s
    else if s.bankHolds w m.agent.cid then .next (s.bankWaits w m.agent.cid)
    else
      let s1 := (s.onFlight fun f => { f with weirs := f.weirs.eraseIdx n }).reachBank die w m.agent.cid
      match s1.bindAt die m.record m.slot u with
      | .error d => .next ((s1.refuseBinding die u m.home m.slot).weirError m d)
      | .ok s2 =>
        let s3 := s2.onCrew u fun c => if c.weir.isNone then { c with weir := some m.binding } else c
        .next (s3.weirGoes m)

/-! ## KILLPT, JADD and WARRIVE (R209, R211, R212) -/

/-- The checks on the record and the slot: a crew bound to another weir or slot faults (R209). -/
def State.weirCheck (s : State) (c : Crew) (record slot : W64) : Eff Unit := do
  s.nodeCheck c .atomic record
  if c.weir.isSome && !c.boundTo (s.weirHome c.place.die record) slot.toNat then graphFault 4 record slot

/-- The operation sets off: at once when the crew is known to be bound, else with a binding before it (R209). -/
def State.weirSend (s : State) (c : Crew) (m : WeirMsg) : State × Crew :=
  if c.weir.isSome && !(s.flight.weirs.any fun x => x.agent.isCrew c.uid) then (s.weirGoes m, c)
  else
    (s.onFlight fun f => { f with weirs := f.weirs ++ [m] },
     if c.weir.isNone then { c with weir := some m.binding } else c)

/-- Binds the crew when it is unbound, then tests its kill notice (R212). -/
def execKillpt (w : RegForm) (s : State) : Host.Outcome State Fault Refusal :=
  crewInstr w.guard s fun s c => do
    let record := c.sreg w.a
    let slot := c.sreg w.b
    s.weirCheck c record slot
    let s1 := s.noteAddr c record
    if (c.weir.map WeirBinding.notice).getD false then
      .ok (s1.endCrew { c with live := 0, cur := 0 } .killPoint)
    else if c.weir.isSome then .ok (s1.putCrew c.advance)
    else
      let r := s1.weirSend c { kind := .killpt, agent := c.agent, record := record, home := s.weirHome c.place.die record, slot := slot.toNat, op := none, dest := 0 }
      .ok (r.1.putCrew r.2.advance)

/-- The first chunk of a JADD's source is checked at issue, when the record gives its length (R211). -/
def State.jaddCheck (s : State) (c : Crew) (record slot src : W64) : Eff Unit :=
  let w := s.weirAt c.place.die record
  if weirOk w && slot.toNat < weirExpected w then do
    let _ ← checkFirst (s.spanPlaces c.accessor .read src (min 4096 (weirSlotLen w)))
    .ok ()
  else .ok ()

/-- Copies s[c] into the slot's storage and then registers the arrival (R211). -/
def execJadd (w : RegForm) (s : State) : Host.Outcome State Fault Refusal :=
  crewInstr w.guard s fun s c => do
    roomFor c .wg
    let record := c.sreg w.a
    let slot := c.sreg w.b
    s.weirCheck c record slot
    s.jaddCheck c record slot (c.sreg w.c)
    let m : WeirMsg :=
      { kind := .jadd (c.sreg w.c), agent := c.agent, record := record, home := s.weirHome c.place.die record
        slot := slot.toNat, op := some c.nextOp, dest := w.d }
    let r := (s.noteAddr c record).weirSend c m
    .ok (r.1.putCrew ((r.2.addOp .wg false false).await w.d).advance)

/-- Registers the arrival with no data (R211). -/
def execWarrive (w : RegForm) (s : State) : Host.Outcome State Fault Refusal :=
  crewInstr w.guard s fun s c => do
    roomFor c .wg
    let record := c.sreg w.a
    let slot := c.sreg w.b
    s.weirCheck c record slot
    let m : WeirMsg :=
      { kind := .warrive, agent := c.agent, record := record, home := s.weirHome c.place.die record, slot := slot.toNat, op := some c.nextOp, dest := w.d }
    let r := (s.noteAddr c record).weirSend c m
    .ok (r.1.putCrew ((r.2.addOp .wg false false).await w.d).advance)

/-! ## Provisional values (R210) -/

/-- Bytes reach the bank as provisional values of a slot; after the release, or a loss, they are discarded (R210). -/
def State.bankWrite (s : State) (die : Nat) (record : W64) (slot key : Nat) (bs : List Byte) (ms : List Bool) : State :=
  let w := s.weirAt die record
  let d := weirDie w
  let b := s.bank d (s.weirHome die record)
  if weirState w != 1 || weirHas w slot then s
  else
    let fresh : List ProvByte :=
      bs.zipIdx.map fun p => { slot := slot, key := key + p.2, value := p.1, marked := (ms[p.2]?).getD false }
    s.setBank d { b with prov := (b.prov.filter fun p => !(p.slot = slot && key ≤ p.key && p.key < key + bs.length)) ++ fresh }

/-- A bound crew's write to its weir's window reaches the bank (R210). -/
def execProvisionalWrite (n : Nat) (s : State) : Host.Outcome State Fault Refusal :=
  match s.flight.provs[n]? with
  | none => .next s
  | some p =>
    if ((s.flight.provs.take n).any fun q => q.uid = p.uid) || (s.flight.weirs.any fun m => m.agent.isCrew p.uid) then .next s
    else
      let die := ((s.anyCrew p.uid).map fun c => c.place.die).getD ((s.weirBankDie p.home).getD 0)
      let s1 := s.onFlight fun f => { f with provs := f.provs.eraseIdx n }
      .next (s1.bankWrite die p.record p.slot p.key p.bytes p.marks)

/-! ## The weir copy unit (R211) -/

/-- The weir copy unit of a core runs one chunk of the copy at its head (R211). -/
def execWeirCopyChunk (die core : Nat) (s : State) : Host.Outcome State Fault Refusal :=
  match (s.core die core).weirCopies with
  | [] => .next s
  | j :: rest =>
    if s.coreStopped die core then .next s
    else
      let n := min 4096 (j.len - j.off)
      let src := j.src + BitVec.ofNat 64 j.off
      let u := j.agent.uid.getD 0
      let pop (t : State) (js : List WeirCopy) : State := t.onCore die core fun k => { k with weirCopies := js }
      match s.spanPlaces j.agent.accessor .read src n with
      | .error e =>
        let s1 := s.agentFault j.agent e.1 [e.2, j.src, j.dst, BitVec.ofNat 64 j.len]
        .next (((pop s1 rest).deliverFree u j.dest).finishOp j.op true)
      | .ok ps =>
        let to_ := [(Place.chip (j.dst.toNat + j.off), n)]
        if s.spanHeld j.agent.cid (ps ++ to_) then .next (s.spanWaits j.agent.cid (ps ++ to_))
        else
        let ms := s.spanMarks die ps
        let s1 := ((s.observeSpan die ps).bankWrite die j.record j.slot (j.dst.toNat + j.off) (s.spanBytes die ps) ms).spanServed
          j.agent.cid (ps ++ to_)
        let s2 := if ms.any id then s1.onCrew u fun c => c.setErr .wc else s1
        if j.off + n < j.len then .next (pop s2 ({ j with off := j.off + n } :: rest))
        else
          .next ((pop s2 rest).onFlight fun f =>
            { f with arrived := f.arrived ++ [{ kind := .jadd j.src, agent := j.agent, record := j.record, home := j.home, slot := j.slot
                                                op := some j.op, dest := j.dest }] })

/-! ## Arrival (R211) -/

/-- The provisional values of a slot become committed, under the clock of their crew's die (R210, R320). -/
def State.commitSlot (s : State) (die d home slot : Nat) : State :=
  let b := s.bank d home
  let mine := b.prov.filter fun p => p.slot = slot
  let s1 := mine.foldl (fun t p => t.engineBytes die (.chip p.key) [p.value]) s
  let whole := mine.foldl (fun t p => if (List.range 8).all fun i => mine.any fun q => q.key = p.key / 8 * 8 + i
                                      then t.clearMark p.key else t) s1
  let s2 := mine.foldl (fun t p => if p.marked then t.setMark p.key else t) whole
  s2.setBank d { b with prov := b.prov.filter fun p => p.slot != slot }

/-- A slot's binding at the bank ends (R209). -/
def State.endBinding (s : State) (die d : Nat) (m : WeirMsg) (uid : Nat) : State :=
  let b := s.bank d m.home
  let s1 := if b.bound.any fun p => p.1 = m.slot && p.2 = uid then
              (s.setBank d { b with bound := b.bound.filter fun p => p.1 != m.slot }).setSysBy d die (m.record + 48)
                (s.sys64 die (m.record + 48) &&& ~~~(1#64 <<< m.slot))
            else s
  s1.onCrew uid fun c => if c.boundTo m.home m.slot then { c with weir := none } else c

/-- An arrival is counted at an armed weir, and the quorum is tested (R211, R290). -/
def State.countArrival (s : State) (die : Nat) (record : W64) (slot : Nat) : State :=
  let d := weirDie (s.weirAt die record)
  let s1 := s.commitSlot die d (s.weirHome die record) slot
  let w := s1.weirAt die record
  let s2 := s1.setSysBy d die record
    (weirWord0 w 1 (weirArrived w + 1) (weirPoisoned w) (weirAweight w + weirWeight w slot))
  s2.setSysBy d die (record + 48) (w.word 6 ||| (1#64 <<< (32 + slot)))

/-- The status of an arrival at the home bank, or the detail of its error (R211). -/
def State.arriveAt (s : State) (die : Nat) (record : W64) (slot uid : Nat) : Except Nat (Nat × State) :=
  let w := s.weirAt die record
  if !weirOk w then .error 2
  else if weirExpected w ≤ slot then .error 3
  else if weirHas w slot || s.boundElsewhere (s.bank (weirDie w) (s.weirHome die record)) slot uid then .error 4
  else if weirState w = 2 || weirState w = 3 then .ok (1, s)
  else if weirState w != 1 then .ok (2, s)
  else .ok (0, s.countArrival die record slot)

/-- The release at .pkg that comes before an arrival (R211): its crew's, or for a crew that has ended since, of its stores (R197). -/
def State.arrivalRelease (s : State) (die uid : Nat) : State × Bool :=
  match s.findCrew uid with
  | none => (s.releaseAs die uid 4, false)
  | some c => ((s.release c 4).putCrew (c.released 4), c.releaseErr 4)

/-- An arrival reaches a weir's home bank, after every earlier write of its crew (R211). -/
def execWeirArrival (n : Nat) (s : State) : Host.Outcome State Fault Refusal :=
  match s.flight.arrived[n]? with
  | none => .next s
  | some m =>
    let u := m.agent.uid.getD 0
    let die := m.agent.place.die
    let w := s.weirAt die m.record
    if ((s.flight.arrived.take n).any fun x => x.agent.isCrew u) || (s.flight.provs.any fun p => p.uid = u) then .next s
    else if s.bankHolds w m.agent.cid then .next (s.bankWaits w m.agent.cid)
    else
      let r := (s.onFlight fun f => { f with arrived := f.arrived.eraseIdx n }).arrivalRelease die u
      let t := r.1.reachBank die (r.1.weirAt die m.record) m.agent.cid
      let d := weirDie (t.weirAt die m.record)
      match t.arriveAt die m.record m.slot u with
      | .error e => .next ((t.endBinding die d m u).weirError m e)
      | .ok x =>
        let s1 := x.2.endBinding die d m u
        let s2 := s1.onCrew u fun c => c.deliver m.dest (BitVec.ofNat 64 x.1)
        let s3 := s2.finishOp? m.op r.2
        .next (if x.1 = 0 then s3.testQuorum die m.record else s3)

/-- A kill notice reaches its crew (R212). -/
def execKillNoticeArrival (n : Nat) (s : State) : Host.Outcome State Fault Refusal :=
  match s.flight.notices[n]? with
  | none => .next s
  | some k =>
    let s1 := s.onFlight fun f => { f with notices := f.notices.eraseIdx n }
    .next (s1.onCrew k.uid fun c =>
      { c with weir := c.weir.map fun b => if b.home = k.home && b.slot = k.slot then { b with notice := true } else b })

/-! ## What a walk through a fault cone takes from a node (R287) -/

/-- A queued or held launch of a node is discarded (R287). -/
def State.dropLaunch (s : State) (node : W64) : State :=
  let s1 := s.onIo fun io =>
    { io with queues := mapVec (fun q => { q with pend := q.pend.filter fun l => l.node != node }) io.queues }
  { s1 with dies := mapVec (fun x => { x with heldRetries := x.heldRetries.filter fun h => h.node != node }) s1.dies }

end Sys2Proof.Machine
end

