-- ==== Sys2Proof/Machine/Collector.lean ====
section
/-! DEFINITION. The collector of a die: pre-emption, flush, debug stop, and restore (R189, R251, R354, R355, R359 to R362, R371
to R373); the walk through a fault cone, which asks it for flushes (R287, R288). -/

namespace Sys2Proof.Machine

/-! ## Requests (R355) -/

/-- The KIND code of PRESTAT. -/
def CollectKind.code : CollectKind → Nat
  | .preempt => 1
  | .flush k => k
  | .stop _ _ => 0

def CollectKind.isStop (k : CollectKind) : Bool :=
  match k with
  | .stop _ _ => true
  | _ => false

/-- BUSY of PRESTAT: a pre-emption or a flush is in progress. A debug stop leaves it 0, since R373 lets requests meet one. -/
def Die.busy (x : Die) : Bool := (x.collector.toList ++ x.collectQueue).any fun q => !q.kind.isStop

/-- PRESTAT shows a request; one that is refused sets ERR, one that is complete DONE. -/
def State.showRequest (s : State) (die : Nat) (q : Collect) (err done : Bool) : State :=
  if q.kind.isStop then s
  else s.onDie die fun x =>
    { x with regs := { x.regs with statRegion := q.region, statKind := q.kind.code, preErr := x.regs.preErr || err
                                   preDone := x.regs.preDone || done } }

/-- The crews on a region's cores. -/
def State.regionCrews (s : State) (die : Nat) (r : Region) : List Crew := r.cores.flatMap fun c => (s.core die c).crews

def State.setPhase (s : State) (die region : Nat) (p : RegionPhase) : State :=
  s.onRegion die region fun r => { r with phase := p }

/-- A proxy token for every tied crew of a list (R362). -/
def State.proxyAll (s : State) (cs : List Crew) (absent : Bool) : State := cs.foldl (fun t c => t.proxyToken c absent) s

/-- The collector takes a request up. -/
def State.engage (s : State) (die : Nat) (q : Collect) : State :=
  s.onDie die fun x => { x with collector := some q, regs := { x.regs with ack := 0 } }

/-! ## Pre-emption (R354, R355) -/

/-- A pre-emption starts, or is refused: the region is not resident, is stopping, or its save area does not fit. -/
def State.startPreempt (s : State) (die : Nat) (q : Collect) : State :=
  match (s.die die).region q.region with
  | none => s.showRequest die q true false
  | some r =>
    if r.phase != .running || (s.die die).regs.saveStride.toNat < r.saveBytes then s.showRequest die q true false
    else
      (((s.setPhase die q.region .preempting).proxyAll (s.regionCrews die r) true).engage die q).showRequest die q false false

/-! ## Debug stop (R371) -/

/-- A kind-4 record: 1 BRK taken, 2 DBGSTOP request, 3 stopped, 4 abandoned (R366). -/
def State.stopRecord (s : State) (die : Nat) (n : Naming) (b : Nat) : State := s.trace die 4 n 0 (BitVec.ofNat 64 b) 0 0

def Region.naming (r : Region) : Naming := { region := r.cfg.num, version := r.cfg.version, handler := 0, poff := 0 }

/-- A stop is taken up: the record of its request is written, handlers and locks stop, and crews go on to their boundaries. It is
refused where the region's save area does not fit (R356, R371); a region that was to make a single step then runs on (log 65). -/
def State.startStop (s : State) (die : Nat) (q : Collect) (n : Naming) (b : Nat) : State :=
  match (s.die die).region q.region with
  | none => s
  | some r =>
    if (s.die die).regs.saveStride.toNat < r.saveBytes then
      (if r.phase = .stopping then s.setPhase die q.region .running else s).onDie die fun x =>
        { x with regs := { x.regs with preErr := true } }
    else ((if b = 0 then s else s.stopRecord die n b).setPhase die q.region .stopping).engage die q

/-- A stop is abandoned: handlers and locks resume, FAILED is set, and a kind-4 record is written (R371, R373). -/
def State.abandonStop (s : State) (die : Nat) (r : Region) : State :=
  let s1 := s.setPhase die r.cfg.num .running
  let s2 := (s.regionCrews die r).foldl (fun t c => t.onCrew c.uid fun y => { y with stepLeft := false }) s1
  let s3 := s2.onDie die fun x =>
    { x with collector := x.collector.filter (fun q => !(q.kind.isStop && q.region = r.cfg.num))
             dbg := { x.dbg with stopFailed := true } }
  s3.stopRecord die r.naming 4

/-! ## Flush (R360) -/

/-- A copy with a chunk in flight runs to the boundary of the chunk and ends there with an error (R354). -/
def CopyJob.lastChunk (j : CopyJob) : Option CopyJob := j.chunk.map fun x => { j with len := j.off + x.bytes.length, bad := true }

/-- The tokens and the work of a channel end: a tile's barges are discarded, copies that have not started end with an error, and
one that runs stops at its chunk. -/
def State.flushChan (s : State) (die core region kind n : Nat) : State :=
  let x := s.chan die core n
  let s1 := x.tokens.foldl (fun t k =>
    match k with
    | .firing lock _ _ records _ _ => records.foldl (fun u i => u.discardBarge die region lock kind i) t
    | .start _ _ => t) s
  let going := (x.jobs.take 1).filterMap CopyJob.lastChunk
  let s2 := (x.jobs.drop going.length).foldl (fun t j => t.finishOp? j.op true) s1
  s2.onChan die core n fun y => { y with jobs := going, tokens := [], rows := [] }

/-- A stream engine goes to DONE. -/
def State.flushStream (s : State) (die core e : Nat) : State :=
  let x := s.stream die core e
  let s1 := (x.tails.flatMap StreamTail.stops).foldl (fun t r => t.finishOp r true) s
  s1.onStream die core e fun y =>
    { y with state := if y.state = .ready || y.state = .running then .done else y.state, rows := [], tails := [] }

/-- An MMA in flight runs to the end of its chunk and no further. -/
def MmaRun.lastChunk (r : MmaRun) : MmaRun :=
  match r.entry.cmd with
  | .mma x => { r with entry := { r.entry with cmd := .mma { x with k := min x.k (256 * (x.chunk + 1)) } } }
  | _ => r

/-- The MMA in flight has run no group of its chunk: it stands at a chunk boundary. -/
def MmaRun.atBoundary (r : MmaRun) : Bool := r.group = 0 && !r.half && !r.rerun

/-- The matrix engine's commands that have not started end with an error, and the drain port is emptied. -/
def State.flushMatrix (s : State) (die core : Nat) : State :=
  let m := s.matrix die core
  let waiting := m.running.toList.filterMap fun r => if r.atBoundary then some r.entry else none
  let s1 := (m.queue ++ m.drainActive.toList ++ m.drainPending.toList ++ waiting).foldl (fun t e => t.finishOp e.op true) s
  s1.onMatrix die core fun y =>
    { y with
      queue := [], drainActive := none, drainPending := none, drainRows := []
      running := (y.running.filter fun r => !r.atBoundary).map MmaRun.lastChunk }

/-- The engines of a core under a flush. -/
def State.flushCore (s : State) (die core region kind : Nat) : State :=
  let s1 := (List.range 16).foldl (fun t n => t.flushChan die core region kind n) s
  let s2 := (List.range 8).foldl (fun t e => t.flushStream die core e) s1
  let s3 := (s2.core die core).weirCopies.foldl (fun t j => (t.deliverFree (j.agent.uid.getD 0) j.dest).finishOp j.op true) s2
  (s3.onCore die core fun k => { k with weirCopies := [] }).flushMatrix die core

/-- A crew waits before the issue of its word. -/
def Crew.stallsAt (c : Crew) (s : State) (guard : BitVec 5) (body : State → Crew → Eff State) : Bool :=
  !guardFalse guard c && (match body s c with
                          | .error .stall => true
                          | _ => false)

/-- A stalled word is released by an injected EXIT: WERR.FLUSHED is set, and s[d] takes what the word's rule gives. -/
def Crew.releasedWith (c : Crew) (stalls : Bool) (d : BitVec 8) (v : W64) : Crew :=
  if stalls then (c.setFlushed.setS d v).advance else c

/-- The status 2 that a flush gives a waiting barrier instruction; XBAR's result also holds the generation joined, a free value
where no reply has named it to this die (R194, R215, log 8). -/
def Crew.flushStatus (c : Crew) (free : W64) : W64 :=
  match c.wait.map PendingWait.wait with
  | some (.xbar _ _ g) => (g.getD (free.extractLsb' 0 16)) ++ 2#48
  | _ => 2

/-- A crew stalled in WAIT, CHWAIT, BOARD or a barrier as the injection of an EXIT releases it: a WAIT completes as R102
states it, CHWAIT reads its channel, a BOARD and a barrier give status 2 (R102, R158, R194, R360). -/
def State.released (s : State) (c : Crew) : Crew :=
  if c.wait.isSome then (c.endWait (c.flushStatus (Config.freeWord s.free))).setFlushed
  else
    match s.nextInstr c with
    | .wait w => if !guardFalse w.guard c && c.waits w.fn (c.sreg w.a).toNat then c.setFlushed.endWaitWord w else c
    | .chwait w => c.releasedWith (c.stallsAt s w.guard (chwaitBody w)) w.d (s.chan c.place.die c.place.core (chanIndex w.a)).wp
    | .chwaitRows w =>
      c.releasedWith (c.stallsAt s w.guard (chwaitRowsBody w)) w.d (s.rowStatus c.place.die c.place.core (chanIndex w.a))
    | .board w => c.releasedWith (c.stallsAt s w.guard (boardBody w)) w.d 2
    | .boardNew w => c.releasedWith (c.stallsAt s w.guard (boardNewBody w)) w.d 2
    | .boardi w => c.releasedWith (c.stallsAt s w.guard (boardiBody w)) w.d 2
    | _ => c

/-- An EXIT injected at a running crew's next issue slot, after the release of what stalls it (R287, R360). -/
def State.flushCrew (s : State) (c : Crew) : State :=
  { s with free := s.free + 1 }.putCrew { s.released c with exitPending := true }

/-- The EXIT injected at the next issue slot of a task's crew (R287); a saved crew meets it after its restore. -/
def State.exitNode (s : State) (node : W64) : State :=
  let mine (c : Crew) : Bool := (c.launched.map Launched.node) == some node
  match s.allCrews.find? mine with
  | some c => s.flushCrew c
  | none =>
    match (s.dies.toList.flatMap fun x => x.saved.flatMap fun r => r.cores.flatMap fun k => k.berths.toList.filterMap id).find? mine with
    | some c =>
      { s with free := s.free + 1 }.onCrew c.uid fun y =>
        { (if y.wait.isSome then (y.endWait (y.flushStatus (Config.freeWord s.free))).setFlushed else y) with exitPending := true }
    | none => s

/-- The nodes bound to a region that a flush through PRECTL moves, each with its walk (R280, R347, R360). -/
def State.flushNodes (s : State) (die region : Nat) (version : BitVec 16) (kind : Nat) : State :=
  let origin := noCrewOrigin die region version 19 1 0
  (s.nodesOf die region).foldl (fun t n =>
    let w := t.sys64 die n
    if nodeState w = 2 || nodeState w = 4 then
      let t1 := (t.dropLaunch n).setSys64 die n (nodeWithState w (if kind = 2 then 6 else 7))
      let t2 := if kind = 3 then t1.setSys64 die (n + 24) origin else t1
      t2.startWalk die n origin (nodePolicy (t2.sys64 die (n + 8)))
    else t) s

/-- A cancelling node of a region that is freed becomes cancelled, or poisoned under policy 1 (R280). -/
def State.freedNodes (s : State) (die region : Nat) : State :=
  (s.nodesOf die region).foldl (fun t n =>
    if nodeState (t.sys64 die n) = 5 then (t.dropLaunch n).endCancelling die n else t) s

/-- The flush configuration on a resident region: its locks discard, its crews meet an EXIT, its engines end. -/
def State.flushResident (s : State) (die kind : Nat) (r : Region) : State :=
  let n := r.cfg.num
  let s1 := s.onRegion die n fun y =>
    { y with phase := .flushing kind, cfg := { y.cfg with locks := y.cfg.locks.map fun l => { l with discarding := some kind } } }
  let s2 := (s.regionCrews die r).foldl State.flushCrew s1
  r.cores.foldl (fun t c => t.flushCore die c n kind) s2

/-- A saved crew ends as a flush ends one, and its XBAR record sees it again (R360, R362). -/
def State.flushSavedCrew (s : State) (die kind : Nat) (c : Crew) : State :=
  let s1 := s.proxyToken c false
  let origin := c.origin 19 1
  let seq := s1.evseqOf die
  let s2 := if kind = 3 && c.heldRecords.length != 0 then s1.record die origin false false [] else s1
  s2.endContext { c with live := 0, cur := 0 } (.flushed kind origin seq)

/-- A saved context is discarded: its crews, the tiles in its channels and the slots of its locks (R360). -/
def State.flushSaved (s : State) (die kind : Nat) (r : SavedRegion) : State :=
  let n := r.region.cfg.num
  let crews := r.cores.flatMap fun k => k.berths.toList.filterMap id
  let s1 := crews.foldl (fun t c => t.flushSavedCrew die kind c) s
  let s2 := (r.cores.flatMap fun k => k.chans.toList.flatMap Channel.tokens).foldl (fun t k =>
    match k with
    | .firing lock _ _ records _ _ => records.foldl (fun u i => u.discardBarge die n lock kind i) t
    | .start _ _ => t) s1
  let s3 := r.region.cfg.locks.foldl (fun t l =>
    (l.slots.foldl (fun u x => u.discardBarge die n l.index kind x.record) t).writeLock die
      { (lockOf l.index l.recordAddr (t.sysWords die l.recordAddr 8)) with slots := [] }) s2
  s3.onDie die fun x =>
    { x with
      saved := x.saved.filter fun y => y.region.cfg.num != n
      parked := (x.parked.filter fun p => p.num != n) ++
        [{ r.region.cfg with locks := r.region.cfg.locks.map fun l => { l with slots := [] } }] }

def Die.savedRegion (x : Die) (n : Nat) : Option SavedRegion := x.saved.find? fun r => r.region.cfg.num = n

/-- The region holds the discarding state of a kind (R361). -/
def State.setDiscarding (s : State) (die region kind : Nat) : State :=
  s.onDie die fun x => { x with discarding := (x.discarding.filter fun p => p.1 != region) ++ [(region, kind)] }

/-- A flush starts (R360); on a stopping region it first abandons the stop (R373). A region that is neither resident nor
saved refuses it, unless a walk asks, whose node is then free to move (R280). -/
def State.startFlush (s : State) (die kind : Nat) (q : Collect) : State :=
  match (s.die die).region q.region with
  | some r =>
    let s0 := if r.phase = .stopping then s.abandonStop die r else s
    let s1 := if q.fromWalk then s0 else s0.flushNodes die q.region r.cfg.version kind
    ((s1.flushResident die kind r).engage die q).showRequest die q false false
  | none =>
    match (s.die die).savedRegion q.region with
    | some r =>
      let s1 := if q.fromWalk then s else s.flushNodes die q.region r.region.cfg.version kind
      (((s1.flushSaved die kind r).setDiscarding die q.region kind).engage die q).showRequest die q false false
    | none =>
      if q.fromWalk then ((s.freedNodes die q.region).setDiscarding die q.region kind).showRequest die q false true
      else s.showRequest die q true false

/-! ## One request at a time (R355) -/

def State.startRequest (s : State) (die : Nat) (q : Collect) : State :=
  match q.kind with
  | .preempt => s.startPreempt die q
  | .flush kind => s.startFlush die kind q
  | .stop b n => s.startStop die q n b

/-- A free collector takes the next request of its queue. -/
def State.collect (s : State) (die : Nat) : Nat → State
  | 0 => s
  | fuel + 1 =>
    let x := s.die die
    if x.collector.isSome then s
    else
      match x.collectQueue with
      | [] => s
      | q :: rest => ((s.onDie die fun y => { y with collectQueue := rest }).startRequest die q).collect die fuel

/-- The collector goes on to its queue. -/
def State.nextRequest (s : State) (die : Nat) : State := s.collect die (s.die die).collectQueue.length

/-- A request reaches the collector. A pre-emption of a region that is being flushed, or that a debug stop holds or wants, is
refused at once, and a flush of a stopping region runs at once (R355, R373). -/
def State.request (s : State) (die : Nat) (q : Collect) : State :=
  let x := s.die die
  let flushing := (x.collector.toList ++ x.collectQueue).any fun p =>
    p.region = q.region && (match p.kind with
                            | .flush _ => true
                            | _ => false)
  let stopping := match x.region q.region with
                  | some r => r.phase = .stopping
                  | none => false
  match q.kind with
  | .preempt =>
    if flushing || stopping then s.showRequest die q true false
    else (s.onDie die fun y => { y with collectQueue := y.collectQueue ++ [q] }).nextRequest die
  | .flush kind =>
    if stopping then s.startFlush die kind q
    else (s.onDie die fun y => { y with collectQueue := y.collectQueue ++ [q] }).nextRequest die
  | .stop _ _ => (s.onDie die fun y => { y with collectQueue := y.collectQueue ++ [q] }).nextRequest die

/-- The collector's request is complete; it goes on to the next. -/
def State.endRequest (s : State) (die : Nat) (q : Collect) : State :=
  ((s.showRequest die q false true).onDie die fun x => { x with collector := none }).nextRequest die

/-- A write of PRECTL with GO 1: it is not performed while BUSY is 1 or with KIND 0 (R355). -/
def State.go (s : State) (die region kind : Nat) : Option State :=
  if (s.die die).busy || kind = 0 then none
  else
    some ((s.onDie die fun x => { x with regs := { x.regs with preRegion := region, preKind := kind } }).request die
      { region := region, kind := if kind = 1 then .preempt else .flush kind, since := s.now, fromWalk := false })

/-- PRECTL starts the pre-emption of a region (R355). -/
def execPreempt (die region : Nat) (s : State) : Host.Outcome State Fault Refusal := .next ((s.go die region 1).getD s)

/-- PRECTL starts a flush that cancels (R360). -/
def execFlushCancel (die region : Nat) (s : State) : Host.Outcome State Fault Refusal := .next ((s.go die region 2).getD s)

/-- PRECTL starts a flush that poisons (R360). -/
def execFlushPoison (die region : Nat) (s : State) : Host.Outcome State Fault Refusal := .next ((s.go die region 3).getD s)

/-- An order point that holds a request of the region names in its current chunk a crew of a saved region, which the scheduler
restores first (R341). -/
def State.restoreFirst (s : State) (die region : Nat) : Bool :=
  let saved (d : Nat) : List Crew := (s.die d).saved.flatMap fun r => r.cores.flatMap fun k => k.berths.toList.filterMap id
  ((s.die die).crews.filter fun c => c.region = region).any fun c =>
    match c.begun with
    | .access d k p => (((s.recorderOf d).current k p).map fun h => (saved d).any fun y => y.cid = h.cid).getD false
    | _ => false

/-- The die's scheduler hands the collector a request to pre-empt a region (R355), unless it restores another one first (R341). -/
def execSchedulerPreemptionRequest (die region : Nat) (s : State) : Host.Outcome State Fault Refusal :=
  if s.restoreFirst die region then .next s
  else .next (s.request die { region := region, kind := .preempt, since := s.now, fromWalk := false })

/-! ## The walk through a fault cone (R287, R288) -/

/-- A node becomes cancelling under a walk's policy, which says how it ends (R280, R287). -/
def State.cancelNode (s : State) (die : Nat) (n w : W64) (pol : Nat) : State :=
  (s.setSys64 die n (nodeWithState w 5)).onDie (s.nodeHome n die) fun x =>
    { x with cancelling := (x.cancelling.filter fun p => p.1 != n) ++ [(n, pol)] }

/-- One visit of a walk (R287): the state after it, and whether the node's successors are visited. -/
def State.visit (s : State) (die : Nat) (n origin : W64) (pol : Nat) : State × Bool :=
  let w := s.sys64 die n
  let st := nodeState w
  let end_ := if pol = 1 then 7 else 6
  let mark (t : State) : State := if pol = 1 then t.setSys64 die (n + 24) origin else t
  if nodeKind w = 3 then (s.countPoisoned die n, false)
  else if nodeKind w = 4 then
    (if st = 0 || st = 1 then (s.setSys64 die n (nodeWithState w 7)).setSys64 die (n + 24) origin else s, false)
  else if !(nodeKind w = 1 || nodeKind w = 2) then (s, false)
  else if st = 0 || st = 1 then (mark (s.setSys64 die n (nodeWithState w end_)), true)
  else if st = 4 then (mark ((s.dropLaunch n).setSys64 die n (nodeWithState w end_)), true)
  else if st = 2 then
    let s1 := mark (s.cancelNode die n w pol)
    let d := s.nodeHome n die
    (if nodeKind w = 2 then s1.exitNode n else s1.request d
        { region := nodeRegion (s.sys64 die (n + 8)), kind := .flush (if pol = 1 then 3 else 2), since := s.now, fromWalk := true }, true)
  else (s, false)

/-- A walk after a visit of record n: WALK names the next record that it has not visited, and a walk with none left is over
(R277, R287, R288). -/
def ConeWalk.after (k : ConeWalk) (n : W64) (next : List W64) : Option ConeWalk :=
  let seen := n :: k.visited
  let todo := (next ++ k.todo.tail).dropWhile fun m => seen.contains m
  if todo.isEmpty then none else some { k with todo := todo, visited := seen }

/-- A cone walk visits its next record (R287): depth-first in successor-list order, each record at most once. -/
def execConeWalkVisit (die : Nat) (s : State) : Host.Outcome State Fault Refusal :=
  match (s.die die).walks with
  | [] => .next s
  | k :: _ =>
    match k.todo with
    | [] => .next (s.onDie die fun x => { x with walks := x.walks.tail })
    | n :: _ =>
      let r := s.visit die n k.origin k.pol
      let next := if r.2 then r.1.successors die n else []
      .next (r.1.onDie die fun x => { x with walks := (k.after n next).toList ++ x.walks.tail })

/-! ## What is still in flight (R354, R371) -/

/-- The carousel owes a region nothing more of the segments in flight: every slice has landed, or has been dropped and counted
(R251, R354). -/
def State.carouselQuiet (s : State) (die : Nat) (r : Region) : Bool :=
  !(s.io.carousel.streamers.toList.any fun o =>
    match o with
    | some t => r.cores.any fun c => t.owes die r.cfg.num c
    | none => false)

/-- The bank operations of a region's crews are performed. -/
def State.banksQuiet (s : State) (die : Nat) (r : Region) : Bool :=
  let mine (a : Agent) : Bool := a.place.die = die && a.region = r.cfg.num
  let uids := (s.regionCrews die r).map Crew.uid
  let f := s.flight
  !(f.provs.any fun p => uids.contains p.uid) && !(f.weirs.any fun m => mine m.agent) && !(f.arrived.any fun m => mine m.agent) &&
    !(f.posts.any fun p => (p.agent.map mine).getD false)

/-- The matrix engine stands between chunks. -/
def Matrix.atChunk (m : Matrix) : Bool :=
  match m.running with
  | some r => r.atBoundary
  | none => true

/-- Every crew of a region stands at a boundary: no word of it is an access that an order point holds (R341, R354). -/
def State.crewsQuiet (s : State) (die : Nat) (r : Region) : Bool := (s.regionCrews die r).all fun c => !c.begun.isAccess

/-- Every copy channel of a region stands between chunks (R159, R354). -/
def State.copiesQuiet (s : State) (die : Nat) (r : Region) : Bool :=
  r.cores.all fun c => (s.core die c).chans.toList.all fun x => x.jobs.all fun j => j.chunk.isNone

/-- The acknowledgements of the classes of R354. Streams stand at a point, canals at an entry and locks between two of their
cycles whenever no event of theirs runs. -/
def State.acks (s : State) (die : Nat) (r : Region) : BitVec 8 :=
  0b11001000 ||| (if s.crewsQuiet die r then 1 else 0) ||| (if r.cores.all fun c => (s.matrix die c).atChunk then 2 else 0) |||
    (if s.copiesQuiet die r then 4 else 0) ||| (if r.cfg.layer.isNone || s.carouselQuiet die r then 16 else 0) |||
    (if s.banksQuiet die r then 32 else 0)

/-! ## The save (R233, R326, R355 to R358) -/

/-- The crew fields of a task's node: where its crew holds a berth, or LIVE 0 (R270). -/
def State.nodeLive (s : State) (c : Crew) (live : Bool) : State :=
  match c.launched with
  | none => s
  | some l => s.setSys64 (s.nodeHome l.node c.place.die) (l.node + 32) (if live then c.place.nodeWord else 0)

/-- A region leaves its cores for its save area. -/
def State.saveRegion (s : State) (die : Nat) (r : Region) (stopped : Bool) : State :=
  let n := r.cfg.num
  let s1 := s.writeBack die fun l => l.regions.contains n
  let seq := s1.evseqOf die
  let s2 := s1.logEntry die 5 0xFFFF (BitVec.ofNat 48 (n * 2 ^ 40 + r.cfg.version.toNat * 2 ^ 24)) 0 0
  let s3 := s2.saveImage die r seq
  let x : SavedRegion :=
    { region := { r with phase := if stopped then .stopped else .preempting }, seq := seq
      cores := r.cores.map fun c => (s3.core die c).saved, stopped := stopped }
  let s4 := (s3.regionCrews die r).foldl (fun t c => t.nodeLive c false) s3
  (s4.unloadRegion die n).onDie die fun y =>
    { y with saved := y.saved ++ [x], parked := y.parked.filter fun p => p.num != n }

/-- With every acknowledgement in, the collector saves the region and sets DONE (R355). -/
def execCollectorSave (die : Nat) (s : State) : Host.Outcome State Fault Refusal :=
  match (s.die die).collector with
  | none => .next s
  | some q =>
    match (s.die die).region q.region with
    | none => .next s
    | some r =>
      if q.kind != .preempt then .next s
      else
        let a := s.acks die r
        let s1 := s.onDie die fun x => { x with regs := { x.regs with ack := a } }
        if a != 0xFF || s.logStalls die then .next s1 else .next ((s1.saveRegion die r false).endRequest die q)

/-! ## The end of a flush (R361) -/

/-- The send credits that BOARDs of a region's crews hold. -/
def Die.regionCredits (x : Die) (region : Nat) : Bool := x.sent.any fun b => b.region = region

/-- The occupancy tree of a region reports no tokens. -/
def State.occupancyEmpty (s : State) (die : Nat) (r : Region) : Bool :=
  (r.cores.all fun c =>
    let k := s.core die c
    k.crews.isEmpty && k.still && k.matrix.drainRows.isEmpty &&
      (k.chans.toList.all fun x => x.tokens.isEmpty && x.rows.isEmpty) && (k.streams.toList.all fun e => e.rows.isEmpty)) &&
    (r.cfg.locks.all fun l => l.slots.isEmpty && l.canal = 0) && !(s.die die).regionCredits r.cfg.num

/-- The canal entries of a lock that is not resident are discarded as far as records are free (R360). -/
def State.discardCanal (s : State) (die region kind : Nat) (l : Lock) : Nat → State
  | 0 => s
  | fuel + 1 =>
    let m := lockOf l.index l.recordAddr (s.sysWords die l.recordAddr 8)
    match (s.die die).freeRecord with
    | none => s
    | some i =>
      if m.canal = 0 then s
      else
        let r := s.canalHead die m region
        let s1 := (r.1.putBarge die i r.2.1).writeLock die
          { m with head := (m.head + 1) % max 1 (m.canalSize / 64), canal := m.canal - 1 }
        (s1.discardBarge die region l.index kind i).discardCanal die region kind l fuel

/-- The locks of a region that has left its cores. -/
def Die.parkedLocks (x : Die) (region : Nat) : List Lock :=
  ((x.parked.find? fun p => p.num = region).map RegionCfg.locks).getD []

/-- The canal entries that a lock's record counts. -/
def State.canalCount (s : State) (die : Nat) (l : Lock) : Nat :=
  (lockOf l.index l.recordAddr (s.sysWords die l.recordAddr 8)).canal

/-- A flushed region's occupancy tree reports no tokens: its cores are free, and it enters the discarding state (R361). -/
def execRegionFreed (die region : Nat) (s : State) : Host.Outcome State Fault Refusal :=
  match (s.die die).collector with
  | none => .next s
  | some q =>
    match q.kind with
    | .flush kind =>
      if q.region != region then .next s
      else
        match (s.die die).region region with
        | some r =>
          if !s.occupancyEmpty die r then .next (s.onDie die fun x => { x with regs := { x.regs with ack := s.acks die r } })
          else
            let s1 := s.onDie die fun x => { x with regs := { x.regs with ack := 0xFF } }
            .next ((((s1.unloadRegion die region).setDiscarding die region kind).freedNodes die region).endRequest die q)
        | none =>
          let ls := (s.die die).parkedLocks region
          let t := ls.foldl (fun t l => t.discardCanal die region kind l (t.canalCount die l)) s
          if (ls.any fun l => t.canalCount die l != 0) || (t.die die).regionCredits region then .next t
          else .next ((t.freedNodes die region).endRequest die q)
    | _ => .next s

/-- The discarding state of a region ends: its node is idle again, or no partition lists the region (R361). A load and a
swap end it where they happen. -/
def execDiscardingEnd (die region : Nat) (s : State) : Host.Outcome State Fault Refusal :=
  let nodes := s.nodesOf die region
  let operators := nodes.filter fun n => nodeKind (s.sys64 die n) = 1
  let watched := if operators.isEmpty then nodes else operators
  let idle := watched.any fun n => nodeState (s.sys64 die n) = 0 && nodeCount (s.sys64 die n) = 0
  if idle || ((s.die die).declaredRegion region).isNone then
    .next (s.onDie die fun x => { x with discarding := x.discarding.filter fun p => p.1 != region })
  else .next s

/-! ## Restore (R359) -/

/-- A saved region laid on cores, in a phase. -/
def State.layRegion (s : State) (die : Nat) (r : SavedRegion) (cores : List Nat) (phase : RegionPhase) : State :=
  let old := r.region
  let area := s.saveArea die old.cfg.num
  let ls := s.restoreLocks die old.cfg.num area (old.cfg.locks.map fun l => s.loadLock die l (some old.cfg))
  let s1 := ls.1
  let x : Region :=
    { old with cfg := { old.cfg with locks := ls.2 }, cores := cores, phase := phase
               barriers := (s1.readList (area + 0x40) 16).map barrierOf }
  let s2 := (cores.zip r.cores).zipIdx.foldl (fun t p =>
    t.restoreCore die p.1.1 p.2 old (old.block area p.2) p.1.2) s1
  let s3 := s2.onDie die fun y =>
    { y with regions := y.regions ++ [x], saved := y.saved.filter fun z => z.region.cfg.num != old.cfg.num
             discarding := y.discarding.filter fun p => p.1 != old.cfg.num }
  let s4 := (s3.setSys64 die (old.cfg.addr + 56) (coreSet cores)).passToken die old.cfg.num
  let s5 := (s4.regionCrews die x).foldl (fun t c => t.nodeLive c true) s4
  s5.proxyAll (s5.regionCrews die x) false

/-- A refused restore: cause 22 is recorded and poisons the region's node, and the saved context ends as under a poison
flush. -/
def State.refuseRestore (s : State) (die detail : Nat) (r : SavedRegion) : State :=
  let n := r.region.cfg.num
  let origin := noCrewOrigin die n 0 22 detail 0
  let s1 := s.record die origin false false [BitVec.ofNat 64 (s.saveArea die n)]
  let s2 := (s1.nodesOf die n).foldl (fun t a =>
    let st := nodeState (t.sys64 die a)
    if st = 2 || st = 4 then (t.dropLaunch a).poisonNode die a origin else t) s1
  (s2.flushSaved die 3 r).freedNodes die n

/-- A saved region is checked and laid on cores, or refused (R359). -/
def State.restoreRegion (s : State) (die : Nat) (g : RegionCfg) (r : SavedRegion) (cores : List Nat) (phase : RegionPhase) :
    State :=
  match s.restoreRefused die g r with
  | some d => s.refuseRestore die d r
  | none => s.layRegion die r cores phase

/-- The scheduler restores a saved region onto free cores (R359). -/
def execRestore (die region : Nat) (s : State) : Host.Outcome State Fault Refusal :=
  let x := s.die die
  match x.savedRegion region, x.declaredRegion region with
  | some r, some g =>
    let c := r.region.cores.length
    if r.stopped || x.freeCores.length < c || x.regs.swapping || (x.collector.map Collect.region) == some region then .next s
    else .next (s.restoreRegion die g r (x.freeCores.take c) .running)
  | _, _ => .next s

/-! ## Debug stop (R371 to R373) -/

/-- A write of DBGSTOP (R365, R371, R373): REGION, LIMIT and STEP are set, FAILED is cleared by a one, and STOP or RESUME act on
REGION as the same write gives it. -/
def State.putDbgstop (s : State) (die : Nat) (v : W64) : State :=
  s.onDie die fun x =>
    { x with dbg := { x.dbg with
        stopRegion := (v.extractLsb' 40 8).toNat, stopLimit := (v.extractLsb' 24 16).toNat, stopStep := v.getLsbD 4
        stopFailed := x.dbg.stopFailed && !v.getLsbD 3 } }

/-- A stop request for a region that may be stopped: resident, not confidential, and not already stopping. -/
def State.requestStop (s : State) (die : Nat) (r : Region) (n : Naming) (b : Nat) : State :=
  if r.phase = .stopping || (s.die die).collectQueue.any fun q => q.kind.isStop && q.region = r.cfg.num then s
  else s.request die { region := r.cfg.num, kind := .stop b n, since := s.now, fromWalk := false }

/-- STOP of DBGSTOP, or none when the write is not performed (R371). -/
def State.dbgStop (s : State) (die : Nat) (v : W64) : Option State :=
  match (s.die die).region (v.extractLsb' 40 8).toNat with
  | none => none
  | some r => if s.confidential die r.cfg then none else some ((s.putDbgstop die v).requestStop die r r.naming 2)

/-- A format register whose value is invalid kills its crew at the resume, with cause 8 and detail 2 (R372). -/
def State.checkFormats (s : State) (c : Crew) : State :=
  match (List.range 16).find? fun i => fmInvalid (c.fmt i) with
  | some i => s.killCrew c ⟨8, 2, [BitVec.ofNat 64 (16 + i), (c.fmt i).setWidth 64]⟩
  | none => s

/-- What follows the restore of a stopped region: formats are judged, and with STEP each crew has one instruction to issue
before the collector stops the region again (R372, R373). -/
def State.resumed (s : State) (die region : Nat) (step : Bool) : State :=
  match (s.die die).region region with
  | none => s
  | some r =>
    let s1 := (s.regionCrews die r).foldl State.checkFormats s
    if step then
      let s2 := (s1.regionCrews die r).foldl (fun t c => t.onCrew c.uid fun y => { y with stepLeft := true }) s1
      s2.request die { region := region, kind := .stop 0 { region := region, version := 0, handler := 0, poff := 0 }, since := s.now, fromWalk := false }
    else s1

/-- RESUME of DBGSTOP, or none when the region does not stand stopped (R373). -/
def State.dbgResume (s : State) (die : Nat) (v : W64) : Option State :=
  let n := (v.extractLsb' 40 8).toNat
  match (s.die die).savedRegion n, (s.die die).declaredRegion n with
  | some r, some g =>
    if !r.stopped then none
    else
      let step := v.getLsbD 4
      some (((s.putDbgstop die v).restoreRegion die g r r.region.cores (if step then .stopping else .running)).resumed die n step)
  | _, _ => none

/-- A write of DBGSTOP, with every reserved bit zero; one that asks for a stop and a resume at once is not performed. -/
def State.writeDbgstop (s : State) (die : Nat) (v : W64) : Option State :=
  if v &&& ~~~0x0000FFFFFF00001F#64 != 0 || (v.getLsbD 0 && v.getLsbD 1) then none
  else if v.getLsbD 0 then s.dbgStop die v
  else if v.getLsbD 1 then s.dbgResume die v
  else some (s.putDbgstop die v)

/-- Writing STOP requests a debug stop of a region (R371). -/
def execDbgstopStop (die : Nat) (v : W64) (s : State) : Host.Outcome State Fault Refusal :=
  .next (if v.getLsbD 0 then (s.writeDbgstop die v).getD s else s)

/-- Writing RESUME restores a stopped region, optionally for one step (R373). -/
def execDbgstopResume (die : Nat) (v : W64) (s : State) : Host.Outcome State Fault Refusal :=
  .next (if v.getLsbD 1 && !v.getLsbD 0 then (s.writeDbgstop die v).getD s else s)

/-- Every crew of a stopping region is held, its engines have nothing to do, and nothing of it is in flight (R371). -/
def State.regionHeld (s : State) (die : Nat) (r : Region) : Bool :=
  ((s.regionCrews die r).all Crew.atStop) &&
    (r.cores.all fun c => (s.core die c).drained && (List.range 8).all fun e => !s.streamDue die c e) &&
    s.banksQuiet die r && (r.cfg.layer.isNone || s.carouselQuiet die r)

/-- The region is saved and STOPPED is set (R371). -/
def execRegionStopped (die : Nat) (s : State) : Host.Outcome State Fault Refusal :=
  match (s.die die).collector with
  | none => .next s
  | some q =>
    match (s.die die).region q.region with
    | none => .next s
    | some r =>
      if !q.kind.isStop || !s.regionHeld die r || s.logStalls die then .next s
      else
        let s1 := (s.proxyAll (s.regionCrews die r) true).saveRegion die r true
        .next ((s1.stopRecord die r.naming 3).endRequest die q)

/-- A stop that has not reached its boundary within LIMIT times 1,024 cycles is abandoned (R371). -/
def execStopAbandon (die : Nat) (s : State) : Host.Outcome State Fault Refusal :=
  match (s.die die).collector with
  | none => .next s
  | some q =>
    match (s.die die).region q.region with
    | none => .next s
    | some r =>
      let limit := (s.die die).dbg.stopLimit
      if !q.kind.isStop || limit = 0 || s.now < q.since + 1024 * limit then .next s
      else .next ((s.abandonStop die r).nextRequest die)

/-! ## SERVICE (R353) -/

/-- Writing the SEQ of a fault record releases the retry that is held for it (R353). -/
def State.service (s : State) (die : Nat) (seq : BitVec 48) : State :=
  let hit (h : HeldRetry) : Bool := h.seqs.contains seq
  let out := (s.die die).heldRetries.filter hit
  out.foldl (fun t h => t.launch h.queue h.node)
    (s.onDie die fun x => { x with heldRetries := x.heldRetries.filter fun h => !hit h })

/-- The control node writes SERVICE (R353); a write with a reserved bit is not performed. -/
def execServiceWrite (die : Nat) (v : W64) (s : State) : Host.Outcome State Fault Refusal :=
  .next (if v.extractLsb' 48 16 != 0 then s else s.service die (v.setWidth 48))

end Sys2Proof.Machine
end

