-- ==== Sys2Proof/Machine/Markers.lean ====
section
/-! DEFINITION. Replay markers, trace markers and breakpoints; the switching of recording and replay, the order gates and the
samples (R219, R220, R340, R366, R368, R374 to R376). -/

namespace Sys2Proof.Machine

/-! ## RMARK (R219, R340) -/

/-- A divergence when a comparison fails. -/
def State.compare (s : State) (die : Nat) (e : LogEntry) (reason : Nat) (same : Bool) : State :=
  if same then s else s.diverge die e.seq e.cid reason

/-- A marker of a crew met by the order gate: its value, then its fingerprint, against the crew's next marker entry. -/
def State.checkMarker (s : State) (die : Nat) (cid : BitVec 16) (v fp : W64) : State :=
  let r := s.recorderOf die
  match takeEntry (fun e => e.kind = 3 && e.cid = cid) r.entries with
  | none => if r.ended then s else s.diverge die 0 cid 4
  | some (e, rest) =>
    ((s.onRecorder die fun x => { x with entries := rest }).compare die e 1 (e.b = v)).compare die e 2 (e.c = fp)

/-- The fingerprint of a crew lacks the value of a remote atomic, which its response will bring (R337, R391). -/
def State.printOpen (s : State) (c : Crew) : Bool := s.io.remote.any fun r => r.op.uid = c.uid && r.fold.isSome

/-- Writes a replay marker while the die records, and checks it while the die replays (R219); it waits for a fingerprint that holds
every earlier store and atomic (R337). -/
def execRmark (w : RegForm) (s : State) : Host.Outcome State Fault Refusal :=
  crewInstr w.guard s fun s c =>
    let d := c.place.die
    let mode := (s.recorderOf d).mode
    let v := c.sreg w.a
    if mode != 0 && s.printOpen c then stalled
    else if mode = 1 then
      if s.logStalls d then stalled else .ok ((s.logEntry d 3 c.cid 0 v c.fp).putCrew c.advance)
    else if mode = 2 then .ok ((s.checkMarker d c.cid v c.fp).putCrew c.advance)
    else .ok (s.putCrew c.advance)

/-! ## DMARK and BRK (R220) -/

/-- Emits a trace marker, and with .cp starts a critical-path walk from the crew's node (R220). -/
def execDmark (w : RegForm) (s : State) : Host.Outcome State Fault Refusal :=
  crewInstr w.guard s fun s c =>
    let d := c.place.die
    let cp := w.fn.getLsbD 0
    if !(s.die d).traces c.region then .ok (s.putCrew c.advance)
    else
      let id := (c.sreg w.b).extractLsb' 0 16
      let s1 := s.trace d 1 c.naming (c.sreg w.a) (id.setWidth 64 ||| (if cp then 0x10000 else 0)) 0 0
      let s2 := if cp then s1.critWalk d c.naming (s.nodeOfCrew c) else s1
      .ok (s2.putCrew c.advance)

/-- Records a stop request with the crew's place in the code, when debugging is enabled for its region (R220, R371). -/
def execBrk (w : RegForm) (s : State) : Host.Outcome State Fault Refusal :=
  crewInstr w.guard s fun s c =>
    let d := c.place.die
    let s1 := s.putCrew c.advance
    match (s.die d).region c.region with
    | none => .ok s1
    | some r =>
      if (s.die d).dbg.stopMap.getLsbD c.region && !s.confidential d r.cfg then .ok (s1.requestStop d r c.naming 1) else .ok s1

/-! ## Recording and replay switched on and off (R333, R374) -/

/-- A log entry as 32 bytes of the ring hold it, with the die that wrote it. -/
def State.readEntry (s : State) (pa : Nat) : Nat × LogEntry :=
  let w0 := s.home64 pa
  let w1 := s.home64 (pa + 8)
  ((w0.extractLsb' 56 4).toNat,
   { kind := (w0 >>> 60).toNat, seq := w0.extractLsb' 0 48, cid := w1.extractLsb' 48 16, a := w1.extractLsb' 0 48
     b := s.home64 (pa + 16), c := s.home64 (pa + 24) })

/-- The entries of a die from HEAD to TAIL. -/
def State.readLog (s : State) (die : Nat) : List LogEntry :=
  let r := s.recorderOf die
  let size := max 1 r.logSize.toNat
  let n := (r.logTail.toNat + size - r.logHead.toNat % size) % size
  ((List.range n).map fun i => s.readEntry (r.logBase.toNat + 32 * ((r.logHead.toNat + i) % size))).filterMap fun p =>
    if p.1 = die then some p.2 else none

/-- The chunk that an entry of kind 1 or 6 gives an order gate (R335, R375). -/
def LogEntry.chunk (e : LogEntry) : Option Chunk :=
  let run := (e.a.extractLsb' 0 32).toNat
  if e.kind = 6 then
    some { kind := .lock, point := (e.a.extractLsb' 40 8).toNat * 16 + (e.a.extractLsb' 36 4).toNat
           src := (e.a.extractLsb' 32 4).toNat, cid := e.cid, run := run, seq := e.seq }
  else if e.kind = 1 then
    let kind : Option PointKind := match (e.a.extractLsb' 46 2).toNat with
                                   | 0 => some .bank
                                   | 1 => some .subSlice
                                   | 2 => some .tilePort
                                   | _ => none
    kind.map fun k => { kind := k, point := (e.a.extractLsb' 32 14).toNat, src := 0, cid := e.cid, run := run, seq := e.seq }
  else none

/-- The die stands before the first start of a recording or a replay (R333). Entries that wait for room in a full log still wait
after a stop of the recording, until HEAD advances (R374, R376). -/
def Recorder.armed (r : Recorder) (mode : BitVec 2) (stall : Bool) : Recorder :=
  { r with mode := mode, stall := stall, ended := false, nextCid := 1, starts := [], open_ := [], chunks := [], entries := []
           pending := if mode = 0 then r.pending else [], blocked := [] }

/-- Replay begins: the die reads its entries from HEAD (R376). -/
def State.startReplay (s : State) (die : Nat) (stall : Bool) : State :=
  let es := s.readLog die
  s.onRecorder die fun r =>
    { r.armed 2 stall with
      entries := es, chunks := es.filterMap LogEntry.chunk, ended := es.any fun e => e.kind = 9, logHead := r.logTail }

/-- A die holds a resident confidential region (R374). -/
def State.holdsConfidential (s : State) (die : Nat) : Bool :=
  die < 4 && (s.die die).regions.any fun r => s.confidential die r.cfg

/-- A write of RECCTL, or none when it is not performed: MODE 3, a nonzero MODE while MODE is not 0, or a MODE of 1 or 2 on a die
that holds a confidential region. Leaving record mode writes the open chunks (R365, R374). -/
def State.writeRecctl (s : State) (die : Nat) (v : W64) : Option State :=
  let mode := v.extractLsb' 0 2
  let stall := v.getLsbD 2
  let old := (s.recorderOf die).mode
  if v.extractLsb' 3 61 != 0 || mode = 3 then none
  else if mode = 0 then some ((if old = 1 then s.closeChunks die else s).onRecorder die fun r => r.armed 0 stall)
  else if old != 0 || s.holdsConfidential die then none
  else if mode = 1 then some (s.onRecorder die fun r => r.armed 1 stall)
  else some (s.startReplay die stall)

/-- Writing MODE 1 arms recording (R374). -/
def execRecordStart (die : Nat) (v : W64) (s : State) : Host.Outcome State Fault Refusal :=
  .next (if v.extractLsb' 0 2 = 1 then (s.writeRecctl die v).getD s else s)

/-- Writing MODE 2 starts replay (R374). -/
def execReplayStart (die : Nat) (v : W64) (s : State) : Host.Outcome State Fault Refusal :=
  .next (if v.extractLsb' 0 2 = 2 then (s.writeRecctl die v).getD s else s)

/-- Writing MODE 0 ends recording or replay; the open chunks of a recording are written (R336, R374). -/
def execRecordStop (die : Nat) (v : W64) (s : State) : Host.Outcome State Fault Refusal :=
  .next (if v.extractLsb' 0 2 = 0 then (s.writeRecctl die v).getD s else s)

/-! ## The log ring (R374, R376) -/

/-- Entries that wait for room are written while there is some: `fuel` of them at most. -/
def State.drainPending (s : State) (die : Nat) : Nat → State
  | 0 => s
  | fuel + 1 =>
    let r := s.recorderOf die
    match r.pending with
    | [] => s
    | e :: rest =>
      if r.full then s
      else ((s.putEntry die e.kind e.cid e.a e.b e.c).onRecorder die fun x => { x with pending := rest }).drainPending die fuel

/-- HEAD has moved: the entries that wait are written as far as there is room, and nothing waits at an order point for them
any more, unless it finds the log full again (R376). -/
def State.advanceHead (s : State) (die : Nat) : State :=
  (s.drainPending die (s.recorderOf die).pending.length).onRecorder die fun x => { x with blocked := [] }

/-- A write of LOGRING, or none when it is not performed: a SIZE of 1, or any while MODE is not 0, but that the control node
advances HEAD alone to release a recording with STALL 1 (R374, R376; log 22). -/
def State.writeLogring (s : State) (die : Nat) (v : W64) : Option State :=
  let r := s.recorderOf die
  let size := v.extractLsb' 40 20
  let head := v.extractLsb' 20 20
  let tail := v.extractLsb' 0 20
  if v.extractLsb' 60 4 != 0 || size = 1 then none
  else if r.mode = 0 then
    some ((s.onRecorder die fun x => { x with logSize := size, logHead := head, logTail := tail }).advanceHead die)
  else if r.mode = 1 && r.stall && size = r.logSize && tail = r.logTail then
    some ((s.onRecorder die fun x => { x with logHead := head }).advanceHead die)
  else none

/-- Advancing HEAD releases a recording that stalls on a full log (R376). -/
def execLogringHeadWrite (die : Nat) (v : W64) (s : State) : Host.Outcome State Fault Refusal :=
  .next ((s.writeLogring die v).getD s)

/-! ## Order gates (R340) -/

/-- The crew of a CID has started in this replay. -/
def Recorder.hasStarted (r : Recorder) (cid : BitVec 16) : Bool :=
  let key (e : LogEntry) : Nat × Nat := ((e.a.extractLsb' 40 8).toNat, (e.a.extractLsb' 21 3).toNat)
  let starts := r.entries.filter fun e => e.kind = 2
  starts.zipIdx.any fun p =>
    p.1.cid = cid &&
      ((starts.take p.2).filter fun e => key e == key p.1).length < (r.starts.filter fun k => k == key p.1).length

/-- Something of a CID may still make requests: its crew, running or saved, or an engine's work for it. -/
def State.cidActive (s : State) (die : Nat) (cid : BitVec 16) : Bool :=
  let x := s.die die
  cid = 0xFFFF || (x.crews.any fun c => c.cid = cid) ||
    (x.saved.any fun r => r.cores.any fun k => k.berths.toList.any fun o => (o.map fun c => c.cid == cid).getD false) ||
    (x.cores.any fun p =>
      (p.2.chans.toList.any fun ch => ch.jobs.any fun j => j.agent.cid = cid) ||
        (p.2.streams.toList.any fun e =>
          (e.agent.cid = cid && (e.state = .running || !e.rows.isEmpty)) || e.tails.any fun t => t.agent.cid = cid) ||
        p.2.weirCopies.any fun j => j.agent.cid = cid)

/-- The chunk kinds by number, a lock's being 3. -/
def pointKind (n : Nat) : PointKind :=
  if n = 0 then .bank else if n = 1 then .subSlice else if n = 2 then .tilePort else .lock

/-- The order gate of a point: a current chunk whose crew has ended with RUN unspent is a divergence, and is skipped (R340). -/
def execOrderGate (die pkind point : Nat) (s : State) : Host.Outcome State Fault Refusal :=
  let r := s.recorderOf die
  let k := pointKind pkind
  match (if r.mode = 2 then r.current k point else none) with
  | none => .next s
  | some c =>
    -- a lock's chunk names the die of the boarding crew
    let home := if k = .lock then c.src else die
    if (s.recorderOf home).hasStarted c.cid && !s.cidActive home c.cid then
      .next ((s.diverge die c.seq c.cid 5).onRecorder die fun x => { x with chunks := spendChunk k point c.cid c.run x.chunks })
    else .next s

/-! ## Samples (R368) -/

/-- The next crew of a traced region after the one sampled last, in ascending core and berth order. -/
def Die.nextSample (x : Die) : Option Crew :=
  let cs := x.crews.filter fun c => x.traces c.region
  let rank (core berth : Nat) : Nat := 4 * core + berth
  let last := (x.dbg.sampled.map fun p => rank p.1 p.2 + 1).getD 0
  (cs.find? fun c => last ≤ rank c.place.core c.place.berth).or cs.head?

/-- Every SAMPLE cycles the die samples one crew of a traced region (R368). -/
def execTraceSample (die : Nat) (s : State) : Host.Outcome State Fault Refusal :=
  let x := s.die die
  let g := x.dbg
  if !g.traceEn || g.sample = 0 || s.now < g.lastSample + g.sample.toNat then .next s
  else
    let s1 := s.onDie die fun y => { y with dbg := { y.dbg with lastSample := s.now } }
    match x.nextSample with
    | none => .next s1
    | some c =>
      let s2 := s1.onDie die fun y => { y with dbg := { y.dbg with sampled := some (c.place.core, c.place.berth) } }
      .next (s2.trace die 2 c.naming c.wcnt ((summaryOf c.cur).setWidth 64)
        (if (s.recorderOf die).mode = 0 then 0xFFFF else c.cid.setWidth 64) 0)

end Sys2Proof.Machine
end

