-- ==== Sys2Proof/Machine/Registers.lean ====
section
/-! DEFINITION. The registers of the 0xE0 path: where each lies, what a read returns and what a write does (R10, R109, R247,
R277, R300, R305, R306, R308 to R310, R315, R321, R322, R328, R355, R365, R372, R387, R388, R391, R394, R396). -/

namespace Sys2Proof.Machine

/-! ## Addresses (R308) -/

/-- A register address: die, block, core, berth and offset. -/
structure RegAddr where
  die : Nat
  block : Nat
  core : Nat
  berth : Nat
  off : Nat
  deriving DecidableEq, Repr

/-- The register that an address on the 0xE0 path names; none when a zero field is not zero or the block is reserved. -/
def regAddr (a : W64) : Option RegAddr :=
  let r : RegAddr :=
    { die := (a.extractLsb' 52 4).toNat, block := (a.extractLsb' 50 2).toNat, core := (a.extractLsb' 44 6).toNat
      berth := (a.extractLsb' 42 2).toNat, off := (a.extractLsb' 0 16).toNat }
  if regZeros a then some r else none

/-- A write that is performed only when the reserved bits are zero (R10). -/
def reserved (mask v : W64) (t : Option State) : Option State := if v &&& mask != 0 then none else t

/-- A bit as a number. -/
def bitNat (b : Bool) : Nat := if b then 1 else 0

def State.onRegs (s : State) (die : Nat) (f : DieRegs → DieRegs) : State := s.onDie die fun x => { x with regs := f x.regs }
def State.onDbg (s : State) (die : Nat) (f : Debug → Debug) : State := s.onDie die fun x => { x with dbg := f x.dbg }

/-- 64 bits of a map of 256. -/
def mapWord (m : BitVec 256) (k : Nat) : W64 := m.extractLsb' (64 * k) 64

def setMapWord (m : BitVec 256) (k : Nat) (v : W64) : BitVec 256 :=
  (m &&& ~~~((BitVec.allOnes 64).setWidth 256 <<< (64 * k))) ||| (v.setWidth 256 <<< (64 * k))

/-! ## Invalidation of translations (R315, R328) -/

/-- An invalidation covers a virtual page: the page contains PAGE, or all of them go (R315). -/
def VPage.under (p : VPage) (page : Option Nat) : Bool :=
  match page with
  | some n => p.va ≤ 65536 * n && 65536 * n < p.va + p.size
  | none => true

/-- The newest page of a dirty line's stores that lies under an invalidation; a line of the private window has none (R328). -/
def DirtyLine.under (l : DirtyLine) (page : Option Nat) : Option VPage := l.pages.find? fun p => p.under page

/-- A dirty line moved to another physical line and key index. -/
def DirtyLine.moveTo (l : DirtyLine) (pa key : Nat) : DirtyLine :=
  { l with line := pa / 128, key := key, bytes := l.bytes.map fun p => (pa + p.1 % 128, p.2)
           marks := l.marks.map fun w => (pa + 8 * w % 128) / 8 }

/-- A dirty line written back after a fresh walk of its page, or discarded and recorded when the walk finds no valid entry or
one without W (R328). -/
def State.freshWriteBack (s : State) (die : Nat) (l : DirtyLine) (p : VPage) : State :=
  let va := p.va + 128 * l.line % p.size
  let lost (detail : Nat) : State :=
    let seq := s.evseqOf die
    let origin := originWord die l.region l.version l.handler l.owner.berth 6 detail l.poff
    (s.record die origin false false [BitVec.ofNat 64 va, BitVec.ofNat 64 (128 * l.line)]).onCrew l.uid fun c =>
      { c with wbLost := true, service := c.service ++ [seq] }
  match s.walk die va with
  | none => lost 4
  | some e => if e.w then s.writeLine die (l.moveTo (e.pa + (va - e.va)) e.key) else lost 5

/-- A chunk in flight was translated before the invalidation, which waits for it (R315). -/
def Channel.oldChunk (x : Channel) : Channel :=
  { x with jobs := x.jobs.map fun j => { j with chunk := j.chunk.map fun k => { k with old := true } } }

/-- Every entry of the die's TLBs that an invalidation covers goes, and the lines under it are written back (R315). -/
def State.invalidate (s : State) (die : Nat) (page : Option Nat) : State :=
  let gone (e : TlbEntry) : Bool :=
    match page with
    | some p => e.covers (65536 * p)
    | none => true
  let s1 := (s.die die).dirty.foldl (fun t l =>
    match l.under page with
    | some p => t.freshWriteBack die l p
    | none => t) s
  s1.onDie die fun x =>
    { x with
      dirty := x.dirty.filter fun l => (l.under page).isNone
      cores := x.cores.map fun c =>
        (c.1, { c.2 with tlb := c.2.tlb.filter fun e => !gone e, chans := mapVec Channel.oldChunk c.2.chans }) }

/-- A write of TLBINV, or none while an invalidation is in progress (R315). -/
def State.writeTlbinv (s : State) (die : Nat) (v : W64) : Option State :=
  let page := v.extractLsb' 24 40
  if (s.die die).regs.tlbBusy then none
  else
    reserved 0xFFFFFC v
      (some ((s.invalidate die (if v.getLsbD 1 then none else some page.toNat)).onRegs die fun r =>
        { r with tlbPage := page, tlbAll := v.getLsbD 1, tlbBusy := true }))

/-! ## Die blocks of the compute dies -/

/-- LANDFREE: rows of the landing area that are neither in use nor promised to a sender (R247, R256). -/
def Die.landFree (x : Die) : Nat := 2048 - x.landing.length - x.promised.length

/-- GOVSTAT (R394). -/
def Governor.stat (g : Governor) : W64 :=
  BitVec.ofNat 64 (bitNat g.trip * 2 ^ 63 + g.temp.toNat * 2 ^ 48 + min 255 g.queue.length * 2 ^ 40 + g.bucket / 512 % 2 ^ 31)

/-- FAULTSTAT (R387). -/
def FaultBuffer.stat (b : FaultBuffer) : W64 :=
  BitVec.ofNat 64 (bitNat b.fatal.isSome * 2 ^ 63 + b.overflow.toNat * 2 ^ 32 + b.merged.toNat * 2 ^ 16 + b.entries.length)

/-- FAULTSTAT written: a one anywhere in OVERFLOW or MERGED clears the field (R387). -/
def FaultBuffer.clear (b : FaultBuffer) (v : W64) : FaultBuffer :=
  { b with overflow := if v.extractLsb' 32 16 = 0 then b.overflow else 0
           merged := if v.extractLsb' 16 16 = 0 then b.merged else 0 }

/-- The recorder's registers, at the same offsets on every die (R365). -/
def Recorder.read (r : Recorder) (off : Nat) : Option W64 :=
  if off = 0x108 then some (BitVec.ofNat 64 (bitNat r.stall * 4 + r.mode.toNat))
  else if off = 0x110 then some r.logBase
  else if off = 0x118 then some (BitVec.ofNat 64 (r.logSize.toNat * 2 ^ 40 + r.logHead.toNat * 2 ^ 20 + r.logTail.toNat))
  else if off = 0x120 then some (BitVec.ofNat 64 (bitNat r.notReplay * 2 ^ 63 + r.fromSeq.toNat))
  else if off = 0x128 then some (BitVec.ofNat 64 (r.repCount.toNat * 2 ^ 48 + r.firstSeq.toNat))
  else if off = 0x130 then some (BitVec.ofNat 64 (r.repReason.toNat * 2 ^ 16 + r.repCid.toNat))
  else none

/-- A write of one of the recorder's registers (R365, R374). -/
def State.writeRecorder (s : State) (die off : Nat) (v : W64) : Option State :=
  if off = 0x108 then s.writeRecctl die v
  else if off = 0x110 then
    if (s.recorderOf die).mode != 0 then none
    else reserved 0xFFFF00000000001F v (some (s.onRecorder die fun r => { r with logBase := v }))
  else if off = 0x118 then s.writeLogring die v
  else if off = 0x120 then
    reserved 0x7FFF000000000000 v (some (s.onRecorder die fun r => { r with notReplay := r.notReplay && !v.getLsbD 63 }))
  else if off = 0x128 then
    some (if v.extractLsb' 48 16 = 0 then s else s.onRecorder die fun r => { r with repCount := 0, firstSeq := 0 })
  else if off = 0x130 then reserved 0xFFFFFFFFFFF00000 v (some s)
  else none

/-- The clock registers, at the same offsets on every die (R321). -/
def clockRead (ck : Vector (BitVec 32) 5) (off : Nat) : Option W64 :=
  let e (i : Nat) : BitVec 32 := (ck[i]?).getD 0
  if off = 0x48 then some (e 1 ++ e 0) else if off = 0x50 then some (e 3 ++ e 2)
  else if off = 0x58 then some ((e 4).setWidth 64) else none

/-- The stopped region that DBGSTOP.REGION names (R365, R372). -/
def Die.stoppedRegion (x : Die) : Option SavedRegion := (x.savedRegion x.dbg.stopRegion).filter SavedRegion.stopped

/-- The trace and debug registers (R365). -/
def Die.readDbg (x : Die) (off : Nat) : Option W64 :=
  let g := x.dbg
  if off = 0xA8 then some (BitVec.ofNat 64 (g.sample.toNat * 2 ^ 32 + g.cpPeriod.toNat * 2 ^ 16 + bitNat g.traceEn))
  else if off = 0xB0 then some g.traceBase
  else if off = 0xB8 then
    some (BitVec.ofNat 64 (g.traceSize.toNat * 2 ^ 48 + g.dropped.toNat * 2 ^ 32 + g.traceHead.toNat * 2 ^ 16 + g.traceTail.toNat))
  else if 0xC0 ≤ off && off ≤ 0xD8 then some (mapWord g.traceMap ((off - 0xC0) / 8))
  else if 0xE0 ≤ off && off ≤ 0xF8 then some (mapWord g.stopMap ((off - 0xE0) / 8))
  else if off = 0x100 then
    some (BitVec.ofNat 64 (g.stopRegion * 2 ^ 40 + g.stopLimit * 2 ^ 24 + bitNat g.stopStep * 16 + bitNat g.stopFailed * 8 +
      bitNat x.stoppedRegion.isSome * 4))
  else if off = 0x138 then some g.retiredEnd
  else if off = 0x140 then some g.softFix
  else none

def State.writeDbg (s : State) (die off : Nat) (v : W64) : Option State :=
  if off = 0xA8 then
    reserved 0xFFFE v (some (s.onDbg die fun g =>
      { g with sample := v.extractLsb' 32 32, cpPeriod := v.extractLsb' 16 16, traceEn := v.getLsbD 0 }))
  else if off = 0xB0 then reserved 0xFFFF00000000007F v (some (s.onDbg die fun g => { g with traceBase := v }))
  else if off = 0xB8 then
    some (s.onDbg die fun g =>
      { g with traceSize := v.extractLsb' 48 16, dropped := v.extractLsb' 32 16, traceHead := v.extractLsb' 16 16 })
  else if 0xC0 ≤ off && off ≤ 0xD8 then some (s.onDbg die fun g => { g with traceMap := setMapWord g.traceMap ((off - 0xC0) / 8) v })
  else if 0xE0 ≤ off && off ≤ 0xF8 then some (s.onDbg die fun g => { g with stopMap := setMapWord g.stopMap ((off - 0xE0) / 8) v })
  else if off = 0x100 then s.writeDbgstop die v
  else if off = 0x138 || off = 0x140 then some s
  else none

/-- The record that the die's walk visits next (R277). -/
def Die.walkReg (x : Die) : W64 :=
  match x.walks with
  | [] => 0
  | k :: _ => ((k.todo.head?).getD 0 &&& ~~~0x7F#64) ||| 1

/-- The registers of a compute die's block (R309, R355, R387, R394). -/
def State.readDie (s : State) (die off : Nat) : Option W64 :=
  let x := s.die die
  let r := x.regs
  if off = 0x00 then some r.partBase
  else if off = 0x08 then
    some (BitVec.ofNat 64 (r.partReason.toNat * 2 ^ 32 + bitNat r.refused * 2 + bitNat r.swapping))
  else if off = 0x10 then some x.walkReg
  else if off = 0x18 then some r.ptRoot
  else if off = 0x20 then some (BitVec.ofNat 64 (r.tlbPage.toNat * 2 ^ 24 + bitNat r.tlbAll * 2 + bitNat r.tlbBusy))
  else if off = 0x28 then some r.privBase
  else if off = 0x30 then some r.privStride
  else if off = 0x38 then some r.landBase
  else if off = 0x40 then some (BitVec.ofNat 64 x.landFree)
  else if off = 0x60 then some (BitVec.ofNat 64 (r.preRegion * 2 ^ 40 + r.preKind * 2 ^ 32))
  else if off = 0x68 then
    some (BitVec.ofNat 64 (r.ack.toNat * 2 ^ 48 + r.statRegion * 2 ^ 40 + r.statKind * 2 ^ 32 + bitNat r.preErr * 4 +
      bitNat r.preDone * 2 + bitNat x.busy))
  else if off = 0x70 then some r.saveBase
  else if off = 0x78 then some r.saveStride
  else if off = 0x80 then some r.poisonBase
  else if off = 0x88 then
    some (BitVec.ofNat 64 (r.poisonSize.toNat * 2 ^ 48 + r.poisonHead.toNat * 2 ^ 16 + r.poisonTail.toNat))
  else if off = 0x90 then some 0
  else if off = 0xA0 then some (x.evseq.setWidth 64)
  else if off = 0x148 then some x.faults.stat
  else if off = 0x150 then
    some (BitVec.ofNat 64 (x.gov.depth.toNat * 2 ^ 32 + x.gov.rate.toNat * 2 ^ 16 + x.gov.tthrot.toNat * 2 ^ 8))
  else if off = 0x158 then some (x.gov.carAmount.setWidth 64)
  else if off = 0x160 then some x.gov.stat
  else ((clockRead x.clock off).or (x.readDbg off)).or (x.recorder.read off)

/-- PARTBASE: a write requests a swap (R277). -/
def State.writePartbase (s : State) (die : Nat) (v : W64) : Option State :=
  reserved 0x3F v (some (s.onRegs die fun r => { r with partBase := v, swapping := true }))

/-- No region of the die is resident (R310). -/
def State.noRegion (s : State) (die : Nat) : Bool := (s.die die).regions.isEmpty

/-- PRECTL: with GO the collector's request, else its two fields (R355). -/
def State.writePrectl (s : State) (die : Nat) (v : W64) : Option State :=
  let region := (v.extractLsb' 40 8).toNat
  let kind := (v.extractLsb' 32 2).toNat
  reserved 0xFFFF00FCFFFFFFFE v
    (if v.getLsbD 0 then s.go die region kind else some (s.onRegs die fun r => { r with preRegion := region, preKind := kind }))

/-- GOVCFG and GOVCAR keep DEPTH at least 2^24 and AMOUNT at most DEPTH (R394). -/
def State.writeGovernor (s : State) (die off : Nat) (v : W64) : Option State :=
  let g := (s.die die).gov
  if off = 0x150 then
    let depth := v.extractLsb' 32 31
    reserved 0x80000000000000FF v
      (if depth.toNat < 2 ^ 24 || depth.toNat < g.carAmount.toNat then none
       else some (s.onDie die fun x =>
         { x with gov := { x.gov with depth := depth, rate := v.extractLsb' 16 16, tthrot := v.extractLsb' 8 8 } }))
  else
    reserved 0xFFFFFFFF00000000 v
      (if g.depth.toNat < (v.extractLsb' 0 32).toNat then none
       else some (s.onDie die fun x => { x with gov := { x.gov with carAmount := v.extractLsb' 0 32 } }))

/-- A write of a register of a compute die's block; none when it is not performed. -/
def State.writeDie (s : State) (die off : Nat) (v : W64) : Option State :=
  if off = 0x00 then s.writePartbase die v
  else if off = 0x08 then
    reserved 0xFFFFFF00FFFFFFFC v (some (s.onRegs die fun r => { r with refused := r.refused && !v.getLsbD 1 }))
  else if off = 0x10 then reserved 0x7E v (some s)
  else if off = 0x18 then reserved 0xFFFF00000001FFFE v (some (s.onRegs die fun r => { r with ptRoot := v }))
  else if off = 0x20 then s.writeTlbinv die v
  else if off = 0x28 then
    reserved 0xFFFF00000000FFFF v (if s.noRegion die then some (s.onRegs die fun r => { r with privBase := v }) else none)
  else if off = 0x30 then
    reserved 0xFFFFFF000000FFFF v
      (if s.noRegion die && 2 ^ 22 ≤ v.toNat then some (s.onRegs die fun r => { r with privStride := v }) else none)
  else if off = 0x38 then reserved 0xFFFFF v (some (s.onRegs die fun r => { r with landBase := v }))
  else if off = 0x40 then reserved 0xFFFFFFFFFFFFF000 v (some s)
  else if off = 0x60 then s.writePrectl die v
  else if off = 0x68 then
    reserved 0xFF0000FCFFFFFFF8 v
      (some (s.onRegs die fun r => { r with preErr := r.preErr && !v.getLsbD 2, preDone := r.preDone && !v.getLsbD 1 }))
  else if off = 0x70 then reserved 0xFFFF0000001FFFFF v (some (s.onRegs die fun r => { r with saveBase := v }))
  else if off = 0x78 then reserved 0xFFFFFF00001FFFFF v (some (s.onRegs die fun r => { r with saveStride := v }))
  else if off = 0x80 then reserved 0xFFFF00000000007F v (some (s.onRegs die fun r => { r with poisonBase := v }))
  else if off = 0x88 then
    reserved 0x0000FFFF00000000 v
      (some (s.onRegs die fun r => { r with poisonSize := v.extractLsb' 48 16, poisonHead := v.extractLsb' 16 16 }))
  else if off = 0x90 then reserved 0xFFFF000000000000 v (some (s.service die (v.setWidth 48)))
  else if off = 0xA0 then reserved 0xFFFF000000000000 v (some s)
  else if off = 0x148 then
    reserved 0x7FFF00000000FF80 v (some (s.onDie die fun x => { x with faults := x.faults.clear v }))
  else if off = 0x150 || off = 0x158 then s.writeGovernor die off v
  else if off = 0x160 then reserved 0x7F0000FF80000000 v (some s)
  else if off = 0x48 || off = 0x50 || off = 0x58 then none
  else (s.writeDbg die off v).or (s.writeRecorder die off v)

/-! ## The die block of the I/O die -/

/-- LQSTAT of a queue (R277). -/
def LaunchQueue.stat (q : LaunchQueue) : W64 :=
  BitVec.ofInt 32 q.deficit ++ BitVec.ofNat 32 (min 65535 q.pend.length)

def LaunchQueue.cfg (q : LaunchQueue) : W64 :=
  BitVec.ofNat 64 (bitNat q.en * 2 ^ 48 + q.advance.toNat * 2 ^ 32 + q.quantum.toNat)

/-- The codes of STATE in BOOTSTAT (R396). -/
def BootState.code : BootState → Nat
  | .rom => 0
  | .load => 1
  | .verify => 2
  | .init => 3
  | .ready => 4
  | .failed => 7

def Security.stat (x : Security) : W64 :=
  BitVec.ofNat 64 (x.svn.toNat * 2 ^ 32 + x.reason.toNat * 2 ^ 8 + x.state.code)

def Port.stat (p : Port) : W64 :=
  BitVec.ofNat 64 (bitNat p.up * 2 ^ 63 + p.farPkg.toNat * 2 ^ 48 + p.retry.toNat * 2 ^ 32 + p.discard.toNat)

/-- The registers of the I/O die's block (R309, R365, R387, R388, R391, R396). -/
def State.readIo (s : State) (off : Nat) : Option W64 :=
  let x := s.io
  let c := x.carousel
  if off = 0x00 then some c.base
  else if off = 0x08 then some (c.count.setWidth 64)
  else if off = 0x10 then some (BitVec.ofNat 64 (c.lead.toNat * 2 ^ 16 + bitNat c.halted * 2 + bitNat c.run))
  else if off = 0x18 then some (BitVec.ofNat 64 (c.rots.toNat * 2 ^ 32 + c.next.toNat))
  else if off = 0x20 then some (c.leaveWait ++ c.bufWait)
  else if off = 0x40 then some x.sliceHash
  else if off = 0xA0 then some (x.evseq.setWidth 64)
  else if off = 0x148 then some x.faults.stat
  else if off = 0x170 then some (x.evqWin.setWidth 64)
  else if off = 0x178 then some 0
  else if off = 0x180 then some (x.pkgId.setWidth 64)
  else if off = 0x188 then some x.routeBase
  else if off = 0x190 then some x.sec.stat
  else if off = 0x198 then some 0
  else if off = 0x1A0 then some (BitVec.ofNat 64 (bitNat x.cacheEn))
  else if off = 0x1A8 then some (x.tierSize.setWidth 64)
  else if 0x1000 ≤ off && off < 0x1400 then
    let q := ((x.queues[(off - 0x1000) / 16]?).getD LaunchQueue.reset)
    some (if off % 16 = 0 then q.cfg else q.stat)
  else if 0x2000 ≤ off && off < 0x2080 then x.rwin[(off - 0x2000) / 8]?
  else if 0x3000 ≤ off && off < 0x3100 then (x.ports[(off - 0x3000) / 8]?).map Port.stat
  else (clockRead x.clock off).or (x.recorder.read off)

/-- CARCTL (R247, R248, R325): RUN set on an empty table stops at once; NEXT at or above COUNT becomes 0, and what the slices
hold dirty has been written back to the stacks before the first entry starts. -/
def State.writeCarctl (s : State) (v : W64) : Option State :=
  reserved 0xFFFFFFFF0000FFFC v
    (let c := s.io.carousel
     let starts := v.getLsbD 0 && !c.run
     some ((if starts then { s with stack := [] } else s).onCarousel fun c =>
       { c with
         lead := v.extractLsb' 16 16, halted := c.halted && !v.getLsbD 1, run := v.getLsbD 0 && c.count != 0
         next := if starts && c.count.toNat ≤ c.next.toNat then 0 else c.next }))

/-- CARCNT is written only while RUN is 0 (R247). -/
def State.writeCarcnt (s : State) (v : W64) : Option State :=
  if s.io.carousel.run then none
  else reserved 0xFFFFFFFFFFF00000 v (some (s.onCarousel fun c => { c with count := v.extractLsb' 0 20 }))

/-- A SLICEHASH value whose index fields agree with their DIS bits (R109, R305). -/
def sliceHashOk (v : W64) : Bool :=
  (List.range 8).all fun i => v.getLsbD (5 * i + 4) || v.extractLsb' (5 * i) 4 == 0

/-- SLICEHASH is written only while the caches are disabled (R305). -/
def State.writeSlicehash (s : State) (v : W64) : Option State :=
  if s.io.cacheEn || !sliceHashOk v then none
  else reserved 0xFFFFFF0000000000 v (some (s.onIo fun io => { io with sliceHash := v }))

/-- CACHECTL: EN does not return to 0 (R306). -/
def State.writeCachectl (s : State) (v : W64) : Option State :=
  reserved (~~~1) v
    (if s.io.cacheEn && !v.getLsbD 0 then none else some (s.onIo fun io => { io with cacheEn := v.getLsbD 0 }))

/-- ROUTEBASE: the route table is read, and frames that a port held leave on the new routes (R388, R390). -/
def State.writeRoutebase (s : State) (v : W64) : Option State :=
  reserved 0xFFFF000000007FFF v
    (some ((s.onIo fun io => { io with routeBase := v, routes := s.readRoutes v.toNat }).releaseFrames))

/-- EVQACK counts the entries that the control node has consumed (R384). -/
def State.writeEvqack (s : State) (v : W64) : Option State :=
  reserved 0xFFFFFFFFFFFF0000 v (some (s.onIo fun io => { io with evqAck := io.evqAck + v.toNat }))

/-- BOOTCMD: VERIFY is performed only in state LOAD (R396). -/
def State.writeBootcmd (s : State) (v : W64) : Option State :=
  reserved (~~~1) v
    (if !v.getLsbD 0 then some s
     else if s.io.sec.state != .load then none
     else some (s.onIo fun io => { io with sec := { io.sec with state := .verify } }))

/-- A write of a register of the I/O die's block; none when it is not performed. -/
def State.writeIo (s : State) (off : Nat) (v : W64) : Option State :=
  if off = 0x00 then
    if s.io.carousel.run then none else reserved 0xF v (some (s.onCarousel fun c => { c with base := v }))
  else if off = 0x08 then s.writeCarcnt v
  else if off = 0x10 then s.writeCarctl v
  else if off = 0x18 then reserved 0xFFF00000 v (some s)
  else if off = 0x20 then
    some (s.onCarousel fun c => { c with leaveWait := v.extractLsb' 32 32, bufWait := v.extractLsb' 0 32 })
  else if off = 0x40 then s.writeSlicehash v
  else if off = 0xA0 then reserved 0xFFFF000000000000 v (some s)
  else if off = 0x148 then reserved 0x7FFF00000000FF80 v (some (s.onIo fun io => { io with faults := io.faults.clear v }))
  else if off = 0x170 then
    reserved 0xFFFFFFFFFFFF0000 v (if v = 0 then none else some (s.onIo fun io => { io with evqWin := v.setWidth 16 }))
  else if off = 0x178 then s.writeEvqack v
  else if off = 0x180 then reserved 0xFFFFFFFFFFFF8000 v (some (s.onIo fun io => { io with pkgId := v.setWidth 15 }))
  else if off = 0x188 then s.writeRoutebase v
  else if off = 0x190 then reserved 0x00000000FFFFF0F0 v (some s)
  else if off = 0x198 then s.writeBootcmd v
  else if off = 0x1A0 then s.writeCachectl v
  else if off = 0x1A8 then
    if s.io.cacheEn || 2048 < (v.extractLsb' 0 12).toNat then none
    else reserved 0xFFFFFFFFFFFFF000 v (some (s.onIo fun io => { io with tierSize := v.extractLsb' 0 12 }))
  else if 0x1000 ≤ off && off < 0x1400 then
    let n := (off - 0x1000) / 16
    if off % 16 = 0 then
      reserved 0xFFFE000000000000 v (some (s.onQueue n fun q =>
        { q with en := v.getLsbD 48, advance := v.extractLsb' 32 16, quantum := v.extractLsb' 0 32 }))
    else reserved 0xFFFF0000 v (some s)
  else if 0x2000 ≤ off && off < 0x2080 then
    reserved 0x0000CFFFFFFF0000 v (some (s.onIo fun io => { io with rwin := io.rwin.setIfInBounds ((off - 0x2000) / 8) v }))
  else if 0x3000 ≤ off && off < 0x3100 then
    reserved 0xFFFF0000 v (some (s.onPort ((off - 0x3000) / 8) fun p =>
      { p with retry := if v.extractLsb' 32 16 = 0 then p.retry else 0
               discard := if v.extractLsb' 0 16 = 0 then p.discard else 0 }))
  else if off = 0x48 || off = 0x50 || off = 0x58 then none
  else s.writeRecorder 4 off v

/-! ## Core and berth blocks (R365, R372, R394) -/

/-- The counters of a core. -/
def Core.counter (k : Core) (off : Nat) : Option W64 :=
  if off = 0x00 then some k.rerun else if off = 0x08 then some k.spill else if off = 0x10 then some k.leaveWait else none

/-- The byte of the save area that a berth-block access reaches: the record of a berth of a core of the stopped region (R372). -/
def State.berthPa (s : State) (a : RegAddr) : Option Nat :=
  match (s.die a.die).stoppedRegion with
  | none => none
  | some r =>
    (r.region.cores.findIdx? fun c => c = a.core).map fun i =>
      berthRecord (r.region.block (s.saveArea a.die r.region.cfg.num) i) a.berth + a.off

/-- A write of a saved berth record that is performed: R372 refuses some bytes, and R10 a reserved bit of a format register, of
which a word holds two. -/
def berthWriteOk (off : Nat) (v : W64) : Bool :=
  if off = 8 then v.extractLsb' 0 3 == 0
  else if 0x1900 ≤ off && off < 0x1940 then v &&& 0xFFFE00E0FFFE00E0 == 0
  else 0x100 ≤ off && !(0x1C00 ≤ off && off < 0x1D00)

/-! ## The path as a whole: status 1 is ERROR, 2 is BUSY (R380) -/

/-- A read of a register by the control node. -/
def State.readReg (s : State) (a : W64) : Except Nat W64 :=
  match regAddr a with
  | none => .error 1
  | some r =>
    let v := if r.die < 4 && r.block = 0 then s.readDie r.die r.off
             else if r.die = 4 && r.block = 0 then s.readIo r.off
             else if r.die < 4 && r.block = 1 then (s.core r.die r.core).counter r.off
             else none
    if r.die < 4 && r.block = 2 then
      match s.berthPa r with
      | some pa => if r.off < 0x2000 then .ok (s.home64 pa) else .error 1
      | none => .error 2
    else
      match v with
      | some x => .ok x
      | none => .error 1

/-- A write of a register by the control node; an error leaves the machine as it is. -/
def State.writeReg (s : State) (a v : W64) : Except Nat State :=
  match regAddr a with
  | none => .error 1
  | some r =>
    if r.die < 4 && r.block = 2 then
      match s.berthPa r with
      | some pa => if r.off < 0x2000 && berthWriteOk r.off v then .ok (s.writePa 4 pa (wordBytes v)) else .error 1
      | none => .error 2
    else
      let t := if r.die < 4 && r.block = 0 then s.writeDie r.die r.off v
               else if r.die = 4 && r.block = 0 then s.writeIo r.off v
               else if r.die < 4 && r.block = 1 then ((s.core r.die r.core).counter r.off).map fun _ => s
               else none
      match t with
      | some x => .ok x
      | none => .error 1

/-! ## The rows of the table that write a register -/

/-- The registers whose writes have rows of their own. -/
def ownRow (a : W64) : Bool :=
  match regAddr a with
  | none => false
  | some r =>
    if r.block != 0 then false
    else if r.die < 4 then
      r.off = 0x00 || r.off = 0x20 || r.off = 0x60 || r.off = 0x90 || r.off = 0x100 || r.off = 0x108 || r.off = 0x118
    else
      r.off = 0x08 || r.off = 0x10 || r.off = 0x40 || r.off = 0x108 || r.off = 0x118 || r.off = 0x178 || r.off = 0x188 ||
        r.off = 0x198 || r.off = 0x1A0

/-- A write to a system register with no behaviour of its own sets its fields or returns an error (R10). -/
def execSysregWrite (addr v : W64) (s : State) : Host.Outcome State Fault Refusal :=
  if ownRow addr then .next s
  else
    match s.writeReg addr v with
    | .ok t => .next t
    | .error _ => .next s

/-- Writing PARTBASE requests a partition swap (R277). -/
def execPartbaseWrite (die : Nat) (v : W64) (s : State) : Host.Outcome State Fault Refusal :=
  .next ((s.writePartbase die v).getD s)

/-- TLBINV with ALL 0 invalidates the entries that cover a page (R315). -/
def execTlbinvPage (die : Nat) (v : W64) (s : State) : Host.Outcome State Fault Refusal :=
  .next (if v.getLsbD 1 then s else (s.writeTlbinv die v).getD s)

/-- TLBINV with ALL 1 invalidates every entry of the die (R315). -/
def execTlbinvAll (die : Nat) (v : W64) (s : State) : Host.Outcome State Fault Refusal :=
  .next (if v.getLsbD 1 then (s.writeTlbinv die v).getD s else s)

/-- A copy chunk that was translated before the invalidation has still to land (R315). -/
def Core.hasOldChunk (k : Core) : Bool := k.chans.toList.any fun x => x.jobs.any fun j => (j.chunk.map CopyChunk.old).getD false

/-- An invalidation is finished once nothing translated before it is in flight: BUSY returns to 0 (R315). -/
def execTlbinvDone (die : Nat) (s : State) : Host.Outcome State Fault Refusal :=
  if (s.die die).cores.any fun p => p.2.hasOldChunk then .next s
  else .next (s.onRegs die fun r => { r with tlbBusy := false })

/-- Setting RUN starts the rotation (R248). -/
def execCarctlRunSet (v : W64) (s : State) : Host.Outcome State Fault Refusal :=
  .next (if v.getLsbD 0 then (s.writeCarctl v).getD s else s)

/-- Clearing RUN stops the carousel (R247). -/
def execCarctlRunClear (v : W64) (s : State) : Host.Outcome State Fault Refusal :=
  .next (if v.getLsbD 0 then s else (s.writeCarctl v).getD s)

/-- Writes the carousel's entry count (R247). -/
def execCarcntWrite (v : W64) (s : State) : Host.Outcome State Fault Refusal := .next ((s.writeCarcnt v).getD s)

/-- Sets the slice hash while the caches are disabled (R305). -/
def execSlicehashWrite (v : W64) (s : State) : Host.Outcome State Fault Refusal := .next ((s.writeSlicehash v).getD s)

/-- Setting EN enables the package's caches until cold reset (R306). -/
def execCachectlEnable (v : W64) (s : State) : Host.Outcome State Fault Refusal := .next ((s.writeCachectl v).getD s)

/-- Writing ROUTEBASE reads the route table (R388). -/
def execRoutebaseWrite (v : W64) (s : State) : Host.Outcome State Fault Refusal := .next ((s.writeRoutebase v).getD s)

/-- The control node acknowledges fault-report entries (R384). -/
def execEvqackWrite (v : W64) (s : State) : Host.Outcome State Fault Refusal := .next ((s.writeEvqack v).getD s)

end Sys2Proof.Machine
end

