-- ==== Sys2Proof/Machine/Reports.lean ====
section
/-! DEFINITION. Lines that leave an L1, errors in stored data, and fault records on their way to the control node (R301, R351,
R384 to R387). -/

namespace Sys2Proof.Machine

/-- A dirty L1 line of a die is evicted: written back to its home slice with its byte mask (R301). -/
def execL1Writeback (die n : Nat) (s : State) : Host.Outcome State Fault Refusal :=
  match (s.die die).dirty[n]? with
  | none => .next s
  | some x => .next (s.writeBack die fun l => l.line = x.line && l.key = x.key)

/-! ## Errors in stored data (R351) -/

/-- A key of `State.mem` that names a byte of memory, a basin or a tile store. -/
def State.keyOk (s : State) (key : Nat) : Bool :=
  s.paValid key ||
    (let a : W64 := BitVec.ofNat 64 key
     key < 2 ^ 64 && topOk a && rangeOk 0 a 1 && (topByte a = 0xC0 || (0xB0 ≤ topByte a && topByte a ≤ 0xB3)))

/-- The record of a detection (R351). -/
def State.detected (s : State) (die : Nat) (origin : W64) (infos : List W64) : State := s.record die origin false true infos

/-- A barge record is marked and consumed at once: the barge is poisoned with cause 15, detail 4 (R351). -/
def State.markBarge (s : State) (die i : Nat) (b : Barge) : State :=
  let origin := noCrewOrigin die 0 0 15 4 0
  let info : List W64 := [BitVec.ofNat 64 (0xD0 * 2 ^ 56 + die * 2 ^ 52 + 64 * i)]
  let s1 := (s.detected die origin info).putBarge die i { b with marked := true }
  if b.flags.getLsbD 0 then s1
  else (s1.record die origin false false info).putBarge die i { b.poison origin (s1.evseqOf die) with marked := true }

/-- The word of a cell lies in a dirty line of a die's L1s. -/
def DirtyLine.holdsWord (l : DirtyLine) (key : Nat) : Bool := l.bytes.any fun p => p.1 / 8 = key / 8

/-- An error in a word that a die meets: its own L1's copy of the word is marked where it has one, else the home word (R351). -/
def State.markWord (s : State) (die key : Nat) : State :=
  if (s.die die).dirty.any fun l => l.holdsWord key then
    s.onDie die fun x =>
      { x with dirty := x.dirty.map fun l => if l.holdsWord key then { l with marks := insertNew (key / 8) l.marks } else l }
  else s.setMark key

/-- An uncorrectable error is detected: its unit is marked and the die writes a record; state that no record can mark has
FATAL set, and like every detection NOTCONSUMED (R348, R351). -/
def execDataErrorDetected (u : ErrUnit) (s : State) : Host.Outcome State Fault Refusal :=
  match u with
  | .vreg uid reg lane =>
    match s.findCrew uid with
    | none => .next s
    | some c =>
      if 256 ≤ reg || 1024 ≤ lane then .next s
      else
        .next ((s.detected c.place.die (c.origin 15 1) [BitVec.ofNat 64 reg, BitVec.ofNat 64 lane]).onCrew uid fun c =>
          { c with vregs := modifyVec c.vregs reg fun v => { v with marks := v.marks ||| (1#1024 <<< lane) } })
  | .word die key =>
    if 4 ≤ die || !s.keyOk key then .next s
    else
      let k := key / 8 * 8
      let detail := if k / 2 ^ 56 = 0xC0 then 3 else 2
      .next ((s.detected die (noCrewOrigin die 0 0 15 detail 0) [BitVec.ofNat 64 k]).markWord die k)
  | .barge die i =>
    match s.barge die i with
    | none => .next s
    | some b => .next (s.markBarge die i b)
  | .unmarkable die => .next (if 4 < die then s else s.record die (noCrewOrigin die 0 0 15 0 0) true true [])

/-- A single-bit error is corrected in place and counted (R351, R365). -/
def execSoftErrorCorrected (die : Nat) (s : State) : Host.Outcome State Fault Refusal :=
  .next (s.onDbg die fun g => { g with softFix := g.softFix + 1 })

/-! ## Reports (R384 to R387) -/

def State.onFaults (s : State) (die : Nat) (f : FaultBuffer → FaultBuffer) : State :=
  if die = 4 then s.onIo fun io => { io with faults := f io.faults } else s.onDie die fun x => { x with faults := f x.faults }

/-- The oldest record of a local buffer moves to the event queue, which holds 512 entries (R384). -/
def State.takeRecordOf (s : State) (die : Nat) : State :=
  match (s.faultsOf die).entries with
  | [] => s
  | r :: rest =>
    if 512 ≤ s.io.events.length then s
    else (s.onFaults die fun b => { b with entries := rest }).onIo fun io => { io with events := io.events ++ [(die, r)] }

/-- The I/O die takes at most one record from each local buffer, in ascending die order (R384). -/
def execEventQueueTake (s : State) : Host.Outcome State Fault Refusal := .next ((List.range 5).foldl State.takeRecordOf s)

/-- The 80 bytes of a fault-report entry as ten words (R348, R387). -/
def FaultRecord.entry (r : FaultRecord) : List W64 :=
  [r.origin, BitVec.ofNat 64 (bitNat r.fatal * 2 ^ 63 + bitNat r.notConsumed * 2 ^ 62 + r.seq.toNat)] ++
    ((List.range 6).map fun i => (r.infos[i]?).getD 0) ++ [r.merged, r.lastSeq.setWidth 64]

/-- A fault-report message: DIE is the die whose records it carries (R378, R379). -/
def reportMsg (die : Nat) (rs : List FaultRecord) : HostMsg :=
  let payload := rs.flatMap FaultRecord.entry
  { head := hostHead 5 false 0 die 0 payload.length, addr := 0, arg := BitVec.ofNat 64 rs.length, last := 0, payload := payload }

/-- Entries that EVQWIN lets out now (R384). -/
def IoDie.window (io : IoDie) : Nat := io.evqAck + io.evqWin.toNat - io.sent

/-- A die's fatal record is still to be sent (R386). -/
def State.fatalDue (s : State) (die : Nat) : Bool := (s.faultsOf die).fatal.isSome && !(s.faultsOf die).fatalSent

/-- The I/O die sends the oldest entries of its queue within the window: up to 32 of one die in one message, after every
fatal record (R384, R386). -/
def execFaultReport (s : State) : Host.Outcome State Fault Refusal :=
  if (List.range 5).any s.fatalDue then .next s
  else
    match s.io.events with
    | [] => .next s
    | e :: _ =>
      let run := (s.io.events.takeWhile fun x => x.1 = e.1).take (min 32 s.io.window)
      if run.isEmpty then .next s
      else
        let t := s.onIo fun io => { io with events := io.events.drop run.length, sent := io.sent + run.length }
        .next { t with toHost := t.toHost ++ [reportMsg e.1 (run.map Prod.snd)] }

/-- A fatal slot's record is sent in a message of its own, whatever the window allows (R386). -/
def execFatalRecord (die : Nat) (s : State) : Host.Outcome State Fault Refusal :=
  match (s.faultsOf die).fatal with
  | none => .next s
  | some r =>
    if !s.fatalDue die then .next s
    else
      let t := (s.onFaults die fun b => { b with fatalSent := true }).onIo fun io => { io with sent := io.sent + 1 }
      .next { t with toHost := t.toHost ++ [reportMsg die [r]] }

end Sys2Proof.Machine
end

