-- ==== Sys2Proof/Machine/Boot.lean ====
section
/-! DEFINITION. Cold reset, the boot ROM's checks of the image and the firmware's duties (R396 to R399). -/

namespace Sys2Proof.Machine

def State.onSec (s : State) (f : Security → Security) : State := s.onIo fun io => { io with sec := f io.sec }

/-- Cold reset: the package as reset leaves it, and the boot ROM has trained its links and entered LOAD (R396). No image
stands in memory (R398). What the control node and the peers have been sent, the model's own fields and the counts behind
fresh random values go on (log 4). -/
def execColdReset (s : State) : Host.Outcome State Fault Refusal :=
  let x := s.io.sec
  let t := State.reset.onSec fun y =>
    { y with state := .load, agreements := x.agreements, signatures := x.signatures, draws := x.draws }
  .next { t with toHost := s.toHost, toPeers := s.toPeers, nextUid := s.nextUid, cur := s.cur, agenda := s.agenda, free := s.free }

/-! ## The image (R397) -/

/-- Bytes of memory as stored, in the clear. -/
def State.clearBytes (s : State) (pa n : Nat) : List Byte := (List.range n).map fun i => s.homeByte 0 (pa + i)

def State.clearNat (s : State) (pa n : Nat) : Nat := natOfBytes (s.clearBytes pa n)

def State.imageLength (s : State) : Nat := s.clearNat 8 8
def State.imageSvn (s : State) : BitVec 32 := BitVec.ofNat 32 (s.clearNat 4 4)

/-- The SM3 digest of header bytes 87:0 followed by the body. -/
def State.imageDigest (s : State) : BitVec 256 := Config.sm3 (s.clearBytes 0 88 ++ s.clearBytes 256 s.imageLength)

/-- Check 1: LENGTH and ENTRY lie within the body. -/
def State.lengthOk (s : State) : Bool :=
  let n := s.imageLength
  let e := s.clearNat 16 8
  n % 8 = 0 && n ≤ 2 ^ 24 - 256 && e % 8 = 0 && e < n

/-- The first check that the image fails, as a REASON (R397). -/
def State.imageReason (s : State) : Option Nat :=
  if !s.lengthOk then some 1
  else if Config.sm3 (s.clearBytes 24 64) != Config.fusedKeyDigest then some 2
  else if !Config.sm2Verify (BitVec.ofNat 512 (s.clearNat 24 64)) s.imageDigest (BitVec.ofNat 512 (s.clearNat 88 64)) then some 3
  else if s.imageSvn.toNat < Config.fusedMinSvn.toNat then some 4
  else if s.clearNat 0 4 != 0x34324443 || s.clearNat 152 104 != 0 then some 5
  else none

/-- The ROM checks the image after a VERIFY command: INIT, with SVN and MEAS0, or FAILED with a REASON (R396, R397). -/
def execBootVerify (s : State) : Host.Outcome State Fault Refusal :=
  if s.io.sec.state != .verify then .next s
  else
    match s.imageReason with
    | some r => .next (s.onSec fun x => { x with state := .failed, reason := BitVec.ofNat 4 r })
    | none =>
      .next (s.onSec fun x => { x with state := .init, reason := 0, svn := s.imageSvn, meas0 := s.imageDigest })

/-! ## The firmware's duties (R399). A field marked "fw" takes its constant of Config, held to the field's bits and to
the limits its map states (log 3). -/

/-- SLICEHASH with every IDX of an enabled sub-slice 0 (R109, R305). -/
def fwHash : W64 :=
  let keep : Nat := (List.range 8).foldl (fun m i =>
    m + 2 ^ (5 * i + 4) + (if Config.fwSliceHash.getLsbD (5 * i + 4) then 15 * 2 ^ (5 * i) else 0)) 0
  Config.fwSliceHash &&& BitVec.ofNat 64 keep

/-- GOVCFG: DEPTH is at least 2^24 (R394). -/
def fwDepth (d : Nat) : BitVec 31 := BitVec.ofNat 31 (max (2 ^ 24) ((Config.fwGovCfg d).extractLsb' 32 31).toNat)

/-- The registers of a compute die that the firmware sets. -/
def DieRegs.firmware (r : DieRegs) (d : Nat) : DieRegs :=
  { r with
    privBase := Config.fwPrivBase d &&& 0x0000FFFFFFFF0000
    privStride := BitVec.ofNat 64 (max (2 ^ 22) (Config.fwPrivStride d &&& 0x000000FFFFFF0000).toNat)
    landBase := Config.fwLandBase d &&& 0x00FFFFFFFFF00000
    saveBase := Config.fwSaveBase d &&& 0x0000FFFFFFE00000
    saveStride := Config.fwSaveStride d &&& 0x000000FFFFE00000
    poisonBase := Config.fwPoisonBase d &&& 0x0000FFFFFFFFFF80
    poisonSize := Config.fwPoisonSize d }

/-- The log ring of a die, 4 being the I/O die: SIZE is 0 or at least 2 (R365). -/
def Recorder.firmware (r : Recorder) (d : Nat) : Recorder :=
  { r with
    logBase := Config.fwLogBase d &&& 0x0000FFFFFFFFFFE0
    logSize := if Config.fwLogSize d = 1 then 0 else Config.fwLogSize d }

/-- The governor's registers; the bucket holds DEPTH, and the die throttles at 105 degrees (R377, R394). -/
def Governor.firmware (g : Governor) (d : Nat) : Governor :=
  { g with
    depth := fwDepth d, rate := (Config.fwGovCfg d).extractLsb' 16 16, tthrot := 105
    carAmount := BitVec.ofNat 32 (min (fwDepth d).toNat (Config.fwGovCar d).toNat), bucket := 512 * (fwDepth d).toNat }

/-- A compute die after the firmware: its "fw" fields set and its barge records free. -/
def Die.firmware (x : Die) (d : Nat) : Die :=
  { x with
    regs := x.regs.firmware d, recorder := x.recorder.firmware d, gov := x.gov.firmware d, barges := [], handedOn := []
    dbg := { x.dbg with traceBase := Config.fwTraceBase d &&& 0x0000FFFFFFFFFF80, traceSize := Config.fwTraceSize d } }

/-- A port after training (R388, R399). -/
def Port.trained (p : Port) (n : Nat) : Port :=
  match Config.trainedPeer n with
  | some k => { p with up := true, farPkg := k }
  | none => p

/-- The I/O die after the firmware: its "fw" fields, the caches enabled, the phase barriers clear, the ports trained, and
a fresh key for each index 1 to 4,095. -/
def IoDie.firmware (io : IoDie) : IoDie :=
  let draws := io.sec.draws
  { io with
    sliceHash := fwHash, cacheEn := true, tierSize := BitVec.ofNat 12 (min 2048 (Config.fwTierSize.extractLsb' 0 12).toNat)
    phases := Vector.replicate 16 PhaseBarrier.reset, evqWin := if Config.fwEvqWin = 0 then 1 else Config.fwEvqWin
    pkgId := Config.fwPkgId, routeBase := Config.fwRouteBase &&& 0x0000FFFFFFFF8000
    ports := tabulate 32 fun n => ((io.ports[n]?).getD Port.reset).trained n
    recorder := io.recorder.firmware 4
    sec := { io.sec with
             draws := draws + 4095
             keys := (List.range 4095).map fun i => (i + 1, Config.freshKeyPair (draws + i), false)
             meas1 := Config.sm3 (wordBytes fwHash ++ wordBytes (Config.fwPkgId.setWidth 64) ++
                        wordBytes (Config.fusedMinSvn.setWidth 64))
             state := .ready } }

/-- The firmware finishes its duties and sets READY (R399); the route table is read as ROUTEBASE is written (R388). -/
def execFirmwareReady (s : State) : Host.Outcome State Fault Refusal :=
  if s.io.sec.state != .init then .next s
  else
    let s1 := (List.range 4).foldl (fun t d => t.onDie d fun x => x.firmware d) s
    let s2 := s1.onIo IoDie.firmware
    .next (s2.onIo fun io => { io with routes := s2.readRoutes io.routeBase.toNat })

end Sys2Proof.Machine
end

