-- ==== Sys2Proof/Machine/Vector.lean ====
section
/-! DEFINITION. The vector instructions of R120 to R138. -/

namespace Sys2Proof.Machine

/-! ## Elementwise arithmetic and logic (R120 to R123) -/

/-- x + y (R120). -/
def execVadd (w : RegForm) (s : State) : Host.Outcome State Fault Refusal :=
  vecRun (arithSpec w acceptIF true false (fun x y _ => x + y) (fun x y _ => x.add (rndDown w.rnd) y)) w s

/-- x - y (R120). -/
def execVsub (w : RegForm) (s : State) : Host.Outcome State Fault Refusal :=
  vecRun (arithSpec w acceptIF true false (fun x y _ => x - y) (fun x y _ => x.sub (rndDown w.rnd) y)) w s

/-- x times y (R120). -/
def execVmul (w : RegForm) (s : State) : Host.Outcome State Fault Refusal :=
  vecRun (arithSpec w acceptIF true false (fun x y _ => x * y) (fun x y _ => x.mul y)) w s

/-- x times y plus z, rounded once (R120). -/
def execVfma (w : RegForm) (s : State) : Host.Outcome State Fault Refusal :=
  vecRun (arithSpec w acceptIF true true (fun x y z => x * y + z) (fun x y z => (x.mul y).add (rndDown w.rnd) z)) w s

/-- x times y minus z, rounded once (R120). -/
def execVfms (w : RegForm) (s : State) : Host.Outcome State Fault Refusal :=
  vecRun (arithSpec w acceptIF true true (fun x y z => x * y - z) (fun x y z => (x.mul y).sub (rndDown w.rnd) z)) w s

/-- z minus x times y, rounded once (R120). -/
def execVfnma (w : RegForm) (s : State) : Host.Outcome State Fault Refusal :=
  vecRun (arithSpec w acceptIF true true (fun x y z => z - x * y) (fun x y z => z.sub (rndDown w.rnd) (x.mul y))) w s

/-- x over y, as FDIV (R120, R122). -/
def execVdiv (w : RegForm) (s : State) : Host.Outcome State Fault Refusal :=
  vecRun (arithSpec w acceptF true false (fun x _ _ => x) (fun x y _ => x.div y)) w s

/-- The square root of x (R120). -/
def execVsqrt (w : RegForm) (s : State) : Host.Outcome State Fault Refusal :=
  vecRun (arithSpec w acceptF false false (fun x _ _ => x) (fun x _ _ => x.sqrt)) w s

/-- VMIN and VMAX on elements of two registers (R122). -/
def minMaxSpec (large : Bool) (c : Crew) : VecSpec :=
  { bit := false, accept := acceptAny, useB := true, useD := false
    op := fun ta tb _ x y _ => storeChosen c.fmts ta (chooseElem c.fmts large (ta, x) (tb, y)) }

/-- Min(Max(z, x), y) (R120, R122). -/
def clampSpec (c : Crew) : VecSpec :=
  { bit := false, accept := acceptAny, useB := true, useD := true
    op := fun ta tb td x y z =>
      storeChosen c.fmts ta (chooseElem c.fmts false (chooseElem c.fmts true (td, z) (ta, x)) (tb, y)) }

/-- The smaller of x and y (R120, R122). -/
def execVmin (w : RegForm) (s : State) : Host.Outcome State Fault Refusal :=
  vecRun (minMaxSpec false) w s

/-- The larger of x and y (R120, R122). -/
def execVmax (w : RegForm) (s : State) : Host.Outcome State Fault Refusal :=
  vecRun (minMaxSpec true) w s

/-- The magnitude of x (R120 to R122). -/
def execVabs (w : RegForm) (s : State) : Host.Outcome State Fault Refusal :=
  vecRun (arithSpec w acceptAny false false (fun x _ _ => x.natAbs) (fun x _ _ => x.abs)) w s

/-- The negative of x (R120 to R122). -/
def execVneg (w : RegForm) (s : State) : Host.Outcome State Fault Refusal :=
  vecRun (arithSpec w acceptAny false false (fun x _ _ => -x) (fun x _ _ => x.neg)) w s

/-- Bitwise and (R123). -/
def execVand (w : RegForm) (s : State) : Host.Outcome State Fault Refusal :=
  vecRun (bitSpec true fun x y => x &&& y) w s

/-- Bitwise or (R123). -/
def execVor (w : RegForm) (s : State) : Host.Outcome State Fault Refusal :=
  vecRun (bitSpec true fun x y => x ||| y) w s

/-- Bitwise exclusive or (R123). -/
def execVxor (w : RegForm) (s : State) : Host.Outcome State Fault Refusal :=
  vecRun (bitSpec true fun x y => x ^^^ y) w s

/-- Every bit inverted (R123). -/
def execVnot (w : RegForm) (s : State) : Host.Outcome State Fault Refusal :=
  vecRun (bitSpec false fun x _ => 2 ^ 64 - 1 - x) w s

/-- x shifted left by y (R121). -/
def execVshl (w : RegForm) (s : State) : Host.Outcome State Fault Refusal :=
  vecRun (codeSpec acceptI true fun t x y => shlElem t.width x y) w s

/-- x shifted right by y, zeros entering (R121). -/
def execVshr (w : RegForm) (s : State) : Host.Outcome State Fault Refusal :=
  vecRun (codeSpec acceptI true fun t x y => shrElem t.width x y) w s

/-- x shifted right by y, the sign entering (R121). -/
def execVsra (w : RegForm) (s : State) : Host.Outcome State Fault Refusal :=
  vecRun (codeSpec acceptI true fun t x y => sraElem t.width x y) w s

/-- Bits 2w-1 to w of the exact product, signed for I types (R120, R121). -/
def execVmulh (w : RegForm) (s : State) : Host.Outcome State Fault Refusal :=
  vecRun (codeSpec acceptI true fun t x y => wrapInt t.width (intOf t.isSigned t.width x * intOf t.isSigned t.width y / 2 ^ t.width)) w s

/-- Min(Max(z, x), y) (R120, R122). -/
def execVclamp (w : RegForm) (s : State) : Host.Outcome State Fault Refusal :=
  vecRun clampSpec w s

/-- One bits of x (R120). -/
def execVpopc (w : RegForm) (s : State) : Host.Outcome State Fault Refusal :=
  vecRun (codeSpec acceptI false fun t x _ => onesOf t.width x) w s

/-- Leading zeros of x within the element width (R120). -/
def execVclz (w : RegForm) (s : State) : Host.Outcome State Fault Refusal :=
  vecRun (codeSpec acceptI false fun t x _ => clzOf t.width x) w s

/-- |x| with the sign of y (R120, R122). -/
def copySignSpec (c : Crew) : VecSpec :=
  { bit := false, accept := acceptFN, useB := true, useD := false
    op := fun ta tb _ x y _ => copySignElem c.fmts ta tb x y }

/-- The magnitude of x with the sign of y (R120, R122). -/
def execVcopysgn (w : RegForm) (s : State) : Host.Outcome State Fault Refusal :=
  vecRun copySignSpec w s

/-- The types of VSFU and VGUMBEL: F16, BF16 and F32 (R136, R137). -/
def acceptShortF (t : ElemTy) : Bool := !t.isInt && t.narrowIndex.isNone && !t.is64

/-- VSFU on one element (R136); the key names the function and how it rounds, for a value left undecided. -/
def sfuSpec (w : RegForm) (c : Crew) : VecSpec :=
  { bit := false, accept := acceptShortF, useB := false, useD := false
    op := fun ta _ _ x _ _ =>
      match ta.fmt c.fmts with
      | none => 0
      | some f =>
        sfu (Sfu.of (fnOP w).toNat) f (Rnd.of w.rnd) (w.sat = 1) (f.decode x)
          ((fnOP w).toNat + 16 * w.rnd.toNat + 128 * w.sat.toNat + 256 * f.man) }

/-- A special function, its exact value rounded once (R136). -/
def execVsfu (w : RegForm) (s : State) : Host.Outcome State Fault Refusal :=
  vecRun (sfuSpec w) w s

/-! ## Moves, selections and conversions (R124 to R127) -/

/-- Per lane, a's word or pair when the lane is set in Mask(c), else b's; d takes a's tag (R124). -/
def execVsel (w : RegForm) (s : State) : Host.Outcome State Fault Refusal :=
  anyInstr s fun s c => do
    let ev := guardSet w.guard c
    let ta := (c.vreg w.a.toNat).tag
    checkReserved 1 ta
    checkReserved 2 (c.vreg w.b.toNat).tag
    let pair := tagIs64 ta
    needEven pair w.d.toNat
    needEven pair w.a.toNat
    needEven pair w.b.toNat
    let m := c.mask w.c
    let a := c.source w.a.toNat pair
    let b := c.source w.b.toNat pair
    a.consume c.lanes ev
    b.consume c.lanes ev
    .ok (s.finishVec (c.writeVec w.d.toNat pair ev (fun l => if m.getLsbD l then a.lane l else b.lane l) ta)
      (regsOf w.a.toNat pair ++ regsOf w.b.toNat pair) (regsOf w.d.toNat pair))

/-- The source of a word whose a is a register or a popped row: the source, the state after the pop, and the registers read. -/
def State.sourceA (s : State) (w : RegForm) (c : Crew) (pair : Bool) : Eff (Source × State) := do
  if fnQA w then
    let x ← s.popRow c (chanIndex w.a)
    .ok (x.1.source, x.2)
  else .ok (c.source w.a.toNat pair, s)

/-- A result goes to the lanes of ev of d, or into a row of channel d; then the instruction is complete. -/
def State.resultD (s : State) (w : RegForm) (c : Crew) (pair : Bool) (ev : Mask) (f : Nat → Nat) (tag : BitVec 8)
    (reads : List Nat) : State :=
  if fnQD w then (s.pushRow c (chanIndex w.d) (c.makeRow ev f 0 tag)).finishVec c reads []
  else s.finishVec (c.writeVec w.d.toNat pair ev f tag) reads (regsOf w.d.toNat pair)

/-- Room in the destination channel of a word, after the pop of its source row (R115). -/
def State.roomD (s : State) (w : RegForm) (c : Crew) : Eff Unit :=
  if fnQD w then s.pushReady c (chanIndex w.d) else .ok ()

/-- The tag that VMOV writes: a's under ety 0, else the ety's with the index of c and the scaled bit of OP (R77, R124). -/
def movTag (w : RegForm) (ta : BitVec 8) : BitVec 8 :=
  match etyType w.ety (w.c.toNat - 0x90) with
  | none => ta
  | some t => t.tag ||| (if (fnOP w).getLsbD 0 then 0x80 else 0)

/-- Copies a's bits to the lanes of E, and a's tag or the tag of ety (R124). -/
def execVmov (w : RegForm) (s : State) : Host.Outcome State Fault Refusal :=
  anyInstr s fun s c => do
    let ev := guardSet w.guard c
    let pairOf (t : BitVec 8) : Bool := if w.ety = 0 then tagIs64 t else ety64 w.ety
    let x ← s.sourceA w c (pairOf (c.vreg w.a.toNat).tag)
    x.2.roomD w c
    checkReserved (if fnQA w then 4 else 1) x.1.tag
    let pair := pairOf x.1.tag
    if pair && (fnQA w || fnQD w) then vecFault 5
    needEven pair w.d.toNat
    needEven pair w.a.toNat
    let ev1 := ev &&& ~~~x.1.void
    x.1.consume c.lanes ev1
    .ok (x.2.resultD w c pair ev1 x.1.lane (movTag w x.1.tag) (if fnQA w then [] else regsOf w.a.toNat pair))

/-- The type that a word's ety names, with the format register of its c (R124, R125). -/
def destType (w : RegForm) : ElemTy := (etyType w.ety (w.c.toNat - 0x90)).getD (.uint 32)

/-- The check of a conversion's source: reserved, raw, width and scaled; any class 1 to 5 is taken (R125, R405). R125 gives kind 3
to raw bits for VCVT alone; that VPACK's and VUNPK's a raises it too, at an ety of 1 to 12 as well, where R75 would let raw bits
pass, is the model's (DESIGN CHOICE, log 90). -/
def checkAnyTyped (fms : Vector (BitVec 32) 16) (pos : Nat) (tag : BitVec 8) : Eff ElemTy :=
  if tagReserved false tag then tagFault 1 pos tag
  else
    match tagType tag with
    | none => tagFault 3 pos tag
    | some t =>
      if t.widMismatch fms then tagFault 2 pos tag
      else if tagScaled tag then tagFault 4 pos tag
      else .ok t

/-- A 64-bit type whose ety names d is a pair (R113); the lane's elements are then one. -/
def convertLane (fms : Vector (BitVec 32) 16) (w : RegForm) (src dst : ElemTy) (shift : Nat) (x : Nat) : Nat :=
  laneMap dst.width dst.perLane fun e =>
    if e + shift < src.perLane then
      convert fms src dst (Rnd.of w.rnd) (w.sat = 1) (elemOf src.width x (e + shift))
    else 0

/-- Converts a's elements to the type of ety, element by element; destination elements above a's are 0 (R125). A popped row of a
64-bit tag fails with detail 5: R114 and R119 say so of ety 0, which VCVT never has (DESIGN CHOICE, log 90). -/
def execVcvt (w : RegForm) (s : State) : Host.Outcome State Fault Refusal :=
  anyInstr s fun s c => do
    let ev := guardSet w.guard c
    let dst := destType w
    let x ← s.sourceA w c (tagIs64 (c.vreg w.a.toNat).tag)
    x.2.roomD w c
    let src ← checkAnyTyped c.fmts (if fnQA w then 4 else 1) x.1.tag
    checkResult c.fmts dst
    if src.is64 && fnQA w then vecFault 5
    needEven (src.is64 && !fnQA w) w.a.toNat
    let ev1 := ev &&& ~~~x.1.void
    x.1.consume c.lanes ev1
    .ok (x.2.resultD w c dst.is64 ev1 (fun l => convertLane c.fmts w src dst 0 (x.1.lane l)) dst.tag
      (if fnQA w then [] else regsOf w.a.toNat src.is64))

/-- VPACK's check of b, which must carry a's type: raw bits fail with kind 3 where ety is 13 or 14 (R75), and with kind 2
under an ety of 1 to 12, where R75 lets raw bits pass and R126 asks for a's type. -/
def checkPacked (fms : Vector (BitVec 32) 16) (ety : BitVec 4) (src : ElemTy) (tag : BitVec 8) : Eff Unit :=
  if !tagReserved false tag && (tagType tag).isNone && !(ety = 13 || ety = 14) then tagFault 2 2 tag
  else checkTyped fms 0 src 2 tag

/-- Narrows two registers into one: a's elements, then b's (R126). -/
def execVpack (w : RegForm) (s : State) : Host.Outcome State Fault Refusal :=
  anyInstr s fun s c => do
    let ev := guardSet w.guard c
    let dst := destType w
    let ta := (c.vreg w.a.toNat).tag
    let tb := (c.vreg w.b.toNat).tag
    let src ← checkAnyTyped c.fmts 1 ta
    if 2 * dst.width != src.width || src.is64 then tagFault 2 1 ta
    checkPacked c.fmts w.ety src tb
    checkResult c.fmts dst
    let a := c.source w.a.toNat false
    let b := c.source w.b.toNat false
    a.consume c.lanes ev
    b.consume c.lanes ev
    let q := src.perLane
    let f (l : Nat) : Nat := laneMap dst.width dst.perLane fun e =>
      convert c.fmts src dst (Rnd.of w.rnd) (w.sat = 1)
        (if e < q then elemOf src.width (a.lane l) e else elemOf src.width (b.lane l) (e - q))
    .ok (s.finishVec (c.writeVec w.d.toNat false ev f dst.tag) [w.a.toNat, w.b.toNat] [w.d.toNat])

/-- Widens the low or the high elements of a (R126). -/
def execVunpk (w : RegForm) (s : State) : Host.Outcome State Fault Refusal :=
  anyInstr s fun s c => do
    let ev := guardSet w.guard c
    let dst := destType w
    let ta := (c.vreg w.a.toNat).tag
    let src ← checkAnyTyped c.fmts 1 ta
    if dst.width != 2 * src.width then tagFault 2 1 ta
    checkResult c.fmts dst
    let a := c.source w.a.toNat false
    a.consume c.lanes ev
    let shift := if (fnOP w).getLsbD 0 then dst.perLane else 0
    .ok (s.finishVec (c.writeVec w.d.toNat false ev (fun l => convertLane c.fmts w src dst shift (a.lane l)) dst.tag)
      [w.a.toNat] [w.d.toNat])

/-- Every element of every lane in E receives the low bits of s[a] (R127). Under ety 13 and 14 the result is encoded under a
format register, whose WID must agree: R405 exempts bit-level instructions and VMOV alone. DEDUCED, see log entry 90. -/
def execVbcast (w : RegForm) (s : State) : Host.Outcome State Fault Refusal :=
  anyInstr s fun s c => do
    let t := destType w
    checkResult c.fmts t
    let x := (c.sreg w.a).toNat % 2 ^ t.width
    .ok (s.finishVec (c.writeVec w.d.toNat t.is64 (guardSet w.guard c) (fun _ => laneMap t.width t.perLane fun _ => x) t.tag)
      [] (regsOf w.d.toNat t.is64))

/-- Each lane l in E receives s[a] + l modulo 2^32, tagged N32 (R127). -/
def execVidx (w : RegForm) (s : State) : Host.Outcome State Fault Refusal :=
  anyInstr s fun s c =>
    .ok (s.finishVec (c.writeVec w.d.toNat false (guardSet w.guard c) (fun l => ((c.sreg w.a).toNat + l) % 2 ^ 32) 0x22)
      [] [w.d.toNat])

/-! ## Compare (R128) -/

/-- The mask bit of lane l in E is set when the relation holds for every element of the lane (R128). -/
def execVcmp (w : RegForm) (s : State) : Host.Outcome State Fault Refusal :=
  anyInstr s fun s c => do
    let ev := guardSet w.guard c
    let rel := (fnOP w).toNat
    let ta := (c.vreg w.a.toNat).tag
    let tb := (c.vreg w.b.toNat).tag
    let t ← firstType c.fmts w.ety (fun t => rel != 5 || !t.isInt) 1 ta
    checkTyped c.fmts w.ety t 2 tb
    needEven t.is64 w.a.toNat
    needEven t.is64 w.b.toNat
    let a := c.source w.a.toNat t.is64
    let b := c.source w.b.toNat t.is64
    a.consume c.lanes ev
    b.consume c.lanes ev
    let t2 := sourceType t tb
    let holds (l : Nat) : Bool := (List.range t.perLane).all fun e =>
      relHolds rel (t.value c.fmts (elemOf t.width (a.lane l) e)) (t2.value c.fmts (elemOf t.width (b.lane l) e))
    let set := maskOf ((lanesOf c.lanes ev).filter holds)
    .ok (s.finishVec (c.setM w.d ((c.mask w.d &&& ~~~ev) ||| set))
      (regsOf w.a.toNat t.is64 ++ regsOf w.b.toNat t.is64) [])

/-! ## Reductions, scans, extraction and dot products (R82, R129 to R132) -/

/-- An element as the result of a reduction or a scan: a float goes through RoundToFormat, as every float result does,
so a NaN becomes the canonical one and sat turns an infinity into the largest finite value; an integer stays (R62, R71). -/
def finalElem (fms : Vector (BitVec 32) 16) (r : BitVec 3) (sat : Bool) (t : ElemTy) (x : Nat) : Nat :=
  match t.fmt fms with
  | none => x
  | some f => f.round (Rnd.of r) sat (t.value fms x)

/-- One combine of a reduction or a scan, rounded or fitted (R82, R129). The rounding of R82 and R130 is the instruction's,
sat with it, for .min and .max too: DEDUCED, see log entry 90. -/
def combineElem (fms : Vector (BitVec 32) 16) (op : Nat) (r : BitVec 3) (sat : Bool) (t : ElemTy) (x y : Nat) : Nat :=
  if op = 0 then
    arithElem fms r sat (fun a b _ => a + b) (fun a b _ => a.add (rndDown r) b) t t t x y 0
  else if op = 1 then finalElem fms r sat t (chooseElem fms false (t, x) (t, y)).2
  else if op = 2 then finalElem fms r sat t (chooseElem fms true (t, x) (t, y)).2
  else if op = 3 then x &&& y
  else if op = 4 then x ||| y
  else x ^^^ y

/-- The empty-reduction value of an operation (R129). -/
def emptyElem (fms : Vector (BitVec 32) 16) (op : Nat) (t : ElemTy) : Nat :=
  match t.fmt fms with
  | some f => if op = 1 then f.infCode false else if op = 2 then f.infCode true else 0
  | none =>
    if op = 1 then wrapInt t.width (intMax t.isSigned t.width)
    else if op = 2 then wrapInt t.width (intMin t.isSigned t.width)
    else if op = 3 then 2 ^ t.width - 1
    else 0

/-- One level of the fixed pairwise tree: absent elements pass the present one up (R82). -/
def treeLevel (op : Nat → Nat → Nat) : List (Option Nat) → List (Option Nat)
  | some x :: some y :: rest => some (op x y) :: treeLevel op rest
  | some x :: none :: rest => some x :: treeLevel op rest
  | none :: o :: rest => o :: treeLevel op rest
  | [o] => [o]
  | [] => []

/-- The tree over a list whose length the levels halve; `fuel` bounds the levels (R82). -/
def treeReduce (op : Nat → Nat → Nat) : Nat → List (Option Nat) → Option Nat
  | 0, xs => xs.head?.join
  | fuel + 1, xs =>
    match xs with
    | [] => none
    | [o] => o
    | xs => treeReduce op fuel (treeLevel op xs)

/-- The elements of a crew's lanes in linear-index order; an element is present when its lane is in E (R82). -/
def presentElems (t : ElemTy) (n : Nat) (ev : Mask) (a : Source) : List (Option Nat) :=
  (List.range n).flatMap fun l =>
    (List.range t.perLane).map fun e => if ev.getLsbD l then some (elemOf t.width (a.lane l) e) else none

/-- An element written to a scalar register: sign-extended for an I type, zero-extended otherwise (R129, R131). -/
def scalarOfElem (t : ElemTy) (x : Nat) : W64 := extend t.isSigned t.width x

/-- Whether an operation takes a type: and, or and xor take integers alone (R129). -/
def opAccepts (op : Nat) (t : ElemTy) : Bool := acceptIF t && (op ≤ 2 || t.isInt)

/-- Reduces the elements of the lanes in E over the fixed tree (R129). -/
def execVred (w : RegForm) (s : State) : Host.Outcome State Fault Refusal :=
  anyInstr s fun s c => do
    let ev := guardSet w.guard c
    let op := (fnOP w).toNat
    let t ← firstType c.fmts w.ety (opAccepts op) 1 (c.vreg w.a.toNat).tag
    needEven t.is64 w.a.toNat
    let a := c.source w.a.toNat t.is64
    a.consume c.lanes ev
    let r :=
      match treeReduce (combineElem c.fmts op w.rnd (w.sat = 1) t) 16 (presentElems t c.lanes ev a) with
      | none => emptyElem c.fmts op t
      | some x => finalElem c.fmts w.rnd (w.sat = 1) t x
    .ok (s.finishVec (c.setS w.d (scalarOfElem t r)) (regsOf w.a.toNat t.is64) [])

/-- The running values of a scan over one lane's elements: the values given, and the running value after them. -/
def scanLane (op : Nat → Nat → Nat) (excl : Bool) : List Nat → Nat → List Nat × Nat
  | [], run => ([], run)
  | x :: rest, run =>
    let run' := op run x
    let r := scanLane op excl rest run'
    ((if excl then run else run') :: r.1, r.2)

/-- The scan over the lanes, in ascending order: each active lane's result value (R130). -/
def scanLanes (op : Nat → Nat → Nat) (excl : Bool) (t : ElemTy) (a : Source) : List Nat → Nat → List (Nat × Nat)
  | [], _ => []
  | l :: rest, run =>
    let r := scanLane op excl ((List.range t.perLane).map fun e => elemOf t.width (a.lane l) e) run
    (l, packElems t.width r.1) :: scanLanes op excl t a rest r.2

/-- A running combination over the elements of the lanes in E (R130). -/
def execVscan (w : RegForm) (s : State) : Host.Outcome State Fault Refusal :=
  anyInstr s fun s c => do
    let ev := guardSet w.guard c
    let op := ((fnOP w).extractLsb' 0 3).toNat
    let t ← firstType c.fmts w.ety (opAccepts op) 1 (c.vreg w.a.toNat).tag
    needEven t.is64 w.a.toNat
    needEven t.is64 w.d.toNat
    let a := c.source w.a.toNat t.is64
    a.consume c.lanes ev
    let out := scanLanes (combineElem c.fmts op w.rnd (w.sat = 1) t) ((fnOP w).getLsbD 3) t a (lanesOf c.lanes ev)
      (emptyElem c.fmts op t)
    .ok (s.finishVec (c.writeVec w.d.toNat t.is64 ev (fun l => (assocGet out l).getD 0) t.tag)
      (regsOf w.a.toNat t.is64) (regsOf w.d.toNat t.is64))

/-- The element of a at linear index s[b], or 0 (R131). -/
def execVext (w : RegForm) (s : State) : Host.Outcome State Fault Refusal :=
  anyInstr s fun s c => do
    let ev := guardSet w.guard c
    let t ← firstType c.fmts w.ety acceptAny 1 (c.vreg w.a.toNat).tag
    needEven t.is64 w.a.toNat
    let a := c.source w.a.toNat t.is64
    let i := (c.sreg w.b).toNat
    let l := i / t.perLane
    let inside := i < c.lanes * t.perLane && ev.getLsbD l
    if inside then a.consume c.lanes (maskOf [l])
    let v := if inside then scalarOfElem t (elemOf t.width (a.lane l) (i % t.perLane)) else 0
    .ok (s.finishVec (c.setS w.d v) (regsOf w.a.toNat t.is64) [])

/-- The types VDOT takes: I8, N8, F16, BF16 and the narrow floats (R132). -/
def acceptDot (t : ElemTy) : Bool := if t.isInt then t.width == 8 else !(t == .ieee 2 || t == .ieee 3)

/-- VDOT's accumulator type: I32 for integers, F32 otherwise (R132). -/
def dotType (t : ElemTy) : ElemTy := if t.isInt then .sint 32 else .ieee 2

/-- d plus the products of one lane's elements, exact and fitted once (R83, R132). -/
def dotLane (fms : Vector (BitVec 32) 16) (r : BitVec 3) (sat : Bool) (t : ElemTy) (x y z : Nat) : Nat :=
  let es := List.range t.perLane
  if t.isInt then
    fitInt true 32 sat (es.foldl (fun a e => a + intOf t.isSigned 8 (elemOf 8 x e) * intOf t.isSigned 8 (elemOf 8 y e))
      (intOf true 32 z))
  else
    Fmt.f32.round (Rnd.of r) sat (sumExact (rndDown r) (Fmt.f32.decode z ::
      es.map fun e => (t.value fms (elemOf t.width x e)).mul (t.value fms (elemOf t.width y e))))

/-- The ety under which VDOT checks b and d: where the first source's type is its tag's own (ety 0, 13 and 14), raw bits
fail and the whole type must agree, the format register's index with it; else `named` (R75, R132). -/
def dotEty (ety named : BitVec 4) : BitVec 4 := if ety = 0 || ety = 13 || ety = 14 then 0 else named

/-- Adds the exact dot product of a lane's packed elements to d (R132). -/
def execVdot (w : RegForm) (s : State) : Host.Outcome State Fault Refusal :=
  anyInstr s fun s c => do
    let ev := guardSet w.guard c
    let ta := (c.vreg w.a.toNat).tag
    let tb := (c.vreg w.b.toNat).tag
    let td := (c.vreg w.d.toNat).tag
    let t ← firstType c.fmts w.ety acceptDot 1 ta
    checkTyped c.fmts (dotEty w.ety w.ety) t 2 tb
    checkTyped c.fmts (dotEty w.ety 11) (dotType t) 0 td
    let a := c.source w.a.toNat false
    let b := c.source w.b.toNat false
    let z := c.source w.d.toNat false
    a.consume c.lanes ev
    b.consume c.lanes ev
    z.consume c.lanes ev
    .ok (s.finishVec (c.writeVec w.d.toNat false ev
        (fun l => dotLane c.fmts w.rnd (w.sat = 1) t (a.lane l) (b.lane l) (z.lane l)) (dotType t).tag)
      [w.a.toNat, w.b.toNat, w.d.toNat] [w.d.toNat])

/-! ## Votes and shuffles (R133 to R135) -/

/-- The result of a vote over the counted lanes (R133). -/
def voteResult (op : Nat) (n : Nat) (counted pred : Mask) : W64 :=
  let hits := lanesOf n (counted &&& pred)
  if op = 0 then flagWord (!hits.isEmpty)
  else if op = 1 then flagWord ((lanesOf n (counted &&& ~~~pred)).isEmpty)
  else if op = 2 then BitVec.ofNat 64 hits.length
  else BitVec.ofNat 64 (hits.head?.getD 1024)

/-- A vote of the counted lanes, those of Mask(b) in E (R133). -/
def execVvote (w : RegForm) (s : State) : Host.Outcome State Fault Refusal :=
  anyInstr s fun s c =>
    let counted := c.mask w.b &&& guardSet w.guard c
    .ok (s.finishVec (c.setS w.d (voteResult (fnOP w).toNat c.lanes counted (c.mask w.a))) [] [])

/-- What lane l of a shuffle reads: no lane, which gives 0; or lane j. -/
inductive Pick where
  | zero
  | lane (j : Nat)
  deriving DecidableEq, Repr

/-- A shuffle whose picks are given (R134): an exited or unfilled lane gives 0 and sets VOIDREAD; a marked word
raises poison whatever the source lane's state. -/
def shuffle (s : State) (c : Crew) (ev : Mask) (d a : Nat) (pick : Nat → Pick) (reads : List Nat) : Eff State := do
  let ta := (c.vreg a).tag
  checkReserved 1 ta
  let pair := tagIs64 ta
  needEven pair d
  needEven pair a
  let src := c.source a pair
  let ls := lanesOf c.lanes ev
  let read : List Nat := ls.filterMap fun l =>
    match pick l with
    | .lane j => some j
    | .zero => none
  src.consume c.lanes (maskOf read)
  let void := read.any fun j => !c.live.getLsbD j
  let f (l : Nat) : Nat :=
    match pick l with
    | .zero => 0
    | .lane j => if c.live.getLsbD j then src.lane j else 0
  let c' := c.writeVec d pair ev f ta
  .ok (s.finishVec (if void then c'.setVoidRead else c') (regsOf a pair ++ reads) (regsOf d pair))

/-- Each lane in E reads a's word at the lane that b's word names (R134). -/
def execVshuf (w : RegForm) (s : State) : Host.Outcome State Fault Refusal :=
  anyInstr s fun s c => do
    let ev := guardSet w.guard c
    checkReserved 1 (c.vreg w.a.toNat).tag
    let tb := (c.vreg w.b.toNat).tag
    if tagReserved false tb then tagFault 1 2 tb
    if tb != 0x12 && tb != 0x22 then tagFault 2 2 tb
    let b := c.source w.b.toNat false
    b.consume c.lanes ev
    shuffle s c ev w.d.toNat w.a.toNat
      (fun l => if b.lane l < c.lanes then .lane (b.lane l) else .zero) [w.b.toNat]

/-- The pick of VSHUFI's modes (R135). -/
def shufMode (mode k n l : Nat) : Pick :=
  if mode = 0 then (let j := l ^^^ k; if j < n then .lane j else .lane l)
  else if mode = 1 then .lane ((l + k) % n)
  else if mode = 2 then (if k < n then .lane k else .zero)
  else if mode = 3 then (if k ≤ l then .lane (l - k) else .lane l)
  else (if l + k < n then .lane (l + k) else .lane l)

/-- As VSHUF, the source lane following from a mode (R135); an F, raw or scaled tag on a faults as R138 says. -/
def execVshufi (w : ImmForm) (s : State) : Host.Outcome State Fault Refusal :=
  anyInstr s fun s c => do
    let _ ← firstType c.fmts 0 acceptI 1 (c.vreg w.a.toNat).tag
    shuffle s c (guardSet w.guard c) w.d.toNat w.a.toNat
      (shufMode (w.imm.extractLsb' 0 3).toNat (w.imm.extractLsb' 3 10).toNat c.lanes) []

/-! ## Gumbel noise (R137) -/

/-- d plus the noise of a vocabulary index, for one element (R137). -/
def gumbelElem (fms : Vector (BitVec 32) 16) (r : BitVec 3) (sat : Bool) (key : W64) (t : ElemTy) (z idx : Nat) : Nat :=
  match t.fmt fms with
  | none => 0
  | some f =>
    let h := mix (key ^^^ BitVec.ofNat 64 (idx % 2 ^ 32))
    let g := Fmt.f32.decode (gumbel (h.extractLsb' 40 24).toNat (2 ^ 20))
    f.round (Rnd.of r) sat ((f.decode z).add (rndDown r) g)

/-- Adds counter-based Gumbel noise to the logits of d (R137). R137 asks for an N32 tag of c and names no tag-fault kind: any other
tag, raw bits among them, raises kind 2 (DESIGN CHOICE, log 90). -/
def execVgumbel (w : RegForm) (s : State) : Host.Outcome State Fault Refusal :=
  anyInstr s fun s c => do
    let ev := guardSet w.guard c
    let t ← firstType c.fmts w.ety acceptShortF 0 (c.vreg w.d.toNat).tag
    let tc := (c.vreg w.c.toNat).tag
    if tagReserved false tc then tagFault 1 3 tc
    if tc != 0x22 then tagFault 2 3 tc
    let key := mix (mix (c.sreg w.a) ^^^ c.sreg w.b)
    let z := c.source w.d.toNat false
    let v := c.source w.c.toNat false
    z.consume c.lanes ev
    v.consume c.lanes ev
    let f (l : Nat) : Nat := laneMap t.width t.perLane fun e =>
      gumbelElem c.fmts w.rnd (w.sat = 1) key t (elemOf t.width (z.lane l) e) (v.lane l + e)
    .ok (s.finishVec (c.writeVec w.d.toNat false ev f t.tag) [w.d.toNat, w.c.toNat] [w.d.toNat])

/-! ## Immediate forms (R138) -/

/-- An immediate form on the elements of a, whose type comes from its tag and must be an integer (R138). -/
def vecImm (w : ImmForm) (s : State) (f : ElemTy → Nat → Nat) : Host.Outcome State Fault Refusal :=
  anyInstr s fun s c => do
    let ev := guardSet w.guard c
    let t ← firstType c.fmts 0 acceptI 1 (c.vreg w.a.toNat).tag
    needEven t.is64 w.d.toNat
    needEven t.is64 w.a.toNat
    let a := c.source w.a.toNat t.is64
    a.consume c.lanes ev
    .ok (s.finishVec (c.writeVec w.d.toNat t.is64 ev
        (fun l => laneMap t.width t.perLane fun e => f t (elemOf t.width (a.lane l) e)) t.tag)
      (regsOf w.a.toNat t.is64) (regsOf w.d.toNat t.is64))

/-- imm31 bits 5:0 (R138). -/
def immShift (w : ImmForm) : Nat := (w.imm.extractLsb' 0 6).toNat

/-- x + i, wrapped to the element width (R138). -/
def execVaddi (w : ImmForm) (s : State) : Host.Outcome State Fault Refusal :=
  vecImm w s fun t x => wrapInt t.width (x + w.imm.toInt)

/-- As VSHL by n (R138). -/
def execVshli (w : ImmForm) (s : State) : Host.Outcome State Fault Refusal :=
  vecImm w s fun t x => shlElem t.width x (immShift w)

/-- As VSHR by n (R138). -/
def execVshri (w : ImmForm) (s : State) : Host.Outcome State Fault Refusal :=
  vecImm w s fun t x => shrElem t.width x (immShift w)

/-- As VSRA by n (R138). -/
def execVsrai (w : ImmForm) (s : State) : Host.Outcome State Fault Refusal :=
  vecImm w s fun t x => sraElem t.width x (immShift w)

/-- Each lane word in E receives the immediate sign-extended to 32 bits; tag 0x00 (R138). -/
def execVli (w : ImmForm) (s : State) : Host.Outcome State Fault Refusal :=
  anyInstr s fun s c =>
    .ok (s.finishVec (c.writeVec w.d.toNat false (guardSet w.guard c) (fun _ => (w.imm.signExtend 32).toNat) 0)
      [] [w.d.toNat])

end Sys2Proof.Machine
end

