-- ==== Sys2Proof/Machine/Pairs.lean ====
section
/-! DEFINITION. The P word, which runs two slot operations as one instruction (R26 to R30), and the words that move
rows between registers and channels (R155). -/

namespace Sys2Proof.Machine

/-! ## P words -/

/-- What a slot does once both slots have been checked: its change to the state and the crew, whose sources were read
before either slot writes, and the vector registers that it reads and writes (R30). -/
structure SlotEffect where
  apply : State → Crew → State × Crew
  reads : List Nat
  writes : List Nat

/-- The register form that a slot's operation is the full form of (R27). -/
def slotForm (x : Slot) : RegForm :=
  { guard := 0, d := x.d, a := x.d, b := x.s, c := 0x90, rnd := x.rnd, sat := x.sat, ety := x.ety, fn := 0 }

/-- A scalar slot's result, from the old values of d and s (R28). -/
def slotScalar (x : Slot) (p q : W64) : W64 :=
  let g := scalarFmt x.ety
  let fl (v : XReal) : W64 := BitVec.ofNat 64 (g.round (Rnd.of x.rnd) (x.sat = 1) v)
  if x.sop = 0x01 then scalarArith x.ety x.sat (fun a b => a + b) p q
  else if x.sop = 0x02 then scalarArith x.ety x.sat (fun a b => a - b) p q
  else if x.sop = 0x03 then scalarArith x.ety x.sat (fun a b => a * b) p q
  else if x.sop = 0x04 then p &&& q
  else if x.sop = 0x05 then p ||| q
  else if x.sop = 0x06 then p ^^^ q
  else if x.sop = 0x07 then p <<< shiftBy q
  else if x.sop = 0x08 then p >>> shiftBy q
  else if x.sop = 0x09 then p.sshiftRight (shiftBy q)
  else if x.sop = 0x0A then (if p.sle q then p else q)
  else if x.sop = 0x0B then (if p.sle q then q else p)
  else if x.sop = 0x0C then q
  else if x.sop = 0x0D then fl ((floatOf g p).add (rndDown x.rnd) (floatOf g q))
  else if x.sop = 0x0E then fl ((floatOf g p).mul (floatOf g q))
  else if x.sop = 0x0F then fl (if pickMin (floatOf g p) (floatOf g q) then floatOf g p else floatOf g q)
  else fl (if pickMax (floatOf g p) (floatOf g q) then floatOf g p else floatOf g q)

/-- The elementwise instruction that a vector slot names (R28). -/
def slotInstr (x : Slot) (c : Crew) : VecSpec :=
  let w := (slotForm x)
  if x.sop = 0x41 then arithSpec w acceptIF true false (fun x y _ => x + y) (fun x y _ => x.add (rndDown w.rnd) y) c
  else if x.sop = 0x42 then arithSpec w acceptIF true false (fun x y _ => x - y) (fun x y _ => x.sub (rndDown w.rnd) y) c
  else if x.sop = 0x43 then arithSpec w acceptIF true false (fun x y _ => x * y) (fun x y _ => x.mul y) c
  else if x.sop = 0x44 then bitSpec true (fun x y => x &&& y) c
  else if x.sop = 0x45 then bitSpec true (fun x y => x ||| y) c
  else if x.sop = 0x46 then bitSpec true (fun x y => x ^^^ y) c
  else if x.sop = 0x47 then codeSpec acceptI true (fun t x y => shlElem t.width x y) c
  else if x.sop = 0x48 then codeSpec acceptI true (fun t x y => shrElem t.width x y) c
  else if x.sop = 0x49 then codeSpec acceptI true (fun t x y => sraElem t.width x y) c
  else minMaxSpec (x.sop = 0x4B) c

/-- The elementwise instruction of a vector slot; no slot takes F64, by its ety or by its tag (R27). -/
def slotSpec (x : Slot) (c : Crew) : VecSpec :=
  { slotInstr x c with accept := fun t => (slotInstr x c).accept t && t != .ieee 3 }

/-- A slot that computes a lane value from one source register s: VMOV and VCVT. -/
def slotMove (x : Slot) (c : Crew) : Eff SlotEffect := do
  let ta := (c.vreg x.s.toNat).tag
  let ev := c.cur
  if x.sop = 0x4C then
    checkReserved 1 ta
    let pair := if x.ety = 0 then tagIs64 ta else ety64 x.ety
    needEven pair x.d.toNat
    needEven pair x.s.toNat
    let a := c.source x.s.toNat pair
    a.consume c.lanes ev
    .ok { apply := fun s c1 => (s, c1.writeVec x.d.toNat pair ev a.lane (movTag (slotForm x) ta))
          reads := regsOf x.s.toNat pair, writes := regsOf x.d.toNat pair }
  else
    let dst := destType (slotForm x)
    let src ← checkAnyTyped c.fmts 1 ta
    checkResult c.fmts dst
    needEven src.is64 x.s.toNat
    let a := c.source x.s.toNat src.is64
    a.consume c.lanes ev
    .ok { apply := fun s c1 =>
            (s, c1.writeVec x.d.toNat dst.is64 ev (fun l => convertLane c.fmts (slotForm x) src dst 0 (a.lane l)) dst.tag)
          reads := regsOf x.s.toNat src.is64, writes := regsOf x.d.toNat dst.is64 }

/-- An elementwise vector slot on the lanes of the current mask (R30). -/
def slotElem (x : Slot) (c : Crew) : Eff SlotEffect := do
  let p := slotSpec x c
  let w := slotForm x
  let r : StepRegs := ⟨x.d.toNat, x.d.toNat, x.s.toNat⟩
  p.checkOne c w r
  let ta := (c.vreg r.a).tag
  let tb := (c.vreg r.b).tag
  let t := p.runType w ta
  let pair := pairStep t ta
  let a := c.source r.a pair
  let b := c.source r.b pair
  a.consume c.lanes c.cur
  b.consume c.lanes c.cur
  .ok { apply := fun s c1 =>
          (s, c1.writeVec r.d pair c.cur (fun l => p.lane t ta tb ta (a.lane l) (b.lane l) (a.lane l)) (resultTag t ta))
        reads := regsOf r.a pair ++ regsOf r.b pair, writes := regsOf r.d pair }

/-- The checks of a slot and its effect (R28, R30). -/
def slotEffect (s : State) (c : Crew) (x : Slot) : Eff SlotEffect := do
  if x.sop = 0 then .ok { apply := fun s c1 => (s, c1), reads := [], writes := [] }
  else if x.sop = 0x11 then
    let _ ← s.loadInto c (c.sreg x.s) x.ety x.d
    .ok { apply := fun t c1 => (t.loadInto c1 (c.sreg x.s) x.ety x.d).toOption.getD (t, c1), reads := [], writes := [] }
  else if x.sop = 0x12 then
    let _ ← s.storeFrom c (c.sreg x.s) x.ety (c.sreg x.d)
    .ok { apply := fun t c1 => (t.storeFrom c1 (c.sreg x.s) x.ety (c.sreg x.d)).toOption.getD (t, c1), reads := [], writes := [] }
  else if sopVec x.sop then (if x.sop = 0x4C || x.sop = 0x4D then slotMove x c else slotElem x c)
  else
    let v := slotScalar x (c.sreg x.d) (c.sreg x.s)
    .ok { apply := fun s c1 => (s, c1.setS x.d v), reads := [], writes := [] }

/-- Both slots of a P word, or neither: a slot that must wait holds the word before issue, and slot A's fault stands
before slot B's (R30). -/
def execPWord (a b : Slot) (s : State) : Host.Outcome State Fault Refusal :=
  anyInstr s fun s c =>
    match slotEffect s c a, slotEffect s c b with
    | .error .stall, _ => stalled
    | _, .error .stall => stalled
    | .error f, _ => .error f
    | _, .error f => .error f
    | .ok x, .ok y =>
      let p := x.apply s c
      let q := y.apply p.1 p.2
      .ok (q.1.finishVec q.2 (x.reads ++ y.reads) (x.writes ++ y.writes))

/-! ## Rows between registers and channels (R155) -/

/-- Pops the head row into the lanes of E that the row does not leave void (R155). -/
def execVpop (w : RegForm) (s : State) : Host.Outcome State Fault Refusal :=
  anyInstr s fun s c => do
    let x ← s.popRow c (chanIndex w.a)
    checkReserved 4 x.1.tag
    if tagIs64 x.1.tag then vecFault 5
    let ev := guardSet w.guard c &&& ~~~x.1.void
    x.1.source.consume c.lanes ev
    .ok (x.2.finishVec (c.writeVec w.d.toNat false ev x.1.source.lane x.1.tag) [] [w.d.toNat])

/-- Pushes a row of a's words for the lanes of E (R155). -/
def execVpush (w : RegForm) (s : State) : Host.Outcome State Fault Refusal :=
  anyInstr s fun s c => do
    s.pushReady c (chanIndex w.d)
    let ev := guardSet w.guard c
    let ta := (c.vreg w.a.toNat).tag
    checkReserved 1 ta
    if tagIs64 ta then tagFault 2 1 ta
    let a := c.source w.a.toNat false
    a.consume c.lanes ev
    .ok ((s.pushRow c (chanIndex w.d) (c.makeRow ev a.lane 0 ta)).finishVec c [w.a.toNat] [])

end Sys2Proof.Machine
end

