-- ==== Sys2Proof/Machine/Wilite.lean ====
section
/-! DEFINITION. The messages of the Wilite link: memory, tokens, signals and attestation (R323, R378 to R383, R400 to R404). -/

namespace Sys2Proof

/-! ## The header (R378) -/

def HostMsg.type (m : HostMsg) : Nat := (m.head >>> 60).toNat
def HostMsg.resp (m : HostMsg) : Bool := m.head.getLsbD 59
def HostMsg.die (m : HostMsg) : Nat := (m.head.extractLsb' 52 4).toNat
def HostMsg.phys (m : HostMsg) : Bool := m.head.getLsbD 51
def HostMsg.tag (m : HostMsg) : Nat := (m.head.extractLsb' 32 16).toNat
def HostMsg.len (m : HostMsg) : Nat := (m.head.extractLsb' 0 10).toNat
/-- ARG bits 7:0: the kind of a signal or of an attestation (R379). -/
def HostMsg.kind (m : HostMsg) : Nat := (m.arg.extractLsb' 0 8).toNat

/-- The limits of the header in a request: STATUS and the zero fields are zero, and LEN is the payload's length. -/
def HostMsg.headOk (m : HostMsg) : Bool :=
  m.head.extractLsb' 56 3 == 0 && m.head.extractLsb' 48 3 == 0 && m.head.extractLsb' 10 22 == 0 && m.last == 0 &&
    m.len ≤ 512 && m.len == m.payload.length

/-- A request of a type, which a row of the table serves. -/
def HostMsg.asks (m : HostMsg) (type : Nat) : Bool := m.type == type && !m.resp

/-- The bytes of the payload. -/
def HostMsg.bytes (m : HostMsg) : List Byte := m.payload.flatMap wordBytes

/-- The limits of R381 on an access of n bytes: aligned, inside one 4 KiB block, 8 bytes on the 0xE0 path, and a physical
address below 2^48. -/
def HostMsg.rangeFits (m : HostMsg) (n : Nat) : Bool :=
  m.addr.toNat % 8 = 0 && m.addr.toNat % 4096 + n ≤ 4096 && (!m.phys || m.addr.toNat < 2 ^ 48) &&
    (m.phys || Machine.topByte m.addr != 0xE0 || n = 8)

end Sys2Proof

namespace Sys2Proof.Machine

/-! ## Statuses and the order of answers (R380, R382) -/

/-- The answer to an earlier signal or post is still due: requests are answered in the order of their arrival (R382). -/
def State.answerDue (s : State) : Bool :=
  (s.flight.arrivals.any fun a => a.answer.isSome) || s.flight.posts.any fun p => p.answer.isSome

/-- A request answered with a status and nothing else. -/
def State.answer (s : State) (m : HostMsg) (status : Nat) : Host.Outcome State Fault Refusal :=
  .next (s.respond m.type m.tag status [])

/-- A request as the I/O die takes it: only a message of the row's type is one, it waits while an answer is due, and a
broken limit gives BADMSG (R378, R382). -/
def request (m : HostMsg) (type : Nat) (limits : Bool) (s : State) (serve : State → Host.Outcome State Fault Refusal) :
    Host.Outcome State Fault Refusal :=
  if !m.asks type || s.answerDue then .next s
  else if !m.headOk || !limits then s.answer m 5
  else serve s

/-- A message served as an arrival: the I/O die notes it in its log, or holds it until its log or its gate lets it in
(R335, R340). -/
def State.asArrival (s : State) (type : Nat) (addr : W64) (count : Nat) (serve : State → Host.Outcome State Fault Refusal) :
    Host.Outcome State Fault Refusal :=
  if s.arrivalOpen type addr then serve (s.noteArrival type addr count) else .next s

/-! ## Where a message's address leads (R381) -/

/-- What a memory message names, or its status: 1 ERROR, 6 DENIED. -/
def State.hostPlace (s : State) (m : HostMsg) (n : Nat) (write : Bool) : Except Nat Place :=
  let a := m.addr
  let t := topByte a
  if m.phys then
    if s.paRange a.toNat n then .ok (.pa a.toNat 0 none) else .error 1
  else if t = 0 then
    if 3 < m.die || (s.remoteWindow a).isSome then .error 1
    else
      match s.walk m.die a.toNat with
      | none => .error 1
      | some e =>
        let open_ := (s.io.sec.keys.find? fun k => k.1 = e.key).map fun k => k.2.2
        if e.key != 0 && open_ != some true then .error 6 else .ok (e.place a.toNat)
  else if !topOk a || !rangeOk 0 a n then .error 1
  else if t = 0xD0 then (if write then .error 1 else .ok (.barge (tileDie a) (a.extractLsb' 0 22).toNat))
  else if t = 0xC0 || (0xB0 ≤ t && t ≤ 0xB3) then .ok (.chip a.toNat)
  else .error 1

/-- A byte at its home slice, in a basin, a tile store or a barge store. -/
def State.hostByte (s : State) (p : Place) : Byte :=
  match p with
  | .pa pa key _ => s.homeByte key pa
  | .chip k => s.cell k
  | .barge d off => s.bargeByte d off

/-- n 8-byte words from a place; a word that carries an uncorrectable error is a free value (log 8). -/
def State.hostWords (s : State) (p : Place) (n : Nat) : List W64 :=
  (List.range n).map fun i =>
    let q := p.plus (8 * i)
    if s.homeMarked q 8 then Config.freeWord (s.free + i)
    else BitVec.ofNat 64 (natOfBytes ((List.range 8).map fun j => s.hostByte (q.plus j)))

/-- Bytes written at the home slice, in a basin or a tile store, under the I/O die's clock (R323). -/
def State.hostWrite (s : State) (p : Place) (bs : List Byte) : State :=
  (bs.zipIdx.foldl (fun t x =>
    match p.plus x.2 with
    | .pa pa key _ => t.setHomeByte key pa x.1
    | .chip k => t.setCell k x.1
    | .barge _ _ => t) s).clearPlace p bs.length |>.stampPlace 4 p bs.length

/-! ## Memory messages (R379, R381, R382) -/

/-- The message names a register of the 0xE0 path. -/
def onRegPath (m : HostMsg) : Bool := !m.phys && topByte m.addr = 0xE0

/-- BOOTSTAT and BOOTCMD answer before READY (R382). -/
def bootReg (m : HostMsg) : Bool :=
  onRegPath m &&
    (match regAddr m.addr with
     | some r => r.die = 4 && r.block = 0 && (r.off = 0x190 || r.off = 0x198)
     | none => false)

/-- A write with PHYS 1 inside the boot range (R382, R396). -/
def bootWrite (m : HostMsg) : Bool := m.phys && m.addr.toNat + 8 * m.len ≤ 0x1000000

/-- A register of a recorder: access to it neither enters the log nor waits at its gate, since it is what releases them (R376,
log 22). -/
def recorderReg (a : W64) : Bool :=
  match regAddr a with
  | some r => r.block = 0 && 0x108 ≤ r.off && r.off ≤ 0x130
  | none => false

/-- A register access served, as an arrival unless it names a register of a recorder. -/
def State.regArrival (s : State) (m : HostMsg) (serve : State → Host.Outcome State Fault Refusal) : Host.Outcome State Fault Refusal :=
  if recorderReg m.addr then serve s else s.asArrival m.type m.addr 0 serve

/-- An access to bytes of the package served: as an arrival, and at the order points of its lines under the control node's CID
0xFFFF (R333, R336, R340). -/
def State.byteArrival (s : State) (m : HostMsg) (p : Place) (n : Nat) (serve : State → Host.Outcome State Fault Refusal) :
    Host.Outcome State Fault Refusal :=
  if s.spanHeld 0xFFFF [(p, n)] then .next (s.spanWaits 0xFFFF [(p, n)])
  else s.asArrival m.type m.addr 0 fun s => serve (s.spanServed 0xFFFF [(p, n)])

/-- READY is set (R396). -/
def State.isReady (s : State) : Bool := s.io.sec.state = .ready

/-- A write in state FAILED into the boot range enters LOAD (R396). -/
def State.reload (s : State) : State :=
  if s.io.sec.state = .failed then s.onSec fun x => { x with state := .load } else s

/-- A memory message whose limits hold and whose target may be reached: a register access, or an access to bytes, which
the I/O die logs and gates as an arrival (R335, R340). -/
def State.writeMessage (s : State) (m : HostMsg) : Host.Outcome State Fault Refusal :=
  if onRegPath m then
    s.regArrival m fun s =>
      match s.writeReg m.addr ((m.payload[0]?).getD 0) with
      | .ok t => t.answer m 0
      | .error e => s.answer m e
  else
    match s.hostPlace m (8 * m.len) true with
    | .error e => s.answer m e
    | .ok p =>
      s.byteArrival m p (8 * m.len) fun s =>
        let s1 := s.hostWrite p m.bytes
        (if m.phys && bootWrite m then s1.reload else s1).answer m 0

/-- The payload is written at ADDR (R379). -/
def execWriteMemory (m : HostMsg) (s : State) : Host.Outcome State Fault Refusal :=
  request m 1 (1 ≤ m.len && m.rangeFits (8 * m.len)) s fun s =>
    if s.isReady || bootWrite m || bootReg m then s.writeMessage m else s.answer m 2

/-- A multiple of 8 bytes, 8 to 4,096, are read at ADDR after every earlier message (R323, R379); a refused register read gives
the zero that R308 and R372 state beside its status. -/
def execReadMemory (m : HostMsg) (s : State) : Host.Outcome State Fault Refusal :=
  let n := m.arg.toNat
  request m 2 (m.len = 0 && 8 ≤ n && n ≤ 4096 && n % 8 = 0 && m.rangeFits n) s fun s =>
    if !(s.isReady || bootReg m) then s.answer m 2
    else if onRegPath m then
      s.regArrival m fun s =>
        match s.readReg m.addr with
        | .ok v => .next (s.respond 2 m.tag 0 [v])
        | .error e => .next (s.respond 2 m.tag e [0])
    else
      match s.hostPlace m n false with
      | .error e => s.answer m e
      | .ok p =>
        s.byteArrival m p n fun s =>
          .next (({ s with free := s.free + n / 8 }.mergeStamps 4 (p.cells n)).respond 2 m.tag 0 (s.hostWords p (n / 8)))

/-! ## Tokens and signals (R279, R381, R383) -/

/-- Tokens posted to a node record on path 0x00, as a release at .sys; the answer carries word 0 before them (R379, R381). -/
def execPostToken (m : HostMsg) (s : State) : Host.Outcome State Fault Refusal :=
  let n := m.arg.toNat
  request m 3 (m.len = 0 && 1 ≤ n && n ≤ 65535 && !m.phys && topByte m.addr = 0 && m.addr.toNat % 8 = 0) s fun s =>
    if !s.isReady then s.answer m 2
    else if m.addr.toNat % 128 != 0 then s.answer m 1
    else
      match s.hostPlace m 8 true with
      | .error e => s.answer m e
      | .ok _ =>
        s.asArrival 3 m.addr n fun s =>
          .next (s.ioRelease.post
            { agent := none, writer := 4, node := m.addr, die := m.die, count := n, op := none, dest := none, pred := 0
              answer := some (BitVec.ofNat 16 m.tag) })

/-- The zero fields of a barge record as a signal carries it (R226). -/
def signalZeros (bs : List Byte) : Bool :=
  bytesAt bs 51 1 / 4 == 0 && bytesAt bs 52 1 / 4 == 0 && bytesAt bs 54 10 == 0

/-- The barge and the lock reference of a signal: none when the reference is malformed or REMOTE, or a zero field of the
record is not zero. -/
def signalOf (m : HostMsg) : Option (Barge × LockRef) :=
  match lockRef ((m.payload[8]?).getD 0) with
  | none => none
  | some r => if r.peer.isSome || !signalZeros m.bytes then none else some (bargeOf (m.bytes.take 64), r)

/-- The barge of a signal set off towards its lock, with the next SEQ of the lock's die, and with a record where one is free: else it
takes one when its turn at the lock comes (R228, R231, R383). -/
def State.signalArrival (s : State) (m : HostMsg) (r : LockRef) (b0 : Barge) : State :=
  let d := r.die
  let b : Barge := { b0 with seq := (s.die d).nextSeq, flags := 0, origin := 0 }
  let a : Arrival :=
    { die := d, region := r.region, lock := r.lock, record := (s.die d).freeRecord, barge := b, op := none, fromRegion := none
      sender := .host, cid := 0xFFFF, credit := none, answer := some (BitVec.ofNat 16 m.tag), redirected := false, by_ := 0
      waiting := false }
  let t := match a.record with
           | some i => s.putBarge d i b
           | none => s
  (t.onDie d fun y => { y with nextSeq := y.nextSeq + 1 }).onFlight fun f =>
    { f with arrivals := f.arrivals ++ [a] }

/-- A signal of kind 1 boards a barge, as a release at .sys; the answer comes when the barge is placed (R383). -/
def execSignalBoard (m : HostMsg) (s : State) : Host.Outcome State Fault Refusal :=
  request m 4 (m.kind = 1 && m.len = 9 && (signalOf m).isSome) s fun s =>
    if !s.isReady then s.answer m 2
    else
      match signalOf m with
      | none => s.answer m 5
      | some (b, r) =>
        let ref := (m.payload[8]?).getD 0
        let to_ := (s.die r.die).redirect r.die r.region r.lock b none
        if !payloadOk b.payload then s.answer m 1
        else if ((s.die r.die).declaredLock r.region r.lock).isNone then s.answer m 3
        else if !s.lockRoom r.die to_.1 to_.2 then s.answer m 4
        else s.asArrival 4 ref 0 fun s => .next (s.ioRelease.signalArrival m r b)

/-! ## Attestation (R400 to R402, R404) -/

/-- The bytes as 8-byte words, the last one filled with zeros. -/
def wordsOf (bs : List Byte) : List W64 :=
  (List.range ((bs.length + 7) / 8)).map fun i => BitVec.ofNat 64 (natOfBytes ((bs.drop (8 * i)).take 8))

/-- MEAS0 stands: the firmware is measured (R382, R397). -/
def Security.measured (x : Security) : Bool := x.state = .init || x.state = .ready

/-- Bytes 191:0 of the report (R401). -/
def State.reportBody (s : State) (nonce : List Byte) : List Byte :=
  let x := s.io.sec
  let m1 : BitVec 256 := if x.state = .ready then x.meas1 else 0
  bytesOfNat 16 Config.deviceId.toNat ++ nonce ++ bytesOfNat 32 x.meas0.toNat ++ bytesOfNat 32 m1.toNat ++
    bytesOfNat 4 x.svn.toNat ++ bytesOfNat 2 s.io.pkgId.toNat ++ [BitVec.ofNat 8 x.state.code] ++ List.replicate 73 0

/-- A signature under the identity key, each with randomness of its own (R400). -/
def State.sign (s : State) (bs : List Byte) : State × List Byte :=
  (s.onSec fun x => { x with signatures := x.signatures + 1 },
   bytesOfNat 64 (Config.sm2Sign Config.identityKey (Config.sm3 bs) s.io.sec.signatures).toNat)

/-- Kind 1: the signed report over a nonce (R401). -/
def execAttestReport (m : HostMsg) (s : State) : Host.Outcome State Fault Refusal :=
  if m.kind != 1 then .next s
  else request m 6 (m.len = 4) s fun s =>
    if !s.io.sec.measured then s.answer m 2
    else
      s.asArrival 6 m.addr 0 fun s =>
        let body := s.reportBody m.bytes
        let r := s.sign body
        .next (r.1.respond 6 m.tag 0 (wordsOf (body ++ r.2)))

/-- Kind 2: the device's ephemeral key and its signature over both keys; the two sides agree KS (R400). -/
def execAttestKeyAgree (m : HostMsg) (s : State) : Host.Outcome State Fault Refusal :=
  if m.kind != 2 then .next s
  else request m 6 (m.len = 8) s fun s =>
    if !s.isReady then s.answer m 2
    else
      s.asArrival 6 m.addr 0 fun s =>
        let n := s.io.sec.agreements
        let theirs := BitVec.ofNat 512 (natOfBytes m.bytes)
        let ours := bytesOfNat 64 (Config.sm2Ephemeral n).toNat
        let r := s.sign (m.bytes ++ ours)
        let t := r.1.onSec fun x => { x with session := some (Config.sm2Agree n theirs), agreements := n + 1 }
        .next (t.respond 6 m.tag 0 (wordsOf (ours ++ r.2)))

/-- Every dirty line of an index is written back under the old key, and the pair of the index is replaced (R404). -/
def State.installKey (s : State) (index : Nat) (pair : BitVec 256) (hostrw : Bool) : State :=
  let s1 := (List.range 4).foldl (fun t d => t.writeBack d fun l => l.key = index) s
  s1.onSec fun x => { x with keys := (index, pair, hostrw) :: x.keys.filter fun k => k.1 != index }

/-- The zero fields of a key load (R402). -/
def keyLoadZeros (bs : List Byte) : Bool := bytesAt bs 2 1 / 4 == 0 && bytesAt bs 3 13 == 0 && bytesAt bs 76 4 == 0

/-- A key load performed: a fresh random pair with ERASE, else the pair that opens under KS; the index or the tag may deny it
(R402). -/
def State.loadKey (s : State) (m : HostMsg) (ks : BitVec 128) : Host.Outcome State Fault Refusal :=
  let index := bytesAt m.bytes 0 2
  let hostrw := bytesAt m.bytes 2 1 % 2 = 1
  if index = 0 || 4095 < index then s.answer m 6
  else if bytesAt m.bytes 2 1 / 2 % 2 = 1 then
    ((s.onSec fun x => { x with draws := x.draws + 1 }).installKey index (Config.freshKeyPair s.io.sec.draws) hostrw).answer m 0
  else
    match Config.gcmOpen ks (BitVec.ofNat 96 (bytesAt m.bytes 16 12)) (m.bytes.take 16) ((m.bytes.drop 28).take 32)
        (BitVec.ofNat 128 (bytesAt m.bytes 60 16)) with
    | none => s.answer m 6
    | some clear => (s.installKey index (BitVec.ofNat 256 (natOfBytes clear)) hostrw).answer m 0

/-- Kind 3: a key pair is opened under KS and installed, or with ERASE a fresh random pair is (R402). -/
def execKeyLoad (m : HostMsg) (s : State) : Host.Outcome State Fault Refusal :=
  if m.kind != 3 then .next s
  else request m 6 (m.len = 10 && keyLoadZeros m.bytes) s fun s =>
    if !s.isReady then s.answer m 2
    else
      match s.io.sec.session with
      | none => s.answer m 6
      | some ks => s.asArrival 6 m.addr 0 fun s => s.loadKey m ks

/-- Kind 4: the certificate of the identity key (R400). -/
def execAttestCert (m : HostMsg) (s : State) : Host.Outcome State Fault Refusal :=
  if m.kind != 4 then .next s
  else request m 6 true s fun s =>
    if !s.io.sec.measured then s.answer m 2
    else s.asArrival 6 m.addr 0 fun s => .next (s.respond 6 m.tag 0 (wordsOf Config.identityCertificate))

/-! ## Messages that no row serves (R378, R379, R400) -/

/-- A reserved TYPE, or a reserved kind of attestation. -/
def reservedType (m : HostMsg) : Bool :=
  m.type = 0 || m.type = 5 || 7 ≤ m.type || (m.type = 6 && !(1 ≤ m.kind && m.kind ≤ 4))

/-- Such a message has no effect; a request draws BADMSG, a response draws nothing (R378). -/
def execReservedMessageType (m : HostMsg) (s : State) : Host.Outcome State Fault Refusal :=
  if m.resp || !reservedType m || s.answerDue then .next s else s.answer m 5

end Sys2Proof.Machine
end

