-- ==== Sys2Proof/Machine/Dispatch.lean ====
section
/-! DEFINITION. The dispatch of an instruction to its meaning, one arm per row of the opcode table. -/

namespace Sys2Proof.Machine

def exec (i : Instr) (s : State) : Host.Outcome State Fault Refusal :=
  match i with
  | .add w => Sys2Proof.Machine.execAdd w s
  | .sub w => Sys2Proof.Machine.execSub w s
  | .mul w => Sys2Proof.Machine.execMul w s
  | .mulh w => Sys2Proof.Machine.execMulh w s
  | .mulhu w => Sys2Proof.Machine.execMulhu w s
  | .div w => Sys2Proof.Machine.execDiv w s
  | .divu w => Sys2Proof.Machine.execDivu w s
  | .rem w => Sys2Proof.Machine.execRem w s
  | .remu w => Sys2Proof.Machine.execRemu w s
  | .andR w => Sys2Proof.Machine.execAnd w s
  | .orR w => Sys2Proof.Machine.execOr w s
  | .xorR w => Sys2Proof.Machine.execXor w s
  | .andn w => Sys2Proof.Machine.execAndn w s
  | .shl w => Sys2Proof.Machine.execShl w s
  | .shr w => Sys2Proof.Machine.execShr w s
  | .sra w => Sys2Proof.Machine.execSra w s
  | .rot w => Sys2Proof.Machine.execRot w s
  | .minR w => Sys2Proof.Machine.execMin w s
  | .maxR w => Sys2Proof.Machine.execMax w s
  | .minu w => Sys2Proof.Machine.execMinu w s
  | .maxu w => Sys2Proof.Machine.execMaxu w s
  | .clz w => Sys2Proof.Machine.execClz w s
  | .ctz w => Sys2Proof.Machine.execCtz w s
  | .popc w => Sys2Proof.Machine.execPopc w s
  | .sext w => Sys2Proof.Machine.execSext w s
  | .zext w => Sys2Proof.Machine.execZext w s
  | .sel w => Sys2Proof.Machine.execSel w s
  | .cmpeq w => Sys2Proof.Machine.execCmpeq w s
  | .cmpne w => Sys2Proof.Machine.execCmpne w s
  | .cmplt w => Sys2Proof.Machine.execCmplt w s
  | .cmpltu w => Sys2Proof.Machine.execCmpltu w s
  | .cmple w => Sys2Proof.Machine.execCmple w s
  | .cmpleu w => Sys2Proof.Machine.execCmpleu w s
  | .fadd w => Sys2Proof.Machine.execFadd w s
  | .fsub w => Sys2Proof.Machine.execFsub w s
  | .fmul w => Sys2Proof.Machine.execFmul w s
  | .ffma w => Sys2Proof.Machine.execFfma w s
  | .fdiv w => Sys2Proof.Machine.execFdiv w s
  | .fsqrt w => Sys2Proof.Machine.execFsqrt w s
  | .fmin w => Sys2Proof.Machine.execFmin w s
  | .fmax w => Sys2Proof.Machine.execFmax w s
  | .fcmp w => Sys2Proof.Machine.execFcmp w s
  | .fcvt w => Sys2Proof.Machine.execFcvt w s
  | .jmp w => Sys2Proof.Machine.execJmp w s
  | .callr w => Sys2Proof.Machine.execCallr w s
  | .ret w => Sys2Proof.Machine.execRet w s
  | .join w => Sys2Proof.Machine.execJoin w s
  | .nop w => Sys2Proof.Machine.execNop w s
  | .wait w => Sys2Proof.Machine.execWait w s
  | .mand w => Sys2Proof.Machine.execMand w s
  | .mor w => Sys2Proof.Machine.execMor w s
  | .mxor w => Sys2Proof.Machine.execMxor w s
  | .mnot w => Sys2Proof.Machine.execMnot w s
  | .mcnt w => Sys2Proof.Machine.execMcnt w s
  | .many w => Sys2Proof.Machine.execMany w s
  | .ld w => Sys2Proof.Machine.execLd w s
  | .st w => Sys2Proof.Machine.execSt w s
  | .lda w => Sys2Proof.Machine.execLda w s
  | .stl w => Sys2Proof.Machine.execStl w s
  | .amo w => Sys2Proof.Machine.execAmo w s
  | .amov w => Sys2Proof.Machine.execAmov w s
  | .cas w => Sys2Proof.Machine.execCas w s
  | .fence w => Sys2Proof.Machine.execFence w s
  | .cpy w => Sys2Proof.Machine.execCpy w s
  | .chwait w => Sys2Proof.Machine.execChwait w s
  | .chwaitRows w => Sys2Proof.Machine.execChwaitRows w s
  | .secfg w => Sys2Proof.Machine.execSecfg w s
  | .sego w => Sys2Proof.Machine.execSego w s
  | .sestop w => Sys2Proof.Machine.execSestop w s
  | .pref w => Sys2Proof.Machine.execPref w s
  | .addi w => Sys2Proof.Machine.execAddi w s
  | .muli w => Sys2Proof.Machine.execMuli w s
  | .andi w => Sys2Proof.Machine.execAndi w s
  | .ori w => Sys2Proof.Machine.execOri w s
  | .xori w => Sys2Proof.Machine.execXori w s
  | .shli w => Sys2Proof.Machine.execShli w s
  | .shri w => Sys2Proof.Machine.execShri w s
  | .srai w => Sys2Proof.Machine.execSrai w s
  | .cmpeqi w => Sys2Proof.Machine.execCmpeqi w s
  | .cmplti w => Sys2Proof.Machine.execCmplti w s
  | .cmpltui w => Sys2Proof.Machine.execCmpltui w s
  | .li w => Sys2Proof.Machine.execLi w s
  | .lih w => Sys2Proof.Machine.execLih w s
  | .br w => Sys2Proof.Machine.execBr w s
  | .brz w => Sys2Proof.Machine.execBrz w s
  | .brnz w => Sys2Proof.Machine.execBrnz w s
  | .call w => Sys2Proof.Machine.execCall w s
  | .brd w => Sys2Proof.Machine.execBrd w s
  | .brany w => Sys2Proof.Machine.execBrany w s
  | .brall w => Sys2Proof.Machine.execBrall w s
  | .markR w => Sys2Proof.Machine.execMark w s
  | .ldo w => Sys2Proof.Machine.execLdo w s
  | .sto w => Sys2Proof.Machine.execSto w s
  | .getsr w => Sys2Proof.Machine.execGetsr w s
  | .setsr w => Sys2Proof.Machine.execSetsr w s
  | .vadd w => Sys2Proof.Machine.execVadd w s
  | .vsub w => Sys2Proof.Machine.execVsub w s
  | .vmul w => Sys2Proof.Machine.execVmul w s
  | .vfma w => Sys2Proof.Machine.execVfma w s
  | .vfms w => Sys2Proof.Machine.execVfms w s
  | .vfnma w => Sys2Proof.Machine.execVfnma w s
  | .vdiv w => Sys2Proof.Machine.execVdiv w s
  | .vsqrt w => Sys2Proof.Machine.execVsqrt w s
  | .vmin w => Sys2Proof.Machine.execVmin w s
  | .vmax w => Sys2Proof.Machine.execVmax w s
  | .vabs w => Sys2Proof.Machine.execVabs w s
  | .vneg w => Sys2Proof.Machine.execVneg w s
  | .vand w => Sys2Proof.Machine.execVand w s
  | .vor w => Sys2Proof.Machine.execVor w s
  | .vxor w => Sys2Proof.Machine.execVxor w s
  | .vnot w => Sys2Proof.Machine.execVnot w s
  | .vshl w => Sys2Proof.Machine.execVshl w s
  | .vshr w => Sys2Proof.Machine.execVshr w s
  | .vsra w => Sys2Proof.Machine.execVsra w s
  | .vcmp w => Sys2Proof.Machine.execVcmp w s
  | .vsel w => Sys2Proof.Machine.execVsel w s
  | .vcvt w => Sys2Proof.Machine.execVcvt w s
  | .vmov w => Sys2Proof.Machine.execVmov w s
  | .vbcast w => Sys2Proof.Machine.execVbcast w s
  | .vext w => Sys2Proof.Machine.execVext w s
  | .vred w => Sys2Proof.Machine.execVred w s
  | .vscan w => Sys2Proof.Machine.execVscan w s
  | .vvote w => Sys2Proof.Machine.execVvote w s
  | .vshuf w => Sys2Proof.Machine.execVshuf w s
  | .vsfu w => Sys2Proof.Machine.execVsfu w s
  | .vgumbel w => Sys2Proof.Machine.execVgumbel w s
  | .vidx w => Sys2Proof.Machine.execVidx w s
  | .vmulh w => Sys2Proof.Machine.execVmulh w s
  | .vclamp w => Sys2Proof.Machine.execVclamp w s
  | .vpack w => Sys2Proof.Machine.execVpack w s
  | .vunpk w => Sys2Proof.Machine.execVunpk w s
  | .vpopc w => Sys2Proof.Machine.execVpopc w s
  | .vclz w => Sys2Proof.Machine.execVclz w s
  | .vdot w => Sys2Proof.Machine.execVdot w s
  | .vcopysgn w => Sys2Proof.Machine.execVcopysgn w s
  | .vld w => Sys2Proof.Machine.execVld w s
  | .vst w => Sys2Proof.Machine.execVst w s
  | .vgath w => Sys2Proof.Machine.execVgath w s
  | .vscat w => Sys2Proof.Machine.execVscat w s
  | .vamo w => Sys2Proof.Machine.execVamo w s
  | .vmaxvi w => Sys2Proof.Machine.execVmaxvi w s
  | .vpop w => Sys2Proof.Machine.execVpop w s
  | .vpush w => Sys2Proof.Machine.execVpush w s
  | .mma w => Sys2Proof.Machine.execMma w s
  | .mmaz w => Sys2Proof.Machine.execMmaz w s
  | .accz w => Sys2Proof.Machine.execAccz w s
  | .drain w => Sys2Proof.Machine.execDrain w s
  | .scaleA w => Sys2Proof.Machine.execScaleA w s
  | .scaleB w => Sys2Proof.Machine.execScaleB w s
  | .scaleNoa w => Sys2Proof.Machine.execScaleNoa w s
  | .scaleNob w => Sys2Proof.Machine.execScaleNob w s
  | .tld w => Sys2Proof.Machine.execTld w s
  | .tldBind w => Sys2Proof.Machine.execTldBind w s
  | .tst w => Sys2Proof.Machine.execTst w s
  | .trelEmpty w => Sys2Proof.Machine.execTrelEmpty w s
  | .trelFull w => Sys2Proof.Machine.execTrelFull w s
  | .batonTake w => Sys2Proof.Machine.execBatonTake w s
  | .batonPass w => Sys2Proof.Machine.execBatonPass w s
  | .batonDrop w => Sys2Proof.Machine.execBatonDrop w s
  | .leaveReq w => Sys2Proof.Machine.execLeaveReq w s
  | .leaveRet w => Sys2Proof.Machine.execLeaveRet w s
  | .vaddi w => Sys2Proof.Machine.execVaddi w s
  | .vshli w => Sys2Proof.Machine.execVshli w s
  | .vshri w => Sys2Proof.Machine.execVshri w s
  | .vsrai w => Sys2Proof.Machine.execVsrai w s
  | .vshufi w => Sys2Proof.Machine.execVshufi w s
  | .vli w => Sys2Proof.Machine.execVli w s
  | .vldo w => Sys2Proof.Machine.execVldo w s
  | .vsto w => Sys2Proof.Machine.execVsto w s
  | .board w => Sys2Proof.Machine.execBoard w s
  | .boardNew w => Sys2Proof.Machine.execBoardNew w s
  | .bget w => Sys2Proof.Machine.execBget w s
  | .bset w => Sys2Proof.Machine.execBset w s
  | .cancel w => Sys2Proof.Machine.execCancel w s
  | .cancelKv w => Sys2Proof.Machine.execCancelKv w s
  | .fire w => Sys2Proof.Machine.execFire w s
  | .rangeR w => Sys2Proof.Machine.execRange w s
  | .retire w => Sys2Proof.Machine.execRetire w s
  | .lockq w => Sys2Proof.Machine.execLockq w s
  | .nstate w => Sys2Proof.Machine.execNstate w s
  | .jadd w => Sys2Proof.Machine.execJadd w s
  | .killpt w => Sys2Proof.Machine.execKillpt w s
  | .warrive w => Sys2Proof.Machine.execWarrive w s
  | .bar w => Sys2Proof.Machine.execBar w s
  | .xbar w => Sys2Proof.Machine.execXbar w s
  | .phase w => Sys2Proof.Machine.execPhase w s
  | .trap w => Sys2Proof.Machine.execTrap w s
  | .exitR w => Sys2Proof.Machine.execExit w s
  | .rmark w => Sys2Proof.Machine.execRmark w s
  | .dmark w => Sys2Proof.Machine.execDmark w s
  | .brk w => Sys2Proof.Machine.execBrk w s
  | .boardi w => Sys2Proof.Machine.execBoardi w s
  | .firei w => Sys2Proof.Machine.execFirei w s
  | .bgeti w => Sys2Proof.Machine.execBgeti w s
  | .bseti w => Sys2Proof.Machine.execBseti w s
  | .trapi w => Sys2Proof.Machine.execTrapi w s
  | .pWord a b => Sys2Proof.Machine.execPWord a b s
  | .illegalWord w => Sys2Proof.Machine.execIllegalWord w s
  | .fetchFault => Sys2Proof.Machine.execFetchFault s
  | .operationComplete uid ticket => Sys2Proof.Machine.execOperationComplete uid ticket s
  | .copyChunk die core ch => Sys2Proof.Machine.execCopyChunk die core ch s
  | .gatherCopy die core ch => Sys2Proof.Machine.execGatherCopy die core ch s
  | .streamRow die core eng => Sys2Proof.Machine.execStreamRow die core eng s
  | .mmaTurn die core => Sys2Proof.Machine.execMmaTurn die core s
  | .mmaGroup die core => Sys2Proof.Machine.execMmaGroup die core s
  | .chunkCheck die core mismatch => Sys2Proof.Machine.execChunkCheck die core mismatch s
  | .burstIdleReset die core => Sys2Proof.Machine.execBurstIdleReset die core s
  | .acczTurn die core => Sys2Proof.Machine.execAcczTurn die core s
  | .trelTurn die core => Sys2Proof.Machine.execTrelTurn die core s
  | .drainTurn die core => Sys2Proof.Machine.execDrainTurn die core s
  | .drainRowToken die core => Sys2Proof.Machine.execDrainRowToken die core s
  | .lockArrival n => Sys2Proof.Machine.execLockArrival n s
  | .lockRefill die region lock => Sys2Proof.Machine.execLockRefill die region lock s
  | .lockCycle die region lock => Sys2Proof.Machine.execLockCycle die region lock s
  | .lockTimeout die region lock => Sys2Proof.Machine.execLockTimeout die region lock s
  | .handlerStart die core => Sys2Proof.Machine.execHandlerStart die core s
  | .packetAccept n f => Sys2Proof.Machine.execPacketAccept n f s
  | .creditReturn n f => Sys2Proof.Machine.execCreditReturn n f s
  | .poisonRingWrite die => Sys2Proof.Machine.execPoisonRingWrite die s
  | .nodeTokens n => Sys2Proof.Machine.execNodeTokens n s
  | .arbiterVisit => Sys2Proof.Machine.execArbiterVisit s
  | .coneWalkVisit die => Sys2Proof.Machine.execConeWalkVisit die s
  | .weirBind n => Sys2Proof.Machine.execWeirBind n s
  | .weirArrival n => Sys2Proof.Machine.execWeirArrival n s
  | .weirCopyChunk die core => Sys2Proof.Machine.execWeirCopyChunk die core s
  | .provisionalWrite n => Sys2Proof.Machine.execProvisionalWrite n s
  | .killNoticeArrival n => Sys2Proof.Machine.execKillNoticeArrival n s
  | .xbarArrival n => Sys2Proof.Machine.execXbarArrival n s
  | .xbarTimeout n => Sys2Proof.Machine.execXbarTimeout n s
  | .xbarReply n => Sys2Proof.Machine.execXbarReply n s
  | .phaseArrival n => Sys2Proof.Machine.execPhaseArrival n s
  | .proxyAbsenceToken n => Sys2Proof.Machine.execProxyAbsenceToken n s
  | .presenceToken n => Sys2Proof.Machine.execPresenceToken n s
  | .carouselEntryStart => Sys2Proof.Machine.execCarouselEntryStart s
  | .carouselRotationLeave => Sys2Proof.Machine.execCarouselRotationLeave s
  | .carouselSlice mdie => Sys2Proof.Machine.execCarouselSlice mdie s
  | .partitionSwap die => Sys2Proof.Machine.execPartitionSwap die s
  | .l1Writeback die n => Sys2Proof.Machine.execL1Writeback die n s
  | .dataErrorDetected u => Sys2Proof.Machine.execDataErrorDetected u s
  | .softErrorCorrected die => Sys2Proof.Machine.execSoftErrorCorrected die s
  | .preempt die region => Sys2Proof.Machine.execPreempt die region s
  | .flushCancel die region => Sys2Proof.Machine.execFlushCancel die region s
  | .flushPoison die region => Sys2Proof.Machine.execFlushPoison die region s
  | .collectorSave die => Sys2Proof.Machine.execCollectorSave die s
  | .regionFreed die region => Sys2Proof.Machine.execRegionFreed die region s
  | .discardingEnd die region => Sys2Proof.Machine.execDiscardingEnd die region s
  | .restore die region => Sys2Proof.Machine.execRestore die region s
  | .serviceWrite die v => Sys2Proof.Machine.execServiceWrite die v s
  | .partbaseWrite die v => Sys2Proof.Machine.execPartbaseWrite die v s
  | .tlbinvPage die v => Sys2Proof.Machine.execTlbinvPage die v s
  | .tlbinvAll die v => Sys2Proof.Machine.execTlbinvAll die v s
  | .tlbinvDone die => Sys2Proof.Machine.execTlbinvDone die s
  | .carctlRunSet v => Sys2Proof.Machine.execCarctlRunSet v s
  | .carctlRunClear v => Sys2Proof.Machine.execCarctlRunClear v s
  | .carcntWrite v => Sys2Proof.Machine.execCarcntWrite v s
  | .slicehashWrite v => Sys2Proof.Machine.execSlicehashWrite v s
  | .cachectlEnable v => Sys2Proof.Machine.execCachectlEnable v s
  | .routebaseWrite v => Sys2Proof.Machine.execRoutebaseWrite v s
  | .evqackWrite v => Sys2Proof.Machine.execEvqackWrite v s
  | .recordStart die v => Sys2Proof.Machine.execRecordStart die v s
  | .replayStart die v => Sys2Proof.Machine.execReplayStart die v s
  | .recordStop die v => Sys2Proof.Machine.execRecordStop die v s
  | .logringHeadWrite die v => Sys2Proof.Machine.execLogringHeadWrite die v s
  | .dbgstopStop die v => Sys2Proof.Machine.execDbgstopStop die v s
  | .dbgstopResume die v => Sys2Proof.Machine.execDbgstopResume die v s
  | .regionStopped die => Sys2Proof.Machine.execRegionStopped die s
  | .stopAbandon die => Sys2Proof.Machine.execStopAbandon die s
  | .sysregWrite addr v => Sys2Proof.Machine.execSysregWrite addr v s
  | .orderGate die pkind point => Sys2Proof.Machine.execOrderGate die pkind point s
  | .traceSample die => Sys2Proof.Machine.execTraceSample die s
  | .eventQueueTake => Sys2Proof.Machine.execEventQueueTake s
  | .faultReport => Sys2Proof.Machine.execFaultReport s
  | .fatalRecord die => Sys2Proof.Machine.execFatalRecord die s
  | .governorCycle die => Sys2Proof.Machine.execGovernorCycle die s
  | .tempSample die temp => Sys2Proof.Machine.execTempSample die temp s
  | .coldReset => Sys2Proof.Machine.execColdReset s
  | .bootVerify => Sys2Proof.Machine.execBootVerify s
  | .firmwareReady => Sys2Proof.Machine.execFirmwareReady s
  | .writeMemory m => Sys2Proof.Machine.execWriteMemory m s
  | .readMemory m => Sys2Proof.Machine.execReadMemory m s
  | .postToken m => Sys2Proof.Machine.execPostToken m s
  | .signalBoard m => Sys2Proof.Machine.execSignalBoard m s
  | .attestReport m => Sys2Proof.Machine.execAttestReport m s
  | .attestKeyAgree m => Sys2Proof.Machine.execAttestKeyAgree m s
  | .keyLoad m => Sys2Proof.Machine.execKeyLoad m s
  | .attestCert m => Sys2Proof.Machine.execAttestCert m s
  | .remoteAccessRequest f => Sys2Proof.Machine.execRemoteAccessRequest f s
  | .remoteAccessResponse f => Sys2Proof.Machine.execRemoteAccessResponse f s
  | .barrierTokenFrame f => Sys2Proof.Machine.execBarrierTokenFrame f s
  | .frameDiscard f => Sys2Proof.Machine.execFrameDiscard f s
  | .portDown port => Sys2Proof.Machine.execPortDown port s
  | .schedulerPreemptionRequest die region => Sys2Proof.Machine.execSchedulerPreemptionRequest die region s
  | .linkLayerRetry port => Sys2Proof.Machine.execLinkLayerRetry port s
  | .reservedMessageType m => Sys2Proof.Machine.execReservedMessageType m s

end Sys2Proof.Machine
end

