-- ==== Sys2Proof/Machine/Schedule.lean ====
section
/-! DEFINITION. The default order of turns when the agenda is empty: which berth issues next, and which events of
the device's other agents come after the cycle. Any other order is an agenda (log 5). -/

namespace Sys2Proof.Machine

/-- Event n of a table for each of its entries, the last first, so that each number still names its entry at its turn. -/
def eachEntry {α : Type} (xs : List α) (ev : Nat → Instr) : List Instr := (List.range xs.length).reverse.map ev

/-- An event when a test holds. -/
def whenSo (b : Bool) (e : Instr) : List Instr := if b then [e] else []

/-- The operations of a crew whose decrement is due (R101). -/
def Crew.autoRetire (c : Crew) : List Instr :=
  (c.ops.filter fun o => c.mayRetire o.ticket).map fun o => .operationComplete c.uid o.ticket

/-- A stream engine runs, or has rows of a write stream to store (R161, R162). -/
def Stream.hasWork (x : Stream) : Bool := x.state == .running || !x.tails.isEmpty || (x.isWrite && !x.rows.isEmpty)

/-- The turn of the command at the head of a matrix queue (R175). -/
def Matrix.autoTurn (m : Matrix) (d k : Nat) : List Instr :=
  match m.queue with
  | [] => []
  | e :: _ =>
    match e.cmd with
    | .mma _ => [.mmaTurn d k]
    | .accz _ _ _ => [.acczTurn d k]
    | .trel _ _ => [.trelTurn d k]
    | .drain _ => [.drainTurn d k]

/-- The events of a core's engines. -/
def Core.autoEvents (x : Core) (d k : Nat) : List Instr :=
  let copies := (List.range 16).flatMap fun n =>
    match ((x.chans[n]?).map Channel.jobs).getD [] with
    | [] => []
    | j :: _ =>
      match j.kind with
      | .gather _ _ => [.gatherCopy d k n]
      | _ => [.copyChunk d k n]
  let streams := (List.range 8).flatMap fun n => whenSo (((x.streams[n]?).map Stream.hasWork).getD false) (.streamRow d k n)
  let m := x.matrix
  copies ++ streams ++ m.autoTurn d k ++
    (if m.running.isSome then [.mmaGroup d k, .chunkCheck d k false] else []) ++
    whenSo m.drainActive.isSome (.drainRowToken d k) ++ whenSo (512 ≤ m.idle && m.burst != 0) (.burstIdleReset d k) ++
    whenSo (!x.weirCopies.isEmpty) (.weirCopyChunk d k) ++
    whenSo (x.chans.toList.any fun n => !n.tokens.isEmpty || !n.rows.isEmpty) (.handlerStart d k)

/-- The events of a die's locks. -/
def Region.autoEvents (r : Region) (d : Nat) : List Instr :=
  r.cfg.locks.flatMap fun l =>
    whenSo (l.canal != 0) (.lockRefill d r.cfg.num l.index) ++
      whenSo (!l.slots.isEmpty || l.phaseEvent) (.lockCycle d r.cfg.num l.index)

/-- The events of the collector for its request. -/
def Collect.autoEvents (q : Collect) (d : Nat) : List Instr :=
  match q.kind with
  | .preempt => [.collectorSave d]
  | .flush _ => [.regionFreed d q.region]
  | .stop _ _ => [.regionStopped d, .stopAbandon d]

/-- The order gates that hold a chunk in replay. -/
def Recorder.autoEvents (r : Recorder) (d : Nat) : List Instr :=
  if r.mode = 2 then r.chunks.map fun c => .orderGate d c.kind.code c.point else []

/-- The events of a compute die. -/
def Die.autoEvents (x : Die) (d : Nat) : List Instr :=
  (x.cores.flatMap fun p => p.2.autoEvents d p.1) ++ (x.regions.flatMap fun r => r.autoEvents d) ++
    whenSo (!x.handedOn.isEmpty) (.poisonRingWrite d) ++ whenSo (!x.walks.isEmpty) (.coneWalkVisit d) ++
    (x.collector.toList.flatMap fun q => q.autoEvents d) ++ (x.discarding.map fun p => .discardingEnd d p.1) ++
    whenSo x.regs.swapping (.partitionSwap d) ++ whenSo x.regs.tlbBusy (.tlbinvDone d) ++
    whenSo (x.dbg.traceEn && x.dbg.sample != 0) (.traceSample d) ++ x.recorder.autoEvents d ++
    whenSo (!x.gov.queue.isEmpty || x.gov.returned != 0 || x.gov.bucket != 512 * x.gov.depth.toNat) (.governorCycle d) ++
    whenSo x.faults.fatal.isSome (.fatalRecord d)

/-- The events of what is in flight. -/
def Flight.autoEvents (f : Flight) : List Instr :=
  eachEntry f.weirs .weirBind ++ eachEntry f.provs .provisionalWrite ++ eachEntry f.arrived .weirArrival ++
    eachEntry f.notices .killNoticeArrival ++ eachEntry f.posts .nodeTokens ++
    eachEntry f.packets (fun n => .packetAccept n none) ++ eachEntry f.arrivals .lockArrival ++
    eachEntry f.credits (fun n => .creditReturn n none) ++ eachEntry f.absences .proxyAbsenceToken ++
    eachEntry f.presences .presenceToken ++ eachEntry f.xbars .xbarArrival ++ eachEntry f.xreplies .xbarReply ++
    eachEntry f.phases .phaseArrival

/-- The events of the I/O die. -/
def IoDie.autoEvents (io : IoDie) : List Instr :=
  whenSo (io.visiting || io.queues.toList.any fun q => q.en && (!q.pend.isEmpty || 0 < q.deficit)) .arbiterVisit ++
    (if io.carousel.run then [.carouselRotationLeave, .carouselEntryStart] else []) ++
    ((List.range 8).flatMap fun m => whenSo (((io.carousel.streamers[m]?).join).isSome) (.carouselSlice m)) ++
    whenSo (!io.events.isEmpty) .faultReport ++ whenSo io.faults.fatal.isSome (.fatalRecord 4) ++
    whenSo (io.sec.state = .verify) .bootVerify ++ whenSo (io.sec.state = .init) .firmwareReady

/-- The events of the default order: one turn for everything that the device has under way. An event whose time has not
come leaves the state as it is. -/
def State.autoEvents (s : State) : List Instr :=
  s.flight.autoEvents ++ ((List.range 4).flatMap fun d => (s.die d).autoEvents d) ++ eachEntry s.xtimers .xbarTimeout ++
    whenSo (!s.io.faults.entries.isEmpty || (s.dies.toList.any fun x => !x.faults.entries.isEmpty)) .eventQueueTake ++
    s.io.autoEvents ++ s.allCrews.flatMap Crew.autoRetire

/-- The end of a cycle: the combines write their lines, the credits that wait for a landing row are paid, the frames of the ports
leave, and every count of cycles moves on (R256, R291, R390). -/
def State.nextCycle (s : State) : State := s.combineTurn.payCredits.portsTurn.endCycle

/-- The end of a cycle of the default order: the events that are due come next, then every crew but the last has its
issue slot, in ascending die, core and berth order; the last issues when the agenda is empty, and ends the cycle. -/
def State.turnOver (s : State) : State :=
  let t := s.nextCycle
  let places := t.allCrews.map Crew.place
  { t with
    cur := places.getLast?.getD t.cur
    agenda := t.autoEvents.map Turn.event ++ places.dropLast.map Turn.issue }

end Sys2Proof.Machine
end

