-- ==== Sys2Proof/Machine/Step.lean ====
section
/-! DEFINITION. One step of the machine: a turn of the agenda, or of the default order (log 5). -/

namespace Sys2Proof.Machine

/-- An outcome's next state changed. -/
def mapNext (f : State → State) : Host.Outcome State Fault Refusal → Host.Outcome State Fault Refusal
  | .next t => .next (f t)
  | .fault r => .fault r
  | .refused r => .refused r

/-- The crew on the berth `State.cur` has its issue slot: it meets poison, whose record names the word that read it (R346), it
meets an injected EXIT, or its next word issues. A crew that is held back, a berth without a crew, and a berth at or below one
that has issued in this cycle, issue nothing: the berths of a core act in ascending order (R104, R200, R332). -/
def issue (s : State) : Host.Outcome State Fault Refusal :=
  match s.crewAt s.cur with
  | none => .next s
  | some c =>
    if s.heldBack c || c.place.berth < (s.core c.place.die c.place.core).slot then .next s
    else
      match c.poison with
      | some p => .next ((s.takeSlot c).killCrew { c with pc := c.entry + (p.2.2.setWidth 64 <<< 3) } ⟨15, p.1, [p.2.1]⟩)
      | none =>
        if c.exitPending then .next ((s.takeSlot c).injectExit c)
        else if c.hazard (s.nextInstr c) then .next s
        else mapNext State.afterIssue (exec (s.nextInstr c) (s.fetched c))

/-- One step: the turn at the head of the agenda; with no turn there, the current berth issues and the cycle ends. -/
def step (s : State) : Host.Outcome State Fault Refusal :=
  match s.agenda with
  | .event i :: rest => exec i { s with agenda := rest }
  | .cycle :: rest => .next { s with agenda := rest }.nextCycle
  | .issue who :: rest => mapNext (fun t => { t with cur := s.cur }) (issue { s with agenda := rest, cur := who })
  | [] => mapNext State.turnOver (issue s)

/-- The state in which the instruction of a word stands where the very next step fetches (log 4): the current berth
holds a crew that may issue, its pc is mapped and executable, and the eight bytes there are the word's. -/
def State.withFetchWord (s : State) (nbits w : Nat) : State := s.placeWord (bytesOfNat 8 (w % 2 ^ nbits))

end Sys2Proof.Machine
end

