-- ==== Sys2Proof/Safety.lean ====
section
/-! DEFINITION. What the claims say about a step: which crew's word issues, what a next state leaves as it was, and what a
well-kept state is. -/

namespace Sys2Proof.Machine

/-! ## Whose word issues (R21) -/

/-- A crew stands on the berth whose turn it is, and a word under this guard runs for it (R21). -/
def Issues (s : State) (c : Crew) (guard : BitVec 5) : Prop := s.crewAt s.cur = some c ∧ guardFalse guard c = false

/-! ## What a next state leaves as it was -/

/-- The crew on the current berth is c' afterwards, and nothing else of the package has changed: no other crew, no
register of a core, of a die or of the I/O die, no byte of memory. -/
structure CrewOnly (s t : State) (c' : Crew) : Prop where
  here : t.crewAt s.cur = some c'
  others : ∀ who, who ≠ s.cur → t.crewAt who = s.crewAt who
  memory : ∀ key, t.cell key = s.cell key
  package : t = { s with dies := t.dies }
  dies : ∀ d, t.die d = { s.die d with cores := (t.die d).cores }
  cores : ∀ d k, t.core d k = { s.core d k with berths := (t.core d k).berths }

/-- The scalar register d holds v afterwards, unless it is s0; the other scalar registers hold what they held, the pc is
`next`, and nothing else of the crew has changed. -/
structure SetsScalar (c c' : Crew) (d : BitVec 8) (v next : W64) : Prop where
  reg : ∀ f : BitVec 8, f.toNat < 64 → c'.sreg f = if f = d ∧ d ≠ 0 then v else c.sreg f
  pc : c'.pc = next
  rest : c' = { c with sregs := c'.sregs, pc := c'.pc }

/-- The mask register d, m1 to m15, holds the lanes of v below L afterwards; the other mask registers hold what they held,
the pc is at the next word, and nothing else of the crew has changed. -/
structure SetsMask (c c' : Crew) (d : BitVec 8) (v : Mask) : Prop where
  reg : ∀ f : BitVec 8, 0x40 ≤ f.toNat → f.toNat ≤ 0x4F → c'.mask f = if f = d then v &&& c.allLanes else c.mask f
  pc : c'.pc = c.pc + 8
  rest : c' = { c with mregs := c'.mregs, pc := c'.pc }

/-- The instruction runs and leaves its crew as c', with nothing else changed. -/
def CrewResult (i : Instr) (s : State) (c' : Crew) : Prop := ∃ t, exec i s = .next t ∧ CrewOnly s t c'

/-- The instruction runs, writes v to the scalar register d, moves the pc on, and does nothing else. -/
def ScalarResult (i : Instr) (s : State) (c : Crew) (d : BitVec 8) (v : W64) : Prop :=
  ∃ c', CrewResult i s c' ∧ SetsScalar c c' d v (c.pc + 8)

/-- The instruction runs, writes v to the mask register d, moves the pc on, and does nothing else. -/
def MaskResult (i : Instr) (s : State) (c : Crew) (d : BitVec 8) (v : Mask) : Prop :=
  ∃ c', CrewResult i s c' ∧ SetsMask c c' d v

/-- The instruction runs, moves the pc to `next`, and does nothing else. -/
def JumpsTo (i : Instr) (s : State) (c : Crew) (next : W64) : Prop := CrewResult i s { c with pc := next }

/-- The instruction raises a killing fault of its crew. -/
def Kills (i : Instr) (s : State) (c : Crew) (cause detail : Nat) (infos : List W64) : Prop :=
  exec i s = .next (s.killCrew c { cause := cause, detail := detail, infos := infos })

/-! ## Premises on the state -/

/-- No die records or replays its order points (R334, R340). -/
def State.NoLog (s : State) : Prop := ∀ d, (s.recorderOf d).mode = 0

/-- No key pair encrypts memory (R403). -/
def State.InTheClear (s : State) : Prop := s.io.sec.keys = [] ∧ s.io.sec.lineKeys = []

/-- A byte lies in none of the lines of n bytes from pa. -/
def OffLines (pa n other : Nat) : Prop := ∀ i, i < n → other / 128 ≠ (pa + i) / 128

/-- Die d caches none of the lines of n bytes from a place under another key index than the place's (R403). -/
def State.OwnKeys (s : State) (d : Nat) (p : Place) (n : Nat) : Prop :=
  match p with
  | .pa pa key _ => ∀ l, l ∈ (s.die d).dirty → l.key ≠ key → OffLines pa n (128 * l.line)
  | _ => True

/-! ## Accesses -/

/-- As CrewOnly, but the translations that cores keep and their counts of spill blocks may change as well (R241, R314). -/
structure CrewAndCore (s t : State) (c' : Crew) : Prop where
  here : t.crewAt s.cur = some c'
  others : ∀ who, who ≠ s.cur → t.crewAt who = s.crewAt who
  memory : ∀ key, t.cell key = s.cell key
  package : t = { s with dies := t.dies }
  dies : ∀ d, t.die d = { s.die d with cores := (t.die d).cores }
  cores : ∀ d k, t.core d k =
    { s.core d k with berths := (t.core d k).berths, tlb := (t.core d k).tlb, spill := (t.core d k).spill }

/-- As CrewAndCore, for a word that reads memory: the clocks and event counts of dies, and the stamps of writes, may change too, as
R320 and R364 say of the values that the word reads. -/
structure CrewReads (s t : State) (c' : Crew) : Prop where
  here : t.crewAt s.cur = some c'
  others : ∀ who, who ≠ s.cur → t.crewAt who = s.crewAt who
  memory : ∀ key, t.cell key = s.cell key
  package : t = { s with dies := t.dies, stamps := t.stamps }
  dies : ∀ d, t.die d = { s.die d with cores := (t.die d).cores, clock := (t.die d).clock, evseq := (t.die d).evseq }
  cores : ∀ d k, t.core d k =
    { s.core d k with berths := (t.core d k).berths, tlb := (t.core d k).tlb, spill := (t.core d k).spill }

/-- Cells n bytes from `at_` on hold the low bytes of v, and every other cell what it held. -/
def CellsHold (s t : State) (at_ n v : Nat) : Prop :=
  ∀ j, t.cell j = if at_ ≤ j ∧ j < at_ + n then BitVec.ofNat 8 (v / 256 ^ (j - at_)) else s.cell j

/-- n low bytes of v have been stored by a crew of die d at a place, and every other byte reads as before: a generic address
reads through the L1s of the storing die while the caches are on, and at its home slice without them, under the place's key index
and in the lines that the store does not touch under any (R301, R403). -/
def StoredAt (s t : State) (d : Nat) (p : Place) (n v : Nat) : Prop :=
  match p with
  | .chip k => CellsHold s t k n v ∧ ∀ e, (t.die e).dirty = (s.die e).dirty
  | .pa pa key _ =>
    if s.io.cacheEn then
      (∀ j, t.cell j = s.cell j) ∧
      ∀ e key' pa', (e = d → key' = key ∨ OffLines pa n pa') → t.l1Byte e key' pa' =
        if e = d ∧ key' = key ∧ pa ≤ pa' ∧ pa' < pa + n then BitVec.ofNat 8 (v / 256 ^ (pa' - pa)) else s.l1Byte e key' pa'
    else
      (∀ e, (t.die e).dirty = (s.die e).dirty) ∧
      ∀ key' pa', key' = key ∨ OffLines pa n pa' → t.homeByte key' pa' =
        if key' = key ∧ pa ≤ pa' ∧ pa' < pa + n then BitVec.ofNat 8 (v / 256 ^ (pa' - pa)) else s.homeByte key' pa'
  | .barge _ _ => False

/-- The cell in which a place's byte is kept. -/
def Place.home : Place → Nat
  | .pa a _ _ => a
  | .chip k => k
  | .barge _ off => off

/-- The marks that a store of a crew leaves: a word that it covers whole loses its mark, in the die's L1 where the store went there
and in memory else; every other word keeps its own (R351). -/
def StoreMarks (s t : State) (d : Nat) (p : Place) (n : Nat) : Prop :=
  let covered (x : Nat) : Prop := p.home ≤ 8 * x ∧ 8 * x + 8 ≤ p.home + n
  match p with
  | .pa pa key _ =>
    if s.io.cacheEn then
      t.memMarks = s.memMarks ∧
      ∀ x, (covered x → t.l1Marked d key (8 * x) = false) ∧
        (¬covered x → OffLines pa n (8 * x) ∨ (∀ i, i < n → (pa + i) / 8 ≠ x) → t.l1Marked d key (8 * x) = s.l1Marked d key (8 * x))
    else ∀ x, x ∈ t.memMarks ↔ x ∈ s.memMarks ∧ ¬covered x
  | _ => ∀ x, x ∈ t.memMarks ↔ x ∈ s.memMarks ∧ ¬covered x

/-- A store has left its crew as c' and its bytes at their place; otherwise only marks, the key pairs that lines are stored under,
the dirty lines of a die, and what a word that reads memory may change have changed. -/
structure CrewStores (s t : State) (c' : Crew) (d : Nat) (p : Place) (n v : Nat) : Prop where
  here : t.crewAt s.cur = some c'
  others : ∀ who, who ≠ s.cur → t.crewAt who = s.crewAt who
  bytes : StoredAt s t d p n v
  marks : StoreMarks s t d p n
  package : t = { s with mem := t.mem, memMarks := t.memMarks, dies := t.dies, stamps := t.stamps, io := t.io }
  io : t.io = { s.io with sec := { s.io.sec with lineKeys := t.io.sec.lineKeys } }
  dies : ∀ e, t.die e = { s.die e with
    cores := (t.die e).cores, dirty := (t.die e).dirty, clock := (t.die e).clock, evseq := (t.die e).evseq }
  cores : ∀ e k, t.core e k = { s.core e k with berths := (t.core e k).berths, tlb := (t.core e k).tlb }

/-- The crew with one more counted operation, already performed (R101). -/
def Crew.counted (c : Crew) (k : Counter) (err : Bool) : Crew :=
  { c with ops := c.ops ++ [{ ctr := k, ticket := c.nextTicket, done := true, err := err }], nextTicket := c.nextTicket + 1 }

/-- The elements a memory ety names: code, bytes, and whether a load extends the sign (R140, R144). -/
def memoryTypes : List (Nat × Nat × Bool) :=
  [(1, 1, true), (2, 2, true), (3, 4, true), (4, 8, true), (5, 1, false), (6, 2, false), (7, 4, false), (8, 8, false),
    (9, 2, false), (10, 2, false), (11, 4, false), (12, 8, false)]

/-- n bytes extended to a register (R144). -/
def extended (n : Nat) (signed : Bool) (x : Nat) : W64 := BitVec.ofInt 64 (intOf signed (8 * n) x)

/-- A load of n bytes from an address into a scalar register by a crew with room in wl (R142 to R144, R148): the value of the
place that the checks name, as the crew reads it before anything changes; a marked byte counts as an error and is met as poison
before the next word. A failed check is the memory-access fault, and a full counter holds the word before issue. -/
def Loads (i : Instr) (s : State) (c : Crew) (d : BitVec 8) (addr : W64) (n : Nat) (signed : Bool) : Prop :=
  (∀ p, s.check c.accessor .load addr n n = .ok p → c.count .wl < 255 →
    let bad := s.crewMarked c p n
    ∃ t c', exec i s = .next t ∧ CrewReads (s.settlePlace c.place.die p n) t c' ∧
      (∀ f : BitVec 8, f.toNat < 64 →
        c'.sreg f = if f = d ∧ d ≠ 0 then extended n signed (s.crewRead c p n) else c.sreg f) ∧
      c' = { c.counted .wl bad with
             sregs := c'.sregs, pc := c.pc + 8, poison := if bad then some (markDetail addr, addr, c.poff) else c.poison }) ∧
  (∀ e, s.check c.accessor .load addr n n = .error e → c.count .wl < 255 → Kills i s c 6 e [addr]) ∧
  (255 ≤ c.count .wl → exec i s = .next s)

/-- A store of the low n bytes of a value to an address by a crew with room in ws (R142 to R144, R210): the bytes go to the place that
the checks name, or, inside the window of the weir that the crew is bound to, on their way to the weir's bank. -/
def Stores (i : Instr) (s : State) (c : Crew) (addr : W64) (n v : Nat) : Prop :=
  (∀ p, s.check c.accessor .store addr n n = .ok p → c.count .ws < 255 →
    let after (c' : Crew) : Prop := c' = { c.counted .ws false with pc := c.pc + 8, fp := c'.fp, folds := c'.folds }
    ((∀ k, p = .chip k → s.provisional c k = none) →
      ∃ t c', exec i s = .next t ∧ CrewStores (s.settlePlace c.place.die p n) t c' c.place.die p n v ∧ after c') ∧
    ∀ k b, p = .chip k → s.provisional c k = some b →
      ∃ t c', exec i s = .next t ∧ CrewReads (s.onFlight fun f => { f with provs := f.provs ++
        [{ uid := c.uid, record := b.record, home := b.home, slot := b.slot, key := k, bytes := bytesOfNat n v, marks := [] }] })
          t c' ∧ after c') ∧
  (∀ e, s.check c.accessor .store addr n n = .error e → c.count .ws < 255 → Kills i s c 6 e [addr]) ∧
  (255 ≤ c.count .ws → exec i s = .next s)

/-! ## Vector words -/

/-- A vector word has moved its crew's pc on and changed vector registers alone: beside them only the register blocks that it
binds or spills, with REGSPILL, differ from the crew `b` (R77, R241). -/
structure VectorCrew (b c' : Crew) : Prop where
  pc : c'.pc = b.pc + 8
  flags : c'.cflags = b.cflags ∨ c'.cflags = b.cflags ||| 2
  rest : c' = { b with vregs := c'.vregs, pc := c'.pc, boundBlocks := c'.boundBlocks, spillBlocks := c'.spillBlocks
                       cflags := c'.cflags }

/-- The instruction runs, and changes no more than a vector word does; what its crew's spill blocks take and hold goes to the spill
area (R241, R302, R307). -/
def VectorResult (i : Instr) (s : State) (b c' : Crew) : Prop :=
  ∃ t, exec i s = .next t ∧ CrewAndCore (s.spillTurn b c') t c' ∧ VectorCrew b c'

/-- The same for a vector word that reads memory. -/
def VectorReads (i : Instr) (s : State) (b c' : Crew) : Prop :=
  ∃ t, exec i s = .next t ∧ CrewReads (s.spillTurn b c') t c' ∧ VectorCrew b c'

/-- A vector register has its place already: in the crew's granules, or in a spill block that it has referred to (R241). -/
def Crew.placed (c : Crew) (r : Nat) : Prop := r < c.declared ∨ r / 8 ∈ c.spillBlocks

/-- No vector register but the listed ones has changed. -/
def OnlyVectors (c c' : Crew) (rs : List Nat) : Prop := ∀ r, r < 256 → r ∉ rs → c'.vreg r = c.vreg r

/-- Register r, or the pair of r and r + 1, has tag `tag` and holds v l in every lane l of E; the other lanes hold what they
held, and no lane of E is marked unless `bad` says so (R59, R77, R352). -/
def LaneValues (c c' : Crew) (E : Mask) (r : Nat) (pair : Bool) (tag : BitVec 8) (v : Nat → Nat) (bad : Nat → Bool) : Prop :=
  (∀ l, l < c.lanes → c'.laneValue r pair l = if E.getLsbD l then v l else c.laneValue r pair l) ∧
  ∀ q, q ∈ regsOf r pair → (c'.vreg q).tag = tag ∧
    ∀ l, l < c.lanes → (c'.vreg q).marks.getLsbD l = if E.getLsbD l then bad l else (c.vreg q).marks.getLsbD l

/-- Element e of lane l of a register or a pair read at a type (R59). -/
def Crew.element (c : Crew) (r : Nat) (t : ElemTy) (l e : Nat) : Nat := elemOf t.width (c.laneValue r t.is64 l) e

/-- As LaneValues, with the elements of the lanes of E given one by one at a type, and with that type's tag. -/
def LaneElements (c c' : Crew) (E : Mask) (r : Nat) (t : ElemTy) (f : Nat → Nat → Nat) : Prop :=
  (∀ l e, l < c.lanes → e < t.perLane → c'.element r t l e = if E.getLsbD l then f l e % 2 ^ t.width else c.element r t l e) ∧
  ∀ q, q ∈ regsOf r t.is64 → (c'.vreg q).tag = t.tag ∧
    ∀ l, l < c.lanes → (c'.vreg q).marks.getLsbD l = (!E.getLsbD l && (c.vreg q).marks.getLsbD l)

/-- No lane of E of a register, or of a pair, is marked (R352). -/
def Unmarked (c : Crew) (E : Mask) (r : Nat) (pair : Bool) : Prop :=
  ∀ q l, q ∈ regsOf r pair → l < c.lanes → E.getLsbD l = true → (c.vreg q).marks.getLsbD l = false

/-- The register of a step, at an offset from a field (R118). -/
def stepAt (f : BitVec 8) (o : Int) : Nat := ((f.toNat : Int) + o).toNat

/-- What lets an elementwise word of register operands run on elements of type t, in the steps of the given offsets: every
register lies in v0 to v255, pairs are even, the tags pass R75's check, no lane of E that is read is marked, and no step reads or
writes a register that an earlier step has written (R75, R113, R117, R118). -/
structure Elementwise (w : RegForm) (s : State) (c : Crew) (t : ElemTy) (offs : List Int) (useB useD : Bool) : Prop where
  crew : s.crewAt s.cur = some c
  registers : fnQA w = false ∧ fnQD w = false
  steps : s.stepOffsets c (fnT w) w.c = .ok offs
  inside : ∀ o, o ∈ offs → ∀ f, f = w.d ∨ f = w.a ∨ (f = w.b ∧ useB = true) →
    0 ≤ (f.toNat : Int) + o ∧ (f.toNat : Int) + o ≤ 255 ∧ (t.is64 = true → stepAt f o % 2 = 0)
  typed : ∀ o, o ∈ offs →
    firstType c.fmts w.ety acceptAny 1 (c.vreg (stepAt w.a o)).tag = .ok t ∧
    (useB = true → checkTyped c.fmts w.ety t 2 (c.vreg (stepAt w.b o)).tag = .ok ()) ∧
    (useD = true → checkTyped c.fmts w.ety t 0 (c.vreg (stepAt w.d o)).tag = .ok ())
  clean : ∀ o, o ∈ offs → Unmarked c (guardSet w.guard c) (stepAt w.a o) t.is64 ∧
    (useB = true → Unmarked c (guardSet w.guard c) (stepAt w.b o) t.is64) ∧
    (useD = true → Unmarked c (guardSet w.guard c) (stepAt w.d o) t.is64)
  apart : offs.Pairwise fun o p => ∀ x y, x ∈ regsOf (stepAt w.d o) t.is64 →
    y ∈ regsOf (stepAt w.a p) t.is64 ++ (if useB then regsOf (stepAt w.b p) t.is64 else []) ++ regsOf (stepAt w.d p) t.is64 →
    x ≠ y

/-- An elementwise word writes, at every step and in the lanes of E, the elements that f gives from the elements of a, b and
d before the word; nothing else changes but what a vector word always moves. -/
def ElementResult (i : Instr) (w : RegForm) (s : State) (c : Crew) (t : ElemTy) (offs : List Int)
    (f : (BitVec 8 → Nat) → Int → Nat) : Prop :=
  ∃ c', VectorResult i s c c' ∧ OnlyVectors c c' (offs.flatMap fun o => regsOf (stepAt w.d o) t.is64) ∧
    ∀ o, o ∈ offs → LaneElements c c' (guardSet w.guard c) (stepAt w.d o) t
      fun l e => f (fun x => c.element (stepAt x o) t l e) o

/-! ## Words that change more than their crew -/

/-- The instruction runs; it leaves its crew as c', and otherwise the state `base`, but for translations that cores keep and
counts of spill blocks. -/
def RunsOn (i : Instr) (s base : State) (c' : Crew) : Prop := ∃ t, exec i s = .next t ∧ CrewAndCore base t c'

/-- The crew with one more counted operation that an engine is to perform (R101). -/
def Crew.queued (c : Crew) (k : Counter) : Crew :=
  { c with ops := c.ops ++ [{ ctr := k, ticket := c.nextTicket, done := false, err := false }], nextTicket := c.nextTicket + 1 }

/-- A channel's rows replaced. -/
def State.withRows (s : State) (d k n : Nat) (rows : List Row) : State :=
  s.onChan d k n fun x => { x with rows := rows }

end Sys2Proof.Machine
end

