-- ==== Sys2Proof/Certificates/Slice0/Obligations.lean ====
section
/-! DEFINITION. The statements about this model that the provers prove, each with the rules of spec/ that it formalises. -/

namespace Sys2Proof.Machine

/-! ## Words the statements use -/

/-- The integer types of an ety of a scalar word: its code, its width and its signedness (R20, R87). -/
def integerTypes : List (Nat × Nat × Bool) :=
  [(0, 64, true), (1, 8, true), (2, 16, true), (3, 32, true), (4, 64, true), (5, 8, false), (6, 16, false),
    (7, 32, false), (8, 64, false)]

/-- The low bits of a register read at an integer type (R87). -/
def typedValue (width : Nat) (signed : Bool) (x : W64) : Int :=
  if signed then (x.setWidth width).toInt else (x.setWidth width).toNat

/-- The nearest value of an integer type's range (R60). -/
def clampTo (width : Nat) (signed : Bool) (v : Int) : Int :=
  if signed then max (-2 ^ (width - 1)) (min v (2 ^ (width - 1) - 1)) else max 0 (min v (2 ^ width - 1))

/-- An exact result wrapped or clamped to an integer type and extended to a register (R60, R87). -/
def typedResult (width : Nat) (signed : Bool) (sat : BitVec 1) (v : Int) : W64 :=
  if sat = 1 then BitVec.ofInt 64 (clampTo width signed v)
  else if signed then (BitVec.ofInt width v).signExtend 64
  else (BitVec.ofInt width v).setWidth 64

/-- The word of a truth value. -/
def truthWord (p : Prop) [Decidable p] : W64 := if p then 1 else 0

/-- The number that n cells hold, little-endian. -/
def State.cellsValue (s : State) (k n : Nat) : Nat := natOfBytes ((List.range n).map fun i => s.cell (k + i))

/-- An integer fitted to a type's range: clamped with sat 1, else wrapped (R60). -/
def fitted (width : Nat) (signed : Bool) (sat : BitVec 1) (v : Int) : Nat :=
  ((if sat = 1 then clampTo width signed v else v) % 2 ^ width).toNat

/-- The smaller or the larger of two exact values; with one NaN, the other (R62). -/
def smaller (x y : XReal) : XReal := if y.isNan then x else if x.isNan then y else if y.below x then y else x
def larger (x y : XReal) : XReal := if y.isNan then x else if x.isNan then y else if x.below y then y else x

/-- What an atomic of n bytes stores for an integer type: add, min, max, and, or, xor, exchange (R163). -/
def atomicInteger (op n : Nat) (signed : Bool) (old x : Nat) : Nat :=
  match op with
  | 0 => (old + x) % 2 ^ (8 * n)
  | 1 => if intOf signed (8 * n) x < intOf signed (8 * n) old then x else old
  | 2 => if intOf signed (8 * n) old < intOf signed (8 * n) x then x else old
  | 3 => old &&& x
  | 4 => old ||| x
  | 5 => old ^^^ x
  | _ => x

/-- The same for a float type: and, or and xor take none (R163). -/
def atomicFloat (op : Nat) (f : Fmt) (old x : Nat) : Nat :=
  match op with
  | 0 => f.round .rne false ((f.decode old).add false (f.decode x))
  | 1 => f.round .rne false (smaller (f.decode old) (f.decode x))
  | 2 => f.round .rne false (larger (f.decode old) (f.decode x))
  | _ => x

/-- The offset of a byte inside n bytes from a place, if it is one of them. -/
def Place.offsetOf (p : Place) (n : Nat) (q : Place) : Option Nat :=
  match p, q with
  | .pa x key _, .pa y key' _ => if key = key' ∧ x ≤ y ∧ y < x + n then some (y - x) else none
  | .chip x, .chip y => if x ≤ y ∧ y < x + n then some (y - x) else none
  | _, _ => none

/-- The line goes home at a release of an identity (R167, R317). -/
def DirtyLine.goesWith (l : DirtyLine) (uid : Nat) : Bool := l.uids.contains uid || l.released

/-- The place of a memory address lies among the cells of memory, which basins and tile stores do not use (R299, R300). -/
def Place.inSpace (p : Place) : Prop :=
  match p with
  | .pa x _ _ => x < 2 ^ 48
  | .chip k => 2 ^ 56 ≤ k
  | .barge _ _ => True

/-- Two places share a line of memory only under one key index (R403). -/
def Place.agrees (p q : Place) : Prop :=
  match p, q with
  | .pa x key _, .pa y key' _ => x / 128 = y / 128 → key = key'
  | _, _ => True

/-- The byte that the last of a list of stores leaves at a place: each store has its place, its size and its value. -/
def lastStored (xs : List (Place × Nat × Nat)) (q : Place) : Option Byte :=
  xs.foldl (fun r x =>
    match x.1.offsetOf x.2.1 q with
    | some k => some (BitVec.ofNat 8 (x.2.2 / 256 ^ k))
    | none => r) none

/-- The value of a word after the atomics of the lanes of E below L that target it, in ascending lane order (R165). -/
def State.laneWord (s : State) (E : Mask) (p : Nat → Place) (n : Nat) (f : Nat → Nat → Nat) (L at_ : Nat) : Nat :=
  (lanesOf L E).foldl (fun v l => if (p l).home = at_ then f l v else v) (s.cellsValue at_ n)

/-- Where a vector load's ety puts its elements: code, bytes per lane, tag (R151). -/
def vectorLoadTypes : List (Nat × Nat × BitVec 8) :=
  [(0, 4, 0x00), (1, 4, 0x10), (2, 4, 0x11), (3, 4, 0x12), (4, 8, 0x13), (5, 4, 0x20), (6, 4, 0x21), (7, 4, 0x22),
    (8, 8, 0x23), (9, 4, 0x30), (10, 4, 0x31), (11, 4, 0x32), (12, 8, 0x33)]

/-- The byte offset that lane l takes from a register of offsets: signed from I32, unsigned from N32 (R150). -/
def LaneOffsets (c : Crew) (E : Mask) (r : Nat) (off : Nat → W64) : Prop :=
  Unmarked c E r false ∧
  (((c.vreg r).tag = 0x12 ∧ ∀ l, off l = ((c.vreg r).word l).signExtend 64) ∨
    ((c.vreg r).tag = 0x22 ∧ ∀ l, off l = ((c.vreg r).word l).setWidth 64))

/-- An element's code converted between two types, under R72: to a float RoundToFormat of the value; from a float to an
integer the value rounded and clamped; between integers an extension, or the low bits, or with sat 1 the clamped value. -/
def converted (fms : Vector (BitVec 32) 16) (src dst : ElemTy) (rnd : BitVec 3) (sat : BitVec 1) (code : Nat) : Nat :=
  match dst.fmt fms, src.fmt fms with
  | some f, _ => f.round (Rnd.of rnd) (sat = 1) (src.value fms code)
  | none, some g => toIntCode (Rnd.of rnd) dst.isSigned dst.width (g.decode code)
  | none, none =>
    if sat = 1 ∧ dst.width ≤ src.width then
      (clampTo dst.width dst.isSigned (intOf src.isSigned src.width code) % 2 ^ dst.width).toNat
    else (intOf src.isSigned src.width code % 2 ^ dst.width).toNat

/-- The relations of FCMP and VCMP by code: equal, not equal, less, less or equal, unordered (R91, R128). -/
def relation (rel : Nat) (x y : XReal) : Bool :=
  let un := x.isNan || y.isNan
  match rel with
  | 1 => !un && !x.lt y && !y.lt x
  | 2 => un || x.lt y || y.lt x
  | 3 => x.lt y
  | 4 => !un && !y.lt x
  | _ => un

/-- One combination of a reduction or a scan: add, min, max, and, or, xor (R129); a float result is rounded under the word's rnd and
sat, for min and max too (log 90). -/
def combination (fms : Vector (BitVec 32) 16) (op : Nat) (rnd : BitVec 3) (sat : BitVec 1) (t : ElemTy) (x y : Nat) : Nat :=
  match t.fmt fms with
  | none =>
    match op with
    | 0 => fitted t.width t.isSigned sat (intOf t.isSigned t.width x + intOf t.isSigned t.width y)
    | 1 => if intOf t.isSigned t.width y < intOf t.isSigned t.width x then y else x
    | 2 => if intOf t.isSigned t.width x < intOf t.isSigned t.width y then y else x
    | 3 => x &&& y
    | 4 => x ||| y
    | _ => x ^^^ y
  | some f =>
    match op with
    | 0 => f.round (Rnd.of rnd) (sat = 1) ((f.decode x).add (Rnd.of rnd == Rnd.rd) (f.decode y))
    | 1 => f.round (Rnd.of rnd) (sat = 1) (smaller (f.decode x) (f.decode y))
    | _ => f.round (Rnd.of rnd) (sat = 1) (larger (f.decode x) (f.decode y))

/-- The value of a reduction over no element (R129). -/
def emptyValue (fms : Vector (BitVec 32) 16) (op : Nat) (t : ElemTy) : Nat :=
  match t.fmt fms, op with
  | some f, 1 => f.round .rne false (.inf false)
  | some f, 2 => f.round .rne false (.inf true)
  | some _, _ => 0
  | none, 1 => if t.isSigned then 2 ^ (t.width - 1) - 1 else 2 ^ t.width - 1
  | none, 2 => if t.isSigned then 2 ^ (t.width - 1) else 0
  | none, 3 => 2 ^ t.width - 1
  | none, _ => 0

/-- The fixed tree of R82 over the 2^k elements from index i on: the two halves combined, an absent element passing the other
one up. -/
def halvesTree (op : Nat → Nat → Nat) (elem : Nat → Option Nat) : Nat → Nat → Option Nat
  | 0, i => elem i
  | k + 1, i =>
    match halvesTree op elem k i, halvesTree op elem k (i + 2 ^ k) with
    | some x, some y => some (op x y)
    | x, y => x.or y

/-- A source's tag names this type, is unscaled, and its format register has the type's width (R125, R405). -/
def Typed (c : Crew) (r : Nat) (t : ElemTy) : Prop :=
  (c.vreg r).tag = t.tag ∧ tagType t.tag = some t ∧ t.widMismatch c.fmts = false ∧ tagReserved false t.tag = false

/-- What a slot of a P word gives beside a memory access: nothing, a value to the scalar register d, or elements or lane words to
the vector register or the pair d (R28). -/
inductive SlotGives where
  | nothing
  | scalar (v : W64)
  | elements (t : ElemTy) (f : Nat → Nat → Nat)
  | words (pair : Bool) (tag : BitVec 8) (f : Nat → Nat)

/-- The vector registers that a slot writes. -/
def SlotGives.regs (r : SlotGives) (z : Slot) : List Nat :=
  match r with
  | .elements t _ => regsOf z.d.toNat t.is64
  | .words pair _ _ => regsOf z.d.toNat pair
  | _ => []

/-- A scalar register after a slot, from its value before. -/
def SlotGives.sreg (r : SlotGives) (z : Slot) (f : BitVec 8) (old : W64) : W64 :=
  match r with
  | .scalar v => if f = z.d then v else old
  | _ => old

/-- A slot's vector result has been written in the lanes of the current mask. -/
def SlotGives.written (r : SlotGives) (z : Slot) (c c' : Crew) : Prop :=
  match r with
  | .elements t f => LaneElements c c' c.cur z.d.toNat t f
  | .words pair tag f => LaneValues c c' c.cur z.d.toNat pair tag f fun _ => false
  | _ => True

/-- The value of an integer or a float slot on scalar registers d and s (R28, R87 to R92). -/
def pairScalar (z : Slot) (p q : W64) : W64 :=
  let n := q.toNat % 64
  let f := if z.ety = 9 then Fmt.f16 else if z.ety = 10 then Fmt.bf16 else if z.ety = 11 then Fmt.f32 else Fmt.f64
  let fit (v : XReal) : W64 := BitVec.ofNat 64 (f.round (Rnd.of z.rnd) (z.sat = 1) v)
  let u := f.decode (p.toNat % 2 ^ f.width)
  let v := f.decode (q.toNat % 2 ^ f.width)
  match z.sop.toNat with
  | 4 => p &&& q
  | 5 => p ||| q
  | 6 => p ^^^ q
  | 7 => p <<< n
  | 8 => p >>> n
  | 9 => p.sshiftRight n
  | 10 => if p.toInt ≤ q.toInt then p else q
  | 11 => if p.toInt ≤ q.toInt then q else p
  | 12 => q
  | 13 => fit (u.add (Rnd.of z.rnd == Rnd.rd) v)
  | 14 => fit (u.mul v)
  | 15 => fit (smaller u v)
  | _ => fit (larger u v)

/-- One element of an integer vector slot (R28, R120, R121). -/
def pairInteger (z : Slot) (t : ElemTy) (m n : Nat) : Nat :=
  let p := intOf t.isSigned t.width m
  let q := intOf t.isSigned t.width n
  match z.sop.toNat with
  | 0x41 => fitted t.width t.isSigned z.sat (p + q)
  | 0x42 => fitted t.width t.isSigned z.sat (p - q)
  | 0x43 => fitted t.width t.isSigned z.sat (p * q)
  | 0x47 => if t.width ≤ n then 0 else m * 2 ^ n
  | 0x48 => if t.width ≤ n then 0 else m / 2 ^ n
  | 0x49 => fitted t.width true 0 (intOf true t.width m / 2 ^ min n t.width)
  | 0x4A => fitted t.width t.isSigned 0 (min p q)
  | _ => fitted t.width t.isSigned 0 (max p q)

/-- One element of a float vector slot, from the exact values of d and s (R28, R62, R120). -/
def pairFloat (z : Slot) (f : Fmt) (u v : XReal) : Nat :=
  let fit (y : XReal) : Nat := f.round (Rnd.of z.rnd) (z.sat = 1) y
  let rd := Rnd.of z.rnd == Rnd.rd
  match z.sop.toNat with
  | 0x41 => fit (u.add rd v)
  | 0x42 => fit (u.sub rd v)
  | 0x43 => fit (u.mul v)
  | 0x4A => f.round .rne false (smaller u v)
  | _ => f.round .rne false (larger u v)

/-- What a slot that is neither LD nor ST gives, when its operands pass their checks (R27, R28, R30). -/
def SlotMeans (z : Slot) (c : Crew) (r : SlotGives) : Prop :=
  let td := (c.vreg z.d.toNat).tag
  let ts := (c.vreg z.s.toNat).tag
  let even (pair : Bool) : Prop := pair = true → z.d.toNat % 2 = 0 ∧ z.s.toNat % 2 = 0
  let clean (x : BitVec 8) (pair : Bool) : Prop := Unmarked c c.cur x.toNat pair
  -- the type of d's elements, and s of the same type
  let typed (t : ElemTy) : Prop := firstType c.fmts z.ety acceptAny 1 td = .ok t ∧ checkTyped c.fmts z.ety t 2 ts = .ok () ∧
    even t.is64 ∧ clean z.d t.is64 ∧ clean z.s t.is64
  match r with
  | .nothing => z.sop = 0
  | .scalar v =>
    (z.sop.toNat ∈ [1, 2, 3] ∧ ∃ n signed, (z.ety.toNat, n, signed) ∈ integerTypes ∧
      v = typedResult n signed z.sat
        (let p := typedValue n signed (c.sreg z.d)
         let q := typedValue n signed (c.sreg z.s)
         if z.sop = 1 then p + q else if z.sop = 2 then p - q else p * q)) ∨
    (4 ≤ z.sop.toNat ∧ z.sop.toNat ≤ 16 ∧ v = pairScalar z (c.sreg z.d) (c.sreg z.s))
  | .elements t f =>
    (typed t ∧ t.isInt = true ∧ z.sop.toNat ∈ [0x41, 0x42, 0x43, 0x47, 0x48, 0x49, 0x4A, 0x4B] ∧
      ∀ l e, f l e = pairInteger z t (c.element z.d.toNat t l e) (c.element z.s.toNat t l e)) ∨
    (typed t ∧ t ≠ .ieee 3 ∧ (z.sop.toNat ∈ [0x4A, 0x4B] ∨ (z.sop.toNat ∈ [0x41, 0x42, 0x43] ∧ t.narrowIndex = none)) ∧
      ∃ g, t.fmt c.fmts = some g ∧ ∀ l e, f l e = pairFloat z g (g.decode (c.element z.d.toNat t l e))
        ((sourceType t ts).value c.fmts (c.element z.s.toNat t l e))) ∨
    (z.sop = 0x4D ∧ z.ety.toNat ≤ 12 ∧ etyType z.ety 0 = some t ∧ (t.is64 = true → z.d.toNat % 2 = 0) ∧
      ∃ src, Typed c z.s.toNat src ∧ (src.is64 = true → z.s.toNat % 2 = 0) ∧ clean z.s src.is64 ∧
        ∀ l e, f l e =
          if e < src.perLane then converted c.fmts src t z.rnd z.sat (c.element z.s.toNat src l e) else 0)
  | .words pair tag f =>
    (z.sop.toNat ∈ [0x44, 0x45, 0x46] ∧ z.ety = 0 ∧ pair = tagIs64 td ∧ tag = td ∧ tagReserved false td = false ∧
      tagReserved false ts = false ∧ even pair ∧ clean z.d pair ∧ clean z.s pair ∧
      ∀ l, f l =
        let p := c.laneValue z.d.toNat pair l
        let q := c.laneValue z.s.toNat pair l
        if z.sop = 0x44 then p &&& q else if z.sop = 0x45 then p ||| q else p ^^^ q) ∨
    (z.sop = 0x4C ∧ tagReserved false ts = false ∧ even pair ∧ clean z.s pair ∧
      ((z.ety = 0 ∧ pair = tagIs64 ts ∧ tag = ts) ∨
        (z.ety.toNat ≤ 12 ∧ ∃ t, etyType z.ety 0 = some t ∧ pair = t.is64 ∧ tag = t.tag)) ∧
      ∀ l, f l = c.laneValue z.s.toNat pair l)

/-- Both slots of a P word have written: scalar registers in the order of the slots, and no vector register but theirs (R30). -/
structure PairWrites (x y : Slot) (p q : SlotGives) (c c' : Crew) : Prop where
  scalars : ∀ f : BitVec 8, f.toNat < 64 → c'.sreg f = if f = 0 then 0 else q.sreg y f (p.sreg x f (c.sreg f))
  only : OnlyVectors c c' (p.regs x ++ q.regs y)
  first : p.written x c c'
  second : q.written y c c'

/-- A slot's vector registers lie in the crew's granules and in no spill block (R241). -/
def SlotGives.inGranules (r : SlotGives) (z : Slot) (c : Crew) : Prop :=
  r.regs z ≠ [] → ∀ n, n ∈ [z.d.toNat, z.d.toNat + 1, z.s.toNat, z.s.toNat + 1] → n < c.declared ∧ n / 8 ∉ c.spillBlocks

/-- The endpoint of a channel gives rows to a crew: a row queue, a read stream or the drain port (R115, R154). -/
def State.givesRows (s : State) (d k q : Nat) : Prop :=
  match (s.chan d k q).endpoint with
  | .rowQueue => True
  | .stream e => (s.stream d k e).isWrite = false
  | .drainPort => True
  | .lockOut _ => False

/-- The endpoint of a channel refuses a crew's row: it is neither a row queue nor a running write stream of the crew's width
(R115, R154). -/
def State.refusesRow (s : State) (c : Crew) (q : Nat) : Prop :=
  match (s.chan c.place.die c.place.core q).endpoint with
  | .rowQueue => False
  | .stream e =>
    let x := s.stream c.place.die c.place.core e
    x.isWrite = false ∨ x.state ≠ .running ∨ x.width ≠ c.lanes
  | _ => True

/-- The endpoint of a channel has room for a row: a row queue holds eight, a write stream four, those of the streams that it
ended before among them (R153, R162). -/
def State.hasRoom (s : State) (c : Crew) (q : Nat) : Prop :=
  match (s.chan c.place.die c.place.core q).endpoint with
  | .stream e => (s.stream c.place.die c.place.core e).waiting < 4
  | _ => (s.chan c.place.die c.place.core q).rows.length < 8

end Sys2Proof.Machine

open Sys2Proof Sys2Proof.Machine

/-! ## Scalar integers (R60, R87 to R89) -/

/-- R87 and R60 for ADD, SUB and MUL: the sources are read at the ety's type, the result is exact, then wrapped with sat 0
or clamped with sat 1, and extended to 64 bits; nothing but d and the pc changes, and d = s0 discards the result. -/
def Obligations.ScalarArithmeticWrapsOrClamps : Prop :=
  ∀ (w : RegForm) (s : State) (c : Crew) (width : Nat) (signed : Bool),
    (w.ety.toNat, width, signed) ∈ integerTypes → Issues s c w.guard →
      let x := typedValue width signed (c.sreg w.a)
      let y := typedValue width signed (c.sreg w.b)
      ScalarResult (.add w) s c w.d (typedResult width signed w.sat (x + y)) ∧
      ScalarResult (.sub w) s c w.d (typedResult width signed w.sat (x - y)) ∧
      ScalarResult (.mul w) s c w.d (typedResult width signed w.sat (x * y))

/-- R87 for the other integer register forms on whole registers: high products, logic, shifts by y[5:0], rotation, minima and
maxima, selection and comparisons. -/
def ScalarIntegerOperations : Prop :=
  ∀ (w : RegForm) (s : State) (c : Crew), Issues s c w.guard →
    let x := c.sreg w.a
    let y := c.sreg w.b
    let n := y.toNat % 64
    ScalarResult (.mulh w) s c w.d ((x.signExtend 128 * y.signExtend 128).extractLsb' 64 64) ∧
    ScalarResult (.mulhu w) s c w.d ((x.setWidth 128 * y.setWidth 128).extractLsb' 64 64) ∧
    ScalarResult (.andR w) s c w.d (x &&& y) ∧
    ScalarResult (.orR w) s c w.d (x ||| y) ∧
    ScalarResult (.xorR w) s c w.d (x ^^^ y) ∧
    ScalarResult (.andn w) s c w.d (x &&& ~~~y) ∧
    ScalarResult (.shl w) s c w.d (x <<< n) ∧
    ScalarResult (.shr w) s c w.d (x >>> n) ∧
    ScalarResult (.sra w) s c w.d (x.sshiftRight n) ∧
    ScalarResult (.rot w) s c w.d (x <<< n ||| x >>> (64 - n)) ∧
    ScalarResult (.minR w) s c w.d (BitVec.ofInt 64 (min x.toInt y.toInt)) ∧
    ScalarResult (.maxR w) s c w.d (BitVec.ofInt 64 (max x.toInt y.toInt)) ∧
    ScalarResult (.minu w) s c w.d (BitVec.ofNat 64 (min x.toNat y.toNat)) ∧
    ScalarResult (.maxu w) s c w.d (BitVec.ofNat 64 (max x.toNat y.toNat)) ∧
    ScalarResult (.sel w) s c w.d (if c.sreg w.c ≠ 0 then x else y) ∧
    ScalarResult (.cmpeq w) s c w.d (truthWord (x = y)) ∧
    ScalarResult (.cmpne w) s c w.d (truthWord (x ≠ y)) ∧
    ScalarResult (.cmplt w) s c w.d (truthWord (x.toInt < y.toInt)) ∧
    ScalarResult (.cmpltu w) s c w.d (truthWord (x.toNat < y.toNat)) ∧
    ScalarResult (.cmple w) s c w.d (truthWord (x.toInt ≤ y.toInt)) ∧
    ScalarResult (.cmpleu w) s c w.d (truthWord (x.toNat ≤ y.toNat))

/-- R87 for CLZ, CTZ, POPC, SEXT and ZEXT. CLZ writes the n up to 64 for which the top n bits are zero and the next one, when
there is one, is set; CTZ the same from the low end; POPC the number of set bits. -/
def ScalarBitCountsAndExtensions : Prop :=
  ∀ (w : RegForm) (s : State) (c : Crew), Issues s c w.guard →
    let x := c.sreg w.a
    (∃ n, n ≤ 64 ∧ ScalarResult (.clz w) s c w.d (BitVec.ofNat 64 n) ∧
      (∀ i, i < 64 → 64 - n ≤ i → x.getLsbD i = false) ∧ (n < 64 → x.getLsbD (63 - n) = true)) ∧
    (∃ n, n ≤ 64 ∧ ScalarResult (.ctz w) s c w.d (BitVec.ofNat 64 n) ∧
      (∀ i, i < n → x.getLsbD i = false) ∧ (n < 64 → x.getLsbD n = true)) ∧
    ScalarResult (.popc w) s c w.d (BitVec.ofNat 64 ((List.range 64).filter fun i => x.getLsbD i).length) ∧
    (∀ width, (w.ety.toNat, width) ∈ [(1, 8), (2, 16), (3, 32)] →
      ScalarResult (.sext w) s c w.d ((x.setWidth width).signExtend 64)) ∧
    (∀ width, (w.ety.toNat, width) ∈ [(5, 8), (6, 16), (7, 32)] →
      ScalarResult (.zext w) s c w.d ((x.setWidth width).setWidth 64))

/-- R88: the quotients and remainders of 64-bit values, with the borderline cases of its table. -/
def Obligations.ScalarDivisionNeverFaults : Prop :=
  ∀ (w : RegForm) (s : State) (c : Crew), Issues s c w.guard →
    let x := c.sreg w.a
    let y := c.sreg w.b
    ScalarResult (.div w) s c w.d (if y = 0 then BitVec.ofInt 64 (-1) else BitVec.ofInt 64 (x.toInt.tdiv y.toInt)) ∧
    ScalarResult (.divu w) s c w.d (if y = 0 then BitVec.ofNat 64 (2 ^ 64 - 1) else BitVec.ofNat 64 (x.toNat / y.toNat)) ∧
    ScalarResult (.rem w) s c w.d (if y = 0 then x else BitVec.ofInt 64 (x.toInt.tmod y.toInt)) ∧
    ScalarResult (.remu w) s c w.d (if y = 0 then x else BitVec.ofNat 64 (x.toNat % y.toNat))

/-- R89: the integer immediate forms. LIH replaces bits 16p + 15 to 16p of s[a]. -/
def ScalarImmediateResults : Prop :=
  ∀ (w : ImmForm) (s : State) (c : Crew), Issues s c w.guard →
    let x := c.sreg w.a
    let i := w.imm.signExtend 64
    let n := w.imm.toNat % 64
    let p := w.imm.toNat / 2 ^ 16 % 4
    ScalarResult (.addi w) s c w.d (BitVec.ofInt 64 (x.toInt + w.imm.toInt)) ∧
    ScalarResult (.muli w) s c w.d (BitVec.ofInt 64 (x.toInt * w.imm.toInt)) ∧
    ScalarResult (.andi w) s c w.d (x &&& i) ∧
    ScalarResult (.ori w) s c w.d (x ||| i) ∧
    ScalarResult (.xori w) s c w.d (x ^^^ i) ∧
    ScalarResult (.shli w) s c w.d (x <<< n) ∧
    ScalarResult (.shri w) s c w.d (x >>> n) ∧
    ScalarResult (.srai w) s c w.d (x.sshiftRight n) ∧
    ScalarResult (.cmpeqi w) s c w.d (truthWord (x = i)) ∧
    ScalarResult (.cmplti w) s c w.d (truthWord (x.toInt < w.imm.toInt)) ∧
    ScalarResult (.cmpltui w) s c w.d (truthWord (x.toNat < i.toNat)) ∧
    ScalarResult (.li w) s c w.d (BitVec.ofInt 64 w.imm.toInt) ∧
    ∃ v, ScalarResult (.lih w) s c w.d v ∧
      ∀ j, j < 64 → v.getLsbD j = if j / 16 = p then w.imm.getLsbD (j % 16) else x.getLsbD j

/-- R87 and R89: the scalar integer words, by register and by immediate, give the results of their tables. -/
def Obligations.ScalarIntegerResults : Prop := ScalarIntegerOperations ∧ ScalarBitCountsAndExtensions ∧ ScalarImmediateResults

/-! ## Scalar floats (R61, R62, R71, R72, R90, R91) -/

/-- R61 and R62: RoundToFormat of a NaN is the format's canonical quiet NaN, whatever the rounding mode and sat, and the
canonical code reads as a NaN. -/
def NanResultsAreCanonical : Prop :=
  ∀ (f : Fmt) (code : Nat), (f, code) ∈ [(Fmt.f16, 0x7E00), (Fmt.bf16, 0x7FC0), (Fmt.f32, 0x7FC00000), (Fmt.f64, 0x7FF8000000000000)] →
    (∀ (r : Rnd) (sat : Bool), f.round r sat .nan = code) ∧ f.decode code = .nan

/-- R90 for the scalar floats: the sources are the low bits of the registers at the ety's format, the exact result is rounded
once with the word's rnd and sat, and written zero-extended. FMIN and FMAX give the operand that R62 picks. -/
def ScalarFloatOperations : Prop :=
  ∀ (w : RegForm) (s : State) (c : Crew) (f : Fmt),
    (w.ety.toNat, f) ∈ [(9, Fmt.f16), (10, Fmt.bf16), (11, Fmt.f32), (12, Fmt.f64)] → Issues s c w.guard →
      let x := f.decode ((c.sreg w.a).toNat % 2 ^ f.width)
      let y := f.decode ((c.sreg w.b).toNat % 2 ^ f.width)
      let z := f.decode ((c.sreg w.c).toNat % 2 ^ f.width)
      let rd := Rnd.of w.rnd == Rnd.rd
      let rounded (v : XReal) : W64 := BitVec.ofNat 64 (f.round (Rnd.of w.rnd) (w.sat = 1) v)
      ScalarResult (.fadd w) s c w.d (rounded (x.add rd y)) ∧
      ScalarResult (.fsub w) s c w.d (rounded (x.sub rd y)) ∧
      ScalarResult (.fmul w) s c w.d (rounded (x.mul y)) ∧
      ScalarResult (.ffma w) s c w.d (rounded ((x.mul y).add rd z)) ∧
      ScalarResult (.fdiv w) s c w.d (rounded (x.div y)) ∧
      ScalarResult (.fsqrt w) s c w.d (rounded x.sqrt) ∧
      ScalarResult (.fmin w) s c w.d
        (rounded (if y.isNan then x else if x.isNan then y else if y.below x then y else x)) ∧
      ScalarResult (.fmax w) s c w.d
        (rounded (if y.isNan then x else if x.isNan then y else if x.below y then y else x))

/-- R91: FCMP's five relations, and FCVT between the types whose codes stand in fn and in ety, from the low bits of the
source under the table of R72: to a float RoundToFormat of the value; from a float to an integer the value rounded and clamped,
a NaN giving 0; between integers an extension, the low bits, or with sat 1 the clamped value. -/
def ScalarFloatComparisonsAndConversions : Prop :=
  (∀ (w : RegForm) (s : State) (c : Crew) (f : Fmt),
    (w.ety.toNat, f) ∈ [(9, Fmt.f16), (10, Fmt.bf16), (11, Fmt.f32), (12, Fmt.f64)] → Issues s c w.guard →
      let x := f.decode ((c.sreg w.a).toNat % 2 ^ f.width)
      let y := f.decode ((c.sreg w.b).toNat % 2 ^ f.width)
      let un : Prop := x.isNan = true ∨ y.isNan = true
      (w.fn = 1 → ScalarResult (.fcmp w) s c w.d (if ¬un ∧ x.lt y = false ∧ y.lt x = false then 1 else 0)) ∧
      (w.fn = 2 → ScalarResult (.fcmp w) s c w.d (if un ∨ x.lt y = true ∨ y.lt x = true then 1 else 0)) ∧
      (w.fn = 3 → ScalarResult (.fcmp w) s c w.d (if x.lt y = true then 1 else 0)) ∧
      (w.fn = 4 → ScalarResult (.fcmp w) s c w.d (if ¬un ∧ y.lt x = false then 1 else 0)) ∧
      (w.fn = 5 → ScalarResult (.fcmp w) s c w.d (if un then 1 else 0))) ∧
  (∀ (w : RegForm) (s : State) (c : Crew) (src dst : ElemTy),
    etyType (w.fn.setWidth 4) 0 = some src → etyType w.ety 0 = some dst → w.fn.toNat ≤ 12 → w.ety.toNat ≤ 12 →
    Issues s c w.guard →
      let code := (c.sreg w.a).toNat % 2 ^ src.width
      ScalarResult (.fcvt w) s c w.d (BitVec.ofNat 64 (converted c.fmts src dst w.rnd w.sat code)))

/-- R61, R62, R72, R90 and R91: the scalar float words, with one NaN for every NaN result. -/
def Obligations.ScalarFloatResults : Prop := NanResultsAreCanonical ∧ ScalarFloatOperations ∧ ScalarFloatComparisonsAndConversions

/-! ## Transfers of control, masks, divergence (R92 to R100) -/

/-- R92: the branches and the call of immediate form, whose target is PC + 8 times the sign-extended immediate, modulo 2^64. -/
def BranchTargets : Prop :=
  ∀ (w : ImmForm) (s : State) (c : Crew), Issues s c w.guard →
    let target := BitVec.ofInt 64 (c.pc.toInt + 8 * w.imm.toInt)
    JumpsTo (.br w) s c target ∧
    JumpsTo (.brz w) s c (if c.sreg w.a = 0 then target else c.pc + 8) ∧
    JumpsTo (.brnz w) s c (if c.sreg w.a ≠ 0 then target else c.pc + 8) ∧
    JumpsTo (.brany w) s c (if ∃ l, l < 1024 ∧ (c.mask w.a).getLsbD l = true ∧ c.cur.getLsbD l = true then target else c.pc + 8) ∧
    JumpsTo (.brall w) s c
      (if ∀ l, l < 1024 → c.cur.getLsbD l = true → (c.mask w.a).getLsbD l = true then target else c.pc + 8) ∧
    ∃ c', CrewResult (.call w) s c' ∧ SetsScalar c c' w.d (c.pc + 8) target

/-- R92 and R93: JMP, RET and CALLR go to s[a] as it stood before the link was written; a target that is not 8-byte aligned
raises the control-transfer fault, cause 3 detail 1, before anything changes. -/
def RegisterJumps : Prop :=
  ∀ (w : RegForm) (s : State) (c : Crew), Issues s c w.guard →
    let target := c.sreg w.a
    (target.toNat % 8 = 0 →
      JumpsTo (.jmp w) s c target ∧ JumpsTo (.ret w) s c target ∧
      ∃ c', CrewResult (.callr w) s c' ∧ SetsScalar c c' w.d (c.pc + 8) target) ∧
    (target.toNat % 8 ≠ 0 →
      Kills (.jmp w) s c 3 1 [target] ∧ Kills (.ret w) s c 3 1 [target] ∧ Kills (.callr w) s c 3 1 [target])

/-- R94 and R95: the mask instructions; with fn 1 the result is ANDed with the current mask, and a mask register keeps no
lane at or above L. -/
def MaskInstructionResults : Prop :=
  ∀ (w : RegForm) (s : State) (c : Crew), Issues s c w.guard →
    let a := c.mask w.a
    let b := c.mask w.b
    -- a word that names m0, or no mask register, as a mask destination is illegal (R36, R94)
    let part (m : Mask) : Mask := if w.fn = 1 then m &&& c.cur else m
    (0x41 ≤ w.d.toNat → w.d.toNat ≤ 0x4F →
      MaskResult (.mand w) s c w.d (part (a &&& b)) ∧
      MaskResult (.mor w) s c w.d (part (a ||| b)) ∧
      MaskResult (.mxor w) s c w.d (part (a ^^^ b)) ∧
      MaskResult (.mnot w) s c w.d (part (~~~a))) ∧
    ScalarResult (.mcnt w) s c w.d (BitVec.ofNat 64 ((List.range c.lanes).filter fun l => (part a).getLsbD l).length) ∧
    ScalarResult (.many w) s c w.d (if ∃ l, l < c.lanes ∧ l < 1024 ∧ (part a).getLsbD l = true then 1 else 0)

/-- R92 to R95: branches, jumps and links; the mask instructions. -/
def Obligations.BranchesAndMasks : Prop := BranchTargets ∧ RegisterJumps ∧ MaskInstructionResults

/-- R97: MARK pushes its entry and goes on; a BRD whose lanes are the whole current mask jumps and pushes nothing, another one
keeps the lanes that do not jump on the stack, and one without lanes goes on at the next word. A push onto a full stack raises
the divergence fault. -/
def Obligations.MarkAndDivergentBranch : Prop :=
  ∀ (w : ImmForm) (s : State) (c : Crew), s.crewAt s.cur = some c →
    let target := BitVec.ofInt 64 (c.pc.toInt + 8 * w.imm.toInt)
    let lanes := guardSet w.guard c
    (guardFalse w.guard c = false → c.stack.length ≠ 16 →
      CrewResult (.markR w) s { c with stack := ⟨.mark, c.cur, target⟩ :: c.stack, pc := c.pc + 8 }) ∧
    (guardFalse w.guard c = false → c.stack.length = 16 → Kills (.markR w) s c 7 1 [c.rdepth]) ∧
    (lanes = 0 → JumpsTo (.brd w) s c (c.pc + 8)) ∧
    (lanes ≠ 0 → lanes = c.cur → JumpsTo (.brd w) s c target) ∧
    (lanes ≠ 0 → lanes ≠ c.cur → c.stack.length ≠ 16 →
      CrewResult (.brd w) s
        { c with stack := ⟨.path, c.cur &&& ~~~lanes, c.pc + 8⟩ :: c.stack, cur := lanes, pc := target }) ∧
    (lanes ≠ 0 → lanes ≠ c.cur → c.stack.length = 16 → Kills (.brd w) s c 7 1 [c.rdepth])

/-- R98 to R100: JOIN at the join address of the nearest MARK entry pops entries down to the first one with a live lane, and a
crew left without one ends; it faults on an empty stack and anywhere else. -/
def JoinFollowsTheStack : Prop :=
  ∀ (w : RegForm) (s : State) (c : Crew), Issues s c w.guard →
    let nearest := (c.stack.find? fun e => e.kind = .mark).map fun e => e.addr
    (c.stack = [] → Kills (.join w) s c 7 2 [c.rdepth]) ∧
    (c.stack ≠ [] → nearest ≠ some c.pc → Kills (.join w) s c 7 3 [c.rdepth]) ∧
    (∀ pre e rest, c.stack = pre ++ e :: rest → nearest = some c.pc → (∀ p, p ∈ pre → p.mask &&& c.live = 0) →
      e.mask &&& c.live ≠ 0 →
      CrewResult (.join w) s
        { c with stack := rest, cur := e.mask &&& c.live, pc := if e.kind = .path then e.addr else e.addr + 8 }) ∧
    (c.stack ≠ [] → nearest = some c.pc → (∀ p, p ∈ c.stack → p.mask &&& c.live = 0) →
      ∃ t, exec (.join w) s = .next t ∧ t.crewAt s.cur = none)

/-- R99 and R217: EXIT removes the lanes of E from Live(), from the current mask and from every stack entry; with lanes left in
the current mask the crew goes on at the next word, else at the first entry of the stack that keeps a live lane, and without one
it ends and leaves its berth. -/
def ExitRemovesLanes : Prop :=
  ∀ (w : RegForm) (s : State) (c : Crew), Issues s c w.guard →
    let gone := guardSet w.guard c
    (c.cur &&& ~~~gone ≠ 0 →
      CrewResult (.exitR w) s
        { c with live := c.live &&& ~~~gone, cur := c.cur &&& ~~~gone, pc := c.pc + 8
                 stack := c.stack.map fun e => { e with mask := e.mask &&& ~~~gone } }) ∧
    (c.cur &&& ~~~gone = 0 → (∀ p, p ∈ c.stack → p.mask &&& ~~~gone &&& c.live = 0) →
      ∃ t, exec (.exitR w) s = .next t ∧ t.crewAt s.cur = none) ∧
    (∀ pre e rest, c.cur &&& ~~~gone = 0 → c.stack = pre ++ e :: rest → (∀ p, p ∈ pre → p.mask &&& ~~~gone &&& c.live = 0) →
      e.mask &&& ~~~gone &&& c.live ≠ 0 →
      CrewResult (.exitR w) s
        { c with live := c.live &&& ~~~gone, cur := e.mask &&& ~~~gone &&& c.live
                 pc := if e.kind = .path then e.addr else e.addr + 8
                 stack := rest.map fun p => { p with mask := p.mask &&& ~~~gone } })

/-- R98 to R100 and R217: JOIN, and lanes that exit. -/
def Obligations.JoinsAndExits : Prop := JoinFollowsTheStack ∧ ExitRemovesLanes

/-! ## NOP, WAIT and the special registers (R35, R101 to R109) -/

/-- R35 and R102: NOP changes the pc alone. WAIT holds its crew while a selected counter is above s[a], and the model notes that the
word has begun (log 65); then s[d] receives the error bits of the selected counters with FLUSHED in bit 5, and those bits of WERR
are cleared. -/
def WaitReportsAndClears : Prop :=
  ∀ (w : RegForm) (s : State) (c : Crew), Issues s c w.guard →
    let n := (c.sreg w.a).toNat
    let above (k : Counter) : Prop := w.fn.getLsbD k.bit = true ∧ n < c.count k
    let busy : Prop := above .wl ∨ above .ws ∨ above .wm ∨ above .wc ∨ above .wg
    let selected : BitVec 6 := (w.fn.extractLsb' 0 5).setWidth 6 ||| 0b100000
    JumpsTo (.nop w) s c (c.pc + 8) ∧
    (busy → CrewResult (.wait w) s { c with begun := .wait }) ∧
    (¬busy → ∃ c', CrewResult (.wait w) s { c' with werr := c.werr &&& ~~~selected } ∧
      SetsScalar c c' w.d ((c.werr &&& selected).setWidth 64) (c.pc + 8))

/-- R105 to R109: what GETSR reads. -/
def SpecialRegisterReads : Prop :=
  ∀ (w : ImmForm) (s : State) (c : Crew), Issues s c w.guard →
    let n := w.imm.toNat % 4096
    (n = 0x000 → ScalarResult (.getsr w) s c w.d c.pc) ∧
    (n = 0x001 → ScalarResult (.getsr w) s c w.d
      (BitVec.ofNat 64 (c.version.toNat * 2 ^ 24 + c.region % 2 ^ 8 * 2 ^ 16 + c.handler % 2 ^ 3 * 2 ^ 13 + s.cur.berth % 4 * 2 ^ 11 +
        s.cur.core % 64 * 2 ^ 5 + s.cur.die % 16))) ∧
    (n = 0x002 → ScalarResult (.getsr w) s c w.d (BitVec.ofNat 64 c.lanes)) ∧
    (n = 0x003 → ∃ v, ScalarResult (.getsr w) s c w.d v ∧
      ∀ i, i < 64 → v.getLsbD i = (decide (i < 32) && (c.cur.extractLsb' (32 * i) 32 != 0))) ∧
    (n = 0x004 → ScalarResult (.getsr w) s c w.d
      (BitVec.ofNat 64 ((if (c.stack.head?.map fun e => e.kind) = some .path then 32 else 0) + c.stack.length))) ∧
    (n = 0x005 → ScalarResult (.getsr w) s c w.d
      (BitVec.ofNat 64 (c.count .wl + 2 ^ 8 * c.count .ws + 2 ^ 16 * c.count .wm + 2 ^ 24 * c.count .wc + 2 ^ 32 * c.count .wg))) ∧
    (n = 0x006 → ScalarResult (.getsr w) s c w.d (c.werr.setWidth 64)) ∧
    (n = 0x007 → ScalarResult (.getsr w) s c w.d (c.cflags.setWidth 64)) ∧
    (n = 0x008 → ScalarResult (.getsr w) s c w.d (BitVec.ofNat 64 s.now)) ∧
    (∀ i, i < 16 → n = 0x010 + i → ScalarResult (.getsr w) s c w.d ((c.fmt i).setWidth 64)) ∧
    (∀ i, i < 16 → n = 0x020 + i →
      ScalarResult (.getsr w) s c w.d (((s.core s.cur.die s.cur.core).shared[i]?).getD 0)) ∧
    (n = 0x040 → ScalarResult (.getsr w) s c w.d s.io.sliceHash)

/-- R105, R106 and R64: what SETSR writes. A write to a core-shared register waits for the end of the cycle; WERR and CFLAGS
clear the bits that are one; a format register takes the value; read-only fields stay; SLICEHASH takes no change; a
nonzero reserved bit or an invalid format raises the special-register fault. That bits 63:32 written to a format register are
reserved, and that a reserved bit goes before an invalid format, are the model's readings (log 90). -/
def SpecialRegisterWrites : Prop :=
  ∀ (w : ImmForm) (s : State) (c : Crew), Issues s c w.guard →
    let n := w.imm.toNat % 4096
    let v := c.sreg w.a
    (n = 0x040 → JumpsTo (.setsr w) s c (c.pc + 8)) ∧
    (∀ i, i < 16 → n = 0x020 + i → ∃ t, exec (.setsr w) s = .next t ∧
      t.crewAt s.cur = some { c with pc := c.pc + 8 } ∧
      (t.core s.cur.die s.cur.core).shared = (s.core s.cur.die s.cur.core).shared ∧
      (t.core s.cur.die s.cur.core).sharedWrites = (s.core s.cur.die s.cur.core).sharedWrites ++
        [{ berth := s.cur.berth, reg := i, op := w.imm.extractLsb' 12 2, value := v }]) ∧
    (n = 0x006 → v.toNat < 2 ^ 6 →
      CrewResult (.setsr w) s { c with werr := c.werr &&& ~~~(v.setWidth 6), pc := c.pc + 8 }) ∧
    (n = 0x006 → 2 ^ 6 ≤ v.toNat → Kills (.setsr w) s c 8 1 [6, v]) ∧
    (n = 0x007 → v.toNat < 2 ^ 2 →
      CrewResult (.setsr w) s { c with cflags := c.cflags &&& ~~~(v.setWidth 2), pc := c.pc + 8 }) ∧
    (n = 0x007 → 2 ^ 2 ≤ v.toNat → Kills (.setsr w) s c 8 1 [7, v]) ∧
    (n = 0x000 ∨ n = 0x008 → JumpsTo (.setsr w) s c (c.pc + 8)) ∧
    (∀ i, i < 16 → n = 0x010 + i →
      (v &&& ~~~0x1FF1F#64 ≠ 0 → Kills (.setsr w) s c 8 1 [BitVec.ofNat 64 n, v]) ∧
      (v &&& ~~~0x1FF1F#64 = 0 → fmInvalid (v.setWidth 32) = true → Kills (.setsr w) s c 8 2 [BitVec.ofNat 64 n, v]) ∧
      (v &&& ~~~0x1FF1F#64 = 0 → fmInvalid (v.setWidth 32) = false →
        CrewResult (.setsr w) s { c with fmts := c.fmts.setIfInBounds i (v.setWidth 32), pc := c.pc + 8 }))

/-- R35 and R102 to R109: NOP, WAIT, and the special registers, read and written. -/
def Obligations.WaitAndSpecialRegisters : Prop := WaitReportsAndClears ∧ SpecialRegisterReads ∧ SpecialRegisterWrites

/-! ## Guards, decoding and the step (R13, R21, R22, R36, R37) -/

/-- R21 and R22: a crew-guarded word, of form 00 or 11 or a matrix word of form 01, whose guard names no lane of the current
mask changes nothing but the pc, which goes to the next word. -/
def Obligations.FalseGuardsSkip : Prop :=
  ∀ (i : Instr) (x : W64) (s : State) (c : Crew), i.wf = true → encode i = some x → s.crewAt s.cur = some c →
    (formOf x = 0 ∨ formOf x = 3 ∨ (formOf x = 1 ∧ 0x080 ≤ (opcodeOf x).toNat ∧ (opcodeOf x).toNat ≤ 0x089)) →
    x.extractLsb' 47 5 ≠ 0 → guardSet (x.extractLsb' 47 5) c = 0 → JumpsTo i s c (c.pc + 8)

/-- The encoding of the whole table is unambiguous: the word of every well-formed instruction decodes to it, and every word
that decodes is the word of its instruction. -/
def Obligations.DecodeInvertsEncode : Prop :=
  (∀ (i : Instr) (x : W64), i.wf = true → encode i = some x → decodeWord x = .ok i) ∧
  (∀ (x : W64) (i : Instr), decodeWord x = .ok i → i.wf = true ∧ encode i = some x)

/-- Words written out from the encodings of R16, R17, R26 and the opcode tables, and the instructions that they hold. -/
def Obligations.WordsDecodeAsTheSpecWritesThem : Prop :=
  decodeWord 0x0000028303800000 = .ok (.add ⟨0, 5, 6, 7, 0, 0, 0, 0, 0⟩) ∧
  decodeWord 0x200002837FFFFFF8 = .ok (.addi ⟨0, 5, 6, 0x7FFFFFF8⟩) ∧
  decodeWord 0x0800020480000380 = .ok (.ld ⟨0, 4, 9, 0, 0, 0, 0, 7, 0⟩) ∧
  decodeWord 0x4009848203000580 = .ok (.vadd ⟨0b10011, 9, 4, 6, 0, 0, 0, 11, 0⟩) ∧
  decodeWord 0xC000020485058009 = .ok (.boardNew ⟨0, 4, 9, 10, 11, 0, 0, 0, 9⟩) ∧
  decodeWord 0xC800018202800002 = .ok (.bar ⟨0, 3, 4, 5, 0, 0, 0, 0, 2⟩) ∧
  decodeWord 0xE000000280001253 = .ok (.boardi ⟨0, 0, 5, 0x1253⟩) ∧
  decodeWord 0xFFFFFFFFFFFFFFFF = .error 1

/-- R13 and R37: the step of the default order is the word at the crew's pc, read little-endian through the die's L1s at
the executable page that maps it, decoded and executed; then the issue slot ends and the turn passes on (log 5). Before the word
itself the crew takes its core's issue slot, which no berth below it has left in this cycle, and the fetch is a read of the die. An
illegal word issues as the table's illegal word, and a refused fetch as its refused fetch. -/
def Obligations.StepRunsTheDecodedWord : Prop :=
  ∀ (s : State) (c : Crew), s.agenda = [] → s.crewAt s.cur = some c → s.heldBack c = false → c.poison = none →
    c.exitPending = false → (s.core s.cur.die s.cur.core).slot ≤ s.cur.berth →
    let took : State := (s.putCrew { c with begun := .no }).onCore s.cur.die s.cur.core fun k => { k with slot := s.cur.berth + 1 }
    (∀ (x : W64) (e : TlbEntry), topByte c.pc = 0 → s.remoteWindow c.pc = none →
      s.translate s.cur.die s.cur.core c.pc.toNat = some e → e.x = true →
      (∀ k, k < 8 → x.extractLsb' (8 * k) 8 =
        s.l1Byte s.cur.die e.key (e.pa + (c.pc.toNat - e.va) + k)) →
      let fetched := took.observe s.cur.die (.pa (e.pa + (c.pc.toNat - e.va)) e.key (some { va := e.va, size := e.size })) 8
      (∀ i, decodeWord x = .ok i → c.hazard i = false →
        step s = mapNext (fun t => t.afterIssue.turnOver) (exec i fetched)) ∧
      (∀ r, decodeWord x = .error r → step s = mapNext (fun t => t.afterIssue.turnOver) (exec (.illegalWord x) fetched))) ∧
    (∀ d, s.fetchWord c = .error d → step s = mapNext (fun t => t.afterIssue.turnOver) (exec .fetchFault took))

/-- The turns of the agenda come first, in order (log 5): an event's own effect, the end of a cycle, and the issue slot of a named
berth, after which the berth of the default order is current again. A crew that is held back issues nothing, nor does a berth at or
below one that has issued in the cycle; one that has met poison takes the data error, cause 15, before its next word, with the
word offset of the access that met it (R143, R346). -/
def Obligations.TurnsOfAStep : Prop :=
  (∀ (s : State) (i : Instr) (rest : List Turn), s.agenda = .event i :: rest → step s = exec i { s with agenda := rest }) ∧
  (∀ (s : State) (rest : List Turn), s.agenda = .cycle :: rest →
    ∃ t, step s = .next t ∧ t = ({ s with agenda := rest } : State).nextCycle ∧ t.agenda = rest ∧ t.now = s.now + 1 ∧
      (s.flight.releases = [] → t.mem = s.mem)) ∧
  (∀ (s : State) (who : CrewRef) (rest : List Turn), s.agenda = .issue who :: rest →
    step s = mapNext (fun t => { t with cur := s.cur }) (issue { s with agenda := rest, cur := who })) ∧
  (∀ (s : State) (c : Crew), s.crewAt s.cur = some c →
    s.heldBack c = true ∨ s.cur.berth < (s.core s.cur.die s.cur.core).slot → issue s = .next s) ∧
  (∀ (s : State) (c : Crew) (detail : Nat) (info : W64) (poff : BitVec 21), s.crewAt s.cur = some c → s.heldBack c = false →
    (s.core s.cur.die s.cur.core).slot ≤ s.cur.berth → c.poison = some (detail, info, poff) →
    ∃ t c1, issue s = .next (t.killCrew c1 { cause := 15, detail := detail, infos := [info] }) ∧ c1.poff = poff ∧
      c1 = { c with pc := c1.pc } ∧
      t = (s.putCrew { c with begun := .no }).onCore s.cur.die s.cur.core fun k => { k with slot := s.cur.berth + 1 })

/-! ## Reset and memory's form -/

/-- The reset values that the spec states: bring-up in ROM with SVN and REASON 0 (R396), caches off (R306), every sequence
and event counter 0 (R228, R364), the latched root disabled (R310), CYCLE 0 (R106), and no crew, region, fault or message. That queues and messages are empty at reset is log 1. -/
def Obligations.ResetState : Prop :=
  let s := State.reset
  s.io.sec.state = .rom ∧ s.io.sec.svn = 0 ∧ s.io.sec.reason = 0 ∧ s.io.cacheEn = false ∧ s.now = 0 ∧ s.io.evseq = 0 ∧
    (∀ who, s.crewAt who = none) ∧ s.toHost = [] ∧ s.toPeers = [] ∧
    ∀ d, (s.die d).nextSeq = 0 ∧ (s.die d).evseq = 0 ∧ (s.die d).regs.latchedRoot = 0 ∧ (s.die d).faults.entries = [] ∧
      (s.die d).faults.fatal = none ∧ (s.die d).gov.trip = false ∧ (s.die d).regions = []

/-- Memory stays in its canonical form: its addresses rise strictly, and no entry equals what an unlisted address reads as. The
form, and that an unlisted address reads as zero, are the model's choice (log 2, DESIGN CHOICE). -/
def Obligations.StepsKeepMemoryCanonical : Prop :=
  ∀ s t : State, Memory.wf s.mem = true → step s = .next t → Memory.wf t.mem = true

/-- Memory is in its canonical form at reset, with nothing listed: every byte then reads as zero, which is the model's choice (log 2,
DESIGN CHOICE). -/
def Obligations.ResetMemoryCanonical : Prop := Memory.wf State.reset.mem = true ∧ State.reset.mem = []

/-! ## Killing faults (R37, R86, R218, R345 to R350) -/

/-- R37, R218 and R345: an illegal word kills its crew with the decode reason and the word, whatever its guard; a refused fetch
with its detail and the pc; TRAP and TRAPI with the low 16 bits of s[a] or of the immediate as their code. -/
def WordsThatAlwaysKill : Prop :=
  ∀ (s : State) (c : Crew), s.crewAt s.cur = some c →
    (∀ x r, decodeWord x = .error r → Kills (.illegalWord x) s c 1 r [x]) ∧
    (∀ d, s.fetchWord c = .error d → Kills .fetchFault s c 2 d [c.pc]) ∧
    (topByte c.pc ≠ 0 → Kills .fetchFault s c 2 1 [c.pc]) ∧
    (topByte c.pc = 0 → (s.remoteWindow c.pc).isSome ∨ s.translate s.cur.die s.cur.core c.pc.toNat = none →
      Kills .fetchFault s c 2 2 [c.pc]) ∧
    (∀ e, topByte c.pc = 0 → s.remoteWindow c.pc = none → s.translate s.cur.die s.cur.core c.pc.toNat = some e → e.x = false →
      Kills .fetchFault s c 2 3 [c.pc]) ∧
    (∀ w : RegForm, Issues s c w.guard →
      Kills (.trap w) s c 14 0 [BitVec.ofNat 64 ((c.sreg w.a).toNat % 2 ^ 16)]) ∧
    (∀ w : ImmForm, Issues s c w.guard → Kills (.trapi w) s c 14 0 [BitVec.ofNat 64 (w.imm.toNat % 2 ^ 16)])

/-- R345 to R350: what taking a killing fault does while the die does not record and no CANCEL of the crew is in flight. The crew leaves its berth and every other
crew stays as it was. The die's fault buffer takes one record with the origin word of R346 and the INFO words, and the die's
event counter moves on; after a fatal record the die writes none. Every held barge is poisoned with the origin and the
record's SEQ and waits for the poison ring, or is freed when the ring has size 0; every other barge stays as it was. -/
def KillingFaultIsTaken : Prop :=
  ∀ (s : State) (c : Crew) (f : CrewFault), s.crewAt c.place = some c → (s.die c.place.die).recorder.mode = 0 →
    (∀ k, k ∈ s.flight.cancels → k.op.uid ≠ c.uid) →
    let d := c.place.die
    let poff := (c.pc - c.entry).toNat / 8 % 2 ^ 21
    let origin : W64 := BitVec.ofNat 64 (d * 2 ^ 60 + c.region % 2 ^ 8 * 2 ^ 52 + c.version.toNat * 2 ^ 36 +
      c.handler % 2 ^ 3 * 2 ^ 33 + c.place.berth % 4 * 2 ^ 31 + f.cause % 2 ^ 6 * 2 ^ 25 + f.detail % 2 ^ 4 * 2 ^ 21 + poff)
    let seq := (s.die d).evseq
    let t := s.killCrew c f
    t.crewAt c.place = none ∧
    (∀ who, who ≠ c.place → t.crewAt who = s.crewAt who) ∧
    ((s.die d).faults.fatal = none →
      (t.die d).faults = (s.die d).faults.take { origin := origin, fatal := false, notConsumed := false, seq := seq
                                                 infos := f.infos, merged := 0, lastSeq := seq } ∧
      (t.die d).evseq = seq + 1) ∧
    ((s.die d).faults.fatal ≠ none → (t.die d).faults = (s.die d).faults ∧ (t.die d).evseq = seq) ∧
    (∀ i b, some i ∈ c.held → s.barge d i = some b → (s.die d).regs.poisonSize ≠ 0 →
      t.barge d i = some { b with flags := b.flags ||| 1, origin := origin, poisonSeq := seq } ∧
      { record := i, seq := seq, lockRef := 0 } ∈ (t.die d).handedOn) ∧
    (∀ i, some i ∈ c.held → (s.die d).regs.poisonSize = 0 → t.barge d i = none) ∧
    (∀ i, some i ∉ c.held → t.barge d i = s.barge d i)

/-- R37, R86, R218, R345 to R350: the words that always kill, and the taking of a killing fault. -/
def Obligations.KillingFaults : Prop := WordsThatAlwaysKill ∧ KillingFaultIsTaken

/-! ## Loads, stores and atomics (R140 to R152, R163 to R168) -/

/-- R142 to R144, R146 and R148: LD, LDA and LDO load from s[a] + s[b], or from s[a] plus a signed offset, at their ety. -/
def ScalarLoadsReadTheirPlace : Prop :=
  ∀ (s : State) (c : Crew) (n : Nat) (signed : Bool), s.NoLog →
    (∀ w : RegForm, (w.ety.toNat, n, signed) ∈ memoryTypes → Issues s c w.guard →
      Loads (.ld w) s c w.d (c.sreg w.a + c.sreg w.b) n signed ∧ Loads (.lda w) s c w.d (c.sreg w.a + c.sreg w.b) n signed) ∧
    (∀ w : ImmForm, (w.imm.toNat % 16, n, signed) ∈ memoryTypes → Issues s c w.guard →
      Loads (.ldo w) s c w.d (BitVec.ofInt 64 ((c.sreg w.a).toInt + w.imm.toInt / 16)) n signed)

/-- R142 to R144, R210, R301 and R403: ST and STO store the low bytes of s[d] at s[a] + s[b], or at s[a] plus a signed offset, in the
clear or encrypted; every other byte reads as before. A crew bound to a weir stores into the weir's window provisionally. -/
def ScalarStoresWriteTheirPlace : Prop :=
  ∀ (s : State) (c : Crew) (n : Nat) (signed : Bool), s.NoLog → Memory.wf s.mem = true →
    (∀ w : RegForm, (w.ety.toNat, n, signed) ∈ memoryTypes → Issues s c w.guard →
      Stores (.st w) s c (c.sreg w.a + c.sreg w.b) n (c.sreg w.d).toNat) ∧
    (∀ w : ImmForm, (w.imm.toNat % 16, n, signed) ∈ memoryTypes → Issues s c w.guard →
      Stores (.sto w) s c (BitVec.ofInt 64 ((c.sreg w.a).toInt + w.imm.toInt / 16)) n (c.sreg w.d).toNat)

/-- R142 to R144, R146, R148, R210, R301 and R403: scalar loads and stores, each performed at its issue (log 9, DESIGN CHOICE). -/
def Obligations.ScalarLoadsAndStores : Prop := ScalarLoadsReadTheirPlace ∧ ScalarStoresWriteTheirPlace

/-- R8, R141, R142, R299, R301, R307, R308, R313 and R391: the checks of an access in their order on every path, and the place that an
access which passes them names: generic addresses, basins, tile stores, barge stores, registers and private windows. Each
check gives its detail: 3 for the form of the address or its range, 2 for the path, 1 for alignment, 4 and 5 for translation
and permission. A register address reserves the die identifiers 5 to 7. -/
def Obligations.AccessChecksInOrder : Prop :=
  ∀ (s : State) (w : Accessor) (k : Kind) (a : W64) (size align : Nat), 0 < align →
    let x := a.toNat
    let top := x / 2 ^ 56
    let die := x / 2 ^ 52 % 16
    let core := x / 2 ^ 46 % 64
    let off := x % 2 ^ 22
    let answer := s.check w k a size align
    -- checks 3 and 4, after which the place is p
    let within (ok : Prop) (p : Place) : Prop :=
      (x % align ≠ 0 → answer = .error 1) ∧ (x % align = 0 → ¬ok → answer = .error 3) ∧ (x % align = 0 → ok → answer = .ok p)
    (top ∉ [0, 0xB0, 0xB1, 0xB2, 0xB3, 0xC0, 0xD0, 0xE0, 0xF0] → answer = .error 3) ∧
    (top = 0 → (s.remoteWindow a).isSome → answer = .error 2) ∧
    (top = 0 → s.remoteWindow a = none →
      (x % align ≠ 0 → answer = .error 1) ∧
      (x % align = 0 → s.translate w.die w.core x = none → answer = .error 4) ∧
      (∀ e, x % align = 0 → s.translate w.die w.core x = some e → answer =
        if (if k.writes then e.w else e.r) then .ok (.pa (e.pa + (x - e.va)) e.key (some { va := e.va, size := e.size }))
        else .error 5)) ∧
    (0xB0 ≤ top → top ≤ 0xB3 →
      (x / 2 ^ 27 % 2 ^ 29 ≠ 0 → answer = .error 3) ∧
      (x / 2 ^ 27 % 2 ^ 29 = 0 → within (x % 2 ^ 27 + size ≤ 96 * 2 ^ 20) (.chip x))) ∧
    (top = 0xC0 →
      let formed := die ≤ 3 ∧ x / 2 ^ 22 % 2 ^ 24 = 0
      let mine := k ≠ .atomic ∧ die = w.die ∧ (s.core w.die core).region = some w.region
      (¬formed → answer = .error 3) ∧ (formed → ¬mine → answer = .error 2) ∧
      (formed → mine → within (off + size ≤ 2 ^ 22) (.chip x))) ∧
    (top = 0xD0 →
      let formed := die ≤ 3 ∧ x / 2 ^ 22 % 2 ^ 30 = 0
      let reads := k = .load ∨ k = .read
      (¬formed → answer = .error 3) ∧ (formed → ¬reads → answer = .error 2) ∧
      (formed → reads → within (off + size ≤ 2 ^ 22) (.barge die off))) ∧
    (top = 0xE0 →
      let block := x / 2 ^ 50 % 4
      let formed := x / 2 ^ 16 % 2 ^ 26 = 0 ∧ x % 8 = 0 ∧ block ≠ 3 ∧ (block = 0 → x / 2 ^ 44 % 64 = 0) ∧
        (block = 2 ∨ x / 2 ^ 42 % 4 = 0) ∧ ¬(5 ≤ die ∧ die ≤ 7)
      (¬formed → answer = .error 3) ∧ (formed → answer = .error 2)) ∧
    (top = 0xF0 →
      (x / 2 ^ 32 % 2 ^ 24 ≠ 0 → answer = .error 3) ∧
      (x / 2 ^ 32 % 2 ^ 24 = 0 → k = .atomic → answer = .error 2) ∧
      (x / 2 ^ 32 % 2 ^ 24 = 0 → k ≠ .atomic →
        within (x % 2 ^ 32 + size ≤ w.privSize) (.pa (s.poolBase w.die w.core + w.privBase + x % 2 ^ 32) 0 none)))

/-- R146, R167, R168, R317, R320 and R328: STL, FENCE and PREF. STL stores as ST does and then releases at its scope; FENCE counts
in wg, and a release fence releases at its scope. A release at .pkg or .sys reports once, as an error of its own operation,
that a write-back was discarded, waits at .sys for the crew's peer accesses, and waits while its die's clock may not move
on. What a release does to lines and clocks ReleasesWriteBack says. PREF changes nothing but the pc. That the store is performed at
its issue is log 9. -/
def Obligations.ReleasesAndFences : Prop :=
  ∀ (w : RegForm) (s : State) (c : Crew), s.NoLog → Memory.wf s.mem = true → Issues s c w.guard →
    let d := c.place.die
    let addr := c.sreg w.a + c.sreg w.b
    let free (scope : Nat) : Prop :=
      (scope = 5 → ∀ r, r ∈ s.io.remote → r.op.uid ≠ c.uid) ∧ (4 ≤ scope → s.clockHeld d = false)
    let lost (scope : Nat) : Bool := decide (4 ≤ scope) && c.wbLost
    let scope := w.fn.toNat % 8
    let releases := w.fn.getLsbD 4
    (∀ p n signed, (w.ety.toNat, n, signed) ∈ memoryTypes → s.check c.accessor .store addr n n = .ok p → c.count .ws < 255 →
      (free w.fn.toNat → (∀ k, p = .chip k → s.provisional c k = none) →
        ∃ u c', exec (.stl w) s = .next (u.releaseAs d c.uid w.fn.toNat) ∧
          CrewStores (s.settlePlace d p n) u c' d p n (c.sreg w.d).toNat ∧
          c' = { c.counted .ws (lost w.fn.toNat) with
                 pc := c.pc + 8, wbLost := c.wbLost && decide (w.fn.toNat < 4), fp := c'.fp, folds := c'.folds }) ∧
      (¬free w.fn.toNat → exec (.stl w) s = .next s)) ∧
    (∀ e n signed, (w.ety.toNat, n, signed) ∈ memoryTypes →
      s.check c.accessor .store addr n n = .error e → c.count .ws < 255 → Kills (.stl w) s c 6 e [addr]) ∧
    (c.count .wg < 255 →
      (releases = true → free scope → ∃ t, exec (.fence w) s = .next t ∧ CrewOnly (s.releaseAs d c.uid scope) t
        { c.counted .wg (lost scope) with pc := c.pc + 8, wbLost := c.wbLost && decide (scope < 4) }) ∧
      (releases = true → ¬free scope → exec (.fence w) s = .next s) ∧
      (releases = false → CrewResult (.fence w) s { c.counted .wg false with pc := c.pc + 8 })) ∧
    JumpsTo (.pref w) s c (c.pc + 8)

/-- R241, R302 and R307: what a word does to the spill area, given its crew before and after it, where memory is not encrypted. The
crew's first spill block takes the berth's share from the cache, whose dirty lines there go home; which lines those are is an
uninterpreted constant (log 83). Each register of a block that does not fit into the share, once brought there or changed, stands in
the berth's spill window; nothing else of memory changes. The L1 caches between 192 and 256 KiB. -/
def SpillAreaTurns : Prop :=
  (∀ k : Core, 192 ≤ k.cacheKiB ∧ k.cacheKiB ≤ 256) ∧
  ∀ (s : State) (old new : Crew), s.InTheClear → Memory.wf s.mem = true → new.lanes ≤ 1024 → (∀ b, b ∈ new.spillBlocks → b < 32) →
    let p := new.place
    let base := if old.spillBlocks = [] ∧ new.spillBlocks ≠ [] then
        s.writeBack p.die fun l => l.owner.core = p.core && Config.spillShareHolds p.die p.core p.berth l.line
      else s
    let window := (s.die p.die).regs.privBase.toNat + p.core * (s.die p.die).regs.privStride.toNat + 2 ^ 20 * p.berth
    let beyond (c : Crew) (r : Nat) : Prop := ∃ n, 16384 / (32 * c.lanes) ≤ n ∧ c.spillBlocks.reverse[n]? = some (r / 8)
    let t := s.spillTurn old new
    t = { base with mem := t.mem, memMarks := t.memMarks, stamps := t.stamps, stack := t.stack } ∧
    (∀ k, k < window ∨ window + 2 ^ 20 ≤ k → t.cell k = base.cell k) ∧
    ∀ r l i, r < 256 → l < new.lanes → i < 4 →
      let k := window + 4 * new.lanes * r + 4 * l + i
      (beyond new r → ¬beyond old r ∨ old.vreg r ≠ new.vreg r →
        t.cell k = BitVec.ofNat 8 (((new.vreg r).word l).toNat / 2 ^ (8 * i))) ∧
      (¬beyond new r ∨ (beyond old r ∧ old.vreg r = new.vreg r) → t.cell k = base.cell k)

/-- R301, R317, R320, R321, R351 and R364: what a release by an identity on a die does, where memory is not encrypted. At .crew to .die it
marks the lines that hold its stores as released. At .pkg and .sys its own lines and every released line of the die go home:
each byte that they hold stands in memory, stamped with the die's clock and EVSEQ, each word has the mark that its line
gave it, the other lines stay, and the die's own clock entry moves on by one. A read by another die takes the stamp in: its
clock entries become the later ones, and its EVSEQ at least one more than the stamp's. -/
def ReleasesGoHome : Prop :=
  ∀ (s : State) (d uid scope : Nat), d < 4 → s.InTheClear → Memory.wf s.mem = true →
    let t := s.releaseAs d uid scope
    let goes := (s.die d).dirty.filter fun l => l.goesWith uid
    let landed (pa : Nat) : Option Byte := ((goes.flatMap DirtyLine.bytes).reverse.find? fun p => p.1 = pa).map Prod.snd
    let newest (u : State) (k : Nat) : Option Stamp := u.stamps.find? fun g => g.meets k 1
    (scope ≤ 3 →
      t = { s with dies := t.dies } ∧ (∀ e, e ≠ d → t.die e = s.die e) ∧
      t.die d = { s.die d with
        dirty := (s.die d).dirty.map fun l => { l with released := l.released || l.uids.contains uid } }) ∧
    (4 ≤ scope →
      (∀ pa, t.cell pa = (landed pa).getD (s.cell pa)) ∧
      (∀ pa, landed pa = none → newest t pa = newest s pa) ∧
      (∀ pa, (landed pa).isSome → ∃ g, newest t pa = some g ∧ g.writer = d ∧ g.image = some (s.imageOf d)) ∧
      (∀ x, x ∈ t.memMarks ↔
        match goes.reverse.find? fun l => l.covers x || l.marks.contains x with
        | some l => x ∈ l.marks
        | none => x ∈ s.memMarks) ∧
      (∀ e, e ≠ d → t.die e = s.die e) ∧
      t.die d = { s.die d with
        dirty := (s.die d).dirty.filter fun l => !l.goesWith uid
        clock := (s.die d).clock.setIfInBounds d (((s.die d).clock[d]?).getD 0 + 1) } ∧
      t = { s with mem := t.mem, memMarks := t.memMarks, stamps := t.stamps, stack := t.stack, dies := t.dies }) ∧
    -- a read of a cell by a die e
    ∀ e k g, e < 4 → newest s k = some g →
      let own := s.die e
      let seen := (s.mergeStamps e [k]).die e
      (g.writer = e ∨ g.image = none → seen = own) ∧
      (∀ im, g.writer ≠ e → g.image = some im →
        seen = { own with clock := seen.clock, evseq := if own.evseq < im.evseq + 1 then im.evseq + 1 else own.evseq } ∧
        ∀ i, i < 5 → (seen.clock[i]?).getD 0 =
          (if 0 < (((im.clock[i]?).getD 0) - ((own.clock[i]?).getD 0)).toInt then (im.clock[i]?).getD 0
           else (own.clock[i]?).getD 0))

/-- R241, R301, R302, R307, R317, R320, R321, R351 and R364: releases write dirty lines back, under the die's stamp, and a crew's first
spill block clears its share of the L1; what goes to the spill window stands there. -/
def Obligations.ReleasesWriteBack : Prop := ReleasesGoHome ∧ SpillAreaTurns

/-- R163, R164 and R317: AMO, AMOV and CAS on an address of this package, where nothing is encrypted, the crew is bound to no weir,
its die caches no line of the word, and its release, if it has one, need not wait. The word at the home slice or the bank is
replaced by the operation's result, or for CAS by s[c] when it equals s[b]; AMOV and CAS return the old value, extended as a
load extends it; beside what the release writes back every other byte keeps its value. -/
def AtomicsReplaceOneWord : Prop :=
  ∀ (w : RegForm) (s : State) (c : Crew) (n : Nat) (signed : Bool) (p : Place), s.NoLog → s.InTheClear →
    Memory.wf s.mem = true → c.weir = none → (∀ r, r ∈ s.io.remote → r.op.uid ≠ c.uid) → s.clockHeld c.place.die = false →
    (∀ l, l ∈ (s.die c.place.die).dirty → OffLines p.home n (128 * l.line)) →
    Issues s c w.guard → s.remoteWindow (c.sreg w.a) = none →
    (w.ety.toNat, n, signed) ∈ [(3, 4, true), (4, 8, true), (7, 4, false), (8, 8, false), (11, 4, false), (12, 8, false)] →
    s.check c.accessor .atomic (c.sreg w.a) n n = .ok p →
      let op := w.fn.toNat % 8
      let scope := 2 + w.fn.toNat / 32
      let base := if w.fn.getLsbD 4 then s.releaseAs c.place.die c.uid scope else s
      let old := base.cellsValue p.home n
      let x := (c.sreg w.b).toNat % 2 ^ (8 * n)
      let z := (c.sreg w.c).toNat % 2 ^ (8 * n)
      let reports := w.fn.getLsbD 4 && decide (4 ≤ scope)
      let bad := base.homeMarked p n
      let done (i : Instr) (k : Counter) (d : Option (BitVec 8)) (new : Nat) : Prop :=
        ∃ t c', exec i s = .next t ∧ t.crewAt s.cur = some c' ∧ (∀ who, who ≠ s.cur → t.crewAt who = s.crewAt who) ∧
          CellsHold base t p.home n new ∧
          (∀ f : BitVec 8, f.toNat < 64 →
            c'.sreg f = if some f = d ∧ f ≠ 0 then extended n signed old else c.sreg f) ∧
          c' = { c.counted k (bad || (reports && c.wbLost)) with
                 sregs := c'.sregs, pc := c.pc + 8, fp := c'.fp, folds := c'.folds, wbLost := c.wbLost && !reports
                 poison := if bad then some (markDetail (c.sreg w.a), c.sreg w.a, c.poff) else c.poison }
      (∀ new, (w.ety.toNat ≤ 8 → new = atomicInteger op n signed old x) →
          (w.ety = 11 → op ∉ [3, 4, 5] ∧ new = atomicFloat op .f32 old x) →
          (w.ety = 12 → op ∉ [3, 4, 5] ∧ new = atomicFloat op .f64 old x) → op ≠ 7 →
        (c.count .ws < 255 → done (.amo w) .ws none new) ∧ (c.count .wl < 255 → done (.amov w) .wl (some w.d) new)) ∧
      (c.count .wl < 255 → done (.cas w) .wl (some w.d) (if old = x then z else old))

/-! ## Vector loads, stores and atomics (R150 to R152, R165, R166) -/

/-- R150 to R152 and R352: VLD, VGATH and VLDO load, at every step and for every lane of E, the word or pair at the lane's address into
the lane, with the tag of the ety, or tag 0x00 for VLDO. Lanes outside E keep what they held; a marked word marks its lane. The
first failing lane of the first failing step raises the memory-access fault. No lane's line is cached under another key index,
as R403 would write that one back first. -/
def VectorLoads : Prop :=
  ∀ (s : State) (c : Crew) (E : Mask) (i : Instr) (d : BitVec 8) (size : Nat) (tag : BitVec 8) (addr : Nat → W64) (offs : List Int),
    s.NoLog → s.crewAt s.cur = some c → c.count .wl < 255 → c.lanes ≤ 1024 →
    ((∃ w : RegForm, i = .vld w ∧ E = guardSet w.guard c ∧ d = w.d ∧ s.stepOffsets c (fnT w) w.c = .ok offs ∧
        (w.ety.toNat, size, tag) ∈ vectorLoadTypes ∧ ∀ l, addr l = c.sreg w.a + BitVec.ofNat 64 l * c.sreg w.b) ∨
      (∃ w : ImmForm, i = .vldo w ∧ E = guardSet w.guard c ∧ d = w.d ∧ offs = [0] ∧ size = 4 ∧ tag = 0 ∧
        ∀ l, addr l = c.sreg w.a + w.imm.signExtend 64 + BitVec.ofNat 64 (4 * l)) ∨
      (∃ (w : RegForm) (off : Nat → W64), i = .vgath w ∧ E = guardSet w.guard c ∧ d = w.d ∧ offs = [0] ∧
        (w.ety.toNat, size, tag) ∈ vectorLoadTypes ∧ LaneOffsets c E w.b.toNat off ∧
        ∀ l, addr l = c.sreg w.a + off l)) →
    (∀ o, o ∈ offs → 0 ≤ (d.toNat : Int) + o ∧ (d.toNat : Int) + o ≤ 255 ∧ (size = 8 → stepAt d o % 2 = 0)) →
    (offs.Pairwise fun o q => ∀ x, x ∈ regsOf (stepAt d o) (size = 8) → x ∉ regsOf (stepAt d q) (size = 8)) →
    let at_ (o : Int) (l : Nat) : W64 := addr l + BitVec.ofInt 64 (o * size)
    (∀ p : Int → Nat → Place,
      (∀ o l, o ∈ offs → l < c.lanes → E.getLsbD l = true →
        s.check c.accessor .load (at_ o l) size size = .ok (p o l) ∧ s.OwnKeys c.place.die (p o l) size) →
        ∃ c', VectorReads i s (c.counted .wl false) c' ∧
          OnlyVectors c c' (offs.flatMap fun o => regsOf (stepAt d o) (size = 8)) ∧
          ∀ o, o ∈ offs → LaneValues c c' E (stepAt d o) (size = 8) tag (fun l => s.crewRead c (p o l) size)
            fun l => s.crewMarked c (p o l) size) ∧
    (∀ pre o post l e, offs = pre ++ o :: post → l < c.lanes → E.getLsbD l = true →
      s.check c.accessor .load (at_ o l) size size = .error e →
      (∀ q m, q ∈ pre → m < c.lanes → E.getLsbD m = true → ∃ p, s.check c.accessor .load (at_ q m) size size = .ok p) →
      (∀ m, m < l → E.getLsbD m = true → ∃ p, s.check c.accessor .load (at_ o m) size size = .ok p) →
        Kills i s c 6 e [at_ o l])

/-- R150 to R152, R210, R301 and R403: VST, VSCAT and VSTO store the words, or the pairs of a 64-bit tag, of the lanes of E at their
addresses, step after step and in ascending lane order, so that the last of two overlapping stores stands; read through the
crew's die, every other byte of the generic, basin and tile-store paths is as before, in the clear or encrypted, and no
register changes. The registers have their places already, so that no block spills. A crew that is bound to a weir stores
lanes in the weir's window provisionally, in the same order. -/
def VectorStores : Prop :=
  ∀ (s : State) (c : Crew) (E : Mask) (i : Instr) (d : BitVec 8) (addr : Nat → Nat → W64) (offs : List Int),
    s.NoLog → Memory.wf s.mem = true → s.io.cacheEn = true ∨ (s.die c.place.die).dirty = [] → s.crewAt s.cur = some c →
    c.count .ws < 255 →
    ((∃ w : RegForm, i = .vst w ∧ E = guardSet w.guard c ∧ d = w.d ∧ s.stepOffsets c (fnT w) w.c = .ok offs ∧
        ∀ size l, addr size l = c.sreg w.a + BitVec.ofNat 64 l * c.sreg w.b) ∨
      (∃ w : ImmForm, i = .vsto w ∧ E = guardSet w.guard c ∧ d = w.d ∧ offs = [0] ∧
        ∀ size l, addr size l = c.sreg w.a + w.imm.signExtend 64 + BitVec.ofNat 64 (size * l)) ∨
      (∃ (w : RegForm) (off : Nat → W64), i = .vscat w ∧ E = guardSet w.guard c ∧ d = w.d ∧ offs = [0] ∧
        c.placed w.b.toNat ∧ LaneOffsets c E w.b.toNat off ∧ ∀ size l, addr size l = c.sreg w.a + off l)) →
    let pair (o : Int) : Bool := tagIs64 (c.vreg (stepAt d o)).tag
    let size (o : Int) : Nat := if pair o then 8 else 4
    let at_ (o : Int) (l : Nat) : W64 := addr (size o) l + BitVec.ofInt 64 (o * size o)
    (∀ o, o ∈ offs → 0 ≤ (d.toNat : Int) + o ∧ (d.toNat : Int) + o ≤ 255 ∧ (pair o = true → stepAt d o % 2 = 0) ∧
      tagReserved false (c.vreg (stepAt d o)).tag = false ∧ Unmarked c E (stepAt d o) (pair o) ∧
      ∀ r, r ∈ regsOf (stepAt d o) (pair o) → c.placed r) →
    ∀ p : Int → Nat → Place,
      let active (o : Int) (l : Nat) : Prop := o ∈ offs ∧ l < c.lanes ∧ E.getLsbD l = true
      let lanes := offs.flatMap fun o => (lanesOf c.lanes E).map fun l => (o, l)
      (∀ o l, active o l → s.check c.accessor .store (at_ o l) (size o) (size o) = .ok (p o l)) →
      ((c.weir = none ∧ ∀ o l, active o l → (p o l).inSpace ∧ s.OwnKeys c.place.die (p o l) (size o) ∧
          ∀ o' l', active o' l' → (p o l).agrees (p o' l')) →
        ∃ t c', exec i s = .next t ∧ t.crewAt s.cur = some c' ∧ (∀ who, who ≠ s.cur → t.crewAt who = s.crewAt who) ∧
          VectorCrew { c.counted .ws false with fp := c'.fp, folds := c'.folds } c' ∧ OnlyVectors c c' [] ∧
          ∀ q, (∀ e off, q ≠ .barge e off) → q.inSpace → (∀ o l, active o l → (p o l).agrees q) →
            t.readByte c.place.die q =
              (lastStored (lanes.map fun x => (p x.1 x.2, size x.1, c.laneValue (stepAt d x.1) (pair x.1) x.2)) q).getD
                (s.readByte c.place.die q)) ∧
      ∀ b, c.weir = some b → (∀ o l, active o l → ∃ k, p o l = .chip k ∧ s.provisional c k = some b) →
        ∃ t c', exec i s = .next t ∧ VectorCrew { c.counted .ws false with fp := c'.fp, folds := c'.folds } c' ∧
          OnlyVectors c c' [] ∧
          CrewReads (s.onFlight fun f => { f with provs := f.provs ++ lanes.map fun x =>
            { uid := c.uid, record := b.record, home := b.home, slot := b.slot, key := (p x.1 x.2).home
              bytes := bytesOfNat (size x.1) (c.laneValue (stepAt d x.1) (pair x.1) x.2), marks := [] } }) t c'

/-- R150 to R152, R210, R301, R352 and R403: vector loads and stores, each performed at its issue (log 9, DESIGN CHOICE). -/
def Obligations.VectorLoadsAndStores : Prop := VectorLoads ∧ VectorStores

/-- R165 and R166: VAMO and VMAXVI, where nothing is encrypted, the crew's die caches no line of the words, and the registers have
their places: the lanes of E act on their words in ascending order (log 9, DESIGN CHOICE), and .ret gives each lane its word as
the lane met it. VMAXVI's word keeps the unsigned maximum of the offers, a NaN offering nothing. Every other byte keeps its
value. -/
def VectorAtomics : Prop :=
  ∀ (w : RegForm) (s : State) (c : Crew) (off : Nat → W64) (p : Nat → Place),
    s.NoLog → s.InTheClear → Memory.wf s.mem = true → c.weir = none → c.lanes ≤ 1024 →
    s.memMarks = [] → s.crewAt s.cur = some c →
    let E := guardSet w.guard c
    let clear (l n : Nat) : Prop := ∀ x, x ∈ (s.die c.place.die).dirty → OffLines (p l).home n (128 * x.line)
    let words (t : State) (n : Nat) (f : Nat → Nat → Nat) : Prop :=
      (∀ l k, l < c.lanes → E.getLsbD l = true → k < n →
        t.cell ((p l).home + k) = BitVec.ofNat 8 (s.laneWord E p n f c.lanes (p l).home / 256 ^ k)) ∧
      ∀ j, (∀ l, l < c.lanes → E.getLsbD l = true → ¬((p l).home ≤ j ∧ j < (p l).home + n)) → t.cell j = s.cell j
    (∀ signed, ((c.vreg w.c.toNat).tag, signed) ∈ [((0x12 : BitVec 8), some true), (0x22, some false), (0x32, none)] →
      LaneOffsets c E w.b.toNat off → Unmarked c E w.c.toNat false → c.placed w.b.toNat → c.placed w.c.toNat →
      (∀ l, l < c.lanes → E.getLsbD l = true →
        s.check c.accessor .atomic (c.sreg w.a + off l) 4 4 = .ok (p l) ∧ (p l).home % 4 = 0 ∧ clear l 4) →
      let op := w.fn.toNat % 8
      let f (l old : Nat) : Nat :=
        match signed with
        | some g => atomicInteger op 4 g old ((c.vreg w.c.toNat).word l).toNat
        | none => atomicFloat op .f32 old ((c.vreg w.c.toNat).word l).toNat
      op ≠ 7 → (signed = none → op ∉ [3, 4, 5]) →
      (w.fn.getLsbD 3 = true → w.d.toNat < c.declared → w.d.toNat / 8 ∉ c.spillBlocks → c.count .wl < 255 →
        ∃ t c', exec (.vamo w) s = .next t ∧ t.crewAt s.cur = some c' ∧ (∀ who, who ≠ s.cur → t.crewAt who = s.crewAt who) ∧ words t 4 f ∧
        VectorCrew { c.counted .wl false with fp := c'.fp, folds := c'.folds } c' ∧ OnlyVectors c c' [w.d.toNat] ∧
        LaneValues c c' E w.d.toNat false (c.vreg w.c.toNat).tag (fun l => s.laneWord E p 4 f l (p l).home) fun _ => false) ∧
      (w.fn.getLsbD 3 = false → c.count .ws < 255 → ∃ t c', exec (.vamo w) s = .next t ∧ t.crewAt s.cur = some c' ∧
        (∀ who, who ≠ s.cur → t.crewAt who = s.crewAt who) ∧ words t 4 f ∧
        VectorCrew { c.counted .ws false with fp := c'.fp, folds := c'.folds } c' ∧ OnlyVectors c c' [])) ∧
    ((c.vreg w.d.toNat).tag = 0x22 → (c.vreg w.b.toNat).tag ∈ [(0x12 : BitVec 8), 0x22, 0x32] →
      Unmarked c E w.d.toNat false → Unmarked c E w.b.toNat false → c.placed w.d.toNat → c.placed w.b.toNat →
      c.count .ws < 255 →
      ((fnOP w = 0 ∧ ∀ l, off l = 0) ∨ (fnOP w = 1 ∧ c.placed w.c.toNat ∧ LaneOffsets c E w.c.toNat off)) →
      (∀ l, l < c.lanes → E.getLsbD l = true →
        s.check c.accessor .atomic (c.sreg w.a + off l) 8 8 = .ok (p l) ∧ (p l).home % 8 = 0 ∧ clear l 8) →
      let offer (l old : Nat) : Nat :=
        let v := (c.vreg w.b.toNat).word l
        let tag := (c.vreg w.b.toNat).tag
        let key : W32 := if tag = 0x32 then (if v.getLsbD 31 then ~~~v else v ^^^ 0x80000000)
                         else if tag = 0x12 then v ^^^ 0x80000000 else v
        if tag = 0x32 ∧ (Fmt.f32.decode v.toNat).isNan = true then old
        else max old (key.toNat * 2 ^ 32 + (0xFFFFFFFF - ((c.vreg w.d.toNat).word l).toNat))
      ∃ t c', exec (.vmaxvi w) s = .next t ∧ t.crewAt s.cur = some c' ∧
        (∀ who, who ≠ s.cur → t.crewAt who = s.crewAt who) ∧ words t 8 offer ∧
        VectorCrew { c.counted .ws false with fp := c'.fp, folds := c'.folds } c' ∧ OnlyVectors c c' [])

/-- R163 to R166: atomics, scalar and vector. -/
def Obligations.Atomics : Prop := AtomicsReplaceOneWord ∧ VectorAtomics

/-! ## Elementwise vector arithmetic (R75, R113 to R123, R136) -/

/-- R113, R117, R118, R120 and R121 for integers: in every lane of E, at every step of a word of register operands, each element
of d becomes the exact result of the elements of a, b and d before the word, wrapped or clamped to the type; shift amounts are
unsigned, and one of the width or more clears or fills with the sign. -/
def Obligations.VectorIntegerElements : Prop :=
  ∀ (w : RegForm) (s : State) (c : Crew) (t : ElemTy) (offs : List Int), t.isInt = true →
    let v (x : Nat) : Int := intOf t.isSigned t.width x
    let fit (y : Int) : Nat := fitted t.width t.isSigned w.sat y
    (Elementwise w s c t offs true false →
      ElementResult (.vadd w) w s c t offs (fun x _ => fit (v (x w.a) + v (x w.b))) ∧
      ElementResult (.vsub w) w s c t offs (fun x _ => fit (v (x w.a) - v (x w.b))) ∧
      ElementResult (.vmul w) w s c t offs (fun x _ => fit (v (x w.a) * v (x w.b))) ∧
      ElementResult (.vmulh w) w s c t offs (fun x _ => fitted t.width t.isSigned 0 (v (x w.a) * v (x w.b) / 2 ^ t.width)) ∧
      ElementResult (.vmin w) w s c t offs (fun x _ => fitted t.width t.isSigned 0 (min (v (x w.a)) (v (x w.b)))) ∧
      ElementResult (.vmax w) w s c t offs (fun x _ => fitted t.width t.isSigned 0 (max (v (x w.a)) (v (x w.b)))) ∧
      ElementResult (.vshl w) w s c t offs (fun x _ => if t.width ≤ x w.b then 0 else x w.a * 2 ^ x w.b) ∧
      ElementResult (.vshr w) w s c t offs (fun x _ => if t.width ≤ x w.b then 0 else x w.a / 2 ^ x w.b) ∧
      ElementResult (.vsra w) w s c t offs
        (fun x _ => fitted t.width true 0 (intOf true t.width (x w.a) / 2 ^ min (x w.b) t.width))) ∧
    (Elementwise w s c t offs true true →
      ElementResult (.vfma w) w s c t offs (fun x _ => fit (v (x w.a) * v (x w.b) + v (x w.d))) ∧
      ElementResult (.vfms w) w s c t offs (fun x _ => fit (v (x w.a) * v (x w.b) - v (x w.d))) ∧
      ElementResult (.vfnma w) w s c t offs (fun x _ => fit (v (x w.d) - v (x w.a) * v (x w.b))) ∧
      ElementResult (.vclamp w) w s c t offs
        (fun x _ => fitted t.width t.isSigned 0 (min (max (v (x w.d)) (v (x w.a))) (v (x w.b))))) ∧
    (Elementwise w s c t offs false false →
      ElementResult (.vabs w) w s c t offs (fun x _ => fit (v (x w.a)).natAbs) ∧
      ElementResult (.vneg w) w s c t offs (fun x _ => fit (-v (x w.a))) ∧
      ElementResult (.vpopc w) w s c t offs
        (fun x _ => ((List.range t.width).filter fun i => (x w.a).testBit i).length) ∧
      ElementResult (.vclz w) w s c t offs
        (fun x _ => if x w.a = 0 then t.width else t.width - 1 - Nat.log2 (x w.a)))

/-- R61, R62, R113 and R120 to R122 for floats: the exact result of the elements' values, each under its own operand's type,
rounded once to a's format; minima, maxima and clamps write the chosen value, rounded to nearest where formats differ. -/
def Obligations.VectorFloatElements : Prop :=
  ∀ (w : RegForm) (s : State) (c : Crew) (t : ElemTy) (f : Fmt) (offs : List Int), t.fmt c.fmts = some f →
    let a (x : BitVec 8 → Nat) : XReal := f.decode (x w.a)
    let b (x : BitVec 8 → Nat) (o : Int) : XReal := (sourceType t (c.vreg (stepAt w.b o)).tag).value c.fmts (x w.b)
    let d (x : BitVec 8 → Nat) (o : Int) : XReal := (sourceType t (c.vreg (stepAt w.d o)).tag).value c.fmts (x w.d)
    let rd := Rnd.of w.rnd == Rnd.rd
    let fit (y : XReal) : Nat := f.round (Rnd.of w.rnd) (w.sat = 1) y
    let nearest (y : XReal) : Nat := f.round .rne false y
    (t.narrowIndex = none → Elementwise w s c t offs true false →
      ElementResult (.vadd w) w s c t offs (fun x o => fit ((a x).add rd (b x o))) ∧
      ElementResult (.vsub w) w s c t offs (fun x o => fit ((a x).sub rd (b x o))) ∧
      ElementResult (.vmul w) w s c t offs (fun x o => fit ((a x).mul (b x o))) ∧
      ElementResult (.vdiv w) w s c t offs (fun x o => fit ((a x).div (b x o)))) ∧
    (t.narrowIndex = none → Elementwise w s c t offs true true →
      ElementResult (.vfma w) w s c t offs (fun x o => fit (((a x).mul (b x o)).add rd (d x o))) ∧
      ElementResult (.vfms w) w s c t offs (fun x o => fit (((a x).mul (b x o)).sub rd (d x o))) ∧
      ElementResult (.vfnma w) w s c t offs (fun x o => fit ((d x o).sub rd ((a x).mul (b x o))))) ∧
    (t.narrowIndex = none → Elementwise w s c t offs false false →
      ElementResult (.vsqrt w) w s c t offs (fun x _ => fit (a x).sqrt)) ∧
    (Elementwise w s c t offs true false →
      ElementResult (.vmin w) w s c t offs (fun x o => nearest (smaller (a x) (b x o))) ∧
      ElementResult (.vmax w) w s c t offs (fun x o => nearest (larger (a x) (b x o))) ∧
      ElementResult (.vcopysgn w) w s c t offs (fun x o =>
        match (sourceType t (c.vreg (stepAt w.b o)).tag).fmt c.fmts with
        | some g => nearest (if g.signed = true ∧ (x w.b).testBit (g.width - 1) = true then (a x).abs.neg else (a x).abs)
        | none => 0)) ∧
    (Elementwise w s c t offs true true →
      ElementResult (.vclamp w) w s c t offs (fun x o => nearest (smaller (larger (d x o) (a x)) (b x o)))) ∧
    (Elementwise w s c t offs false false →
      ElementResult (.vabs w) w s c t offs (fun x _ => fit (a x).abs) ∧
      ElementResult (.vneg w) w s c t offs (fun x _ => fit (a x).neg))

/-- R136: VSFU on F16, BF16 and F32 elements gives the model's evaluation of the function, `sfu`; of it R136 states the table of
special inputs and the NaN results, and 1/x for every other x, each rounded once. The evaluation of the other values is the
model's own (log 7, DESIGN CHOICE). -/
def VectorTranscendentals : Prop :=
  ∀ (w : RegForm) (s : State) (c : Crew) (t : ElemTy) (f : Fmt) (offs : List Int), t.fmt c.fmts = some f →
    t.narrowIndex = none → t.is64 = false → (fnOP w).toNat < 8 → Elementwise w s c t offs false false →
    let op := (fnOP w).toNat
    let fit (y : XReal) : Nat := f.round (Rnd.of w.rnd) (w.sat = 1) y
    let one : XReal := .num false 1 1 0
    let zero (neg : Bool) : XReal := .num neg 0 1 0
    let atZero (neg : Bool) : XReal := [.inf neg, .inf neg, one, .inf true, zero neg, one, zero neg, .num false 1 2 0][op]?.getD .nan
    let atInf (neg : Bool) : XReal :=
      [zero neg, if neg then .nan else zero false, if neg then zero false else .inf false, if neg then .nan else .inf false,
        .nan, .nan, .num neg 1 1 0, if neg then zero false else one][op]?.getD .nan
    let g (x : Nat) : Nat := sfu (Sfu.of op) f (Rnd.of w.rnd) (w.sat = 1) (f.decode x)
      (op + 16 * w.rnd.toNat + 128 * w.sat.toNat + 256 * f.man)
    ElementResult (.vsfu w) w s c t offs (fun x _ => g (x w.a)) ∧
      ∀ x, (f.decode x = .nan → g x = fit .nan) ∧
        (∀ neg, f.decode x = .inf neg → g x = fit (atInf neg)) ∧
        (∀ neg n d e, f.decode x = .num neg n d e →
          (n = 0 → g x = fit (atZero neg)) ∧
          (n ≠ 0 → neg = true → op = 1 ∨ op = 3 → g x = fit .nan) ∧
          (n ≠ 0 → op = 0 → g x = fit (.num neg d n (-e))))

/-- R75 and R76 for a word whose first source is a and whose other source is b: what the tag check refuses, with the offending tag
and its position: 1 for a, 2 for b. The crew is killed and no register changes. That a is checked before b, whatever b's tag
is, and that kind 2 comes before kind 4, are the model's reading (log 10, DEDUCED). -/
def Obligations.TagChecksRefuse : Prop :=
  ∀ (w : RegForm) (s : State) (c : Crew), s.crewAt s.cur = some c → fnQA w = false → fnQD w = false → fnT w = false →
    let ta := (c.vreg w.a.toNat).tag
    let tb := (c.vreg w.b.toNat).tag
    let cls (x : BitVec 8) : Nat := x.toNat / 16 % 8
    let code (x : BitVec 8) : Nat := x.toNat % 16
    let scaled (x : BitVec 8) : Prop := 128 ≤ x.toNat
    let reserved (x : BitVec 8) : Prop := 6 ≤ cls x ∨ (cls x = 0 ∧ (code x ≠ 0 ∨ scaled x)) ∨
      (1 ≤ cls x ∧ cls x ≤ 3 ∧ (4 ≤ code x ∨ (scaled x ∧ ¬(code x = 0 ∧ cls x ≤ 2))))
    let refuse (i : Instr) (kind : Nat) (x : BitVec 8) (pos : Nat) : Prop :=
      Kills i s c 4 kind [BitVec.ofNat 64 (x.toNat + 256 * pos)]
    let want := if w.ety = 0 then ta.toNat % 128 else (w.ety.toNat - 1) % 4 + 16 * ((w.ety.toNat - 1) / 4 + 1)
    ∀ i, i = Instr.vadd w ∨ i = .vsub w ∨ i = .vmul w → w.ety.toNat ≤ 12 →
      (reserved ta → refuse i 1 ta 1) ∧
      (ta = 0 → w.ety = 0 → refuse i 3 ta 1) ∧
      (¬reserved ta → 1 ≤ cls ta → cls ta ≤ 3 → ta.toNat % 128 ≠ want → refuse i 2 ta 1) ∧
      (¬reserved ta → 1 ≤ cls ta → cls ta ≤ 3 → ta.toNat % 128 = want → scaled ta → refuse i 4 ta 1) ∧
      (ta.toNat = want → 1 ≤ cls ta → cls ta ≤ 3 → ¬reserved ta → want % 16 ≠ 3 →
        (reserved tb → refuse i 1 tb 2) ∧
        (tb = 0 → w.ety = 0 → refuse i 3 tb 2) ∧
        (¬reserved tb → 1 ≤ cls tb → cls tb ≤ 3 → tb.toNat % 128 ≠ want → refuse i 2 tb 2) ∧
        (¬reserved tb → 1 ≤ cls tb → tb.toNat % 128 = want → scaled tb → refuse i 4 tb 2))

/-! ## Bits, moves, conversions and immediates (R113, R123 to R127, R138) -/

/-- R113 and R123: bitwise logic on the words, or the pairs of a 64-bit tag, of the lanes of E, at every step of a word of
register operands; d takes a's tag. -/
def VectorBitwiseLogic : Prop :=
  ∀ (w : RegForm) (s : State) (c : Crew) (offs : List Int), s.crewAt s.cur = some c → w.ety = 0 → fnQA w = false →
    fnQD w = false → s.stepOffsets c (fnT w) w.c = .ok offs →
    let E := guardSet w.guard c
    let ta (o : Int) := (c.vreg (stepAt w.a o)).tag
    let pair (o : Int) : Bool := tagIs64 (ta o)
    let logic (i : Instr) (useB : Bool) (f : Nat → Nat → Nat → Nat) : Prop :=
      (∀ o, o ∈ offs → ∀ x, x = w.d ∨ x = w.a ∨ (x = w.b ∧ useB = true) →
        0 ≤ (x.toNat : Int) + o ∧ (x.toNat : Int) + o ≤ 255 ∧ (pair o = true → stepAt x o % 2 = 0)) →
      (∀ o, o ∈ offs → tagReserved false (ta o) = false ∧ Unmarked c E (stepAt w.a o) (pair o) ∧
        (useB = true → tagReserved false (c.vreg (stepAt w.b o)).tag = false ∧ Unmarked c E (stepAt w.b o) (pair o))) →
      (offs.Pairwise fun o q => ∀ x y, x ∈ regsOf (stepAt w.d o) (pair o) →
        y ∈ regsOf (stepAt w.a q) (pair q) ++ (if useB then regsOf (stepAt w.b q) (pair q) else []) ++
          regsOf (stepAt w.d q) (pair q) → x ≠ y) →
      ∃ c', VectorResult i s c c' ∧ OnlyVectors c c' (offs.flatMap fun o => regsOf (stepAt w.d o) (pair o)) ∧
        ∀ o, o ∈ offs → LaneValues c c' E (stepAt w.d o) (pair o) (ta o)
          (fun l => f (if pair o then 64 else 32) (c.laneValue (stepAt w.a o) (pair o) l)
            (c.laneValue (stepAt w.b o) (pair o) l)) fun _ => false
    logic (.vand w) true (fun _ x y => x &&& y) ∧ logic (.vor w) true (fun _ x y => x ||| y) ∧
      logic (.vxor w) true (fun _ x y => x ^^^ y) ∧ logic (.vnot w) false (fun n x _ => 2 ^ n - 1 - x)

/-- R124, R127 and R138: VSEL picks a's or b's word by Mask(c) and takes a's tag; VMOV between registers copies a's bits and
writes a's tag or the tag of its ety, scaled with .scl; VBCAST, whose format register is of its own width (log 90), fills every element from s[a]; VIDX numbers the lanes from s[a];
VLI writes its immediate with tag 0x00. -/
def VectorMoves : Prop :=
  ∀ (w : RegForm) (s : State) (c : Crew), s.crewAt s.cur = some c →
    let E := guardSet w.guard c
    let ta := (c.vreg w.a.toNat).tag
    let pair := tagIs64 ta
    let moved : Bool := if w.ety = 0 then pair else (w.ety == 4 || w.ety == 8 || w.ety == 12)
    (tagReserved false ta = false → tagReserved false (c.vreg w.b.toNat).tag = false →
      (pair = true → w.d.toNat % 2 = 0 ∧ w.a.toNat % 2 = 0 ∧ w.b.toNat % 2 = 0) →
      Unmarked c E w.a.toNat pair → Unmarked c E w.b.toNat pair →
      ∃ c', VectorResult (.vsel w) s c c' ∧ OnlyVectors c c' (regsOf w.d.toNat pair) ∧
        LaneValues c c' E w.d.toNat pair ta (fun l => if (c.mask w.c).getLsbD l then c.laneValue w.a.toNat pair l
          else c.laneValue w.b.toNat pair l) fun _ => false) ∧
    (fnQA w = false → fnQD w = false → tagReserved false ta = false →
      (moved = true → w.d.toNat % 2 = 0 ∧ w.a.toNat % 2 = 0) → Unmarked c E w.a.toNat moved →
      ∀ tag : BitVec 8, (w.ety = 0 → tag = ta) →
        (∀ t, etyType w.ety (w.c.toNat - 0x90) = some t → tag = t.tag ||| (if w.fn.getLsbD 0 then 0x80 else 0)) →
        w.ety ≠ 15 →
        ∃ c', VectorResult (.vmov w) s c c' ∧ OnlyVectors c c' (regsOf w.d.toNat moved) ∧
          LaneValues c c' E w.d.toNat moved tag (fun l => c.laneValue w.a.toNat moved l) fun _ => false) ∧
    (∀ t, etyType w.ety (w.c.toNat - 0x90) = some t → t.widMismatch c.fmts = false → (t.is64 = true → w.d.toNat % 2 = 0) →
      ∃ c', VectorResult (.vbcast w) s c c' ∧ OnlyVectors c c' (regsOf w.d.toNat t.is64) ∧
        LaneElements c c' E w.d.toNat t fun _ _ => (c.sreg w.a).toNat) ∧
    (∃ c', VectorResult (.vidx w) s c c' ∧ OnlyVectors c c' [w.d.toNat] ∧
      LaneValues c c' E w.d.toNat false 0x22 (fun l => ((c.sreg w.a).toNat + l) % 2 ^ 32) fun _ => false) ∧
    ∀ v : ImmForm, ∃ c', VectorResult (.vli v) s c c' ∧ OnlyVectors c c' [v.d.toNat] ∧
      LaneValues c c' (guardSet v.guard c) v.d.toNat false 0 (fun _ => (v.imm.toInt % 2 ^ 32).toNat) fun _ => false

/-- R72, R125 and R126: VCVT converts element by element, destination elements above the source's being 0; VPACK puts a's
converted elements before b's; VUNPK converts the low or the high elements of a. -/
def VectorConversions : Prop :=
  ∀ (w : RegForm) (s : State) (c : Crew) (src dst : ElemTy), s.crewAt s.cur = some c → fnQA w = false → fnQD w = false →
    etyType w.ety (w.c.toNat - 0x90) = some dst → dst.widMismatch c.fmts = false → Typed c w.a.toNat src →
    Unmarked c (guardSet w.guard c) w.a.toNat src.is64 →
    let E := guardSet w.guard c
    let cv (x : Nat) : Nat := converted c.fmts src dst w.rnd w.sat x
    ((src.is64 = true → w.a.toNat % 2 = 0) → (dst.is64 = true → w.d.toNat % 2 = 0) →
      ∃ c', VectorResult (.vcvt w) s c c' ∧ OnlyVectors c c' (regsOf w.d.toNat dst.is64) ∧
        LaneElements c c' E w.d.toNat dst
          fun l e => if e < src.perLane then cv (c.element w.a.toNat src l e) else 0) ∧
    (Typed c w.b.toNat src → Unmarked c E w.b.toNat false → src.is64 = false → 2 * dst.width = src.width →
      ∃ c', VectorResult (.vpack w) s c c' ∧ OnlyVectors c c' [w.d.toNat] ∧
        LaneElements c c' E w.d.toNat dst fun l e =>
          if e < src.perLane then cv (c.element w.a.toNat src l e)
          else cv (c.element w.b.toNat src l (e - src.perLane))) ∧
    (dst.is64 = false → dst.width = 2 * src.width →
      ∃ c', VectorResult (.vunpk w) s c c' ∧ OnlyVectors c c' [w.d.toNat] ∧
        LaneElements c c' E w.d.toNat dst
          fun l e => cv (c.element w.a.toNat src l (e + if w.fn.getLsbD 0 then dst.perLane else 0)))

/-- R138: the immediate forms on integer elements of a's own type; results wrap. -/
def VectorImmediates : Prop :=
  ∀ (w : ImmForm) (s : State) (c : Crew) (t : ElemTy), s.crewAt s.cur = some c → t.isInt = true → Typed c w.a.toNat t →
    Unmarked c (guardSet w.guard c) w.a.toNat t.is64 → (t.is64 = true → w.a.toNat % 2 = 0 ∧ w.d.toNat % 2 = 0) →
    let n := w.imm.toNat % 64
    let result (i : Instr) (f : Nat → Nat) : Prop :=
      ∃ c', VectorResult i s c c' ∧ OnlyVectors c c' (regsOf w.d.toNat t.is64) ∧
        LaneElements c c' (guardSet w.guard c) w.d.toNat t fun l e => f (c.element w.a.toNat t l e)
    result (.vaddi w) (fun x => fitted t.width t.isSigned 0 (intOf t.isSigned t.width x + w.imm.toInt)) ∧
    result (.vshli w) (fun x => if t.width ≤ n then 0 else x * 2 ^ n) ∧
    result (.vshri w) (fun x => if t.width ≤ n then 0 else x / 2 ^ n) ∧
    result (.vsrai w) (fun x => fitted t.width true 0 (intOf true t.width x / 2 ^ min n t.width))

/-- R113, R123, R124, R127 and R138: bitwise words, moves and immediates on vectors. -/
def Obligations.VectorMovesAndLogic : Prop := VectorBitwiseLogic ∧ VectorMoves ∧ VectorImmediates

/-! ## Comparisons, reductions, votes and shuffles (R82, R83, R128 to R137) -/

/-- R128 and R131: VCMP sets lane l of d when the relation holds for every element of the lane, and keeps the lanes outside E;
VEXT writes one element of a to a scalar register, or 0 when the index or its lane is out of range. -/
def VectorComparesAndExtracts : Prop :=
  ∀ (w : RegForm) (s : State) (c : Crew) (t : ElemTy), s.crewAt s.cur = some c → c.lanes ≤ 1024 →
    firstType c.fmts w.ety acceptAny 1 (c.vreg w.a.toNat).tag = .ok t → (t.is64 = true → w.a.toNat % 2 = 0) →
    Unmarked c (guardSet w.guard c) w.a.toNat t.is64 →
    let E := guardSet w.guard c
    let rel := (fnOP w).toNat
    (checkTyped c.fmts w.ety t 2 (c.vreg w.b.toNat).tag = .ok () → (t.is64 = true → w.b.toNat % 2 = 0) →
      Unmarked c E w.b.toNat t.is64 → 1 ≤ rel → rel ≤ 5 → (rel = 5 → t.isInt = false) → 0x41 ≤ w.d.toNat → w.d.toNat ≤ 0x4F →
      ∃ c', VectorResult (.vcmp w) s { c with mregs := c'.mregs } c' ∧ OnlyVectors c c' [] ∧
        (∀ f : BitVec 8, 0x40 ≤ f.toNat → f.toNat ≤ 0x4F → f ≠ w.d → c'.mask f = c.mask f) ∧
        (∀ l, l < c.lanes → ((c'.mask w.d).getLsbD l = true ↔
          if E.getLsbD l then ∀ e, e < t.perLane →
            relation rel (t.value c.fmts (c.element w.a.toNat t l e))
              ((sourceType t (c.vreg w.b.toNat).tag).value c.fmts (c.element w.b.toNat t l e)) = true
          else (c.mask w.d).getLsbD l = true)) ∧
        ∀ l, c.lanes ≤ l → (c'.mask w.d).getLsbD l = false) ∧
    let i := (c.sreg w.b).toNat
    let l := i / t.perLane
    let x : Int := intOf t.isSigned t.width (c.element w.a.toNat t l (i % t.perLane))
    ∃ c', VectorResult (.vext w) s
      (c.setS w.d (if i < c.lanes * t.perLane ∧ E.getLsbD l = true then BitVec.ofInt 64 x else 0)) c' ∧ OnlyVectors c c' []

/-- R72, R125, R126, R128 and R131: vector conversions, comparisons and extracts. -/
def Obligations.VectorConversionsAndComparisons : Prop := VectorConversions ∧ VectorComparesAndExtracts

/-- R62, R71, R82, R129 and R130: VRED combines the elements of the lanes of E over the fixed tree of linear indexes, and VSCAN in
ascending linear index, each combination rounded or fitted, and a float that VRED writes is rounded even where it is the one
element; over no element both start from R129's empty value. That minima and maxima take rnd and sat is log 90 (DEDUCED). -/
def VectorReductionsAndScans : Prop :=
  ∀ (w : RegForm) (s : State) (c : Crew) (t : ElemTy), s.crewAt s.cur = some c → c.lanes ≤ 1024 →
    firstType c.fmts w.ety acceptAny 1 (c.vreg w.a.toNat).tag = .ok t → t.narrowIndex = none →
    (t.is64 = true → w.a.toNat % 2 = 0) → Unmarked c (guardSet w.guard c) w.a.toNat t.is64 →
    let E := guardSet w.guard c
    let p := t.perLane
    let op := w.fn.toNat % 8
    op ≤ 5 → (3 ≤ op → t.isInt = true) →
      let elem (i : Nat) : Option Nat :=
        if i < c.lanes * p ∧ E.getLsbD (i / p) = true then some (c.element w.a.toNat t (i / p) (i % p)) else none
      let f (x y : Nat) : Nat := combination c.fmts op w.rnd w.sat t x y
      let empty := emptyValue c.fmts op t
      let final (x : Nat) : Nat := ((t.fmt c.fmts).map fun g => g.round (Rnd.of w.rnd) (w.sat = 1) (g.decode x)).getD x
      (w.fn.getLsbD 3 = false →
        ∃ c', VectorResult (.vred w) s
          (c.setS w.d (BitVec.ofInt 64 (intOf t.isSigned t.width (((halvesTree f elem 13 0).map final).getD empty)))) c' ∧
          OnlyVectors c c' []) ∧
      ((t.is64 = true → w.d.toNat % 2 = 0) → ∃ c', VectorResult (.vscan w) s c c' ∧ OnlyVectors c c' (regsOf w.d.toNat t.is64) ∧
        LaneElements c c' E w.d.toNat t fun l e =>
          (((List.range (l * p + e + if w.fn.getLsbD 3 then 0 else 1)).filterMap elem).foldl f empty))

/-- R83 and R132: VDOT adds to d the exact sum of the products of a lane's elements, fitted once; d is an I32 accumulator for
integers and F32 otherwise. -/
def VectorDotProducts : Prop :=
  ∀ (w : RegForm) (s : State) (c : Crew) (t : ElemTy), s.crewAt s.cur = some c →
    t = .sint 8 ∨ t = .uint 8 ∨ t = .ieee 0 ∨ t = .ieee 1 ∨ t.narrowIndex.isSome = true →
    firstType c.fmts w.ety acceptAny 1 (c.vreg w.a.toNat).tag = .ok t →
    let E := guardSet w.guard c
    let acc : BitVec 8 := if t.isInt then 0x12 else 0x32
    let raw : Prop := 1 ≤ w.ety.toNat ∧ w.ety.toNat ≤ 12
    (c.vreg w.b.toNat).tag = t.tag ∨ ((c.vreg w.b.toNat).tag = 0 ∧ raw) →
    (c.vreg w.d.toNat).tag = acc ∨ ((c.vreg w.d.toNat).tag = 0 ∧ raw) →
    Unmarked c E w.a.toNat false → Unmarked c E w.b.toNat false → Unmarked c E w.d.toNat false →
    let v (r : BitVec 8) (l e : Nat) : Nat := c.element r.toNat t l e
    ∃ c', VectorResult (.vdot w) s c c' ∧ OnlyVectors c c' [w.d.toNat] ∧
      LaneValues c c' E w.d.toNat false acc (fun l =>
        let z := ((c.vreg w.d.toNat).word l).toNat
        if t.isInt then
          fitted 32 true w.sat (intOf true 32 z +
            ((List.range t.perLane).map fun e => intOf t.isSigned 8 (v w.a l e) * intOf t.isSigned 8 (v w.b l e)).sum)
        else
          Fmt.f32.round (Rnd.of w.rnd) (w.sat = 1) (sumExact (Rnd.of w.rnd == Rnd.rd) (Fmt.f32.decode z ::
            (List.range t.perLane).map fun e => (t.value c.fmts (v w.a l e)).mul (t.value c.fmts (v w.b l e))))) fun _ => false

/-- R82, R83, R129, R130 and R132: reductions, scans and dot products. -/
def Obligations.VectorReductionsScansAndDots : Prop := VectorReductionsAndScans ∧ VectorDotProducts

/-- R133: VVOTE over the counted lanes, those of Mask(b) in E. R134 and R135: VSHUF and VSHUFI read a's word, or pair, at another
lane: 0 where the index is out of range, 0 with VOIDREAD where that lane has exited. -/
def Obligations.VotesAndShuffles : Prop :=
  (∀ (w : RegForm) (s : State) (c : Crew), s.crewAt s.cur = some c → c.lanes ≤ 1024 →
    let counted := (List.range c.lanes).filter fun l =>
      (c.mask w.b).getLsbD l && (guardSet w.guard c).getLsbD l
    let hits := counted.filter fun l => (c.mask w.a).getLsbD l
    let v : W64 :=
      match (fnOP w).toNat with
      | 0 => truthWord (hits ≠ [])
      | 1 => truthWord (hits = counted)
      | 2 => BitVec.ofNat 64 hits.length
      | _ => BitVec.ofNat 64 (hits.head?.getD 1024)
    ∃ c', VectorResult (.vvote w) s (c.setS w.d v) c' ∧ OnlyVectors c c' []) ∧
  ∀ (s : State) (c : Crew) (i : Instr) (E : Mask) (d a : BitVec 8) (pick : Nat → Option Nat), s.crewAt s.cur = some c →
    c.lanes ≤ 1024 →
    let pair := tagIs64 (c.vreg a.toNat).tag
    (∃ w : RegForm, i = .vshuf w ∧ E = guardSet w.guard c ∧ d = w.d ∧ a = w.a ∧
      ((c.vreg w.b.toNat).tag = 0x12 ∨ (c.vreg w.b.toNat).tag = 0x22) ∧ Unmarked c E w.b.toNat false ∧
      tagReserved false (c.vreg a.toNat).tag = false ∧
      ∀ l, pick l = if ((c.vreg w.b.toNat).word l).toNat < c.lanes then some ((c.vreg w.b.toNat).word l).toNat else none) ∨
    (∃ (w : ImmForm) (t : ElemTy), i = .vshufi w ∧ E = guardSet w.guard c ∧ d = w.d ∧ a = w.a ∧ t.isInt = true ∧
      Typed c a.toNat t ∧
      let mode := w.imm.toNat % 8
      let k := w.imm.toNat / 8 % 1024
      ∀ l, pick l =
        match mode with
        | 0 => some (if l ^^^ k < c.lanes then l ^^^ k else l)
        | 1 => some ((l + k) % c.lanes)
        | 2 => if k < c.lanes then some k else none
        | 3 => some (if k ≤ l then l - k else l)
        | _ => some (if l + k < c.lanes then l + k else l)) →
    (pair = true → d.toNat % 2 = 0 ∧ a.toNat % 2 = 0) →
    (∀ q l j, q ∈ regsOf a.toNat pair → l < c.lanes → E.getLsbD l = true → pick l = some j →
      (c.vreg q).marks.getLsbD j = false) →
    ∃ c', (∃ t, exec i s = .next t ∧ CrewAndCore (s.spillTurn c c') t c') ∧
      c' = { c with vregs := c'.vregs, pc := c.pc + 8, boundBlocks := c'.boundBlocks, spillBlocks := c'.spillBlocks
                    cflags := c'.cflags } ∧
      (c'.cflags.getLsbD 0 = (c.cflags.getLsbD 0 || (List.range c.lanes).any fun l =>
        E.getLsbD l && ((pick l).map fun j => !c.live.getLsbD j).getD false)) ∧
      OnlyVectors c c' (regsOf d.toNat pair) ∧
      LaneValues c c' E d.toNat pair (c.vreg a.toNat).tag
        (fun l => ((pick l).map fun j => if c.live.getLsbD j then c.laneValue a.toNat pair j else 0).getD 0) fun _ => false

/-- R137: VGUMBEL adds to each element of d the noise that Mix gives from the seed s[a], the key s[b] and the vocabulary index
c[l] + e, rounded once; the noise of a hash is `gumbel`, the model's evaluation of R137's formula (log 7, DESIGN CHOICE). -/
def VectorGumbelNoise : Prop :=
  ∀ (w : RegForm) (s : State) (c : Crew) (t : ElemTy) (f : Fmt), s.crewAt s.cur = some c → t.fmt c.fmts = some f →
    t.narrowIndex = none → t.is64 = false → firstType c.fmts w.ety acceptAny 0 (c.vreg w.d.toNat).tag = .ok t →
    (c.vreg w.c.toNat).tag = 0x22 →
    let E := guardSet w.guard c
    Unmarked c E w.d.toNat false → Unmarked c E w.c.toNat false →
    let step (x : W64) (n : Nat) (k : W64) : W64 := (x ^^^ (x >>> n)) * k
    let hash (x : W64) : W64 :=
      let y := step (step x 31 0x9A3F5C217B64E8D5) 29 0xC2B71E4D93A56F17
      y ^^^ (y >>> 32)
    let key := hash (hash (c.sreg w.a) ^^^ c.sreg w.b)
    let noise (h : Nat) : XReal := Fmt.f32.decode (gumbel h (2 ^ 20))
    ∃ c', VectorResult (.vgumbel w) s c c' ∧ OnlyVectors c c' [w.d.toNat] ∧
      LaneElements c c' E w.d.toNat t fun l e =>
        let idx := (((c.vreg w.c.toNat).word l).toNat + e) % 2 ^ 32
        let h := hash (key ^^^ BitVec.ofNat 64 idx)
        f.round (Rnd.of w.rnd) (w.sat = 1)
          ((f.decode (c.element w.d.toNat t l e)).add (Rnd.of w.rnd == Rnd.rd) (noise (h.toNat / 2 ^ 40)))

/-- R136 and R137: the special functions of vector elements, and Gumbel noise. -/
def Obligations.VectorSpecialFunctions : Prop := VectorTranscendentals ∧ VectorGumbelNoise

/-! ## P words, rows and copies (R26 to R30, R114, R115, R153 to R162) -/

/-- R27, R28 and R30: a P word whose slots are neither LD nor ST: both slots read before either writes, scalar and vector slots in
any pairing. -/
def PairsOfRegisters : Prop :=
  ∀ (x y : Slot) (s : State) (c : Crew) (p q : SlotGives), s.crewAt s.cur = some c → SlotMeans x c p → SlotMeans y c q →
    (∀ r, r ∈ p.regs x → r ∉ q.regs y) →
    ∃ c', VectorResult (.pWord x y) s { c with sregs := c'.sregs } c' ∧ PairWrites x y p q c c'

/-- R27, R28, R30 and R142 to R144: a P word with an LD or an ST slot, in either place, beside any other slot: the memory slot does
what LD or ST does at the address in s, counts as it does, and its fault or its full counter is the word's. The access is
performed at issue (log 9, DESIGN CHOICE). -/
def PairsWithMemory : Prop :=
  ∀ (x y z o : Slot) (s : State) (c : Crew) (r : SlotGives) (n : Nat) (signed : Bool), s.NoLog → s.crewAt s.cur = some c →
    (z = x ∧ o = y) ∨ (z = y ∧ o = x) → z.sop = 0x11 ∨ z.sop = 0x12 → SlotMeans o c r → (z.ety.toNat, n, signed) ∈ memoryTypes →
    let i := Instr.pWord x y
    let addr := c.sreg z.s
    let kind : Kind := if z.sop = 0x11 then .load else .store
    let counter : Counter := if z.sop = 0x11 then .wl else .ws
    -- the memory slot's own result m stands in its place
    let wrote (m : SlotGives) (c' : Crew) : Prop := (z = x ∧ o = y ∧ PairWrites x y m r c c') ∨ (z = y ∧ o = x ∧ PairWrites x y r m c c')
    (255 ≤ c.count counter → exec i s = .next s) ∧
    (∀ e, c.count counter < 255 → s.check c.accessor kind addr n n = .error e → Kills i s c 6 e [addr]) ∧
    ∀ p, c.count counter < 255 → s.check c.accessor kind addr n n = .ok p →
      (z.sop = 0x11 →
        let bad := s.crewMarked c p n
        ∃ t c', exec i s = .next t ∧ CrewReads ((s.settlePlace c.place.die p n).spillTurn c c') t c' ∧
          wrote (.scalar (extended n signed (s.crewRead c p n))) c' ∧
          VectorCrew { c.counted .wl bad with
            sregs := c'.sregs, poison := if bad then some (markDetail addr, addr, c.poff) else c.poison } c') ∧
      (z.sop = 0x12 → Memory.wf s.mem = true → r.inGranules o c →
        let after (c' : Crew) : Prop := wrote .nothing c' ∧
          VectorCrew { c.counted .ws false with sregs := c'.sregs, fp := c'.fp, folds := c'.folds } c'
        ((∀ k, p = .chip k → s.provisional c k = none) →
          ∃ t c', exec i s = .next t ∧
            CrewStores (s.settlePlace c.place.die p n) t c' c.place.die p n (c.sreg z.d).toNat ∧ after c') ∧
        ∀ k b, p = .chip k → s.provisional c k = some b →
          ∃ t c', exec i s = .next t ∧ after c' ∧ CrewReads (s.onFlight fun f => { f with provs := f.provs ++
            [{ uid := c.uid, record := b.record, home := b.home, slot := b.slot, key := k
               bytes := bytesOfNat n (c.sreg z.d).toNat, marks := [] }] }) t c')

/-- R27, R28, R30 and R142 to R144: P words, with register slots alone and with a memory slot. -/
def Obligations.PairWords : Prop := PairsOfRegisters ∧ PairsWithMemory

/-- R114, R115, R154, R155 and R162: VPOP takes, from a row queue, a read stream or the drain port, the oldest row that no crew has
claimed, or the crew's own, and writes its lanes that are not void, with its tag; VPUSH appends a row of a's words that is
void outside E to a row queue or a write stream. A pop of another width, a 64-bit tag and an endpoint that does not serve the
crew fault; an endpoint that is still to give a row, and a full one, hold the word before issue. -/
def RowsOfChannels : Prop :=
  ∀ (w : RegForm) (s : State) (c : Crew), s.crewAt s.cur = some c →
    let E := guardSet w.guard c
    let d := c.place.die
    let k := c.place.core
    let qa := w.a.toNat - 0x70
    let qd := w.d.toNat - 0x70
    let ch := s.chan d k
    let ta := (c.vreg w.a.toNat).tag
    let rows := s.rowsOf d k qa
    (∀ pre r post, s.givesRows d k qa → rows = pre ++ r :: post →
      ((r.claimed = some c.uid ∧ ∀ q, q ∈ pre → q.claimed ≠ some c.uid) ∨
        (r.claimed = none ∧ (∀ q, q ∈ pre → q.claimed ≠ none) ∧ ∀ q, q ∈ pre ++ post → q.claimed ≠ some c.uid)) →
      let Ev := E &&& ~~~r.void
      (r.width ≠ c.lanes → Kills (.vpop w) s c 5 4 []) ∧
      (r.width = c.lanes → tagReserved false r.tag = false → tagIs64 r.tag = true → Kills (.vpop w) s c 5 5 []) ∧
      (r.width = c.lanes → tagReserved false r.tag = false → tagIs64 r.tag = false →
        (∀ l, l < c.lanes → Ev.getLsbD l = true → r.marks.getLsbD l = false) →
        ∃ c', RunsOn (.vpop w) s ((s.setRows d k qa (pre ++ post)).spillTurn c c') c' ∧ VectorCrew c c' ∧
          OnlyVectors c c' [w.d.toNat] ∧
          LaneValues c c' Ev w.d.toNat false r.tag (fun l => (r.words[l]?.getD 0).toNat) fun _ => false)) ∧
    -- no row for the crew
    ((∀ q, q ∈ rows → q.claimed ≠ none ∧ q.claimed ≠ some c.uid) →
      ((ch qa).endpoint = .rowQueue ∨ (ch qa).endpoint = .drainPort → exec (.vpop w) s = .next s) ∧
      ∀ e, (ch qa).endpoint = .stream e → (s.stream d k e).isWrite = false →
        ((s.stream d k e).state = .ready ∨ (s.stream d k e).state = .running → exec (.vpop w) s = .next s) ∧
        ((s.stream d k e).state ≠ .ready → (s.stream d k e).state ≠ .running → Kills (.vpop w) s c 5 4 [])) ∧
    (¬s.givesRows d k qa → Kills (.vpop w) s c 5 4 []) ∧
    (qd < 16 → ¬s.refusesRow c qd → s.hasRoom c qd → tagReserved false ta = false →
      (tagIs64 ta = true → Kills (.vpush w) s c 4 2 [BitVec.ofNat 64 (ta.toNat + 256)]) ∧
      (tagIs64 ta = false → Unmarked c E w.a.toNat false →
        ∃ c', RunsOn (.vpush w) s ((s.setRows d k qd (s.rowsOf d k qd ++
            [{ width := c.lanes
               words := (List.range c.lanes).map fun l => if E.getLsbD l then (c.vreg w.a.toNat).word l else 0
               void := c.allLanes &&& ~~~E, marks := 0, tag := ta, de := 0, berthTag := c.place.berth
               claimed := none }])).spillTurn c c') c' ∧
          VectorCrew c c' ∧ OnlyVectors c c' [])) ∧
    (¬s.refusesRow c qd → ¬s.hasRoom c qd → exec (.vpush w) s = .next s) ∧
    (s.refusesRow c qd → Kills (.vpush w) s c 5 4 [])

/-- R113 to R115: an elementwise word of integers whose a is a row, whose d is a channel, or both: the row leaves its endpoint, its
void lanes leave E, and the result goes to d's lanes, or as a row that is void elsewhere to the tail of d's endpoint. -/
def RowOperands : Prop :=
  ∀ (w : RegForm) (s : State) (c : Crew) (t : ElemTy) (row : Row) (rest : List Row), s.crewAt s.cur = some c →
    t.isInt = true → t.is64 = false → (fnQA w = true ∨ fnQD w = true) →
    let d := c.place.die
    let k := c.place.core
    let qa := w.a.toNat - 0x70
    let qd := w.d.toNat - 0x70
    (fnQA w = true → s.givesRows d k qa ∧ s.rowsOf d k qa = row :: rest ∧ row.width = c.lanes ∧
      row.claimed = none ∧ ∀ q, q ∈ rest → q.claimed ≠ some c.uid) →
    (fnQA w = false → row.tag = (c.vreg w.a.toNat).tag ∧ row.void = 0 ∧ row.marks = (c.vreg w.a.toNat).marks ∧
      ∀ l, row.words[l]?.getD 0 = (c.vreg w.a.toNat).word l) →
    let popped := if fnQA w then s.setRows d k qa rest else s
    (fnQD w = true → qd < 16 ∧ ¬popped.refusesRow c qd ∧ popped.hasRoom c qd) →
    let Ev := guardSet w.guard c &&& ~~~row.void
    firstType c.fmts w.ety acceptAny 1 row.tag = .ok t → checkTyped c.fmts w.ety t 2 (c.vreg w.b.toNat).tag = .ok () →
    (∀ l, l < c.lanes → Ev.getLsbD l = true → row.marks.getLsbD l = false) → Unmarked c Ev w.b.toNat false →
    let a (l e : Nat) : Int := intOf t.isSigned t.width (elemOf t.width (row.words[l]?.getD 0).toNat e)
    let b (l e : Nat) : Int := intOf t.isSigned t.width (c.element w.b.toNat t l e)
    let result (i : Instr) (f : Nat → Nat → Nat) : Prop :=
      (fnQD w = false → ∃ c', RunsOn i s (popped.spillTurn c c') c' ∧ VectorCrew c c' ∧ OnlyVectors c c' [w.d.toNat] ∧
        LaneElements c c' Ev w.d.toNat t f) ∧
      (fnQD w = true → ∃ c' words, RunsOn i s ((popped.setRows d k qd (popped.rowsOf d k qd ++
          [{ width := c.lanes, words := words, void := c.allLanes &&& ~~~Ev, marks := 0, tag := t.tag, de := 0
             berthTag := c.place.berth, claimed := none }])).spillTurn c c') c' ∧
        VectorCrew c c' ∧ OnlyVectors c c' [] ∧ words.length = c.lanes ∧
        ∀ l e, l < c.lanes → e < t.perLane →
          elemOf t.width (words[l]?.getD 0).toNat e = if Ev.getLsbD l then f l e % 2 ^ t.width else 0)
    result (.vadd w) (fun l e => fitted t.width t.isSigned w.sat (a l e + b l e)) ∧
    result (.vsub w) (fun l e => fitted t.width t.isSigned w.sat (a l e - b l e)) ∧
    result (.vmul w) (fun l e => fitted t.width t.isSigned w.sat (a l e * b l e)) ∧
    result (.vmin w) (fun l e => fitted t.width t.isSigned 0 (min (a l e) (b l e))) ∧
    result (.vmax w) (fun l e => fitted t.width t.isSigned 0 (max (a l e) (b l e)))

/-- R113 to R115, R153 to R155, R162 and R238: words on rows of channels, and rows as operands. That a word takes its row when it issues,
and a push reaches its endpoint then, is log 9; rows that crews of one cycle push stand in ascending berth order (R116). -/
def Obligations.RowsAndRowOperands : Prop := RowsOfChannels ∧ RowOperands

/-- R142, R156 to R162: CPY queues a copy on its channel and counts in wc; CHWAIT gives a channel's write pointer once it reaches
s[b] or the channel stands stopped, and CHWAIT.rows the status of its endpoint; SECFG makes an engine ready and binds it to a
channel, SEGO starts it, and SESTOP ends it. The rows of a write stream that SESTOP stops are stored however the engine goes on,
and the SESTOP counts until they are. INFO0 of a fault of SECFG is log 27. -/
def Obligations.CopiesAndStreams : Prop :=
  ∀ (w : RegForm) (s : State) (c : Crew), Issues s c w.guard →
    let d := c.place.die
    let k := c.place.core
    let qd := w.d.toNat - 0x70
    let qa := w.a.toNat - 0x70
    let ch := s.chan d k
    let agent : Agent := { place := c.place, uid := some c.uid, region := c.region, privBase := c.privBase
                           privSize := c.privSize, cid := c.cid, origin := c.origin 0 0 }
    let next : Crew := { c with pc := c.pc + 8 }
    (∀ kind len, qd < 16 → c.count .wc < 255 → (ch qd).jobs.length < 8 →
      (w.fn.getLsbD 0 = false → kind = .linear ∧ len = (c.sreg w.c).toNat) →
      (w.fn.getLsbD 0 = true → ∃ n signed, let h := s.shape d c.region (w.c.toNat - 0x60)
        (h.ty.toNat, n, signed) ∈ memoryTypes ++ [(13, 1, false)] ∧ kind = .shaped h ∧ len = h.points * n) →
      let j : CopyJob := { kind := kind, dst := c.sreg w.a, src := c.sreg w.b, len := len, off := 0, chunk := none
                           bad := false, op := some { uid := c.uid, ticket := c.nextTicket }, agent := agent, after := [] }
      (2 ^ 40 ≤ len → Kills (.cpy w) s c 6 6 [c.sreg w.b]) ∧
      (len < 2 ^ 40 → ∀ e, s.chunkPlaces j 0 (min 4096 len) = .error e → Kills (.cpy w) s c 6 e.1 [e.2]) ∧
      (len < 2 ^ 40 → ∀ ps, s.chunkPlaces j 0 (min 4096 len) = .ok ps →
        RunsOn (.cpy w) s (s.onChan d k qd fun x => { x with jobs := x.jobs ++ [j], halted := false })
          { c.queued .wc with pc := c.pc + 8 })) ∧
    (255 ≤ c.count .wc ∨ 8 ≤ (ch qd).jobs.length → exec (.cpy w) s = .next s) ∧
    (c.sreg w.b ≤ (ch qa).wp → ScalarResult (.chwait w) s c w.d (ch qa).wp) ∧
    ((ch qa).wp < c.sreg w.b → (ch qa).halted = false → exec (.chwait w) s = .next s) ∧
    ((ch qa).wp < c.sreg w.b → (ch qa).halted = true →
      CrewResult (.chwait w) s ({ c with werr := c.werr ||| 8, pc := c.pc + 8 }.setS w.d (ch qa).wp)) ∧
    (let rows := s.rowsOf d k qa
     let ready (count depth : Nat) (done err : Bool) : Prop :=
       let v : W64 := BitVec.ofNat 64 (count + ((rows.head?.map Row.de).getD 0).toNat * 2 ^ 8 +
         (if done then 2 ^ 12 else 0) + if err then 2 ^ 13 else 0)
       (min (c.sreg w.b).toNat depth ≤ count ∨ done = true ∨ err = true → ScalarResult (.chwaitRows w) s c w.d v) ∧
       (count < min (c.sreg w.b).toNat depth → done = false → err = false → exec (.chwaitRows w) s = .next s)
     ((ch qa).endpoint = .rowQueue → ready rows.length 8 false false) ∧
     (∀ e, (ch qa).endpoint = .stream e → let x := s.stream d k e
       ready (x.rows.length + (x.tails.map fun y => y.rows.length).sum) 4 (x.isWrite || x.state = .idle || x.state = .done || x.state = .faulted) (x.state = .faulted)) ∧
     ((ch qa).endpoint = .drainPort → ready rows.length 8 (!(s.core d k).matrix.drainsOn qa) false) ∧
     (∀ n, (ch qa).endpoint = .lockOut n → ready 0 0 true false)) ∧
    (∀ ty : ElemTy, let h := s.shape d c.region (w.b.toNat - 0x60)
      let ctl := c.sreg w.c
      let e := ctl.toNat % 8
      let x := s.stream d k e
      qd < 16 → etyType h.ty 0 = some ty → (ty.width = 4 → ∀ v, v ∈ h.stride → v % 2 = 0) → ctl.toNat < 4096 →
      tagReserved false (BitVec.ofNat 8 (ctl.toNat / 16)) = false →
      (x.state = .running → Kills (.secfg w) s c 6 7 [c.sreg w.a]) ∧
      (x.state ≠ .running → (ch qd).endpoint ≠ .drainPort → (∀ n, (ch qd).endpoint ≠ .lockOut n) →
        ∃ (cs : Vector Channel 16) (es : Vector Stream 8),
          RunsOn (.secfg w) s (s.onCore d k fun y => { y with chans := cs, streams := es }) next ∧
          (∀ n, n < 16 → cs[n]? = some (if n = qd then { ch n with endpoint := .stream e }
            else if x.chan = some n then { ch n with endpoint := .rowQueue } else ch n)) ∧
          es[e]? = some { state := .ready, base := c.sreg w.a, shape := h, ctl := ctl, chan := some qd, width := c.lanes
                          next := 0, rows := [], agent := agent, tails := x.tails } ∧
          ∀ n, n < 8 → n ≠ e → es[n]? = some (if x.chan ≠ some qd ∧ (ch qd).endpoint = .stream n then
            { s.stream d k n with chan := none } else s.stream d k n))) ∧
    (∀ e, e < 8 → (ch qd).endpoint = .stream e →
      let x := s.stream d k e
      let put (y : Stream) : State := s.onStream d k e fun _ => y
      (x.state = .ready ∨ x.state = .done → RunsOn (.sego w) s (put { x with state := .running, next := 0, rows := [] }) next) ∧
      (x.state = .running → CrewResult (.sego w) s next) ∧
      (x.state = .idle ∨ x.state = .faulted → Kills (.sego w) s c 6 7 [x.base]) ∧
      (c.count .wc < 255 → x.state = .idle → Kills (.sestop w) s c 6 7 [x.base]) ∧
      (c.count .wc < 255 → x.state ≠ .idle →
        let op : OpRef := { uid := c.uid, ticket := c.nextTicket }
        let ends (y : Stream) : Prop := RunsOn (.sestop w) s (put { y with state := .done }) { c.counted .wc false with pc := c.pc + 8 }
        let waits (y : Stream) : Prop := RunsOn (.sestop w) s (put { y with state := .done }) { c.queued .wc with pc := c.pc + 8 }
        (x.isWrite = false → ends { x with rows := if x.state = .running then [] else x.rows }) ∧
        (x.isWrite = true → x.state = .running → x.rows ≠ [] →
          waits { x with rows := [], tails := x.tails ++
            [{ base := x.base, shape := x.shape, ctl := x.ctl, width := x.width, next := x.next, rows := x.rows
               agent := x.agent, stops := [op] }] }) ∧
        (x.isWrite = true → x.state ≠ .running ∨ x.rows = [] → x.tails = [] → ends x) ∧
        ∀ pre y, x.isWrite = true → x.state ≠ .running ∨ x.rows = [] → x.tails = pre ++ [y] →
          waits { x with tails := pre ++ [{ y with stops := y.stops ++ [op] }] }))

/-- R157, R161 and R162 for the engines' steps. A channel reads a chunk of the copy at its head whole, then lands it in pieces of
128 bytes, with WP moving on at each, and its last piece ends the copy; a chunk that fails its checks stops the channel. A
stream reads or stores the points of one row, and the rows of a stopped write stream complete the SESTOPs that wait for them.
A performed operation is retired in its counter's order (R101). The pieces of a chunk land one at a time (log 19); the INFO words of a
stream's fault are log 23; at what rate the engines step is open, and an event names the engine that acts (logs 41, 74). -/
def Obligations.EngineSteps : Prop :=
  (∀ (s : State) (d k ch : Nat) (i : Instr) (j : CopyJob) (rest : List CopyJob), s.NoLog → ch < 16 →
    (s.chan d k ch).jobs = j :: rest →
    (i = .copyChunk d k ch ∧ ∀ xs b, j.kind ≠ .gather xs b) ∨ (i = .gatherCopy d k ch ∧ ∃ xs b, j.kind = .gather xs b) →
    -- a chunk is read
    (∀ src dst, j.chunk = none → s.coreStopped d k = false → j.off < j.len → (∀ b, j.kind = .tld b → j.after = []) →
      (∀ b rel, j.kind = .tst b rel → j.off ≠ 0 ∨ s.isFull d k b = true) →
      s.chunkPlaces j j.off (min 4096 (j.len - j.off)) = .ok (src, dst) →
      let ms := s.spanMarks d src
      exec i s = .next ((s.observeSpan d src).onChan d k ch fun x =>
        { x with jobs := { j with chunk := some { dst := dst, bytes := s.spanBytes d src, marks := ms, old := false }
                                  bad := j.bad || ms.any id } :: rest })) ∧
    -- a piece of it lands
    ∀ x q, j.chunk = some x → x.dst = [(q, x.bytes.length)] → x.bytes ≠ [] → (∀ m, m ∈ x.marks → m = false) → j.bad = false →
      s.InTheClear → Memory.wf s.mem = true → s.memMarks = [] → (s.die d).dirty = [] → s.copyWindow j.agent = none →
      (∀ e off, q ≠ .barge e off) →
      let n := min 128 x.bytes.length
      let last := j.len ≤ j.off + n
      ∃ t, exec i s = .next t ∧ CellsHold s t q.home n (natOfBytes (x.bytes.take n)) ∧ t.memMarks = [] ∧
        t.chan d k ch = { s.chan d k ch with
          wp := (s.chan d k ch).wp + BitVec.ofNat 64 n
          jobs := if last then rest else
            { j with off := j.off + n
                     chunk := if x.bytes.length ≤ 128 then none else
                       some { x with dst := [(q.plus n, x.bytes.length - n)], bytes := x.bytes.drop n
                                     marks := x.marks.drop n } } :: rest } ∧
        (∀ m, m ≠ ch → t.chan d k m = s.chan d k m) ∧
        (∀ who, t.crewAt who = (s.crewAt who).map fun c =>
          if last ∧ j.op.map OpRef.uid = some c.uid then
            { c with ops := c.ops.map fun o => if some o.ticket = j.op.map OpRef.ticket then { o with done := true } else o }
          else c) ∧
        ∀ b, b < 256 → t.isFull d k b =
          match j.kind with
          | .tld b' => if b = b' then decide last || (j.off != 0 && s.isFull d k b) else s.isFull d k b
          | .gather _ b' => (decide (last ∧ b = b')) || s.isFull d k b
          | .tst b' rel => !(decide (last ∧ b = b') && rel) && s.isFull d k b
          | _ => s.isFull d k b) ∧
  (∀ (s : State) (d k ch : Nat) (j : CopyJob) (rest : List CopyJob) (e : Nat × W64), ch < 16 →
    s.coreStopped d k = false → (s.chan d k ch).jobs = j :: rest → j.kind = .linear → j.chunk = none → j.off < j.len →
    s.chunkPlaces j j.off (min 4096 (j.len - j.off)) = .error e →
    ∃ t, exec (.copyChunk d k ch) s = .next t ∧ t.mem = s.mem ∧
      t.chan d k ch = { s.chan d k ch with jobs := [], halted := true }) ∧
  (∀ (s : State) (d k e : Nat) (ps : List Place) (row : Row), s.NoLog → e < 8 → s.coreStopped d k = false →
    let x := s.stream d k e
    let points (y : Stream) : List Nat :=
      (List.range y.width).filterMap fun l => if y.next + l < y.shape.points then some (y.next + l) else none
    let pts := points x
    let state : StreamState := if x.state = .running ∧ x.shape.points ≤ x.next + pts.length then .done else x.state
    -- the words of a row, and no other byte, have been stored at its points
    let stored (t : State) : Prop :=
      (∀ (l : Nat) (p : Place) (i : Nat), ps[l]? = some p → i < 4 →
        t.cell (p.home + i) = BitVec.ofNat 8 ((row.words[l]?.getD 0).toNat / 256 ^ i)) ∧
      ∀ a, (∀ p, p ∈ ps → ¬(p.home ≤ a ∧ a < p.home + 4)) → t.cell a = s.cell a
    let storable : Prop := s.InTheClear ∧ Memory.wf s.mem = true ∧ s.memMarks = [] ∧ (s.die d).dirty = [] ∧ row.marks = 0 ∧
      row.void = 0 ∧ (∀ p, p ∈ ps → ∀ c off, p ≠ .barge c off) ∧
      ∀ (l m : Nat) (p q : Place), l < m → ps[l]? = some p → ps[m]? = some q → p.home + 4 ≤ q.home ∨ q.home + 4 ≤ p.home
    (x.isWrite = false → x.state = .running → x.rows.length < 4 → x.tails = [] → s.pointPlaces x .read pts = .ok ps →
      (∀ p, p ∈ ps → s.placeMarked d p 4 = false) →
      ∃ r, exec (.streamRow d k e) s = .next ((s.onStream d k e fun y =>
          { y with rows := y.rows ++ [r], next := y.next + pts.length, state := state }).observeSpan d (ps.map fun p => (p, 4))) ∧
        r.width = x.width ∧ r.tag = x.ctl.extractLsb' 4 8 ∧ r.claimed = none ∧ r.marks = 0 ∧
        (∀ l, l < x.width → (r.void.getLsbD l = true ↔ l < 1024 ∧ pts.length ≤ l)) ∧
        ∀ (l : Nat) (p : Place), ps[l]? = some p → r.words[l]? = some (BitVec.ofNat 32 (natOfBytes (s.readBytes d p 4)))) ∧
    (x.isWrite = true → x.state = .running ∨ x.state = .done → x.rows = [row] → x.tails = [] →
      s.pointPlaces x .write pts = .ok ps → storable →
      ∃ t, exec (.streamRow d k e) s = .next t ∧ t.stream d k e = { x with rows := [], next := x.next + pts.length, state := state } ∧
        stored t ∧ ∀ who, t.crewAt who = s.crewAt who) ∧
    ∀ y more, x.tails = y :: more → y.rows = [row] →
      let z : Stream := { x with base := y.base, shape := y.shape, ctl := y.ctl, width := y.width, next := y.next, agent := y.agent }
      s.pointPlaces z .write (points z) = .ok ps → storable →
      ∃ t, exec (.streamRow d k e) s = .next t ∧ t.stream d k e = { x with tails := more } ∧ stored t ∧
        ∀ who, t.crewAt who = (s.crewAt who).map fun c =>
          { c with ops := c.ops.map fun o =>
              if { uid := c.uid, ticket := o.ticket } ∈ y.stops then { o with done := true } else o }) ∧
  (∀ (s : State) (c : Crew) (pre post : List Op) (o : Op), s.findCrew c.uid = some c → c.ops = pre ++ o :: post →
    (∀ p, p ∈ pre ++ post → p.ticket ≠ o.ticket) → (∀ k, k ∈ s.flight.cancels → k.op ≠ { uid := c.uid, ticket := o.ticket }) →
    let i : Instr := .operationComplete c.uid o.ticket
    (o.done = true → (∀ p, p ∈ pre → p.ctr ≠ o.ctr) →
      exec i s = .next (s.putCrew { c with ops := pre ++ post
                                           werr := if o.err then c.werr ||| BitVec.ofNat 6 (2 ^ o.ctr.bit) else c.werr })) ∧
    (o.done = false ∨ (∃ p, p ∈ pre ∧ p.ctr = o.ctr) → exec i s = .next s))

/-! ## The matrix engine (R169 to R190) -/

/-- A tile's tag lets a matrix path read its buffer at a type (R75, R80, R178): raw bytes under a named type, or the type's own
tag with or without the scaled bit; under ety 13 and 14 the tag names the format register. -/
def TileTyped (c : Crew) (ety : BitVec 4) (t : ElemTy) (tag : BitVec 8) (scaled : Bool) : Prop :=
  tagReserved true tag = false ∧ (t.width = 8 ∨ t.width = 4 ∨ t.isInt = false) ∧
    ((tagClass tag = 0 ∧ 1 ≤ ety.toNat ∧ ety.toNat ≤ 12 ∧ etyType ety 0 = some t) ∨
      (tagClass tag ≠ 0 ∧ tagType tag = some t ∧ t.widMismatch c.fmts = false ∧ tagScaled tag = scaled ∧
        (ety = 0 ∨ (ety.toNat ≤ 12 ∧ etyType ety 0 = some t) ∨
          (12 < ety.toNat ∧ ety.toNat ≤ 14 ∧ (etyType ety 0).map ElemTy.cls = some t.cls))))

/-- R173 to R177, R179, R181 and R184: MMA, MMAZ, ACCZ, DRAIN and TREL enter the command queue, in which the command that runs keeps
its place, with what they read at issue and count in wm; the first four need the baton; MMAZ and ACCZ set the pair's mode, and DRAIN binds the drain port to its channel. -/
def MatrixCommands : Prop :=
  ∀ (w : RegForm) (s : State) (c : Crew), Issues s c w.guard →
    let d := c.place.die
    let k := c.place.core
    let m := (s.core d k).matrix
    let acc := w.d.toNat - 0x50
    let mode (a : Nat) : Bool := (m.f64Modes[a / 2]?).getD false
    let mine := m.baton = some c.place.berth
    let room := c.count .wm < 255 ∧ m.queue.length + m.running.toList.length < 8
    let entry (cmd : MatCmd) (stores : List Nat) (loads : List OpRef) : MatEntry :=
      { cmd := cmd, op := { uid := c.uid, ticket := c.nextTicket }, agent := c.agent, stores := stores, loads := loads
        bad := false, begun := false }
    let queues (i : Instr) (base : State) (f : Matrix → Matrix) (e : MatEntry) : Prop :=
      RunsOn i s (base.onCore d k fun x => { x with matrix := { f x.matrix with queue := x.matrix.queue ++ [e] } })
        { c.queued .wm with pc := c.pc + 8 }
    let setMode (f64 : Bool) (x : Matrix) : Matrix := { x with f64Modes := x.f64Modes.setIfInBounds (acc / 2) f64 }
    (¬room → ∀ i, i ∈ [Instr.mma w, .mmaz w, .accz w, .drain w, .trelEmpty w, .trelFull w] → exec i s = .next s) ∧
    (room → ¬mine → ∀ i, i ∈ [Instr.mma w, .mmaz w, .accz w, .drain w] → Kills i s c 9 1 []) ∧
    (room → mine → ∀ (t : ElemTy) (a b : TileHandle), c.tile w.a = a → c.tile w.b = b →
      (a.bound = false ∨ b.bound = false → Kills (.mma w) s c 9 2 [] ∧ Kills (.mmaz w) s c 9 2 []) ∧
      (a.bound = true → b.bound = true → TileTyped c w.ety t a.tag c.sca.isSome → TileTyped c w.ety t b.tag c.scb.isSome →
        let v := (c.sreg w.c).toNat
        let n := v % 2 ^ 16
        let first := v / 2 ^ 16
        let f64 : Bool := t = .ieee 3
        1 ≤ n → n * t.width ≤ 2048 → first % 64 = 0 → first + n ≤ 8192 → (f64 = true → acc % 2 = 0) →
        let fmt : BitVec 32 := (t.narrowIndex.map fun i => c.fmts[i]?.getD 0).getD 0
        let cmd (zero : Bool) : MmaCmd :=
          { acc := acc, f64 := f64, aBuf := a.buf.toNat, bBuf := b.buf.toNat, aTag := t.tag, bTag := t.tag, aFmt := fmt, bFmt := fmt
            sca := c.sca.map BitVec.toNat, scb := c.scb.map BitVec.toNat, k := n, k0 := first, zero := zero
            clears := zero && mode acc && !f64, chunk := 0 }
        ∃ loads : List OpRef,
          (∀ r, r ∈ loads ↔ ∃ q j buf, q < 16 ∧ j ∈ (s.chan d k q).jobs ∧ j.kind = .tld buf ∧ j.op = some r ∧
            (buf = a.buf.toNat ∨ buf = b.buf.toNat ∨ some buf = c.sca.map BitVec.toNat ∨ some buf = c.scb.map BitVec.toNat)) ∧
          (mode acc = f64 → queues (.mma w) s id (entry (.mma (cmd false)) [] loads)) ∧
          (mode acc ≠ f64 → Kills (.mma w) s c 9 7 []) ∧
          queues (.mmaz w) s (setMode f64) (entry (.mma (cmd true)) [] loads))) ∧
    (room → mine →
      queues (.accz w) s (setMode (w.ety = 12))
        (entry (.accz acc (w.ety = 12) (mode acc && !decide (w.ety = 12))) [] [])) ∧
    (room → mine → ∀ t : ElemTy, etyType w.ety (w.c.toNat - 0x90) = some t → t.widMismatch c.fmts = false →
      let n := w.d.toNat - 0x70
      let src := w.a.toNat - 0x50
      n < 16 → (s.chan d k n).endpoint = .rowQueue ∧ (s.chan d k n).rows = [] ∨ (s.chan d k n).endpoint = .drainPort →
      (∀ q, m.drainChan = some q → q ≠ n → m.drainRows = [] ∧ m.drainsOn q = false) → (mode src = true → src % 2 = 0) →
      ∃ cs : Vector Channel 16,
        (∀ q, q < 16 → cs[q]? = some (if q = n then { s.chan d k q with endpoint := .drainPort }
          else if m.drainChan = some q then { s.chan d k q with endpoint := .rowQueue } else s.chan d k q)) ∧
        queues (.drain w) (s.onCore d k fun x => { x with chans := cs }) (fun x => { x with drainChan := some n })
          (entry (.drain { acc := src, f64 := mode src, chan := n, ety := w.ety, fmtIndex := w.c.toNat - 0x90
                           fmt := (t.narrowIndex.map fun i => c.fmts[i]?.getD 0).getD 0
                           rnd := w.rnd, sat := w.sat = 1, z := w.fn.getLsbD 0, width := c.lanes, row := 0
                           berthTag := c.place.berth }) [] [])) ∧
    (room → ∀ a : TileHandle, c.tile w.d = a →
      (a.bound = false → Kills (.trelEmpty w) s c 9 2 [] ∧ Kills (.trelFull w) s c 9 2 []) ∧
      (a.bound = true → queues (.trelEmpty w) s id (entry (.trel a.buf.toNat false) [] []) ∧
        queues (.trelFull w) s id (entry (.trel a.buf.toNat true)
          ((c.ops.filter fun o => o.ctr = .ws && !o.done).map Op.ticket) [])))

/-- R173, R181 to R183 and R187: SCALE sets or empties a path's scale tile; TLD binds and tags its handle and queues the copy that
fills its buffer, TLD.bind the first alone, and TST queues the copy out; BATON's words choose the holder from the next cycle
on; LEAVE.req asks the governor, and LEAVE.ret gives CREDIT back. -/
def TilesBatonAndLeave : Prop :=
  ∀ (w : RegForm) (s : State) (c : Crew), Issues s c w.guard →
    let d := c.place.die
    let k := c.place.core
    let m := (s.core d k).matrix
    let me := c.place.berth
    let next : Crew := { c with pc := c.pc + 8 }
    let put (f : Matrix → Matrix) : State := s.onCore d k fun x => { x with matrix := f x.matrix }
    let t := c.tile w.a
    (t.bound = false → Kills (.scaleA w) s c 9 2 [] ∧ Kills (.scaleB w) s c 9 2 []) ∧
    (t.bound = true → t.tag = 0x60 → CrewResult (.scaleA w) s { next with sca := some t.buf } ∧
      CrewResult (.scaleB w) s { next with scb := some t.buf }) ∧
    CrewResult (.scaleNoa w) s { next with sca := none } ∧ CrewResult (.scaleNob w) s { next with scb := none } ∧
    (let b := (c.sreg w.b).toNat
     let ch := w.c.toNat - 0x70
     let buffer (n : Nat) : W64 := BitVec.ofNat 64 (0xC0 * 2 ^ 56 + d * 2 ^ 52 + k * 2 ^ 46 + n * 2 ^ 14)
     let room := c.count .wc < 255 ∧ (s.chan d k ch).jobs.length < 8 ∧ ch < 16
     let job (kind : CopyKind) (dst src : W64) (after : List OpRef) : State :=
       s.onChan d k ch fun x => { x with
         jobs := x.jobs ++ [{ kind := kind, dst := dst, src := src, len := 16384, off := 0, chunk := none, bad := false
                              op := some { uid := c.uid, ticket := c.nextTicket }, agent := c.agent, after := after }]
         halted := false }
     (b < 256 → s.holdsBuffer d k c.region b = true → ∀ tag : BitVec 8,
       (w.fn.getLsbD 5 = true → tag = 0x60) → (w.fn.getLsbD 5 = false → w.ety = 0 → tag = 0) →
       (∀ u, w.fn.getLsbD 5 = false → etyType w.ety (w.fn.toNat % 16) = some u →
         tag = u.tag ||| (if w.fn.getLsbD 4 then 0x80 else 0)) → w.ety ≠ 15 →
       let c1 : Crew := { c with tiles := c.tiles.setIfInBounds (w.d.toNat - 0xA0) { bound := true, buf := BitVec.ofNat 8 b, tag := tag } }
       CrewResult (.tldBind w) s { c1 with pc := c.pc + 8 } ∧
       (room → ∀ ps, s.spanPlaces c.accessor .read (c.sreg w.a) 4096 = .ok ps → ∃ after : List OpRef,
         (∀ r, r ∈ after ↔ ∃ e x, (e ∈ m.queue ∨ m.running.map MmaRun.entry = some e) ∧ e.cmd = .mma x ∧ r = e.op ∧
           (x.aBuf = b ∨ x.bBuf = b ∨ x.sca = some b ∨ x.scb = some b)) ∧
         RunsOn (.tld w) s (job (.tld b) (buffer b) (c.sreg w.a) after) { c1.queued .wc with pc := c.pc + 8 })) ∧
     (256 ≤ b ∨ s.holdsBuffer d k c.region b = false → Kills (.tldBind w) s c 9 4 [] ∧ (room → Kills (.tld w) s c 9 4 [])) ∧
     (room → (c.tile w.d).bound = true → ∀ ps, s.spanPlaces c.accessor .write (c.sreg w.a) 4096 = .ok ps →
       RunsOn (.tst w) s (job (.tst (c.tile w.d).buf.toNat (w.fn.getLsbD 0)) (c.sreg w.a) (buffer (c.tile w.d).buf.toNat) [])
         { c.queued .wc with pc := c.pc + 8 }) ∧
     (255 ≤ c.count .wc ∨ 8 ≤ (s.chan d k ch).jobs.length → exec (.tld w) s = .next s ∧ exec (.tst w) s = .next s)) ∧
    (m.baton = some me → CrewResult (.batonTake w) s next ∧
      RunsOn (.batonDrop w) s (put fun x => { x with batonNext := some none }) next ∧
      ((c.sreg w.a).toNat < 4 → let to_ := (c.sreg w.a).toNat
        RunsOn (.batonPass w) s (put fun x => { x with
          batonNext := some (if ((s.core d k).crew to_).isSome then some to_ else none) }) next) ∧
      (4 ≤ (c.sreg w.a).toNat → Kills (.batonPass w) s c 9 1 [])) ∧
    (m.baton ≠ some me → Kills (.batonDrop w) s c 9 1 [] ∧ Kills (.batonPass w) s c 9 1 []) ∧
    (∀ b, m.baton = some b → b ≠ me → exec (.batonTake w) s = .next s) ∧
    (m.baton = none → m.batonNext = none ∨ m.batonNext = some none →
      RunsOn (.batonTake w) s (put fun x => { x with batonNext := some (some me) }) next) ∧
    (∀ b, m.baton = none → m.batonNext = some (some b) → b ≠ me → exec (.batonTake w) s = .next s) ∧
    (c.count .wm < 255 → let n := (c.sreg w.a).toNat
      (n = 0 ∨ 2 ^ 24 < n → Kills (.leaveReq w) s c 9 6 []) ∧
      (1 ≤ n → n ≤ 2 ^ 24 → (∀ a, a ∈ (s.die d).gov.queue → a.since ≠ s.now) →
        let ask : LeaveAsk := { who := .crew k { uid := c.uid, ticket := c.nextTicket } w.d, amount := n, since := s.now }
        RunsOn (.leaveReq w) s (s.onDie d fun x => { x with gov := { x.gov with queue := x.gov.queue ++ [ask] } })
          { c.queued .wm with busy := if w.d = 0 then c.busy else w.d :: c.busy, pc := c.pc + 8 })) ∧
    RunsOn (.leaveRet w) s ((put fun x => { x with credit := 0 }).onDie d fun x =>
      { x with gov := { x.gov with returned := x.gov.returned + m.credit } }) (next.setS w.d (BitVec.ofNat 64 m.credit))

/-- R173 to R177, R179, R181 to R184 and R187: the words of the matrix engine, of tiles, baton and leave. The order of DRAIN's checks is log 26. -/
def Obligations.MatrixWords : Prop := MatrixCommands ∧ TilesBatonAndLeave

/-- R81, R175, R178 to R181, R183 to R186, R392 and R393: a command at the head of the queue has its turn when the engine is
free for it; a group of an MMA adds the exact sum of its products to each cell and rounds once; a chunk whose checksums differ
runs once more from its shadow; ACCZ and TREL act in their turn; the drain unit forms row tokens; the governor refills its
bucket and grants from its head. -/
def Obligations.MatrixEngineSteps : Prop :=
  ∀ (s : State) (d k : Nat), s.coreStopped d k = false →
    let m := (s.core d k).matrix
    let put (f : Matrix → Matrix) : State := s.onCore d k fun x => { x with matrix := f x.matrix }
    let pair (acc : Nat) (both : Bool) (n : Nat) : Prop := if both then n / 2 = acc / 2 else n = acc
    (∀ e rest x, m.queue = e :: rest → e.cmd = .mma x → m.running = none → m.drainActive = none → m.drainPending = none →
      ∃ accs : Vector Accum 4,
        (∀ n, n < 4 → (x.zero = true ∧ x.chunk = 0 ∧ pair x.acc (x.f64 || x.clears) n → accs[n]? = some { words := [], poison := false }) ∧
          (¬(x.zero = true ∧ x.chunk = 0 ∧ pair x.acc (x.f64 || x.clears) n) → accs[n]? = m.accs[n]?)) ∧
        exec (.mmaTurn d k) s = .next (put fun y => { y with
          accs := accs, queue := rest
          running := some { entry := e, group := 0, half := false, shadow := ((accs[x.acc]?).map Accum.words).getD []
                            shadowHi := ((accs[x.acc + 1]?).map Accum.words).getD [], rerun := false, poisoned := e.bad } })) ∧
    (∀ r x t, m.running = some r → r.entry.cmd = .mma x → x.f64 = false → x.acc < 4 → tagType x.aTag = some t →
      tagType x.bTag = some t → t.width = 8 → t.isInt = true → r.group < (min 256 (x.k - 256 * x.chunk) + 15) / 16 →
      (∀ b, b = x.aBuf ∨ b = x.bBuf ∨ x.sca = some b ∨ x.scb = some b → s.isFull d k b = true) → r.entry.loads = [] →
      s.memMarks = [] → s.NoLog →
      -- 512 idle cycles have ended the burst
      let burst := if 512 ≤ m.idle then 0 else m.burst
      (burst < 2048 ∨ 0 < m.credit →
        let addr (buf row : Nat) : Nat := (bufferAddr d k buf).toNat + row
        let ks := (List.range 16).filterMap fun i =>
          let kk := 256 * x.chunk + 16 * r.group + i
          if kk < x.k then some kk else none
        let value (buf row kk : Nat) : XReal := .ofInt (intOf t.isSigned 8 (s.cell (addr buf row + kk)).toNat)
        let scale (b : Option Nat) (row kk : Nat) : XReal :=
          match b with
          | none => .ofInt 1
          | some b => Fmt.f16.decode (s.cellsValue (addr b (256 * row) + 2 * ((x.k0 + kk) / 64)) 2)
        let term (i j kk : Nat) : XReal :=
          (((value x.aBuf (512 * i) kk).mul (scale x.sca i kk)).mul (value x.bBuf (256 * j) kk)).mul (scale x.scb j kk)
        ∃ accs : Vector Accum 4, (∀ n, n ≠ x.acc → accs[n]? = m.accs[n]?) ∧
          (∀ i j, i < 32 → j < 64 →
            (((accs[x.acc]?).bind fun a => a.words[64 * i + j]?)) = some (BitVec.ofNat 32 (Fmt.f32.round .rne false
              (sumExact false (Fmt.f32.decode ((m.acc x.acc).word (64 * i + j)).toNat :: ks.map (term i j)))))) ∧
          (accs[x.acc]?).map Accum.poison = (m.accs[x.acc]?).map Accum.poison ∧
          exec (.mmaGroup d k) s = .next (put fun y => { y with
            accs := accs, running := some { r with group := r.group + 1, half := false }
            burst := min (burst + 1) (2 ^ 32 - 1), credit := if burst < 2048 then y.credit else y.credit - 1
            idle := 0, busy := true })) ∧
      (2048 ≤ burst → m.credit = 0 → m.asking = false → (∀ a, a ∈ (s.die d).gov.queue → a.since ≠ s.now) →
        exec (.mmaGroup d k) s = .next ((s.onDie d fun y => { y with gov := { y.gov with
          queue := y.gov.queue ++ [{ who := .engine k, amount := 16384, since := s.now }] } }).onCore d k fun y =>
            { y with matrix := { y.matrix with asking := true } }))) ∧
    (∀ r x, m.running = some r → r.entry.cmd = .mma x → x.f64 = true → r.half = false → r.group < x.groups →
      (∀ b, b = x.aBuf ∨ b = x.bBuf ∨ x.sca = some b ∨ x.scb = some b → s.isFull d k b = true) → r.entry.loads = [] →
      m.idle < 512 → m.burst < 2048 →
      exec (.mmaGroup d k) s = .next (put fun y => { y with
        running := some { r with half := true }, burst := y.burst + 1, idle := 0, busy := true })) ∧
    (∀ r x, m.running = some r → r.entry.cmd = .mma x → x.groups ≤ r.group →
      (r.rerun = false → x.f64 = false → ∃ accs : Vector Accum 4, (∀ n, n ≠ x.acc → accs[n]? = m.accs[n]?) ∧
        (x.acc < 4 → (accs[x.acc]?).map Accum.words = some r.shadow) ∧
        exec (.chunkCheck d k true) s = .next (s.onCore d k fun y => { y with
          rerun := y.rerun + 1, matrix := { y.matrix with accs := accs, running := some { r with group := 0, half := false, rerun := true } } })) ∧
      (r.poisoned = false → 256 * (x.chunk + 1) < x.k →
        exec (.chunkCheck d k false) s = .next (put fun y => { y with
          running := some { entry := { r.entry with cmd := .mma { x with chunk := x.chunk + 1 }, bad := false, begun := true }
                            group := 0, half := false, shadow := (y.acc x.acc).words, shadowHi := (y.acc (x.acc + 1)).words
                            rerun := false, poisoned := false } })) ∧
      (r.poisoned = false → x.k ≤ 256 * (x.chunk + 1) →
        exec (.chunkCheck d k false) s = .next ((put fun y => { y with running := none }).finishOp r.entry.op false))) ∧
    exec (.burstIdleReset d k) s = .next (if 512 ≤ m.idle then put fun y => { y with burst := 0 } else s) ∧
    (∀ e rest acc f64 clears, m.queue = e :: rest → e.cmd = .accz acc f64 clears → m.running = none → m.drainActive = none →
      m.drainPending = none → ∃ accs : Vector Accum 4,
        (∀ n, n < 4 → (pair acc (f64 || clears) n → accs[n]? = some { words := [], poison := false }) ∧
          (¬pair acc (f64 || clears) n → accs[n]? = m.accs[n]?)) ∧
        exec (.acczTurn d k) s = .next ((put fun y => { y with accs := accs, queue := rest }).finishOp e.op e.bad)) ∧
    (∀ e rest buf full, m.queue = e :: rest → e.cmd = .trel buf full → m.running = none → e.stores = [] →
      exec (.trelTurn d k) s = .next ((s.onCore d k fun y => { y with
        full := if full then y.full ||| (1#256 <<< buf) else y.full &&& ~~~(1#256 <<< buf)
        matrix := { y.matrix with queue := rest } }).finishOp e.op e.bad)) ∧
    (∀ e rest x, m.queue = e :: rest → e.cmd = .drain x → m.drainPending = none →
      exec (.drainTurn d k) s = .next (put fun y =>
        if m.drainActive.isSome then { y with queue := rest, drainPending := some e }
        else { y with queue := rest, drainActive := some e })) ∧
    (∀ e x t, m.drainActive = some e → e.cmd = .drain x → m.running = none → (∀ q, q ∈ m.queue → q.begun = false) →
      m.drainRows.length < 8 → x.z = false →
      x.f64 = false → etyType x.ety x.fmtIndex = some t → t.is64 = false → 1 ≤ x.width → x.width ≤ 1024 → (m.acc x.acc).poison = false →
      let p := t.perLane
      let rows := (2048 + p * x.width - 1) / (p * x.width)
      ∃ r : Row, r.width = x.width ∧ r.tag = t.tag ∧ r.claimed = none ∧ r.marks = 0 ∧
        (∀ l, l < x.width → (r.void.getLsbD l = true ↔ 2048 ≤ (x.row * x.width + l) * p)) ∧
        (∀ l i, l < x.width → i < p → (x.row * x.width + l) * p < 2048 →
          elemOf t.width (r.words[l]?.getD 0).toNat i =
            converted (Vector.replicate 16 x.fmt) (.ieee 2) t x.rnd (if x.sat then 1 else 0)
              ((m.acc x.acc).word ((x.row * x.width + l) * p + i)).toNat % 2 ^ t.width) ∧
        exec (.drainRowToken d k) s = .next
          (if x.row + 1 < rows then put fun y => { y with
             drainRows := y.drainRows ++ [r], drainActive := some { e with cmd := .drain { x with row := x.row + 1 } } }
           else (put fun y => { y with
             drainRows := y.drainRows ++ [r], drainActive := y.drainPending, drainPending := none }).finishOp e.op e.bad)) ∧
    let g := (s.die d).gov
    let rate := if g.tthrot.toNat ≤ g.temp.toNat then g.rate.toNat else 2 * g.rate.toNat
    let bucket := min (512 * g.depth.toNat) (g.bucket + rate + 512 * g.returned)
    ((g.queue = [] ∨ ∃ a rest, g.queue = a :: rest ∧ bucket < 512 * a.amount) → (∀ p, p ∈ (s.die d).cores → p.2.matrix.asking = false) →
      (∀ a, a ∈ g.queue → a.who = .carousel) →
      exec (.governorCycle d) s = .next (s.onDie d fun x => { x with gov := { g with bucket := bucket, returned := 0 } })) ∧
    (∀ core amount since, g.queue = [{ who := .engine core, amount := amount, since := since }] → 512 * amount ≤ bucket →
      d < 4 → ∃ t, exec (.governorCycle d) s = .next t ∧ (t.die d).gov = { g with bucket := bucket - 512 * amount, returned := 0, queue := [] } ∧
        (t.core d core).matrix = { (s.core d core).matrix with credit := (s.core d core).matrix.credit + amount, asking := false })

/-! ## Barges (R194 to R205, R226 to R232, R253) -/

/-- A reference names the held barge of row i, in record r: by its row, or by its record, whose lowest row it is (R195, R196). -/
def HoldsBarge (c : Crew) (ref : W64) (i r : Nat) : Prop :=
  c.held[i]? = some (some r) ∧
    ((i < 32 ∧ ref = BitVec.ofNat 64 (2 ^ 63 + i)) ∨
      (r < 65536 ∧ c.place.die < 4 ∧ ref = BitVec.ofNat 64 (2 ^ 62 + c.place.die * 2 ^ 16 + r) ∧
        ∀ j, j < i → c.held[j]? ≠ some (some r)))

/-- The fourteen fields of a record in the order of their numbers (R201). -/
def recordFields (b : Barge) : List W64 :=
  [b.req.setWidth 64, b.seq.setWidth 64, b.pos.setWidth 64, b.kind.setWidth 64, b.depth.setWidth 64, b.parent,
    b.sgroup.setWidth 64, b.adapt.setWidth 64, b.gen.setWidth 64, b.route.setWidth 64, b.payload, b.hdr, b.flags.setWidth 64,
    b.origin]

/-- The value of a write to field f of a record is admitted, and the record becomes b' (R203). -/
def FieldWrite (b : Barge) (f : Nat) (v : W64) (b' : Barge) : Prop :=
  (f = 2 ∧ v.toNat < 2 ^ 32 ∧ b' = { b with pos := v.setWidth 32 }) ∨
    (f = 3 ∧ v = 1 ∧ b.kind = 2 ∧ b' = { b with kind := 1 }) ∨
    (f = 6 ∧ v.toNat < 2 ^ 16 ∧ b' = { b with sgroup := v.setWidth 16 }) ∨
    (f = 7 ∧ v.toNat < 2 ^ 16 ∧ b' = { b with adapt := v.setWidth 16 }) ∨
    (f = 9 ∧ v.toNat < 2 ^ 8 ∧ b' = { b with route := v.setWidth 8 }) ∨
    (f = 10 ∧ v.toNat % 128 = 0 ∧ v.toNat / 2 ^ 56 ∈ [0, 0xB0, 0xB1, 0xB2, 0xB3, 0xC0] ∧ b' = { b with payload := v }) ∨
    (f = 11 ∧ b' = { b with hdr := v })

/-- R195, R196 and R201 to R205: BGET and BGETI read a field of a held barge, or BGET of any record of the package; BSET and BSETI
write one within its limits. RETIRE frees a held barge's record; CANCEL sets its cancelled flag and leaves the held set, and the record
is freed when the CANCEL completes; CANCEL.kv first clears bits of a word of memory, and releases at .pkg. LOCKQ reads a lock's
occupancy. Accesses are performed at issue (log 9, DESIGN CHOICE). -/
def BargeWords : Prop :=
  ∀ (s : State) (c : Crew) (i r : Nat) (b : Barge), s.barge c.place.die r = some b →
    let d := c.place.die
    let freed (t : State) : State :=
      let u := t.onDie d fun x => { x with barges := assocDel x.barges r }
      match b.landing with
      | some q => u.onDie q.1 fun x => { x with landing := x.landing.erase q.2 }
      | none => u
    let field (f : Nat) : W64 := ((recordFields b)[f]?).getD 0
    (∀ w : RegForm, Issues s c w.guard → w.fn.toNat ≤ 13 → b.marked = false → HoldsBarge c (c.sreg w.a) i r →
      ScalarResult (.bget w) s c w.d (field w.fn.toNat)) ∧
    (∀ (w : RegForm) (e n : Nat), Issues s c w.guard → w.fn.toNat ≤ 13 → e < 4 → n < 65536 →
      c.sreg w.a = BitVec.ofNat 64 (2 ^ 62 + e * 2 ^ 16 + n) →
      (∀ x, s.barge e n = some x → x.marked = false → ScalarResult (.bget w) s c w.d (((recordFields x)[w.fn.toNat]?).getD 0)) ∧
      (s.barge e n = none → ScalarResult (.bget w) s c w.d 0)) ∧
    (∀ w : RegForm, Issues s c w.guard → c.sreg w.a = 0 →
      Kills (.bget w) s c 11 1 [0] ∧ Kills (.bset w) s c 11 1 [0] ∧
      (c.count .wg < 255 → Kills (.cancel w) s c 11 1 [0] ∧ Kills (.retire w) s c 11 1 [0])) ∧
    (∀ (w : RegForm) (n : Nat), Issues s c w.guard → n < 32 → c.sreg w.a = BitVec.ofNat 64 (2 ^ 63 + n) →
      c.held[n]? = some none ∨ c.held[n]? = none →
      Kills (.bget w) s c 11 2 [c.sreg w.a] ∧ Kills (.bset w) s c 11 2 [c.sreg w.a]) ∧
    (∀ w : ImmForm, Issues s c w.guard → c.held[w.imm.toNat % 32]? = some (some r) → w.imm.toNat / 32 % 16 ≤ 13 →
      (b.marked = false → ScalarResult (.bgeti w) s c w.d (field (w.imm.toNat / 32 % 16))) ∧
      ∀ b', FieldWrite b (w.imm.toNat / 32 % 16) (c.sreg w.a) b' →
        RunsOn (.bseti w) s (s.onDie d fun x => { x with barges := assocSet x.barges r b' }) { c with pc := c.pc + 8 }) ∧
    (∀ w : RegForm, Issues s c w.guard → HoldsBarge c (c.sreg w.a) i r →
      let ended : Crew := { c.counted .wg false with held := c.held.set i none, pc := c.pc + 8 }
      (∀ b', FieldWrite b w.fn.toNat (c.sreg w.b) b' →
        RunsOn (.bset w) s (s.onDie d fun x => { x with barges := assocSet x.barges r b' }) { c with pc := c.pc + 8 }) ∧
      (w.fn.toNat ∈ [2, 3, 6, 7, 9, 10] → (¬∃ b', FieldWrite b w.fn.toNat (c.sreg w.b) b') →
        Kills (.bset w) s c 11 6 [c.sreg w.a]) ∧
      let cancelled : Barge := { b with flags := b.flags ||| 2 }
      let notice : Cancelled := { op := { uid := c.uid, ticket := c.nextTicket }, die := d, record := r }
      (c.count .wg < 255 →
        RunsOn (.cancel w) s ((s.onDie d fun x => { x with barges := assocSet x.barges r cancelled }).onFlight fun f =>
          { f with cancels := f.cancels ++ [notice] }) ended ∧
        RunsOn (.retire w) s (freed s) ended) ∧
      (∀ p, s.NoLog → s.InTheClear → Memory.wf s.mem = true → c.weir = none → c.count .wg < 255 →
        (∀ l, l ∈ (s.die d).dirty → OffLines p.home 8 (128 * l.line)) →
        s.check c.accessor .atomic (c.sreg w.b) 8 8 = .ok p →
        let base := s.releaseAs d c.uid 4
        let bad := base.homeMarked p 8
        (s.clockHeld d = true → exec (.cancelKv w) s = .next s) ∧
        (s.clockHeld d = false →
          ∃ t c', exec (.cancelKv w) s = .next t ∧ t.crewAt s.cur = some c' ∧ (∀ who, who ≠ s.cur → t.crewAt who = s.crewAt who) ∧
            CellsHold base t p.home 8 (base.cellsValue p.home 8 &&& (~~~(c.sreg w.c)).toNat) ∧
            t.barge d r = some cancelled ∧ (∀ n, n ≠ r → t.barge d n = s.barge d n) ∧
            t.flight = { s.flight with cancels := s.flight.cancels ++ [notice] } ∧
            c' = { c.counted .wg (bad || c.wbLost) with
                   held := c.held.set i none, pc := c.pc + 8, fp := c'.fp, folds := c'.folds, wbLost := false
                   poison := if bad then some (markDetail (c.sreg w.b), c.sreg w.b, c.poff) else c.poison })) ∧
      (∀ (ended : Crew) (o : Op) (more : List Op), s.findCrew ended.uid = some ended → ended.ops = o :: more → o.done = true →
        (∀ p, p ∈ more → p.ticket ≠ o.ticket) → s.flight.cancels = [{ op := { uid := ended.uid, ticket := o.ticket }, die := d, record := r }] →
        exec (.operationComplete ended.uid o.ticket) s = .next ((freed (s.putCrew { ended with
            ops := more, werr := if o.err then ended.werr ||| BitVec.ofNat 6 (2 ^ o.ctr.bit) else ended.werr })).onFlight fun f =>
          { f with cancels := [] }))) ∧
    (∀ (w : RegForm) (e g l : Nat), Issues s c w.guard → e < 4 → g < 256 → l < 16 →
      c.sreg w.a = BitVec.ofNat 64 (e * 2 ^ 12 + g * 2 ^ 4 + l) →
      (∀ x, (s.die e).lock g l = some x →
        ScalarResult (.lockq w) s c w.d (BitVec.ofNat 64 (x.canal % 2 ^ 32 * 2 ^ 16 + x.slots.length))) ∧
      ((s.die e).lock g l = none → (∀ p, p ∈ (s.die e).lockDir → ¬(p.1 = g ∧ p.2.1 = l)) → ScalarResult (.lockq w) s c w.d 0)) ∧
    (∀ w : RegForm, Issues s c w.guard → 2 ^ 32 ≤ (c.sreg w.a).toNat → Kills (.lockq w) s c 11 1 [c.sreg w.a])

/-- R192 and R198 to R200: BOARD and BOARDI send a held barge to a lock, BOARD.new a child of one or a root with the lowest free
record and the die's next SEQ. The barge joins the arrivals of its own die, or a packet of another die takes it; the crew's
stores are released, at .pkg towards another die. Without room BOARD waits, or with .nb answers 1; what a check refuses kills
the crew. -/
def BoardingWords : Prop :=
  ∀ (w : RegForm) (x : ImmForm) (s : State) (c : Crew) (e g l : Nat), e < 4 → g < 256 → l < 16 → c.count .wg < 255 →
    ((s.die e).declaredLock g l).isSome = true →
    let d := c.place.die
    let v : W64 := BitVec.ofNat 64 (e * 2 ^ 12 + g * 2 ^ 4 + l)
    let free := ∃ k, (s.die e).lock g l = some k ∧ k.canal = 0 ∧ k.slots.length < 1024
    let full := ∃ k, (s.die e).lock g l = some k ∧ k.discarding = none ∧ k.canalSize / 64 ≤ k.canal ∧ k.canal ≠ 0
    let arrives (rec_ : Option Nat) (b : Barge) (by_ : W64) : Arrival :=
      { die := d, region := g, lock := l, record := rec_, barge := b, op := some { uid := c.uid, ticket := c.nextTicket }
        fromRegion := some c.region, sender := .core d c.place.core, cid := c.cid, credit := none, answer := none
        redirected := false, by_ := by_, waiting := false }
    let released (y : Die) : Die :=
      { y with dirty := y.dirty.map fun k => { k with released := k.released || k.uids.contains c.uid } }
    (∀ (i : Instr) (dst : BitVec 8) (ref : W64) (nb : Bool) (row r : Nat) (b : Barge),
      (i = .board w ∧ Issues s c w.guard ∧ c.sreg w.b = v ∧ dst = w.d ∧ ref = c.sreg w.a ∧ nb = w.fn.getLsbD 1) ∨
        (i = .boardi x ∧ Issues s c x.guard ∧ x.imm.toNat % 2 ^ 16 = e * 2 ^ 12 + g * 2 ^ 4 + l ∧ dst = x.d ∧
          ref = c.sreg x.a ∧ nb = false) →
      HoldsBarge c ref row r → s.barge d r = some b → b.adapt = 0 →
      (e = d → free → ∃ by_, RunsOn i s
        ((s.onDie d released).onFlight fun f => { f with arrivals := f.arrivals ++ [arrives (some r) b by_] })
        ({ c.queued .wg with held := c.held.set row none, pc := c.pc + 8 }.setS dst 0)) ∧
      (e ≠ d → free → ((s.die d).sent.filter fun y => y.pkg = none && y.die = e).length < 32 →
        (nb = false → s.clockHeld d = true → exec i s = .next s) ∧
        (nb = true ∨ s.clockHeld d = false →
        ∃ t p, exec i s = .next t ∧ t.flight = { s.flight with packets := s.flight.packets ++ [p] } ∧
          t.mem = (s.releaseAs d c.uid 4).mem ∧ (t.die d).dirty = (s.releaseAs d c.uid 4 |>.die d).dirty ∧
          p.dst = e ∧ p.target = v.setWidth 32 ∧ p.srcDie = d ∧ p.barge = b ∧ p.op = some { uid := c.uid, ticket := c.nextTicket } ∧
          t.barge d r = none ∧ (∀ n, n ≠ r → t.barge d n = s.barge d n) ∧
          (∀ who, who ≠ s.cur → t.crewAt who = s.crewAt who) ∧
          t.crewAt s.cur = some ({ c with
            ops := c.ops ++ [({ ctr := .wg, ticket := c.nextTicket, done := false, err := c.wbLost } : Op)]
            nextTicket := c.nextTicket + 1, held := c.held.set row none, wbLost := false, pc := c.pc + 8 }.setS dst 0))) ∧
      (full → (nb = false → exec i s = .next s) ∧ (nb = true → ScalarResult i s c dst 1))) ∧
    (Issues s c w.guard → c.sreg w.b = v → e = d → free → ∀ n, (s.die d).freeRecord = some n →
      let code := w.fn.toNat / 4 % 4
      let pay := c.sreg w.c
      pay.toNat % 128 = 0 → pay.toNat / 2 ^ 56 ∈ [0, 0xB0, 0xB1, 0xB2, 0xB3, 0xC0] →
      let makes (b : Barge) : Prop := ∃ by_, RunsOn (.boardNew w) s
        ((s.onDie d fun y => { released y with barges := assocSet y.barges n b, nextSeq := y.nextSeq + 1 }).onFlight fun f =>
          { f with arrivals := f.arrivals ++ [arrives (some n) b by_] })
        ({ c.queued .wg with pc := c.pc + 8 }.setS w.d 0)
      (∀ row r b, HoldsBarge c (c.sreg w.a) row r → s.barge d r = some b → b.adapt = 0 → b.gen ≠ 15 →
        let kind : BitVec 2 := if code = 0 then b.kind else BitVec.ofNat 2 code
        let depth := if kind = 2 then (if b.kind = 2 then b.depth.toNat + 1 else 1) else 0
        depth ≤ 15 → makes { b with seq := (s.die d).nextSeq, kind := kind, depth := BitVec.ofNat 4 depth, gen := b.gen + 1
                                    parent := BitVec.ofNat 64 (2 ^ 62 + d * 2 ^ 16 + r), flags := 0, origin := 0, payload := pay
                                    marked := false, landing := none, poisonSeq := 0 }) ∧
      (c.sreg w.a = 0 →
        let kind : BitVec 2 := if code = 0 then 3 else BitVec.ofNat 2 code
        makes { req := 0, pos := 0, seq := (s.die d).nextSeq, sgroup := 0, parent := 0, payload := pay, hdr := 0, origin := 0
                adapt := 0, route := 0, flags := 0, kind := kind, gen := 0, depth := if kind = 2 then 1 else 0, marked := false
                landing := none, poisonSeq := 0 })) ∧
    (Issues s c w.guard → c.sreg w.b = v →
      (∀ row r b, HoldsBarge c (c.sreg w.a) row r → s.barge d r = some b → b.gen = 15 → Kills (.boardNew w) s c 11 3 [c.sreg w.a]) ∧
      (c.sreg w.a = 0 → (c.sreg w.c).toNat % 128 ≠ 0 → Kills (.boardNew w) s c 11 6 [0]) ∧
      (c.sreg w.a = 0 → Kills (.board w) s c 11 1 [0])) ∧
    (Issues s c w.guard → 2 ^ 32 ≤ (c.sreg w.b).toNat →
      Kills (.board w) s c 11 1 [c.sreg w.b] ∧ Kills (.boardNew w) s c 11 1 [c.sreg w.b]) ∧
    (∀ n, Issues s c w.guard → n < 4 → c.sreg w.b = BitVec.ofNat 64 (n * 2 ^ 12) → (s.die n).declaredLock 0 0 = none →
      Kills (.board w) s c 11 5 [c.sreg w.b] ∧ Kills (.boardNew w) s c 11 5 [c.sreg w.b])

/-- R192, R195, R196 and R198 to R205: the words on barges, and their boarding. -/
def Obligations.BargeAndBoardingWords : Prop := BargeWords ∧ BoardingWords

/-! ## Graph, barriers, markers (R206 to R220) -/

/-- R206 to R212: FIRE and FIREI release at their scope, post tokens to a node and await word 0; NSTATE reads word 0 and takes in the
clock of its writer; RANGE takes the next indexes of a source and re-arms a stream; KILLPT, JADD and WARRIVE bind an unbound
crew, at issue (log 32, DEDUCED), and a bound one whose notice has come ends at its kill point. A weir is known by where its
record lies (log 14, DEDUCED). The order of FIRE's checks is log 33. -/
def Obligations.GraphAndWeirWords : Prop :=
  ∀ (w : RegForm) (s : State) (c : Crew), s.NoLog → c.count .wg < 255 →
    let d := c.place.die
    let k := c.place.core
    let next : Crew := { c with pc := c.pc + 8 }
    let op : OpRef := { uid := c.uid, ticket := c.nextTicket }
    let awaits (y : Crew) (dst : BitVec 8) : Crew := { y with busy := if dst = 0 then y.busy else dst :: y.busy }
    -- the state once an address has been translated (R314)
    let noted (a : W64) : State := s.noteAddr c a
    let free (scope : Nat) : Prop :=
      (scope = 5 → ∀ r, r ∈ s.io.remote → r.op.uid ≠ c.uid) ∧ (4 ≤ scope → s.clockHeld d = false)
    (∀ (i : Instr) (dst : BitVec 8) (a n : W64) (scope : Nat) (p : Place),
      (i = .fire w ∧ Issues s c w.guard ∧ dst = w.d ∧ a = c.sreg w.a ∧ n = c.sreg w.b ∧ scope = w.fn.toNat) ∨
        (∃ x : ImmForm, i = .firei x ∧ Issues s c x.guard ∧ dst = 0 ∧
          a = BitVec.ofInt 64 ((c.sreg x.a).toInt + 128 * x.imm.toInt) ∧ n = 1 ∧ scope = 4) →
      s.remoteWindow a = none →
      (n = 0 ∨ 65535 < n.toNat → Kills i s c 12 1 [a, 0]) ∧
      (n ≠ 0 → n.toNat ≤ 65535 → a.toNat < 2 ^ 56 → s.check c.accessor .atomic a 8 128 = .ok p → ¬free scope →
        exec i s = .next s) ∧
      (n ≠ 0 → n.toNat ≤ 65535 → a.toNat < 2 ^ 56 → s.check c.accessor .atomic a 8 128 = .ok p → free scope → ∃ pred, RunsOn i s
        (((noted a).releaseAs d c.uid scope).onFlight fun f => { f with posts := f.posts ++
          [{ agent := some c.agent, writer := d, node := a, die := d, count := n.toNat, op := some op, dest := some dst
             pred := pred, answer := none }] })
        (awaits { c with
          ops := c.ops ++ [{ ctr := .wg, ticket := c.nextTicket, done := false, err := decide (4 ≤ scope) && c.wbLost }]
          nextTicket := c.nextTicket + 1, wbLost := decide (scope < 4) && c.wbLost, pc := c.pc + 8 } dst)) ∧
      (∀ e, n ≠ 0 → n.toNat ≤ 65535 → a.toNat < 2 ^ 56 → s.check c.accessor .atomic a 8 128 = .error e → Kills i s c 6 e [a])) ∧
    (Issues s c w.guard → let a := c.sreg w.a
      s.remoteWindow a = none → a.toNat < 2 ^ 56 → (∀ r, r ∈ s.io.remote → ¬(r.op.uid = c.uid ∧ r.addr = a)) →
      ((∀ p, p ∈ s.flight.posts → p.node ≠ a ∨ p.op.map OpRef.uid ≠ some c.uid) → (∀ m, m ∈ s.flight.weirs ++ s.flight.arrived → m.record ≠ a) →
        (∀ m, m ∈ (s.core d k).weirCopies → m.record ≠ a) →
        (∀ p, s.check c.accessor .load a 8 128 = .ok p →
          RunsOn (.nstate w) s ((noted a).seeSys d (s.nodeHome a d) a 8)
            ({ c.counted .wg false with pc := c.pc + 8 }.setS w.d (s.sys64 (s.nodeHome a d) a))) ∧
        (∀ e, s.check c.accessor .load a 8 128 = .error e → Kills (.nstate w) s c 6 e [a])) ∧
      ((∃ p, p ∈ s.flight.posts ∧ p.node = a ∧ p.op.map OpRef.uid = some c.uid) → exec (.nstate w) s = .next s)) ∧
    (Issues s c w.guard → let v := (c.sreg w.b).toNat
      (256 ≤ v ∨ (s.die d).part = none → Kills (.rangeR w) s c 12 5 [c.sreg w.b, 0]) ∧
      ∀ p src, v < 256 → (s.die d).part = some p → p.sources[v]? = some src →
        let n := min src.grain (src.limit - src.next)
        let took := s.onDie d fun x => { x with part := some { p with sources := p.sources.set v { src with next := src.next + n } } }
        let c' : Crew := { c.counted .wg false with pc := c.pc + 8 }.setS w.d
          (if n = 0 then 0 else BitVec.ofNat 64 (src.next * 2 ^ 24 + n))
        (w.a = 0 ∨ (∃ e, (s.chan d k (w.a.toNat - 0x70)).endpoint = .stream e ∧ (s.stream d k e).state ≠ .running ∧ n = 0) →
          RunsOn (.rangeR w) s took c') ∧
        (∀ e ty, let ch := w.a.toNat - 0x70
          let x := s.stream d k e
          w.a ≠ 0 → ch < 16 → e < 8 → (s.chan d k ch).endpoint = .stream e → x.state ≠ .running → x.chan = some ch → n ≠ 0 →
          x.ctl.toNat < 4096 → x.ctl.toNat % 8 = e → tagReserved false (BitVec.ofNat 8 (x.ctl.toNat / 16)) = false →
          etyType x.shape.ty 0 = some ty → ty.width ≠ 4 →
          RunsOn (.rangeR w) s (took.onStream d k e fun y =>
            { state := .running, base := src.base + BitVec.ofNat 64 src.next * src.bstep, shape := y.shape, ctl := y.ctl
              chan := some ch, width := c.lanes, next := 0, rows := [], agent := c.agent, tails := y.tails }) c')) ∧
    (∀ p, Issues s c w.guard → let record := c.sreg w.a
      let slot := c.sreg w.b
      record.toNat < 2 ^ 56 → s.check c.accessor .atomic record 8 128 = .ok p →
      let home := (s.recordHome d record).getD 0
      let msg (kind : WeirKind) (o : Option OpRef) (dst : BitVec 8) : WeirMsg :=
        { kind := kind, agent := c.agent, record := record, home := home, slot := slot.toNat, op := o, dest := dst }
      let binds (m : WeirMsg) : State := (noted record).onFlight fun f => { f with weirs := f.weirs ++ [m] }
      let bound : WeirBinding := { record := record, home := home, slot := slot.toNat, notice := false }
      let queued : Crew := { awaits (c.queued .wg) w.d with weir := some bound, pc := c.pc + 8 }
      (c.weir = none →
        RunsOn (.killpt w) s (binds (msg .killpt none 0)) { next with weir := some bound } ∧
        RunsOn (.warrive w) s (binds (msg .warrive (some op) w.d)) queued ∧
        ((∀ n, 1 ≤ n → n ≤ 4096 → ∃ ps, s.spanPlaces c.accessor .read (c.sreg w.c) n = .ok ps) →
          RunsOn (.jadd w) s (binds (msg (.jadd (c.sreg w.c)) (some op) w.d)) queued)) ∧
      (c.weir = some bound → RunsOn (.killpt w) s (noted record) next ∧
        ((∀ m, m ∈ s.flight.weirs → m.agent.uid ≠ some c.uid) →
          RunsOn (.warrive w) s ((noted record).onFlight fun f => { f with arrived := f.arrived ++ [msg .warrive (some op) w.d] }) queued)) ∧
      (c.weir = some { bound with notice := true } → ∃ t, exec (.killpt w) s = .next t ∧ t.crewAt s.cur = none) ∧
      (∀ b, c.weir = some b → ¬(b.home = home ∧ b.slot = slot.toNat) →
        Kills (.killpt w) s c 12 4 [record, slot] ∧ Kills (.warrive w) s c 12 4 [record, slot] ∧
          Kills (.jadd w) s c 12 4 [record, slot]))

/-- R213 to R216, R219 and R220: BAR counts an arrival at a barrier of the core or the region, and the last one of a generation
releases every crew that waits for it; XBAR and PHASE release, send theirs off and wait; RMARK, DMARK and BRK go on at once, RMARK
logging an entry while the die records and DMARK a trace record while the region is traced. BRK asks the collector for a stop,
which refuses where the region's save area does not fit (R356). When a stop's request record is
written is log 65, and that the ring lets HEAD move is log 22 (both DEDUCED). -/
def Obligations.BarriersAndMarkers : Prop :=
  ∀ (w : RegForm) (s : State) (c : Crew), Issues s c w.guard →
    let d := c.place.die
    let k := c.place.core
    let next : Crew := { c with pc := c.pc + 8 }
    let id := c.sreg w.a
    let n := (c.sreg w.b).toNat
    let limit := if w.fn = 2 then 256 else 4
    let released (y : Die) : Die :=
      { y with dirty := y.dirty.map fun q => { q with released := q.released || q.uids.contains c.uid } }
    (15 < id.toNat ∨ n = 0 ∨ limit < n → Kills (.bar w) s c 13 1 [id]) ∧
    (∀ b : Barrier, id.toNat ≤ 15 → n ≠ 0 → n ≤ limit →
      (w.fn ≠ 2 → (s.core d k).barriers[id.toNat]? = some b) →
      (w.fn = 2 → ∃ r, (s.die d).region c.region = some r ∧ r.barriers[id.toNat]? = some b) →
      let put (b1 : Barrier) : State :=
        if w.fn = 2 then (s.onDie d released).onRegion d c.region fun r => { r with barriers := r.barriers.set id.toNat b1 }
        else (s.onDie d released).onCore d k fun x => { x with barriers := x.barriers.setIfInBounds id.toNat b1 }
      let g : W64 := b.gen.setWidth 64
      (b.expected ≠ 0 → b.expected ≠ n → Kills (.bar w) s c 13 2 [id]) ∧
      (b.expected = 0 ∨ b.expected = n → b.arrived + 1 ≠ n →
        RunsOn (.bar w) s (put { b with expected := n, arrived := b.arrived + 1 })
          { c with wait := some { wait := if w.fn = 2 then .region id.toNat b.gen else .core id.toNat b.gen, dest := w.d } }) ∧
      (b.expected = 0 ∨ b.expected = n → b.arrived + 1 = n → ∃ t, exec (.bar w) s = .next t ∧ t.mem = s.mem ∧
        t.crewAt s.cur = some (next.setS w.d g) ∧
        (w.fn ≠ 2 → (t.core d k).barriers[id.toNat]? = some { expected := 0, arrived := 0, gen := b.gen + 1 }) ∧
        (w.fn = 2 → ((t.die d).region c.region).bind (fun r => r.barriers[id.toNat]?) =
          some { expected := 0, arrived := 0, gen := b.gen + 1 }) ∧
        ∀ e m q, ({ die := e, core := m, berth := q } : CrewRef) ≠ s.cur →
          (t.core e m).crew q = ((s.core e m).crew q).map fun y =>
            match y.wait with
            | some p =>
              if y.place.die = d ∧ y.region = c.region ∧
                  (if w.fn = 2 then p.wait = .region id.toNat b.gen else p.wait = .core id.toNat b.gen ∧ y.place.core = k) then
                { y.setS p.dest g with wait := none, pc := y.pc + 8 }
              else y
            | none => y)) ∧
    (∀ pa key page, s.remoteWindow id = none →
      s.check c.accessor .atomic id 256 256 = .ok (.pa pa key page) →
      let free := (∀ r, r ∈ s.io.remote → r.op.uid ≠ c.uid) ∧ s.clockHeld d = false
      (free → RunsOn (.xbar w) s (((s.noteAddr c id).releaseAs d c.uid 5).onFlight fun f => { f with xbars := f.xbars ++
          [{ record := id, home := { pa := pa, key := key }, member := n, party := .crew c.uid }] })
        { c with wait := some { wait := .xbar id n none, dest := w.d } }) ∧
      (¬free → exec (.xbar w) s = .next s)) ∧
    (∀ e, s.remoteWindow id = none → id.toNat < 2 ^ 56 → s.check c.accessor .atomic id 256 256 = .error e →
      Kills (.xbar w) s c 6 e [id]) ∧
    (let count := n / 2 ^ 16
     (15 < id.toNat ∨ count = 0 ∨ 1024 < count ∨ 2 ≤ n % 2 ^ 16 → Kills (.phase w) s c 13 1 [id]) ∧
     (id.toNat ≤ 15 → 1 ≤ count → count ≤ 1024 → n % 2 ^ 16 < 2 →
       let base := s.releaseAs d c.uid 4
       (s.clockHeld d = false → RunsOn (.phase w) s (base.onFlight fun f => { f with phases := f.phases ++
           [{ uid := c.uid, image := base.imageOf d, place := c.place, id := id.toNat, leaving := n % 2 = 1, count := count }] })
         { c with wait := some { wait := .phase id.toNat none, dest := w.d } }) ∧
       (s.clockHeld d = true → exec (.phase w) s = .next s))) ∧
    ((s.recorderOf d).mode = 0 → CrewResult (.rmark w) s next) ∧
    (let r := (s.die d).recorder
     d < 4 → r.mode = 1 → (∀ q, q ∈ s.io.remote → q.op.uid ≠ c.uid) → r.ended = false → r.stall = false → r.logSize ≠ 0 →
       (r.logTail.toNat + 2) % r.logSize.toNat ≠ r.logHead.toNat → s.InTheClear → Memory.wf s.mem = true →
       ∃ t, exec (.rmark w) s = .next t ∧ t.crewAt s.cur = some next ∧ (∀ who, who ≠ s.cur → t.crewAt who = s.crewAt who) ∧
         CellsHold s t (r.logBase.toNat + 32 * r.logTail.toNat) 32
           (3 * 2 ^ 60 + d * 2 ^ 56 + (s.die d).evseq.toNat + c.cid.toNat * 2 ^ 112 + id.toNat * 2 ^ 128 + c.fp.toNat * 2 ^ 192) ∧
         (t.die d).evseq = (s.die d).evseq + 1 ∧
         (t.die d).recorder = { r with logTail := BitVec.ofNat 20 ((r.logTail.toNat + 1) % r.logSize.toNat) }) ∧
    ((s.die d).traces c.region = false → CrewResult (.dmark w) s next) ∧
    (let g := (s.die d).dbg
     (s.die d).traces c.region = true → w.fn.getLsbD 0 = false → s.InTheClear → Memory.wf s.mem = true → g.traceSize ≠ 0 →
       s.regionKey d c.region = 0 →
       ((g.traceTail.toNat + 1) % g.traceSize.toNat = g.traceHead.toNat → RunsOn (.dmark w) s
         (s.onDie d fun y => { y with dbg := { y.dbg with
           dropped := if y.dbg.dropped = 0xFFFF then 0xFFFF else y.dbg.dropped + 1 } }) next) ∧
       ((g.traceTail.toNat + 1) % g.traceSize.toNat ≠ g.traceHead.toNat →
         ∃ t, exec (.dmark w) s = .next t ∧ t.crewAt s.cur = some next ∧
           (t.die d).dbg.traceTail = BitVec.ofNat 16 ((g.traceTail.toNat + 1) % g.traceSize.toNat) ∧
           (let at_ := g.traceBase.toNat + 128 * g.traceTail.toNat
            t.cellsValue at_ 8 = 2 ^ 60 + d * 2 ^ 56 + (s.die d).evseq.toNat ∧ t.cellsValue (at_ + 16) 8 = id.toNat ∧
            t.cellsValue (at_ + 24) 8 = n % 2 ^ 16 ∧ ∀ j, ¬(at_ ≤ j ∧ j < at_ + 128) → t.cell j = s.cell j))) ∧
    ((s.die d).dbg.stopMap.getLsbD c.region = false → CrewResult (.brk w) s next) ∧
    (∀ r, (s.die d).region c.region = some r → (s.die d).dbg.stopMap.getLsbD c.region = true → s.confidential d r.cfg = false →
      (r.phase = .stopping → CrewResult (.brk w) s next) ∧
      (r.phase = .running → (s.die d).collector = none → (s.die d).collectQueue = [] → (s.die d).regs.saveStride.toNat < r.saveBytes →
        RunsOn (.brk w) s (s.onDie d fun y => { y with regs := { y.regs with preErr := true } }) next) ∧
      (r.phase = .running → (s.die d).collector = none → (s.die d).collectQueue = [] → r.saveBytes ≤ (s.die d).regs.saveStride.toNat →
        ∃ t r', exec (.brk w) s = .next t ∧ t.crewAt s.cur = some next ∧ (∀ who, who ≠ s.cur → t.crewAt who = s.crewAt who) ∧
          (t.die d).collector.map Collect.kind = some (.stop 1 c.naming) ∧ (t.die d).region c.region = some r' ∧ r'.phase = .stopping))

/-! ## Locks, packets and frames (R227 to R243, R253 to R256, R350, R388 to R391) -/

/-- n cells from `at_` on hold the bytes of v; otherwise only the stamps of writes have changed, what a stack holds behind its slice,
and the marks of words that the cells cover whole, which have gone (R303, R320, R351). -/
def WritesCells (s w : State) (at_ n v : Nat) : Prop :=
  CellsHold s w at_ n v ∧
    w = { s with mem := w.mem, memMarks := w.memMarks, stamps := w.stamps, stack := w.stack } ∧
    ∀ x, x ∈ w.memMarks ↔ x ∈ s.memMarks ∧ ¬(at_ ≤ 8 * x ∧ 8 * x + 8 ≤ at_ + n)

/-- A resident lock holds k; no other lock, and nothing else of the package, has changed. -/
def LockBecomes (s u : State) (d g l : Nat) (k : Lock) : Prop :=
  (u.die d).lock g l = some k ∧ u = { s with dies := u.dies } ∧ (∀ e, e ≠ d → u.die e = s.die e) ∧
    u.die d = { s.die d with regions := (u.die d).regions } ∧
    (∀ h j, (h, j) ≠ (g, l) → (u.die d).lock h j = (s.die d).lock h j) ∧
    ∀ h, ((u.die d).region h).map (fun r => { r with cfg := { r.cfg with locks := [] } }) =
      ((s.die d).region h).map (fun r => { r with cfg := { r.cfg with locks := [] } })

/-- R231 and R361: an arrival takes an on-chip slot at the young end, or directly behind its sample group, while the canal is
empty and a slot is free; else it takes the canal's entry at TAIL; with neither it waits in its place. A frozen lock and a
sender's earlier arrival hold it, and a lock that discards ends it or hands it on. R256: a credit goes back to a peer against a
landing row. R232: a refill moves the oldest canal entry into a new record, with the SEQ and the boarding node that the lock
keeps beside it. That a waiting arrival keeps later ones back is R231's order; that a landing row is promised with a credit of a
peer, and reset credits with none, is log 25; canal addresses that do not translate are log 39. -/
def Obligations.LocksTakeArrivals : Prop :=
  ∀ (s : State) (d g l : Nat), s.NoLog → d < 4 →
    let frozen := ∃ r, (s.die d).region g = some r ∧ r.phase = .preempting
    (∀ (n : Nat) (a : Arrival) (b : Barge), s.flight.arrivals[n]? = some a → a.die = d →
      b = ((a.record.bind fun i => s.barge d i).getD a.barge) →
      (g, l) = (if a.redirected then (a.region, a.lock) else (s.die d).redirect d a.region a.lock b a.fromRegion) →
      let behind := ∃ m e, m < n ∧ s.flight.arrivals[m]? = some e ∧ e.die = d ∧ s.bound e = (g, l) ∧
        (e.sender = a.sender ∨ e.waiting = true)
      let took (u : State) : State := u.onFlight fun f => { f with arrivals := f.arrivals.eraseIdx n }
      let freed (u : State) : State :=
        match a.record with
        | some i => u.onDie d fun x => { x with barges := assocDel x.barges i }
        | none => u
      let waits : State := s.onFlight fun f => { f with arrivals := f.arrivals.modify n fun e =>
        { e with region := g, lock := l, redirected := true, waiting := true } }
      -- what the lock keeps beside a canal entry
      let beside (entry : Nat) : State := s.onDie d fun x =>
        { x with canalNotes := (x.canalNotes.filter fun q => !(q.region = g && q.lock = l && q.entry = entry)) ++
          [{ region := g, lock := l, entry := entry, seq := b.poisonSeq, by_ := a.by_ }] }
      let off (p : Place) (n : Nat) : Prop := ∀ x, x ∈ (s.die d).dirty → OffLines p.home n (128 * x.line)
      (frozen ∨ behind → exec (.lockArrival n) s = .next s) ∧
      (∀ u : State, a.answer = none → (a.credit = none → u.arrived a = u.finishOp? a.op false) ∧
        (∀ k q, a.credit = some { pkg := none, die := k, pseq := q } → a.op = none →
          u.arrived a = u.onFlight fun f => { f with credits := f.credits ++ [{ sender := k, target := d, pseq := q }] }) ∧
        ∀ k q p, a.credit = some { pkg := some p, die := k, pseq := q } → a.op = none →
          let open_ (row : Nat) : Prop := row < 2048 ∧ row ∉ (u.die d).landing ∧ ∀ x, x ∈ (u.die d).promised → x.row ≠ row
          ((∀ row, ¬open_ row) → u.arrived a = u.onDie d fun x =>
            { x with owed := x.owed ++ [{ pkg := p, die := k, pseq := q, err := false }] }) ∧
          ∀ row, open_ row → (∀ j, j < row → ¬open_ j) → u.arrived a =
            (u.onDie d fun x => { x with promised := x.promised ++ [{ pkg := p, die := k, row := row }] }).sendFrame
              d 5 p k [q, 0]) ∧
      (∀ k : Lock, ¬frozen → ¬behind → (s.die d).lock g l = some k → k.discarding = none →
        (k.canal = 0 → k.slots.length < 1024 →
          (∀ i (s1 : State), (a.record = some i ∧ s1 = s) ∨ (a.record = none ∧ (s.die d).freeRecord = some i ∧
              s1 = s.onDie d fun x => { x with barges := assocSet x.barges i b }) →
            let sibling (z : LockSlot) : Prop := ∃ o, s1.barge d z.record = some o ∧ o.req = b.req ∧ o.sgroup = b.sgroup
            let takes (slots : List LockSlot) : Prop :=
              ∃ u, LockBecomes s1 u d g l { k with slots := slots } ∧ exec (.lockArrival n) s = .next ((took u).arrived a)
            (b.sgroup = 0 ∨ (∀ z, z ∈ k.slots → ¬sibling z) →
              takes (k.slots ++ [{ record := i, entry := s.now, by_ := a.by_ }])) ∧
            (∀ pre y post, b.sgroup ≠ 0 → k.slots = pre ++ y :: post → sibling y → (∀ z, z ∈ post → ¬sibling z) →
              takes (pre ++ y :: { record := i, entry := y.entry, by_ := a.by_ } :: post))) ∧
          (a.record = none → (s.die d).freeRecord = none → exec (.lockArrival n) s = .next waits)) ∧
        (k.canal ≠ 0 ∨ 1024 ≤ k.slots.length →
          (k.canalSize / 64 ≤ k.canal → exec (.lockArrival n) s = .next waits) ∧
          (∀ p, k.canal < k.canalSize / 64 → s.InTheClear → Memory.wf s.mem = true → b.marked = false →
            s.sysPlace (s.die d).regs.latchedRoot false (k.canalBase + BitVec.ofNat 64 (64 * k.tail)) = .ok p → off p 64 →
            ∃ w u, WritesCells (beside k.tail) w p.home 64 (natOfBytes b.bytes) ∧
              LockBecomes w u d g l { k with tail := (k.tail + 1) % (k.canalSize / 64), canal := k.canal + 1 } ∧
              exec (.lockArrival n) s = .next ((took (freed u)).arrived a)))) ∧
      (∀ r p, ¬frozen → ¬behind → (s.die d).lock g l = none → (s.die d).discarding = [] → (s.die d).recordOf g l = some r →
        let ht := s.sys64 d (r + 24)
        let size := (s.sys64 d (r + 16)).toNat % 2 ^ 40 / 64
        let count := (s.sys64 d (r + 32)).toNat / 2 ^ 16 % 2 ^ 32
        (size ≤ count → exec (.lockArrival n) s = .next waits) ∧
        (count < size → s.InTheClear → Memory.wf s.mem = true → b.marked = false →
          s.sysPlace (s.die d).regs.latchedRoot false
            (s.sys64 d (r + 8) + BitVec.ofNat 64 (64 * (ht.toNat % 2 ^ 32))) = .ok p → off p 64 →
          ∃ w, WritesCells (beside (ht.toNat % 2 ^ 32)) w p.home 64 (natOfBytes b.bytes) ∧
            exec (.lockArrival n) s = .next ((took (freed
              ((w.setSys64 d (r + 24) (BitVec.ofNat 64 (ht.toNat / 2 ^ 32 * 2 ^ 32 + (ht.toNat % 2 ^ 32 + 1) % size))).setSys64 d
                (r + 32) (BitVec.ofNat 64 ((count + 1) % 2 ^ 32 * 2 ^ 16 + (w.sys64 d (r + 32)).toNat % 2 ^ 16))))).arrived a))) ∧
      (∀ k i, ¬frozen → ¬behind → (s.die d).lock g l = some k → k.discarding = some 2 → a.record = some i →
        exec (.lockArrival n) s = .next ((took (s.freeBarge d i)).arrived a))) ∧
    (∀ k : Lock, (s.die d).lock g l = some k →
      let size := k.canalSize / 64
      let moved : Lock := { k with head := (k.head + 1) % size, canal := k.canal - 1 }
      (k.canal = 0 ∨ 1024 ≤ k.slots.length ∨ frozen ∨ (s.die d).freeRecord = none → exec (.lockRefill d g l) s = .next s) ∧
      (∀ i p, k.canal ≠ 0 → k.slots.length < 1024 → ¬frozen → (s.die d).freeRecord = some i → size ≠ 0 →
        let entry := k.canalBase + BitVec.ofNat 64 (64 * k.head)
        let mine (q : CanalNote) : Bool := q.region = g && q.lock = l && q.entry = k.head
        let note := (s.die d).canalNotes.find? mine
        s.sysPlace (s.die d).regs.latchedRoot false entry = .ok p → s.homeMarked p 64 = false →
        (k.discarding = none → ∃ b u, (∀ q, note = some q → b.poisonSeq = q.seq) ∧ (∀ j, j < 54 → j ≠ 52 → (b.bytes[j]?).map BitVec.toNat = some (s.homeRead (p.plus j) 1)) ∧
          b.kind.toNat = s.homeRead (p.plus 52) 1 % 4 ∧ b.marked = false ∧
          LockBecomes (({ s with free := s.free + 1 }.seeSys d d entry 64).onDie d fun x =>
              { x with barges := assocSet x.barges i b, canalNotes := x.canalNotes.filter fun q => !mine q }) u d g l
            { moved with slots := k.slots ++ [{ record := i, entry := s.now, by_ := (note.map CanalNote.by_).getD 0 }] } ∧
          exec (.lockRefill d g l) s = .next u) ∧
        (k.discarding = some 2 → ∃ u, exec (.lockRefill d g l) s = .next u ∧ u.barge d i = none ∧
          (u.die d).lock g l = some moved)))

/-- R234 and R235: a lock fires by fill, by its latched phase or by time-out, in this order, unless its gate is shut, and waits
while the buffer of the next tag is held, or was in this cycle, or OUTQ's queue is full. The firing takes up to FILL barges from the old end, returning
a sample group that it would cut, and queues the gather copy and the firing token; a poisoned barge, or one whose payload cannot
be gathered, is handed on and takes no row. That all rows of a cut group return is log 46 (DEDUCED). -/
def Obligations.LocksFireTiles : Prop :=
  ∀ (s : State) (d g l : Nat) (r : Region) (k : Lock) (e : Instr) (k1 : Lock), s.NoLog → d < 4 → g < 256 → l < 16 →
    (s.die d).region g = some r → (s.die d).lock g l = some k → k.discarding = none → r.phase = .running →
    (s.die d).regs.swapping = false → (s.die d).faults.fatal = none → (s.die d).traces g = false →
    let latched : Lock :=
      if k.phen = true ∧ k.phaseEvent = true then
        (if k.slots = [] then { k with phDrop := k.phDrop + 1, phaseEvent := false }
         else { k with pendPh := true, phaseEvent := false })
      else { k with phaseEvent := false }
    (e = .lockCycle d g l ∧ k1 = latched) ∨ (e = .lockTimeout d g l ∧ k1 = k) →
    let core := (r.cores[l % max 1 r.cores.length]?).getD 0
    let buf := 255 - 4 * l - k.nextTag
    let ch := s.chan d core k.outq
    let shut := k.slots = [] ∨ (k.pgen = true ∧ ((s.io.phases[k.pgid]?).getD PhaseBarrier.reset).phase ≠ k.pgph)
    let expired := k.timeout ≠ 0 ∧ k.timeout ≤ s.now - ((k.slots.head?.map LockSlot.entry).getD 0)
    let cause (n : Nat) : Prop :=
      ¬shut ∧ ((n = 1 ∧ k.fill ≤ k.slots.length) ∨ (n = 3 ∧ k.slots.length < k.fill ∧ k1.pendPh = true) ∨
        (n = 2 ∧ k.slots.length < k.fill ∧ k1.pendPh = false ∧ expired))
    let blocked := (∃ c, c ∈ (s.core d core).crews ∧ c.lockBuf = some buf) ∨
      (∃ y, y ∈ (s.core d core).returning ∧ buf ∈ y.buffers) ∨ 8 ≤ ch.jobs.length
    ((∀ n, ¬cause n) → ∃ u, LockBecomes s u d g l k1 ∧ exec e s = .next u) ∧
    (e = .lockTimeout d g l → ¬cause 2 → exec e s = .next s) ∧
    (∀ n, cause n → (e = .lockTimeout d g l → n = 2) → k.fill ≠ 0 →
      (blocked → ∃ u, exec e s = .next u ∧
        LockBecomes s u d g l { k1 with blocked := if k.blocked = 0xFFFFFFFF then k.blocked else k.blocked + 1 }) ∧
      (¬blocked →
        let fired (slots : List LockSlot) : Lock :=
          { k1 with
            slots := slots, nextTag := (k.nextTag + 1) % 4, fires := k.fires + 1
            fillF := if n = 1 then k.fillF + 1 else k.fillF, toF := if n = 2 then k.toF + 1 else k.toF
            phF := if n = 3 then k.phF + 1 else k.phF, pendPh := if n = 3 then false else k1.pendPh }
        let group (z : LockSlot) : BitVec 32 × BitVec 16 :=
          (((s.barge d z.record).getD Barge.zero).req, ((s.barge d z.record).getD Barge.zero).sgroup)
        (∀ kept back : List LockSlot,
          let rows := k.slots.take k.fill
          let rest := k.slots.drop k.fill
          (∀ z, z ∈ rows → ∃ b, s.barge d z.record = some b ∧ b.flags.getLsbD 0 = false ∧
            s.payloadFault d core g b.payload = none) →
          let cut := ∃ x y z, rows.head? = some x ∧ rows.getLast? = some y ∧ rest.head? = some z ∧ (group y).2 ≠ 0 ∧
            group z = group y ∧ group x ≠ group y
          (¬cut ∧ kept = rows ∧ back = rest) ∨
            (cut ∧ ∃ y, rows.getLast? = some y ∧ kept = rows.filter (fun z => group z != group y) ∧
              back = rows.filter (fun z => group z == group y) ++ rest) →
          ∃ u j, LockBecomes s u d g l (fired back) ∧
            j.kind = .gather (kept.map fun z => ((s.barge d z.record).getD Barge.zero).payload) buf ∧
            j.dst = bufferAddr d core buf ∧ j.len = 512 * kept.length ∧ j.off = 0 ∧ j.chunk = none ∧ j.op = none ∧
            exec e s = .next (u.onChan d core k.outq fun y =>
              { y with jobs := y.jobs ++ [j], halted := false
                       tokens := y.tokens ++ [.firing l k.nextTag n (kept.map LockSlot.record)
                         (y.wp + BitVec.ofNat 64 ((y.jobs.map fun j => j.len - j.off).sum)) buf] })) ∧
        (∀ z b, k.slots = [z] → s.barge d z.record = some b → (s.die d).regs.poisonSize ≠ 0 →
          let handsOn (b' : Barge) (q : BitVec 48) (t : State) : Prop :=
            exec e s = .next t ∧ (t.die d).lock g l = some { k1 with slots := [], poisoned := k.poisoned + 1 } ∧
              t.barge d z.record = some b' ∧ (t.die d).handedOn = (s.die d).handedOn ++
                [{ record := z.record, seq := q, lockRef := BitVec.ofNat 64 (d * 2 ^ 12 + g * 2 ^ 4 + l) }]
          (b.flags.getLsbD 0 = true → ∃ t, handsOn b b.poisonSeq t) ∧
          (∀ f, b.flags.getLsbD 0 = false → s.payloadFault d core g b.payload = some f → ∃ t, handsOn
            { b with flags := b.flags ||| 1, poisonSeq := (s.die d).evseq
                     origin := BitVec.ofNat 64 (d * 2 ^ 60 + g * 2 ^ 52 + r.cfg.version.toNat * 2 ^ 36 + 16 * 2 ^ 25 + f * 2 ^ 21 + l) }
            (s.die d).evseq t))))

/-- What stands at a channel's head (R237, R238): its oldest token, else the oldest row that no crew has claimed. -/
def HeadIs (s : State) (d k n : Nat) (x : Head) : Prop :=
  (∃ t rest, (s.chan d k n).tokens = t :: rest ∧ x = .token t) ∨
    ((s.chan d k n).tokens = [] ∧ (∀ e, (s.chan d k n).endpoint = .stream e → (s.stream d k e).isWrite = false) ∧
      ∃ i r, (s.rowsOf d k n)[i]? = some r ∧ r.claimed = none ∧ x = .row i r ∧
        ∀ (j : Nat) (q : Row), j < i → (s.rowsOf d k n)[j]? = some q → q.claimed ≠ none)

/-- A handler is ready with a head, buffers and a run of the private pool (R238, R240). -/
def ReadyWith (s : State) (d k : Nat) (r : Region) (h : Handler) (x : Head) (bufs : List Nat) (priv : Nat) : Prop :=
  HeadIs s d k h.chan x ∧ h.enable = true ∧ (h.tag = none ∨ h.tag = some x.tag) ∧
    (∀ p, p ∈ h.preds → (((s.core d k).shared[p.k]?).getD 0).getLsbD p.bit = p.value) ∧ (s.core d k).crew x.tag = none ∧
    (∀ i q, x = .row i q → q.width = h.lanes) ∧ s.footprint d k r h = some (bufs, priv)

/-- R237 to R243 and R270: a core starts its lowest ready handler on the berth that the head's tag names; the start consumes a
token or claims a row, takes the footprint, and gives the crew the state of R242; a launched node's record names the crew. What a
crew held returns in the cycle after it leaves, and a crew that starts with no live lane ends at once (R99). What a private pool last
held stays (R307; log 2), and which cycle a start falls into is log 41. R350: the die
writes a handed-on barge to the poison ring and frees its record. -/
def Obligations.HandlersStart : Prop :=
  ∀ (s : State) (d k g : Nat) (r : Region), s.NoLog → d < 4 → (s.core d k).region = some g → (s.die d).region g = some r →
    r.cfg.num = g → (s.die d).faults.fatal = none → (s.die d).regs.swapping = false →
    let ready (h : Handler) : Prop := ∃ x bufs priv, ReadyWith s d k r h x bufs priv
    (r.phase ≠ .running ∨ (∀ h, h ∈ r.cfg.handlers → ¬ready h) → exec (.handlerStart d k) s = .next s) ∧
    (∀ h bufs priv, s.footprint d k r h = some (bufs, priv) →
      let taken : List Returned := (s.core d k).crews.map (fun c =>
        { buffers := c.buffers ++ c.lockBuf.toList, granules := c.granules, privBase := c.privBase, privSize := c.privSize }) ++
          (s.core d k).returning
      (taken.map Returned.granules).sum + h.regs ≤ 1024 ∧ bufs.length = h.tiles ∧
      (∀ b, b ∈ bufs → b < 256 ∧ r.reserves k b = false ∧ (∀ y, y ∈ taken → b ∉ y.buffers) ∧
        ∀ a, a < b → a ∉ bufs → r.reserves k a = true ∨ ∃ y, y ∈ taken ∧ a ∈ y.buffers) ∧
      (h.priv ≠ 0 → priv + h.priv ≤ r.cfg.privPool ∧
        ∀ y, y ∈ taken → y.privSize ≠ 0 → priv + h.priv ≤ y.privBase ∨ y.privBase + y.privSize ≤ priv)) ∧
    (∀ pre h post x bufs priv, r.phase = .running → r.cfg.handlers = pre ++ h :: post → (∀ y, y ∈ pre → ¬ready y) →
      ReadyWith s d k r h x bufs priv → x.tag < 4 →
      let s0 : State := { s with nextUid := s.nextUid + 1 }
      let noted (u : State) : State := u.onRegion d g fun y => { y with lastStart := s.now }
      let starts (c : Crew) (s1 s2 s3 : W64) (live : Mask) (held : List (Option Nat)) (buf : Option Nat)
          (l : Option Launched) : Prop :=
        c.uid = s.nextUid ∧ c.place = { die := d, core := k, berth := x.tag } ∧ c.region = g ∧ c.version = r.cfg.version ∧
          c.handler = h.index ∧ c.lanes = h.lanes ∧ c.pc = r.cfg.codeBase + h.entry ∧ c.entry = c.pc ∧
          (∀ f : BitVec 8, f.toNat < 64 →
            c.sreg f = if f = 1 then s1 else if f = 2 then s2 else if f = 3 then s3 else 0) ∧
          (∀ f : BitVec 8, 0x41 ≤ f.toNat → f.toNat ≤ 0x4F → c.mask f = 0) ∧ c.cur = live ∧ c.live = live ∧ c.stack = [] ∧
          (∀ v, v < 256 → (c.vreg v).tag = 0 ∧ (c.vreg v).marks = 0 ∧ ∀ q, (c.vreg v).word q = 0) ∧
          (∀ i, i < 16 → c.fmt i = (r.cfg.fmts[i]?).getD 0x10000) ∧
          (∀ i, i < 64 → (c.tiles[i]?) = some (if i = 63 ∧ buf.isSome then
              { bound := true, buf := BitVec.ofNat 8 (buf.getD 0), tag := 0 }
            else if i < bufs.length then { bound := true, buf := BitVec.ofNat 8 ((bufs[i]?).getD 0), tag := 0 }
            else { bound := false, buf := 0, tag := 0 })) ∧
          c.ops = [] ∧ c.werr = 0 ∧ c.cflags = 0 ∧ c.held = held ∧ c.lockBuf = buf ∧ c.buffers = bufs ∧ c.granules = h.regs ∧
          c.privBase = priv ∧ c.privSize = h.priv ∧ c.wait = none ∧ c.weir = none ∧ c.started = s.now ∧ c.launched = l ∧ c.fp = 0 ∧ c.folds = 0
      let begins (u : State) (c : Crew) : State := if c.live = 0 then (u.putCrew c).endCrew c .exited else u.putCrew c
      (∀ lock tag cause records wp buf, x = .token (.firing lock tag cause records wp buf) →
        ∃ c, starts c wp (BitVec.ofNat 64 records.length) (BitVec.ofNat 64 (16 * lock + 4 * tag + cause))
            (Mask.below (h.lanes / 32 * records.length)) (records.map some) (some buf) none ∧
          exec (.handlerStart d k) s =
            .next (begins (noted (s0.onChan d k h.chan fun y => { y with tokens := y.tokens.tail })) c)) ∧
      (∀ i q, x = .row i q → ∃ c, starts c 0 0 0 (Mask.below h.lanes &&& ~~~q.void) [] none none ∧
        exec (.handlerStart d k) s = .next (begins (noted (s0.setRows d k h.chan ((s.rowsOf d k h.chan).modify i fun y =>
          { y with claimed := some s.nextUid }))) c)) ∧
      (∀ tag l, x = .token (.start tag l) →
        let e := s.nodeHome l.node d
        let st := (s.sys64 e l.node).toNat / 2 ^ 57 % 8
        let named : State := ((noted (s0.onChan d k h.chan fun y => { y with tokens := y.tokens.tail })).seeSys d e l.node 64).setSysBy
          d e (l.node + 32) (BitVec.ofNat 64 (2 ^ 12 + tag * 2 ^ 10 + k * 2 ^ 4 + d))
        ∃ c, starts c 0 0 0 (Mask.below h.lanes) [] none (some l) ∧ (c.exitPending = true ↔ st = 5) ∧
          exec (.handlerStart d k) s = .next (begins (if st = 4 then named.setSys64 e l.node (nodeWithState (s.sys64 e l.node) 2)
            else named) c))) ∧
    (∀ y rest, (s.die d).handedOn = y :: rest →
      let q := (s.die d).regs
      let tail := (q.poisonTail.toNat + 1) % q.poisonSize.toNat
      (q.poisonSize ≠ 0 → tail = q.poisonHead.toNat → exec (.poisonRingWrite d) s = .next s) ∧
      ∀ b, s.barge d y.record = some b → b.landing = none →
        (q.poisonSize = 0 → exec (.poisonRingWrite d) s = .next (s.onDie d fun z =>
          { z with handedOn := rest, barges := assocDel z.barges y.record })) ∧
        (q.poisonSize ≠ 0 → tail ≠ q.poisonHead.toNat → s.InTheClear → Memory.wf s.mem = true →
          ∃ w, WritesCells s w (q.poisonBase.toNat + 128 * q.poisonTail.toNat) 128
              (natOfBytes b.bytes + y.seq.toNat * 2 ^ 512 + y.lockRef.toNat * 2 ^ 576) ∧
            exec (.poisonRingWrite d) s = .next (w.onDie d fun z =>
              { z with handedOn := rest, barges := assocDel z.barges y.record
                       regs := { z.regs with poisonTail := BitVec.ofNat 16 tail } })))

/-- R253 and R254: a die takes the packets of one path in order; the barge arrives at a lock that its partition declares, and is
else poisoned with cause 17 and handed on. A returning credit frees the sender's, and a barge record or clock is merged before the
message is performed (R320, R364; logs 13, 82). The PSEQ of a path's first packet is log 25, and the BOARD completes when the packet is
accepted (log 47). -/
def Obligations.PacketsWithinThePackage : Prop :=
  ∀ (s : State) (n : Nat), s.NoLog →
    (∀ (x y : Vector (BitVec 32) 5) (i : Nat) (a b : BitVec 32), x[i]? = some a → y[i]? = some b →
      (mergeClocks x y)[i]? = some (if 0 < (b - a).toInt then b else a)) ∧
    (∀ p, s.flight.packets[n]? = some p → p.dst < 4 →
      let d := p.dst
      let g := p.target.toNat / 16 % 256
      let l := p.target.toNat % 16
      let earlier := ∃ m q, m < n ∧ s.flight.packets[m]? = some q ∧ q.srcDie = p.srcDie ∧ q.dst = d
      let u : State := (s.onFlight fun f => { f with packets := f.packets.eraseIdx n }).onDie d fun x =>
        { x with clock := mergeClocks x.clock p.clock
                 evseq := if x.evseq.toNat < (p.evseq + 1).toNat then p.evseq + 1 else x.evseq }
      (earlier ∨ (s.die d).faults.fatal ≠ none → exec (.packetAccept n none) s = .next s) ∧
      (¬earlier → (s.die d).faults.fatal = none →
        (((s.die d).declaredLock g l).isSome = true → exec (.packetAccept n none) s = .next ((u.onFlight fun f =>
          { f with arrivals := f.arrivals ++
              [{ die := d, region := g, lock := l, record := none, barge := p.barge, op := none, fromRegion := none
                 sender := .path none p.srcDie, cid := p.cid, credit := some { pkg := none, die := p.srcDie, pseq := p.pseq }
                 answer := none, redirected := false, by_ := 0, waiting := false }] }).finishOp? p.op false)) ∧
        ((s.die d).declaredLock g l = none → (s.die d).freeRecord = none → exec (.packetAccept n none) s = .next s) ∧
        (∀ i, (s.die d).declaredLock g l = none → (s.die d).freeRecord = some i → (s.die d).regs.poisonSize ≠ 0 →
          let origin := BitVec.ofNat 64 (d * 2 ^ 60 + g * 2 ^ 52 + 17 * 2 ^ 25 + l)
          exec (.packetAccept n none) s = .next ((((u.record d origin false false [p.target.setWidth 64]).onDie d fun x =>
            { x with
              barges := assocSet x.barges i
                { p.barge with flags := p.barge.flags ||| 1, origin := origin, poisonSeq := (u.die d).evseq }
              handedOn := x.handedOn ++ [{ record := i, seq := (u.die d).evseq, lockRef := 0 }] }).onFlight fun f =>
            { f with credits := f.credits ++ [{ sender := p.srcDie, target := d, pseq := p.pseq }] }).finishOp? p.op true)))) ∧
    (∀ m, s.flight.credits[n]? = some m →
      let u : State := s.onFlight fun f => { f with credits := f.credits.eraseIdx n }
      (∀ e, (s.die m.sender).sent.find? (fun x => decide (x.pkg = none ∧ x.die = m.target ∧ x.pseq = m.pseq)) = some e →
        exec (.creditReturn n none) s = .next (u.onDie m.sender fun x => { x with sent := x.sent.erase e })) ∧
      ((∀ e, e ∈ (s.die m.sender).sent → ¬(e.pkg = none ∧ e.die = m.target ∧ e.pseq = m.pseq)) →
        exec (.creditReturn n none) s = .next u))

/-- A frame whose header is well-formed, for this package and next on its path, on a port that is up (R389, R390). -/
structure FrameArrives (s : State) (f : Frame) (type srcDie dstDie srcPkg : Nat) : Prop where
  first : ∃ len, len < 256 ∧ f.head[0]? = some (BitVec.ofNat 64
    (type * 2 ^ 12 + srcDie * 2 ^ 8 + dstDie * 2 ^ 4 + srcPkg * 2 ^ 16 + s.io.pkgId.toNat * 2 ^ 32 + len * 2 ^ 48))
  fields : 1 ≤ type ∧ type ≤ 5 ∧ srcDie < 4 ∧ dstDie < 4 ∧ srcPkg < 32768
  last : ∃ x, f.head[5]? = some x ∧ x.toNat < 2 ^ 16
  up : (s.port f.port).up = true
  next : f.head[1]? = some (((pairGet (s.die dstDie).pseqIn (srcPkg, srcDie)).map fun n => n + 1).getD 0)

/-- R253, R254, R256 and R388 to R391: a frame of a peer is accepted in the order of its path. A packet's payload row goes to a
landing row and its barge arrives; a credit completes the BOARD; a remote access is performed at its home slice and answered, and
a response completes the issuing instruction; a barrier token joins those of its record. A misdirected frame is discarded and
counted. Frames leave a port in the order of its queue at the end of a cycle; the link layer retries the first one, and after
the eighth failure the port goes down. The bodies of frames of types 2 to 5 are the model's (log 12), and the row of a credit held
from reset is log 25. -/
def Obligations.FramesFromPeers : Prop :=
  ∀ (s : State) (f : Frame), s.NoLog →
    let u := s.acceptFrame f
    (∀ port, let p := s.port port
      (∀ q rest, p.up = true → p.held = q :: rest →
        (q.tries < 8 → exec (.linkLayerRetry port) s = .next (s.onPort port fun x => { x with
          retry := if x.retry = 0xFFFF then 0xFFFF else x.retry + 1, held := { q with tries := q.tries + 1 } :: rest })) ∧
        (8 ≤ q.tries → exec (.portDown port) s = .next (s.onPort port fun x => { x with up := false }))) ∧
      ((p.up = false ∨ ∀ q rest, p.held = q :: rest → 8 ≤ q.tries) → exec (.linkLayerRetry port) s = .next s) ∧
      ((p.up = false ∨ ∀ q rest, p.held = q :: rest → q.tries < 8) → exec (.portDown port) s = .next s)) ∧
    (let goes (port : Nat) (q : QueuedFrame) : Bool :=
       (s.port port).up && decide (q.tries < 8) && !(s.io.remote.any fun r => q.after.contains r.op)
     s.portsTurn.toPeers = s.toPeers ++ (List.range 32).flatMap fun port =>
       ((s.port port).held.takeWhile (goes port)).map QueuedFrame.frame) ∧
    (∀ d ty peer tdie body port, s.routeTo peer = some port → port < 32 →
      ((s.sendFrame d ty peer tdie body).port port).held.map QueuedFrame.tries = (s.port port).held.map QueuedFrame.tries ++ [0]) ∧
    (∀ w, f.head[0]? = some w → (s.port f.port).up = true → s.io.faults.fatal = none → f.port < 32 →
      w.toNat / 2 ^ 32 % 2 ^ 15 ≠ s.io.pkgId.toNat →
      ∃ t, exec (.frameDiscard f) s = .next t ∧ t.dies = s.dies ∧ t.mem = s.mem ∧ t.flight = s.flight ∧
        (t.port f.port).discard = (if (s.port f.port).discard = 0xFFFF then 0xFFFF else (s.port f.port).discard + 1) ∧
        t.io.evseq = s.io.evseq + 1 ∧
        (s.io.faults.entries.length < 64 → t.io.faults.entries = s.io.faults.entries ++
          [{ origin := BitVec.ofNat 64 (4 * 2 ^ 60 + 20 * 2 ^ 25 + f.port % 16 * 2 ^ 21 + f.port), fatal := false
             notConsumed := false, seq := s.io.evseq
             infos := [if w.toNat / 2 ^ 12 % 16 = 1 then (f.body[0]?).getD 0 else w]
             merged := 0, lastSeq := s.io.evseq }])) ∧
    (∀ ty sd d sp, FrameArrives s f ty sd d sp →
      u.awaitedPseq d sp sd = f.pseq + 1 ∧ u.io.clock = mergeClocks s.io.clock f.clock ∧
      (u.die d).clock = mergeClocks (s.die d).clock f.clock ∧
      (ty ≠ 1 → exec (.frameDiscard f) s = .next s) ∧
      (ty = 5 → ∀ e a b, f.body = [a, b] →
        (s.die d).sent.find? (fun x => decide (x.pkg = some sp ∧ x.die = sd ∧ x.pseq = a)) = some e →
        exec (.creditReturn 0 (some f)) s =
          .next ((u.onDie d fun x => { x with sent := x.sent.erase e }).finishOp e.op (decide (b ≠ 0)))) ∧
      (ty = 1 → ∀ w q ws row, f.body = w :: q :: ws → ws.length = 72 → w.toNat / 2 ^ 48 % 16 = 2 → w.toNat / 2 ^ 47 % 2 = 0 →
        w.toNat / 2 ^ 56 = 0 → (s.die d).faults.fatal = none →
        let reserved := w.toNat / 2 ^ 52 % 16 ∈ [5, 6, 7] ∨ w.toNat / 2 ^ 12 % 16 ∈ [5, 6, 7]
        (reserved → exec (.packetAccept 0 (some f)) s = .next s) ∧ (¬reserved →
        let open_ (j : Nat) : Prop := j < 2048 ∧ j ∉ (s.die d).landing ∧ ∀ x, x ∈ (s.die d).promised → x.row ≠ j
        let mine := (s.die d).promised.find? fun x => decide (x.pkg = sp ∧ x.die = sd)
        mine.map Promise.row = some row ∨ (mine = none ∧ open_ row ∧ ∀ j, j < row → ¬open_ j) →
        ((s.die d).declaredLock (w.toNat / 16 % 256) (w.toNat % 16)).isSome = true →
        let at_ := (s.die d).regs.landBase + BitVec.ofNat 64 (512 * row)
        let landed : State := (u.ioRelease.setSysBytes d at_ ((ws.drop 8).flatMap wordBytes) false).onDie d fun x =>
          { x with landing := x.landing ++ [row], promised := x.promised.filter fun y => y.row != row }
        ∃ b, exec (.packetAccept 0 (some f)) s = .next (({ landed with free := s.free + 1 } : State).onFlight fun y =>
            { y with arrivals := y.arrivals ++
                [{ die := d, region := w.toNat / 16 % 256, lock := w.toNat % 16, record := none, barge := b, op := none
                   fromRegion := none, sender := .path (some sp) sd, cid := 0xFFFF
                   credit := some { pkg := some sp, die := sd, pseq := q }, answer := none, redirected := false, by_ := 0
                   waiting := false }] }) ∧
          b.payload = at_ ∧ b.landing = some (d, row) ∧
          ∀ j, j < 54 → j ≠ 52 → ¬(24 ≤ j ∧ j < 32) → b.bytes[j]? = ((ws.take 8).flatMap wordBytes)[j]?)) ∧
      (ty = 3 → ∀ q status v r, f.body = [q, status, v] → s.io.remote.find? (fun x => decide
          (x.place.die = d ∧ x.peer = sp ∧ x.tdie = sd ∧ x.pseq = q)) = some r → r.xbar = false → status = 0 →
        exec (.remoteAccessResponse f) s = .next ((((u.onIo fun io => { io with remote := io.remote.erase r }).deliver? r
          (loadExtend r.ety v.toNat)).foldBack r (r.newValue v.toNat)).finishOp r.op false)) ∧
      (ty = 2 → ∀ a code ety x y p, f.body = [a, BitVec.ofNat 64 (code + 32 * ety), x, y] → code ≤ 16 → code % 8 ≠ 7 → 5 ≤ ety → ety ≤ 8 →
        let n := 2 ^ (ety - 5)
        a.toNat < 2 ^ 56 →
        (a.toNat % n ≠ 0 → exec (.remoteAccessRequest f) s = .next (u.answerPeer d sp sd f.pseq 2 0)) ∧
        (∀ det, a.toNat % n = 0 → u.tablePlace (u.die d).regs.latchedRoot true a = .error det →
          exec (.remoteAccessRequest f) s = .next (u.answerPeer d sp sd f.pseq det 0)) ∧
        (a.toNat % n = 0 → u.tablePlace (u.die d).regs.latchedRoot true a = .ok p → u.homeMarked p n = false →
          s.InTheClear → Memory.wf s.mem = true →
          let old := u.homeRead p n
          let new := if code = 16 then (if old = x.toNat % 2 ^ (8 * n) then y.toNat % 2 ^ (8 * n) else old)
            else atomicInteger (code % 8) n false old (x.toNat % 2 ^ (8 * n))
          ∃ w, WritesCells (u.mergeStamps 4 (p.cells n)) w p.home n new ∧
            exec (.remoteAccessRequest f) s = .next (w.answerPeer d sp sd f.pseq 0 (BitVec.ofNat 64 old)))) ∧
      (ty = 4 → ∀ a kind member pa key page, f.body = [a, BitVec.ofNat 64 kind, BitVec.ofNat 64 member] → kind < 3 →
        member < 2 ^ 64 → a.toNat < 2 ^ 56 → a.toNat % 256 = 0 →
        u.tablePlace (u.die d).regs.latchedRoot true a = .ok (.pa pa key page) →
        let home : HomeAddr := { pa := pa, key := key }
        exec (.barrierTokenFrame f) s = .next ((if kind = 0 then u.ioRelease else u).onFlight fun x =>
          if kind = 0 then { x with xbars := x.xbars ++
            [{ record := a, home := home, member := member, party := .peer d sp sd f.pseq }] }
          else if kind = 1 then { x with absences := x.absences ++ [{ record := a, home := home, die := d }] }
          else { x with presences := x.presences ++ [{ record := a, home := home, die := d }] })))

/-! ## Nodes, launches and cones (R270, R280 to R287) -/

/-- Word 0 of a node with another STATE and COUNT (R270). -/
def nodeWord0 (w : W64) (st count : Nat) : W64 :=
  BitVec.ofNat 64 (w.toNat - nodeState w * 2 ^ 57 - nodeCount w * 2 ^ 16 + st * 2 ^ 57 + count * 2 ^ 16)

/-- R206 and R280 to R283: tokens that reach a node's home slice move it as R280's table gives, and word 0 from before them goes to
the crew; a node that reaches done posts to its successors that are no weirs. The arbiter visits the queues in turn under deficit
round-robin. R287: a cone walk visits each record once, depth-first, and changes it under the policy; a node that it makes
cancelling keeps the policy under which it will end. Hardware that writes a record does not ask for its page's W (log 18). -/
def Obligations.NodesAndLaunches : Prop :=
  ∀ s : State,
    (∀ (e : Nat) (n : W64), s.postSuccessors e n = s.onFlight fun f =>
      { f with posts := f.posts ++ (((s.sysWords e (n + 48) 10).takeWhile fun x => x != 0).filter fun x =>
          nodeKind (s.sys64 e x) != 3).map fun x =>
        { agent := none, writer := e, node := x, die := e, count := 1, op := none, dest := none, pred := n, answer := none } }) ∧
    (∀ (n : Nat) (p : TokenPost), s.flight.posts[n]? = some p → p.answer = none → p.node.toNat % 128 = 0 →
      let e := s.nodeHome p.node p.die
      let w := s.sys64 e p.node
      let kind := nodeKind w
      let st := nodeState w
      let count := min 65535 (nodeCount w + p.count)
      let thresh := max 1 (w.toNat / 2 ^ 32 % 2 ^ 16)
      -- the post has left, and the die that posted it has read word 0 under its own clock (R320)
      let taken : State := (s.onFlight fun f => { f with posts := f.posts.eraseIdx n }).seeSys p.writer e p.node 8
      let writes (v : W64) : State := taken.setSysBy p.writer e p.node v
      let answers (u : State) (bad : Bool) : State :=
        match p.op, p.dest with
        | some o, some d => (u.onCrew o.uid fun c => c.deliver d w).finishOp o bad
        | _, _ => u
      ((∃ m q o u, m < n ∧ s.flight.posts[m]? = some q ∧ q.node = p.node ∧ q.op = some o ∧ p.op = some u ∧ o.uid = u.uid) →
        exec (.nodeTokens n) s = .next s) ∧
      ((∀ m q, m < n → s.flight.posts[m]? = some q → q.node ≠ p.node) →
        (kind ∉ [1, 2, 4] → exec (.nodeTokens n) s = .next (answers (match p.agent with
          | some a => taken.agentRecord a 12 2 [p.node, 0]
          | none => taken) true)) ∧
        (kind ∈ [1, 2, 4] → st = 3 ∨ 5 ≤ st → exec (.nodeTokens n) s = .next (answers taken false)) ∧
        (kind ∈ [1, 2, 4] → st = 2 ∨ st = 4 → exec (.nodeTokens n) s =
          .next (answers (writes (nodeWord0 w st count)) false)) ∧
        (kind ∈ [1, 2, 4] → st ≤ 1 → count < thresh → exec (.nodeTokens n) s =
          .next (answers (writes (nodeWord0 w 1 count)) false)) ∧
        (kind = 4 → st ≤ 1 → thresh ≤ count → exec (.nodeTokens n) s =
          .next (answers ((writes (nodeWord0 w 3 count)).postSuccessors e p.node) false)) ∧
        (kind = 1 ∨ kind = 2 → st ≤ 1 → thresh ≤ count → (s.die e).dbg.traceEn = false → (s.die e).dbg.cpPeriod = 0 →
          exec (.nodeTokens n) s = .next (answers ((((writes (nodeWord0 w 2 count)).onDie e fun x =>
            { x with dbg := { x.dbg with firings := x.dbg.firings + 1 } })).onQueue
              ((s.sys64 e (p.node + 8)).toNat / 2 ^ 32 % 64) fun q => { q with pend := q.pend ++ [{ node := p.node }] })
            false)))) ∧
    (∀ x : LaunchQueue, let q := s.io.arbiter
      s.io.queues[q]? = some x →
      let moves (u : State) : State := u.onIo fun io => { io with arbiter := (q + 1) % 64, visiting := false }
      let clamp (v : Int) : Int := max (-(2 ^ 31 - 1)) (min v (2 ^ 31 - 1))
      let dispatched (v t : State) : Prop :=
        ∀ l rest, (v.queue q).pend = l :: rest →
          let u : State := v.onQueue q fun y => { y with pend := rest, deficit := clamp (y.deficit - y.advance.toNat) }
          let ends (u : State) : Prop :=
            let more := 0 < (u.queue q).deficit ∧ ∃ m ms, (u.queue q).pend = m :: ms ∧ u.placeable m.node = true
            (more → t = u.onIo fun io => { io with visiting := true }) ∧ (¬more → t = moves u)
          ∀ d, s.nodeDie l.node = some d →
            let w1 := s.sys64 d (l.node + 8)
            (∀ r, (s.die d).region (nodeRegion w1) = some r →
              (nodeKind (s.sys64 d l.node) ≠ 2 → ends u) ∧
              (∀ c b, nodeKind (s.sys64 d l.node) = 2 → r.cores[nodeScore w1]? = some c → b < 4 → (s.core d c).crew b = none →
                (∀ a, a < b → (s.core d c).crew a ≠ none) → ends (u.onChan d c (nodeChan w1) fun y =>
                  { y with tokens := .start b { node := l.node, queue := q, advance := x.advance.toNat } :: y.tokens }))) ∧
            ∀ g, (s.die d).region (nodeRegion w1) = none → (s.die d).declaredRegion (nodeRegion w1) = some g → (s.die d).saved = [] →
              g.coreCount ≤ (s.die d).freeCores.length → nodeKind (s.sys64 d l.node) ≠ 2 →
              ends (u.loadRegion d g ((s.die d).freeCores.take g.coreCount))
      (s.io.visiting = false → x.en = false → exec .arbiterVisit s = .next (moves s)) ∧
      (s.io.visiting = false → x.en = true → x.pend = [] →
        exec .arbiterVisit s = .next (moves (s.onQueue q fun y => { y with deficit := min y.deficit 0 }))) ∧
      (s.io.visiting = true → x.en = false ∨ x.deficit ≤ 0 ∨ x.pend = [] ∨ (∃ l rest, x.pend = l :: rest ∧ s.placeable l.node = false) →
        exec .arbiterVisit s = .next (moves s)) ∧
      (s.io.visiting = true → x.en = true → 0 < x.deficit → (∃ l rest, x.pend = l :: rest ∧ s.placeable l.node = true) →
        ∃ t, exec .arbiterVisit s = .next t ∧ dispatched s t) ∧
      (∀ l rest, s.io.visiting = false → x.en = true → x.pend = l :: rest → s.makeRoom l.node = s →
        (s.placeable l.node = false → exec .arbiterVisit s = .next (moves s)) ∧
        (s.placeable l.node = true →
          let v : State := s.onQueue q fun y => { y with deficit := clamp (y.deficit + y.quantum.toNat) }
          (x.deficit + x.quantum.toNat ≤ 0 → exec .arbiterVisit s = .next (moves v)) ∧
          (0 < x.deficit + x.quantum.toNat → ∃ t, exec .arbiterVisit s = .next t ∧ dispatched v t)))) ∧
    (∀ (d : Nat) (k : ConeWalk) (rest : List ConeWalk), d < 4 → (s.die d).walks = k :: rest →
      (k.todo = [] → exec (.coneWalkVisit d) s = .next (s.onDie d fun x => { x with walks := rest })) ∧
      ∀ n todo, k.todo = n :: todo →
        let w := s.sys64 d n
        let st := nodeState w
        let kind := nodeKind w
        -- the walk goes on to the next record that it has not visited
        let goes (v : State) (next : List W64) : State :=
          let left := (next ++ todo).dropWhile fun m => decide (m = n) || k.visited.contains m
          v.onDie d fun x => { x with walks :=
            (if left = [] then [] else [{ k with todo := left, visited := n :: k.visited }]) ++ x.walks.tail }
        let grows (v : State) : State := goes v (v.successors d n)
        let named (v : State) : State := if k.pol = 1 then v.setSys64 d (n + 24) k.origin else v
        let sets (v : State) (new : Nat) : State := named (v.setSys64 d n (nodeWord0 w new (nodeCount w)))
        let cancels : State := named ((s.setSys64 d n (nodeWord0 w 5 (nodeCount w))).onDie (s.nodeHome n d) fun x =>
          { x with cancelling := (x.cancelling.filter fun p => p.1 != n) ++ [(n, k.pol)] })
        let endState := if k.pol = 1 then 7 else 6
        (kind = 4 → st ≤ 1 → exec (.coneWalkVisit d) s =
          .next (goes ((s.setSys64 d n (nodeWord0 w 7 (nodeCount w))).setSys64 d (n + 24) k.origin) [])) ∧
        ((kind = 4 ∧ 2 ≤ st) ∨ ((kind = 1 ∨ kind = 2) ∧ (st = 3 ∨ 5 ≤ st)) →
          exec (.coneWalkVisit d) s = .next (goes s [])) ∧
        (kind = 1 ∨ kind = 2 → st ≤ 1 → exec (.coneWalkVisit d) s = .next (grows (sets s endState))) ∧
        (kind = 1 ∨ kind = 2 → st = 4 → exec (.coneWalkVisit d) s = .next (grows (sets (s.dropLaunch n) endState))) ∧
        (kind = 2 → st = 2 → exec (.coneWalkVisit d) s = .next (grows (cancels.exitNode n))) ∧
        (kind = 1 → st = 2 → exec (.coneWalkVisit d) s = .next (grows (cancels.request (s.nodeHome n d)
          { region := nodeRegion (s.sys64 d (n + 8)), kind := .flush (if k.pol = 1 then 3 else 2), since := s.now
            fromWalk := true }))) ∧
        (kind = 3 → exec (.coneWalkVisit d) s = .next (goes (s.countPoisoned d n) [])))

/-! ## Weirs at their home banks (R209 to R212, R287 to R293) -/

/-- R209 to R212, R287 and R290 to R293: a binding arms an idle weir or joins an armed one, draws a notice after the release, or is
refused; the copy unit lands a JADD's bytes as provisional values in 4 KiB chunks; an arrival releases its crew's stores, commits the
slot, counts it and its weight, and tests the quorum; a notice reaches its crew. A release writes a line of its result at the end
of each cycle, and the weir is done after the last (log 30). A bank knows a weir by where its record lies (log 14), a binding
is kept by its crew from issue (log 32), and a write to the window is performed when it reaches the bank (log 87). -/
def Obligations.WeirMessages : Prop :=
  ∀ (s : State) (n : Nat), s.NoLog →
    let homeOf (u : State) (e : Nat) (a : W64) : Nat := (u.recordHome e a).getD 0
    -- an operation from another die brings that die's clock to the bank
    let reaches (u : State) (e : Nat) (w : Weir) : State :=
      if weirOk w = true ∧ e ≠ weirDie w then u.receive (weirDie w) (u.imageOf e) else u
    (∀ m, s.flight.notices[n]? = some m → exec (.killNoticeArrival n) s =
      .next ((s.onFlight fun f => { f with notices := f.notices.eraseIdx n }).onCrew m.uid fun c =>
        match c.weir with
        | some b => if b.home = m.home ∧ b.slot = m.slot then { c with weir := some { b with notice := true } } else c
        | none => c)) ∧
    (∀ (e : Nat) (a : W64), let w := s.weirAt e a
      (weirState w = 1 → weirQnum w * weirExpected w ≤ weirArrived w * weirQden w →
        s.testQuorum e a = s.weirRelease e a) ∧
      (¬(weirState w = 1 ∧ weirQnum w * weirExpected w ≤ weirArrived w * weirQden w) →
        ((weirExpected w - weirPoisoned w) * weirQden w < weirQnum w * weirExpected w → s.testQuorum e a = s.weirLose e a) ∧
        (weirQnum w * weirExpected w ≤ (weirExpected w - weirPoisoned w) * weirQden w → s.testQuorum e a = s)) ∧
      (weirOk w = true → weirState w ≤ 1 → s.countPoisoned e a = (s.setSysBy (weirDie w) e a (BitVec.ofNat 64 ((w.word 0).toNat -
          weirPoisoned w * 2 ^ 30 + min 32 (weirPoisoned w + 1) * 2 ^ 30))).testQuorum e a) ∧
      (weirOk w = false ∨ 2 ≤ weirState w → s.countPoisoned e a = s) ∧
      ∃ x, (s.weirRelease e a).flight.releases = s.flight.releases ++ [x] ∧ x.die = e ∧ x.record = a ∧ x.off = 0) ∧
    (∀ x, s.flight.releases = [x] →
      let w := s.weirAt x.die x.record
      let len := min 128 (x.result.length - x.off)
      (x.off < x.result.length → s.combineTurn = (s.landSpan (weirDie w) [(.chip (weirResult w + x.off), len)]
        ((x.result.drop x.off).take len) ((x.marks.drop x.off).take len)).onFlight fun f =>
          { f with releases := [{ x with off := x.off + 128 }] }) ∧
      (x.result.length ≤ x.off → s.combineTurn = (s.endRelease x).onFlight fun f => { f with releases := [] })) ∧
    (∀ (p : ProvWrite) (c : Crew), s.flight.provs[n]? = some p → s.anyCrew p.uid = some c → p.bytes ≠ [] →
      let w := s.weirAt c.place.die p.record
      let d := weirDie w
      let home := homeOf s c.place.die p.record
      let b := s.bank d home
      let u : State := s.onFlight fun f => { f with provs := f.provs.eraseIdx n }
      ((∃ m q, m < n ∧ s.flight.provs[m]? = some q ∧ q.uid = p.uid) ∨ (∃ m, m ∈ s.flight.weirs ∧ m.agent.uid = some p.uid) →
        exec (.provisionalWrite n) s = .next s) ∧
      ((∀ m q, m < n → s.flight.provs[m]? = some q → q.uid ≠ p.uid) → (∀ m, m ∈ s.flight.weirs → m.agent.uid ≠ some p.uid) →
        (weirState w ≠ 1 ∨ weirHas w p.slot = true → exec (.provisionalWrite n) s = .next u) ∧
        (weirState w = 1 → weirHas w p.slot = false → exec (.provisionalWrite n) s = .next (u.onDie d fun x =>
          { x with weirs := (x.weirs.filter fun y => y.home != home) ++ [{ b with
              prov := (b.prov.filter fun q => !(q.slot = p.slot && p.key ≤ q.key && q.key < p.key + p.bytes.length)) ++
                p.bytes.zipIdx.map fun q => { slot := p.slot, key := p.key + q.2, value := q.1
                                              marked := (p.marks[q.2]?).getD false } }] })))) ∧
    (∀ (m : WeirMsg) (c : Crew), s.flight.weirs[n]? = some m → m.agent.uid = some c.uid → s.anyCrew c.uid = some c →
      c.weir = some { record := m.record, home := m.home, slot := m.slot, notice := false } →
      let e := m.agent.place.die
      let w := s.weirAt e m.record
      let d := weirDie w
      let home := homeOf s e m.record
      let b := s.bank d home
      let u : State := reaches (s.onFlight fun f => { f with weirs := f.weirs.eraseIdx n }) e w
      let first := ∀ k q, k < n → s.flight.weirs[k]? = some q → q.agent.uid ≠ some c.uid
      let taken := b.bound.any fun p => p.1 = m.slot && p.2 != c.uid && (s.anyCrew p.2).isSome
      let goes (v : State) : State :=
        match m.kind, m.op with
        | .jadd src, some o => let x := v.weirAt e m.record
          v.onCore e m.agent.place.core fun k => { k with weirCopies := k.weirCopies ++
            [{ op := o, agent := m.agent, record := m.record, home := m.home, slot := m.slot, dest := m.dest, src := src
               dst := BitVec.ofNat 64 (weirSlot x m.slot), len := weirSlotLen x, off := 0 }] }
        | .warrive, _ => v.onFlight fun f => { f with arrived := f.arrived ++ [m] }
        | _, _ => v
      let runs (v : State) : Prop := exec (.weirBind n) s = .next (goes (v.onCrew c.uid fun y =>
        if y.weir = none then { y with weir := some { record := m.record, home := m.home, slot := m.slot, notice := false } } else y))
      let refused (detail : Nat) : Prop :=
        exec (.weirBind n) s = .next ((u.refuseBinding e c.uid m.home m.slot).weirError m detail)
      (¬first → exec (.weirBind n) s = .next s) ∧
      (first → (weirOk w = false → refused 2) ∧ (weirOk w = true →
        (weirExpected w ≤ m.slot → refused 3) ∧
        (m.slot < weirExpected w →
          (weirState w = 0 → runs ((((u.setSysBy d e m.record (weirWord0 w 1 0 (weirPoisoned w) 0)).setSysBy d e (m.record + 48)
            (1#64 <<< m.slot)).setBank d
              { home := home, bound := [(m.slot, c.uid)], prov := [] }).testQuorum e m.record)) ∧
          (weirState w ≠ 0 → weirHas w m.slot = true ∨ taken = true → refused 4) ∧
          (weirState w ≠ 0 → weirHas w m.slot = false → taken = false →
            (weirState w = 1 → runs ((u.setBank d { b with bound := (b.bound.filter fun p => p.1 != m.slot) ++ [(m.slot, c.uid)] }).setSysBy
              d e (m.record + 48) (w.word 6 ||| (1#64 <<< m.slot)))) ∧
            (weirState w = 2 ∨ weirState w = 3 → runs (u.onFlight fun f =>
              { f with notices := f.notices ++ [{ uid := c.uid, home := home, slot := m.slot }] })) ∧
            (4 ≤ weirState w → runs u)))))) ∧
    (∀ (e k : Nat) (j : WeirCopy) (rest : List WeirCopy), e < 4 → (s.core e k).weirCopies = j :: rest → s.coreStopped e k = false →
      let len := min 4096 (j.len - j.off)
      let src := j.src + BitVec.ofNat 64 j.off
      let pops (t : State) (js : List WeirCopy) : State := t.onCore e k fun x => { x with weirCopies := js }
      (∀ ps, s.spanPlaces j.agent.accessor .read src len = .ok ps →
        (∀ p i, p ∈ ps → i < p.2 → s.placeMarked e (p.1.plus i) 1 = false) →
        let t := (s.observeSpan e ps).bankWrite e j.record j.slot (j.dst.toNat + j.off) (s.spanBytes e ps) (s.spanMarks e ps)
        (j.off + len < j.len → exec (.weirCopyChunk e k) s = .next (pops t ({ j with off := j.off + len } :: rest))) ∧
        (j.len ≤ j.off + len → exec (.weirCopyChunk e k) s = .next ((pops t rest).onFlight fun f =>
          { f with arrived := f.arrived ++ [{ kind := .jadd j.src, agent := j.agent, record := j.record, home := j.home, slot := j.slot
                                              op := some j.op, dest := j.dest }] }))) ∧
      (∀ det a, s.spanPlaces j.agent.accessor .read src len = .error (det, a) →
        exec (.weirCopyChunk e k) s = .next (((pops (s.agentFault j.agent det [a, j.src, j.dst, BitVec.ofNat 64 j.len])
          rest).deliverFree (j.agent.uid.getD 0) j.dest).finishOp j.op true))) ∧
    (∀ (m : WeirMsg) (c : Crew), s.flight.arrived[n]? = some m → m.agent.uid = some c.uid → s.findCrew c.uid = some c →
      let e := m.agent.place.die
      let left : State :=
        ((s.onFlight fun f => { f with arrived := f.arrived.eraseIdx n }).releaseAs c.place.die c.uid 4).putCrew { c with wbLost := false }
      let w := left.weirAt e m.record
      let u : State := reaches left e w
      let d := weirDie w
      let home := homeOf u e m.record
      let taken := (u.bank d home).bound.any fun p => p.1 = m.slot && p.2 != c.uid && (u.anyCrew p.2).isSome
      let first := (∀ k q, k < n → s.flight.arrived[k]? = some q → q.agent.uid ≠ some c.uid) ∧ ∀ p, p ∈ s.flight.provs → p.uid ≠ c.uid
      let ends (v : State) (status : Nat) : State :=
        ((v.endBinding e d m c.uid).onCrew c.uid fun y => y.deliver m.dest (BitVec.ofNat 64 status)).finishOp? m.op c.wbLost
      let bad (detail : Nat) : Prop :=
        exec (.weirArrival n) s = .next ((u.endBinding e d m c.uid).weirError m detail)
      (¬first → exec (.weirArrival n) s = .next s) ∧
      (first → (weirOk w = false → bad 2) ∧ (weirOk w = true → (weirExpected w ≤ m.slot → bad 3) ∧ (m.slot < weirExpected w →
        (weirHas w m.slot = true ∨ taken = true → bad 4) ∧
        (weirHas w m.slot = false → taken = false →
          (weirState w = 2 ∨ weirState w = 3 → exec (.weirArrival n) s = .next (ends u 1)) ∧
          (weirState w = 0 ∨ 4 ≤ weirState w → exec (.weirArrival n) s = .next (ends u 2)) ∧
          (weirState w = 1 →
            let v := u.commitSlot e d home m.slot
            let x := v.weirAt e m.record
            exec (.weirArrival n) s = .next ((ends ((v.setSysBy d e m.record (weirWord0 x 1 (weirArrived x + 1) (weirPoisoned x)
              (weirAweight x + weirWeight x m.slot))).setSysBy d e (m.record + 48) (x.word 6 ||| (1#64 <<< (32 + m.slot)))) 0).testQuorum
                e m.record)))))))

/-! ## Barriers at their keepers (R213 to R216, R362) -/

/-- Word 0 of an XBAR record with another GEN, ABSENT and ARRIVED (R214). -/
def xbarWord0 (w : W64) (gen absent arrived : Nat) : W64 :=
  BitVec.ofNat 64 (w.toNat % 2 ^ 26 + gen % 2 ^ 16 * 2 ^ 48 + absent * 2 ^ 37 + arrived * 2 ^ 26)

/-- R214 to R216 and R362: a member's arrival sets its bit and counts, the last one ends the generation with status 0 and a time-out
ends it with status 1; every waiting member gets the generation joined. A member that joins keeps the generation with its wait, and
the record as its barrier tie; a release carries the clock of the last member, which has taken in those of the others (log 13). A
phase barrier counts its arrivals and flips at the last. An absence token adds 1 to ABSENT and a presence token takes 1 away;
one out of range is recorded under cause 13. That hardware asks for no W permission of a record's page is log 18. -/
def Obligations.BarrierMessages : Prop :=
  ∀ (s : State) (n : Nat),
    let ended (status : Nat) (g : Nat) (t : State) (h : HomeAddr) (w : W64) : Prop :=
      t.homeWord h 0 = xbarWord0 w (g + 1) (w.toNat / 2 ^ 37 % 2 ^ 11) 0 ∧ (∀ i, i < 16 → t.homeWord h (16 + i) = 0) ∧
        (∀ x, x ∈ t.xtimers ↔ x ∈ s.xtimers ∧ x.home ≠ h) ∧ status < 2
    let replies (ps : List Party) (record : W64) (status g : Nat) (image : Option Image) : List XbarReplyMsg := ps.map fun p =>
      { party := p, record := record, result := .inl (BitVec.ofNat 64 (g * 2 ^ 48 + status)), released := decide (status = 0)
        image := image }
    (∀ m, s.flight.xbars[n]? = some m →
      let h := m.home
      let w := s.homeWord h 0
      let members := w.toNat / 2 ^ 15 % 2 ^ 11
      let arrived := w.toNat / 2 ^ 26 % 2 ^ 11
      let absent := w.toNat / 2 ^ 37 % 2 ^ 11
      let g := w.toNat / 2 ^ 48
      let bits := s.homeWord h (16 + m.member / 64)
      let wrong := members = 0 ∨ 1024 < members ∨ w.toNat / 4 % 2 ^ 13 ≠ 0 ∨ w.toNat % 4 = 3 ∨ 2 ^ 32 ≤ (s.homeWord h 1).toNat ∨
        (∃ i, i < 14 ∧ s.homeWord h (2 + i) ≠ 0) ∨ members ≤ m.member
      let took : State := s.onFlight fun f => { f with xbars := f.xbars.eraseIdx n }
      let e := s.partyDie m.party
      let seen : State := took.mergeStamps e ((List.range 256).map (h.pa + ·))
      let joins (u : State) : State :=
        match m.party with
        | .crew uid => u.onCrew uid fun c =>
          { c with
            tie := some m.record
            wait := c.wait.map fun x =>
              if x.wait = .xbar m.record m.member none then { x with wait := .xbar m.record m.member (some (BitVec.ofNat 16 g)) } else x }
        | .peer _ _ _ _ => u
      let faults (d : Nat) : Prop := exec (.xbarArrival n) s = .next (took.onFlight fun f =>
        { f with xreplies := f.xreplies ++ [{ party := m.party, record := m.record, result := .inr d, released := false, image := none }] })
      (wrong → faults 4) ∧ (¬wrong → bits.getLsbD (m.member % 64) = true → faults 5) ∧
      (¬wrong → bits.getLsbD (m.member % 64) = false →
        let old := (s.xtimers.find? fun x => decide (x.home = h)).getD { home := h, record := m.record, waiting := [], count := 0 }
        (arrived + 1 ≠ members → exec (.xbarArrival n) s =
          .next (joins { (seen.setHomeWord (some e) h (16 + m.member / 64) (bits ||| (1#64 <<< (m.member % 64)))).setHomeWord (some e) h 0
              (xbarWord0 w g absent (arrived + 1)) with
            xtimers := (s.xtimers.filter fun x => x.home != h) ++
              [{ old with waiting := old.waiting ++ [m.party], count := if arrived = 0 then 0 else old.count }] })) ∧
        (arrived + 1 = members → s.InTheClear → Memory.wf s.mem = true → ∃ t, exec (.xbarArrival n) s = .next t ∧
          ended 0 g t h w ∧ t.dies = (joins seen).dies ∧
          t.flight = { took.flight with
            xreplies := s.flight.xreplies ++ replies (old.waiting ++ [m.party]) old.record 0 g (some (seen.imageOf e)) }))) ∧
    (∀ x, s.xtimers[n]? = some x →
      let w := s.homeWord x.home 0
      let limit := (s.homeWord x.home 1).toNat % 2 ^ 32
      (limit = 0 ∨ x.count < limit ∨ w.toNat / 2 ^ 37 % 2 ^ 11 ≠ 0 → exec (.xbarTimeout n) s = .next s) ∧
      (limit ≠ 0 → limit ≤ x.count → w.toNat / 2 ^ 37 % 2 ^ 11 = 0 → s.InTheClear → Memory.wf s.mem = true →
        ∃ t, exec (.xbarTimeout n) s = .next t ∧ ended 1 (w.toNat / 2 ^ 48) t x.home w ∧ t.dies = s.dies ∧
          t.flight = { s.flight with xreplies := s.flight.xreplies ++ replies x.waiting x.record 1 (w.toNat / 2 ^ 48) none })) ∧
    (∀ m, s.flight.xreplies[n]? = some m →
      let left : State := s.onFlight fun f => { f with xreplies := f.xreplies.eraseIdx n }
      let u : State :=
        match m.image with
        | some g => left.receive (s.partyDie m.party) g
        | none => left
      (∀ uid v, m.party = .crew uid → m.result = .inl v → exec (.xbarReply n) s = .next (u.onCrew uid fun c =>
        match c.wait with
        | some p => { c.setS p.dest v with wait := none, pc := c.pc + 8 }
        | none => c)) ∧
      (∀ uid d c, m.party = .crew uid → m.result = .inr d → s.findCrew uid = some c → c.wait ≠ none → c.absent = none →
        exec (.xbarReply n) s = .next (u.killCrew { c with wait := none } { cause := 13, detail := d, infos := [m.record] })) ∧
      (∀ d pkg pd q v, m.party = .peer d pkg pd q →
        (m.result = .inl v → exec (.xbarReply n) s = .next (u.sendFrame d 3 pkg pd [q, 0, v])) ∧
        ∀ e, m.result = .inr e → exec (.xbarReply n) s = .next (u.sendFrame d 3 pkg pd [q, BitVec.ofNat 64 (16 + e), 0]))) ∧
    (∀ m p, s.flight.phases[n]? = some m → s.io.phases[m.id]? = some p →
      let u : State := (s.onFlight fun f => { f with phases := f.phases.eraseIdx n }).receive 4 m.image
      let joins (c : Crew) : Crew :=
        match c.wait with
        | some x => if x.wait = .phase m.id none then { c with wait := some { x with wait := .phase m.id (some p.gen) } } else c
        | none => c
      let keeps (q : PhaseBarrier) (t : State) : State :=
        t.onIo fun io => { io with phases := io.phases.setIfInBounds m.id q }
      (∀ c, s.findCrew m.uid = some c → c.absent = none →
        (p.expected ≠ 0 → p.expected ≠ m.count → exec (.phaseArrival n) s =
          .next (u.killCrew { c with wait := none } { cause := 13, detail := 2, infos := [BitVec.ofNat 64 m.id] })) ∧
        (p.expected = 0 ∨ p.expected = m.count → p.phase ≠ m.leaving → exec (.phaseArrival n) s =
          .next (u.killCrew { c with wait := none } { cause := 13, detail := 3, infos := [BitVec.ofNat 64 m.id] }))) ∧
      (p.expected = 0 ∨ p.expected = m.count → p.phase = m.leaving →
        (p.arrived + 1 ≠ m.count → exec (.phaseArrival n) s =
          .next (keeps { p with expected := m.count, arrived := p.arrived + 1 } (u.onCrew m.uid joins))) ∧
        (p.arrived + 1 = m.count → exec (.phaseArrival n) s = .next (((keeps
          { phase := !p.phase, expected := 0, arrived := 0, gen := p.gen + 1 } (u.onCrew m.uid joins)).phaseAcquire m.id p.gen).mapCrews fun c =>
            match c.wait with
            | some x =>
              if x.wait = .phase m.id (some p.gen) then
                { c.setS x.dest (BitVec.ofNat 64 ((p.gen + 1).toNat * 2 ^ 48 + (if p.phase then 0 else 1))) with
                  wait := none, pc := c.pc + 8 }
              else c
            | none => c)))) ∧
    (let origin (d : Nat) : W64 := BitVec.ofNat 64 (d * 2 ^ 60 + 13 * 2 ^ 25 + 4 * 2 ^ 21)
     (∀ m, s.flight.absences[n]? = some m → m.die < 16 →
       let u : State := s.onFlight fun f => { f with absences := f.absences.eraseIdx n }
       let w := s.homeWord m.home 0
       let absent := w.toNat / 2 ^ 37 % 2 ^ 11
       let members := w.toNat / 2 ^ 15 % 2 ^ 11
       (members ≤ absent → exec (.proxyAbsenceToken n) s = .next (u.record m.die (origin m.die) false false [m.record])) ∧
       (absent < members → exec (.proxyAbsenceToken n) s =
         .next (u.setHomeWord (some m.die) m.home 0 (xbarWord0 w (w.toNat / 2 ^ 48) (absent + 1) (w.toNat / 2 ^ 26 % 2 ^ 11))))) ∧
     ∀ m, s.flight.presences[n]? = some m → m.die < 16 →
       let u : State := s.onFlight fun f => { f with presences := f.presences.eraseIdx n }
       let w := s.homeWord m.home 0
       let absent := w.toNat / 2 ^ 37 % 2 ^ 11
       (absent = 0 → exec (.presenceToken n) s = .next (u.record m.die (origin m.die) false false [m.record])) ∧
       (absent ≠ 0 → exec (.presenceToken n) s =
         .next (u.setHomeWord (some m.die) m.home 0 (xbarWord0 w (w.toNat / 2 ^ 48) (absent - 1) (w.toNat / 2 ^ 26 % 2 ^ 11)))))

/-! ## The carousel and a die's temperature (R246 to R251, R395) -/

/-- R246 to R251: the carousel starts its next entry on the streamer of the entry's stack, once that is free and, for entry 0, leave
is granted; it fixes the targets and announces the segment, and halts on an invalid entry. Leave is asked of every die with a bound
region. A streamer reads a slice and lands it in the next buffer of a target's ring when that is empty; a slice for a full ring of a
region that stops is dropped and counted. R395: a die trips at 115 degrees. How a restored ring goes on and how many slices a
streamer holds are log 64, when entries and grants take their turn is log 5, and which bytes of a slice that is being written
the stack gives is a free value (log 8). -/
def Obligations.CarouselRotation : Prop :=
  ∀ s : State,
    let c := s.io.carousel
    let i := c.next.toNat
    let base := c.base.toNat + 16 * i
    let w0 := (s.home64 base).toNat
    let w1 := (s.home64 (base + 8)).toNat
    let slices := w1 / 2 ^ 21 % 2 ^ 7
    let m := w0 / 2 ^ 36
    let valid := 1 ≤ slices ∧ slices ≤ 64 ∧ w0 % 2 ^ 20 = 0 ∧ w1 % 2 ^ 21 = 0 ∧ w0 < 0x8000000000
    let frozen (d : Nat) (r : Region) : Prop :=
      r.phase = .preempting ∨ (r.phase = .stopping ∧ ∀ k, k ∈ r.cores → ∀ c, c ∈ (s.core d k).crews → c.atStop = true)
    let held := ∃ d r, d < 4 ∧ r ∈ (s.die d).regions ∧ r.cfg.layer ≠ none ∧ frozen d r
    let busy := ∃ t, c.streamers[m]? = some (some t)
    let onCar (u : State) (f : Carousel → Carousel) : State := u.onIo fun io => { io with carousel := f io.carousel }
    (∀ d temp, exec (.tempSample d temp) s = .next (s.onDie d fun x =>
      { x with gov := { x.gov with temp := temp, trip := x.gov.trip || decide (115 ≤ temp.toNat) } })) ∧
    (c.run = false ∨ held → exec .carouselEntryStart s = .next s) ∧
    (c.run = true → ¬held →
      (c.count = 0 → exec .carouselEntryStart s = .next (onCar s fun c => { c with run := false })) ∧
      (c.count ≠ 0 → i = 0 → c.granted = false → exec .carouselEntryStart s = .next s) ∧
      (c.count ≠ 0 → (i = 0 → c.granted = true) →
        (¬valid → exec .carouselEntryStart s = .next (onCar (s.record 4
          (BitVec.ofNat 64 (4 * 2 ^ 60 + 21 * 2 ^ 25 + i)) false false [BitVec.ofNat 64 i]) fun c =>
            { c with run := false, halted := true })) ∧
        (valid → busy → exec .carouselEntryStart s = .next s) ∧
        (valid → ¬busy → ∃ t x, exec .carouselEntryStart s = .next t ∧ t.mem = s.mem ∧ t.flight = s.flight ∧
          t.io = { s.io with carousel := t.io.carousel } ∧
          t.io.carousel = { c with
            next := BitVec.ofNat 20 ((i + 1) % c.count.toNat), rots := if i + 1 = c.count.toNat then c.rots + 1 else c.rots
            granted := if i = 0 then false else c.granted, started := c.started + 1
            streamers := c.streamers.setIfInBounds m (some x) } ∧
          x.src = w0 ∧ x.slices = slices ∧ x.next = 0 ∧ x.ready = s.now + c.lead.toNat ∧ x.order = c.started ∧ x.held = [] ∧
          (∀ d g cores, (d, g, cores) ∈ x.targets ↔ d < 4 ∧ ∃ r, r ∈ (s.die d).regions ∧
            r.cfg.layer = some (BitVec.ofNat 16 (w1 / 2 ^ 48)) ∧ r.cfg.num = g ∧ r.cores = cores) ∧
          ∀ d g l r k, d < 4 → (s.die d).region g = some r → (s.die d).lock g l = some k →
            (t.die d).lock g l = some (if r.cfg.layer = some (BitVec.ofNat 16 (w1 / 2 ^ 48)) ∧ k.phen = true ∧
              k.pseg = w1 / 2 ^ 28 % 2 ^ 20 then { k with phaseEvent := true } else k)))) ∧
    (let bound (d : Nat) : Prop := ∃ r, r ∈ (s.die d).regions ∧ r.cfg.layer ≠ none
     let due := c.run = true ∧ c.count ≠ 0 ∧ c.next = 0 ∧ c.granted = false ∧ c.asked = none
     (¬due → exec .carouselRotationLeave s = .next s) ∧
     (due → (∀ d, d < 4 → ¬bound d) → exec .carouselRotationLeave s = .next (onCar s fun c => { c with granted := true })) ∧
     (due → (∃ d, d < 4 ∧ bound d) → ∃ t ds, exec .carouselRotationLeave s = .next t ∧ (∀ d, d ∈ ds ↔ d < 4 ∧ bound d) ∧
       t.io.carousel = { c with asked := some ds } ∧ t.mem = s.mem ∧
       ∀ d, d < 4 → (¬bound d → t.die d = s.die d) ∧ (bound d → ∀ a, a ∈ (t.die d).gov.queue ↔ a ∈ (s.die d).gov.queue ∨
         a = { who := .carousel, amount := (s.die d).gov.carAmount.toNat, since := s.now }))) ∧
    (∀ (n d g k : Nat) (t : Streamer), c.streamers[n]? = some (some t) → t.held = [] → t.targets = [(d, g, [k])] →
      t.next < t.slices → d < 4 → k < 64 →
      let buf := 176 + (s.core d k).ring % 16
      let first := t.src + 16384 * t.next
      let puts (u : State) (x : Streamer) : State := onCar u fun c =>
        { c with streamers := c.streamers.setIfInBounds n (if x.slices ≤ x.next ∧ x.held = [] then none else some x) }
      let read : State := { s with free := s.free + 256 }
      let oldest := ∀ (q : Nat) (x : Streamer), c.streamers[q]? = some (some x) → t.order ≤ x.order
      let stops := ∃ r, (s.die d).region g = some r ∧ frozen d r
      (∀ p, p ∈ s.stack → ¬(first ≤ p.1 ∧ p.1 < first + 16384)) →
      (s.now < t.ready → exec (.carouselSlice n) s = .next s) ∧
      (t.ready ≤ s.now → (s.core d k).full.getLsbD buf = true → stops → oldest → exec (.carouselSlice n) s =
        .next (puts (onCar read fun c => { c with bufWait := if c.bufWait = 0xFFFFFFFF then c.bufWait else c.bufWait + 1 })
          { t with next := t.next + 1, held := [] })) ∧
      (t.ready ≤ s.now → (s.core d k).full.getLsbD buf = true → ¬stops → ∃ h, exec (.carouselSlice n) s =
        .next (puts read { t with next := t.next + 1, held := [h] }) ∧ h.src = first ∧ h.slice = t.next ∧ h.targets = [(d, g)] ∧
        ∀ j, j < 16384 → h.bytes[j]? = some (s.homeByte 0 (first + j))) ∧
      (t.ready ≤ s.now → (s.core d k).full.getLsbD buf = false → s.NoLog → s.memMarks = [] → Memory.wf s.mem = true →
        oldest →
        ∃ w, WritesCells read w (0xC0 * 2 ^ 56 + d * 2 ^ 52 + k * 2 ^ 46 + 16384 * buf) 16384
            (natOfBytes ((List.range 16384).map fun j => s.homeByte 0 (first + j))) ∧
          exec (.carouselSlice n) s = .next (puts (w.onCore d k fun x =>
            { x with full := x.full ||| (1#256 <<< buf), ring := x.ring + 1 }) { t with next := t.next + 1, held := [] })))

/-! ## Errors, reports and samples (R301, R340, R351, R368, R384 to R387) -/

/-- R301, R340, R351, R368 and R384 to R387: an evicted line goes home; a detected error marks its unit and is recorded, one that no
record can mark with FATAL; the I/O die takes records in die order and sends them in runs of one die within the window, a fatal one
ahead of all; an order gate whose crew has gone diverges and goes on; a sample traces the next crew of a traced region. Into which
buffered record one merges is log 15, where a run is cut log 66, the detail of an error that no record can mark log 75. -/
def Obligations.ErrorsAndReports : Prop :=
  ∀ (s : State) (d : Nat), d < 4 →
    (∀ n, (s.die d).dirty[n]? = none → exec (.l1Writeback d n) s = .next s) ∧
    (∀ n x, (s.die d).dirty[n]? = some x → s.InTheClear → Memory.wf s.mem = true → (x.bytes.map Prod.fst).Nodup →
      (∀ (k : Nat) (y : DirtyLine), (s.die d).dirty[k]? = some y → k ≠ n → ¬(y.line = x.line ∧ y.key = x.key)) →
      ∃ t, exec (.l1Writeback d n) s = .next t ∧ (∀ j, t.cell j = ((x.bytes.find? fun p => p.1 == j).map Prod.snd).getD (s.cell j)) ∧
        (∀ w, w ∈ t.memMarks ↔ if x.covers w || x.marks.contains w then w ∈ x.marks else w ∈ s.memMarks) ∧
        t = { s.onDie d (fun y => { y with dirty := y.dirty.eraseIdx n }) with
          mem := t.mem, memMarks := t.memMarks, stamps := t.stamps, stack := t.stack }) ∧
    (exec (.softErrorCorrected d) s = .next (s.onDie d fun y => { y with dbg := { y.dbg with softFix := y.dbg.softFix + 1 } })) ∧
    (∀ key, let k := key / 8 * 8
      (s.keyOk key = false → exec (.dataErrorDetected (.word d key)) s = .next s) ∧
      (s.keyOk key = true →
        let told : State := s.record d
          (BitVec.ofNat 64 (d * 2 ^ 60 + 15 * 2 ^ 25 + (if k / 2 ^ 56 = 0xC0 then 3 else 2) * 2 ^ 21)) false true [BitVec.ofNat 64 k]
        let holds (l : DirtyLine) : Bool := l.bytes.any fun p => p.1 / 8 = k / 8
        ((∀ l, l ∈ (s.die d).dirty → holds l = false) → exec (.dataErrorDetected (.word d key)) s = .next (told.setMark k)) ∧
        ((∃ l, l ∈ (s.die d).dirty ∧ holds l = true) → exec (.dataErrorDetected (.word d key)) s = .next (told.onDie d fun y =>
          { y with dirty := y.dirty.map fun l =>
              if holds l = true then { l with marks := if k / 8 ∈ l.marks then l.marks else k / 8 :: l.marks } else l })))) ∧
    (∀ uid reg lane c, s.findCrew uid = some c → reg < 256 → lane < 1024 →
      exec (.dataErrorDetected (.vreg uid reg lane)) s = .next ((s.record c.place.die (c.origin 15 1) false true
        [BitVec.ofNat 64 reg, BitVec.ofNat 64 lane]).onCrew uid fun y =>
          { y with vregs := modifyVec y.vregs reg fun v => { v with marks := v.marks ||| (1#1024 <<< lane) } })) ∧
    (∀ i b, s.barge d i = some b →
      let origin : W64 := BitVec.ofNat 64 (d * 2 ^ 60 + 15 * 2 ^ 25 + 4 * 2 ^ 21)
      let at_ : List W64 := [BitVec.ofNat 64 (0xD0 * 2 ^ 56 + d * 2 ^ 52 + 64 * i)]
      let first := s.record d origin false true at_
      (b.flags.getLsbD 0 = true → exec (.dataErrorDetected (.barge d i)) s =
        .next (first.onDie d fun x => { x with barges := assocSet x.barges i { b with marked := true } })) ∧
      (b.flags.getLsbD 0 = false → ∃ t, exec (.dataErrorDetected (.barge d i)) s = .next t ∧
        t.barge d i = some { b with marked := true, flags := b.flags ||| 1, origin := origin, poisonSeq := (first.die d).evseq } ∧
        (t.die d).faults = ((first.record d origin false false at_).die d).faults)) ∧
    (exec (.dataErrorDetected (.unmarkable d)) s =
      .next (s.record d (BitVec.ofNat 64 (d * 2 ^ 60 + 15 * 2 ^ 25)) true false [])) ∧
    (∀ (r : FaultRecord) (e : Nat), (s.faultsOf e).fatal = some r → e < 5 →
      ((s.faultsOf e).fatalSent = true → exec (.fatalRecord e) s = .next s) ∧
      ((s.faultsOf e).fatalSent = false → ∃ t, exec (.fatalRecord e) s = .next t ∧ (t.faultsOf e).fatalSent = true ∧
        t.io.sent = s.io.sent + 1 ∧ t.io.events = s.io.events ∧ t.toHost = s.toHost ++ [reportMsg e [r]])) ∧
    (∀ e rs, (reportMsg e rs).payload = rs.flatMap (fun r =>
        [r.origin, BitVec.ofNat 64 ((if r.fatal then 2 ^ 63 else 0) + (if r.notConsumed then 2 ^ 62 else 0) + r.seq.toNat)] ++
          ((List.range 6).map fun i => (r.infos[i]?).getD 0) ++ [r.merged, r.lastSeq.setWidth 64]) ∧
      (reportMsg e rs).arg = BitVec.ofNat 64 rs.length ∧
      (reportMsg e rs).head = BitVec.ofNat 64 (5 * 2 ^ 60 + e * 2 ^ 52 + 10 * rs.length)) ∧
    (s.io.events.length + 5 ≤ 512 → ∃ t, exec .eventQueueTake s = .next t ∧
      t.io.events = s.io.events ++ (List.range 5).filterMap (fun e => ((s.faultsOf e).entries.head?).map fun r => (e, r)) ∧
      (∀ e, e < 5 → t.faultsOf e = { s.faultsOf e with entries := (s.faultsOf e).entries.tail }) ∧ t.mem = s.mem ∧
      t.toHost = s.toHost) ∧
    (let due := ∃ e, e < 5 ∧ (s.faultsOf e).fatal ≠ none ∧ (s.faultsOf e).fatalSent = false
     let room := s.io.evqAck + s.io.evqWin.toNat - s.io.sent
     (due ∨ s.io.events = [] ∨ room = 0 → exec .faultReport s = .next s) ∧
     (∀ e rs rest, ¬due → s.io.events = rs.map (fun r => (e, r)) ++ rest → rs ≠ [] → rs.length ≤ min 32 room →
       rs.length = min 32 room ∨ (∀ x, rest.head? = some x → x.1 ≠ e) →
       exec .faultReport s = .next { s.onIo (fun io => { io with events := rest, sent := io.sent + rs.length }) with
         toHost := s.toHost ++ [reportMsg e rs] })) ∧
    (let g := (s.die d).dbg
     let cs := (s.die d).crews.filter fun c => (s.die d).traces c.region
     let rank (c : Crew) : Nat := 4 * c.place.core + c.place.berth
     let from_ := (g.sampled.map fun p => 4 * p.1 + p.2 + 1).getD 0
     let due := g.traceEn = true ∧ g.sample ≠ 0 ∧ g.lastSample + g.sample.toNat ≤ s.now
     let sampled (c : Crew) : Prop := exec (.traceSample d) s = .next ((s.onDie d fun y =>
       { y with dbg := { y.dbg with lastSample := s.now, sampled := some (c.place.core, c.place.berth) } }).trace d 2 c.naming
         c.wcnt ((summaryOf c.cur).setWidth 64) (if (s.recorderOf d).mode = 0 then 0xFFFF else c.cid.setWidth 64) 0)
     (¬due → exec (.traceSample d) s = .next s) ∧
     (due → (cs = [] → exec (.traceSample d) s =
         .next (s.onDie d fun y => { y with dbg := { y.dbg with lastSample := s.now } })) ∧
       (∀ pre c post, cs = pre ++ c :: post → (∀ y, y ∈ pre → rank y < from_) → from_ ≤ rank c → sampled c) ∧
       ∀ c rest, cs = c :: rest → (∀ y, y ∈ cs → rank y < from_) → sampled c)) ∧
    (∀ kind point (p : PointKind), (kind, p) ∈ [(0, PointKind.bank), (1, PointKind.subSlice), (2, PointKind.tilePort), (3, PointKind.lock)] →
      ((s.die d).recorder.mode ≠ 2 ∨ (∀ c, c ∈ (s.die d).recorder.chunks → ¬(c.kind = p ∧ c.point = point)) →
        exec (.orderGate d kind point) s = .next s) ∧
      ∀ pre c post, (s.die d).recorder.mode = 2 → (s.die d).recorder.chunks = pre ++ c :: post → c.kind = p → c.point = point →
        (∀ y, y ∈ pre → ¬(y.kind = p ∧ y.point = point)) →
        let home := if p = .lock then c.src else d
        let gone := (s.recorderOf home).hasStarted c.cid = true ∧ s.cidActive home c.cid = false
        (¬gone → exec (.orderGate d kind point) s = .next s) ∧
        (gone → exec (.orderGate d kind point) s = .next ((s.diverge d c.seq c.cid 5).onRecorder d fun x =>
          { x with chunks := pre ++ post })))

/-! ## Partitions, pre-emption, flush and debug stop (R252, R277, R278, R354 to R361, R371 to R373) -/

/-- PRESTAT of a die shows a request, with ERR or DONE set when so given (R355). -/
def shownAt (u : State) (d g k : Nat) (err done : Bool) : State :=
  u.onDie d fun y => { y with regs := { y.regs with
    statRegion := g, statKind := k, preErr := y.regs.preErr || err, preDone := y.regs.preDone || done } }

/-- The bytes of the save area of a region (R356). -/
def areaBytes (r : Region) : Nat := 2 ^ 21 + r.cores.length * (2 ^ 24 + (r.cfg.privPool + 2 ^ 20 - 1) / 2 ^ 20 * 2 ^ 20)

/-- A region has left its cores: it is not resident, its cores are free, and no other region of its die has changed. -/
def LeftItsCores (s t : State) (d g : Nat) (r : Region) : Prop :=
  (t.die d).region g = none ∧ (∀ k, k ∈ r.cores → (t.core d k).region = none ∧ (t.core d k).crews = []) ∧
    ∀ h, h ≠ g → (t.die d).region h = (s.die d).region h

/-- A saved region stands on cores again, each with the crews of its saved core on the same berths, which keep their identity,
CID and FP (R359). -/
def StandsAgain (t : State) (d g : Nat) (y : SavedRegion) (cores : List Nat) (phase : RegionPhase) : Prop :=
  (t.die d).savedRegion g = none ∧ (∃ z, (t.die d).region g = some z ∧ z.cores = cores ∧ z.phase = phase) ∧
    ∀ (i k : Nat) (x : SavedCore), cores[i]? = some k → y.cores[i]? = some x →
      (t.core d k).region = some g ∧ ∀ b, b < 4 →
        (t.crewAt { die := d, core := k, berth := b }).map (fun c => (c.uid, c.cid, c.fp)) =
          ((x.berths[b]?).join).map fun (c : Crew) => (c.uid, c.cid, c.fp)

/-- R8, R252, R277 and R278: a requested partition is swapped in at a reconfiguration boundary: the old one is kept, with REFUSED
and the REASON, when its tables do not pass the checks, and a read that fails is recorded. One that passes replaces the old partition
and latches PTROOT; regions that it lists at the same address and VERSION stay. A node of it names no reserved die. That a refused
swap keeps the old root is the model's reading (log 37). -/
def Obligations.PartitionSwaps : Prop :=
  ∀ (s : State) (d : Nat), d < 4 →
    let x := s.die d
    let boundary := x.crews = [] ∧ (∀ p, p ∈ x.cores → p.2.drained = true) ∧ x.collector = none ∧ x.collectQueue = []
    let refused (u : State) (why : Nat) : State := u.onDie d fun y => { y with regs := { y.regs with
      swapping := false, refused := true, partReason := BitVec.ofNat 8 why } }
    (x.regs.swapping = false ∨ ¬boundary → exec (.partitionSwap d) s = .next s) ∧
    (x.regs.swapping = true → boundary →
      (∀ n, s.readPartition d x.regs.ptRoot x.regs.partBase = .error (n, none) → exec (.partitionSwap d) s = .next (refused s n)) ∧
      (∀ n f, s.readPartition d x.regs.ptRoot x.regs.partBase = .error (n, some f) → exec (.partitionSwap d) s =
        .next (refused (s.record d (noCrewOrigin d 0 0 f.cause f.detail 0) false false [f.addr]) n)) ∧
      (∀ p, s.readPartition d x.regs.ptRoot x.regs.partBase = .ok p → p.adapters = [] → p.part.sources = [] →
        (∀ q, x.part = some q → q.sources = []) → (∀ r, r ∈ x.regions → ∃ g, g ∈ p.part.regions ∧ g.num = r.cfg.num ∧
          g.addr = r.cfg.addr ∧ g.version = r.cfg.version) →
        ∃ t, exec (.partitionSwap d) s = .next t ∧ (t.die d).part = some p.part ∧ (t.die d).regions = x.regions ∧
          (t.die d).regs = { x.regs with latchedRoot := x.regs.ptRoot, swapping := false, refused := false, partReason := 0 } ∧
          (∀ g k, (g, k) ∈ (t.die d).discarding ↔ (g, k) ∈ x.discarding ∧ ∃ c, c ∈ p.part.regions ∧ c.num = g) ∧
          t.mem = s.mem ∧ t.io = s.io ∧ ∀ e, e ≠ d → t.die e = s.die e)) ∧
    (∀ root a, topByte a ≠ 0 → s.readPartition d root a = .error (5, some { cause := 6, detail := 4, addr := a })) ∧
    (∀ (root a : W64) (e : Nat), topByte a = 0 → s.sysPlace root false a = .error e →
      s.readPartition d root a = .error (5, some { cause := 6, detail := e, addr := a })) ∧
    (∀ root a p, topByte a = 0 → s.sysPlace root false a = .ok p → s.homeMarked p 8 = true →
      s.readPartition d root a = .error (5, some { cause := 15, detail := 2, addr := a })) ∧
    (∀ root a p n, s.readPartition d root a = .ok p → n ∈ p.part.nodes → ∃ ws, s.readWords root n 16 = .ok ws ∧
      nodeKind (wordAt ws 0) ≠ 0 ∧ nodeKind (wordAt ws 0) < 5 ∧
      (nodeKind (wordAt ws 0) ≠ 3 → (wordAt ws 4).toNat % 16 < 5 ∨ 7 < (wordAt ws 4).toNat % 16)) ∧
    ∀ root a p, s.readPartition d root a = .ok p → ∃ ws, s.readWords root a 8 = .ok ws ∧ p.part.addr = a ∧
      p.part.regions.length = (wordAt ws 0).toNat / 2 ^ 40 % 2 ^ 8 ∧ p.part.nodes.length = (wordAt ws 0).toNat / 2 ^ 48 ∧
      p.part.sources.length = (wordAt ws 0).toNat / 2 ^ 32 % 2 ^ 8 ∧ p.part.regions.Pairwise (fun g h => g.num ≠ h.num) ∧
      ∀ e q n, e < 4 → e ≠ d → (s.die e).part = some q → n ∈ q.nodes → n ∉ p.part.nodes

/-- R341, R354 to R356: PRECTL and the scheduler ask the collector to pre-empt a region; a busy collector takes no write of PRECTL,
and a region that is not resident or does not run, or whose save does not fit, is refused with ERR. While an order point holds an
access of the region for a crew that stands saved, the scheduler asks for no pre-emption of it. The collector waits for every
acknowledgement, of which a class is in when nothing of it stands inside an access or a chunk, then saves the region off its cores
and sets DONE. R359: a saved region returns to free cores, on the berths it had, unless the header of its area differs from its
descriptor. The SEQ of the save, what of it lies beside the image, and ACK during a flush are the model's (logs 21, 52, 77, 79). -/
def Obligations.PreemptionAndRestore : Prop :=
  ∀ (s : State) (d g : Nat), d < 4 → s.NoLog →
    let x := s.die d
    let free := x.collector = none ∧ x.collectQueue = []
    let nothingHeld := ∀ c, c ∈ x.crews → c.region = g → c.begun.isAccess = false
    let asked (u : State) : State := u.onDie d fun y => { y with regs := { y.regs with preRegion := g, preKind := 1 } }
    let req : Collect := { region := g, kind := .preempt, since := s.now, fromWalk := false }
    let engaged (u : State) : State := (u.onRegion d g fun r => { r with phase := .preempting }).onDie d fun y =>
      { y with collector := some req, regs := { y.regs with ack := 0 } }
    ((∃ q, (x.collector = some q ∨ q ∈ x.collectQueue) ∧ q.kind.isStop = false) → exec (.preempt d g) s = .next s) ∧
    (free → (∀ r, x.region g = some r → r.phase ≠ .running ∨
        x.regs.saveStride.toNat < areaBytes r) →
      exec (.preempt d g) s = .next (shownAt (asked s) d g 1 true false) ∧
      (nothingHeld → exec (.schedulerPreemptionRequest d g) s = .next (shownAt s d g 1 true false))) ∧
    (∀ r, free → x.region g = some r → r.phase = .running → areaBytes r ≤ x.regs.saveStride.toNat →
      (∀ c, c ∈ s.regionCrews d r → c.tie = none ∨ c.absent ≠ none) →
      exec (.preempt d g) s = .next (shownAt (engaged (asked s)) d g 1 false false) ∧
      (nothingHeld → exec (.schedulerPreemptionRequest d g) s = .next (shownAt (engaged s) d g 1 false false))) ∧
    (∀ c e k p h y w, c ∈ x.crews → c.region = g → c.begun = .access e k p → (s.recorderOf e).current k p = some h →
      y ∈ (s.die e).saved → (∃ o, o ∈ y.cores ∧ some w ∈ o.berths.toList) → w.cid = h.cid →
      exec (.schedulerPreemptionRequest d g) s = .next s) ∧
    (∀ q r, x.collector = some q → q.kind = .preempt → q.region = g → x.region g = some r →
      let crews := ∀ c, c ∈ s.regionCrews d r → c.begun.isAccess = false
      let matrix := ∀ c, c ∈ r.cores → ∀ m, (s.matrix d c).running = some m → m.group = 0 ∧ m.half = false ∧ m.rerun = false
      let copies := ∀ c, c ∈ r.cores → ∀ y, y ∈ (s.core d c).chans.toList → ∀ j, j ∈ y.jobs → j.chunk = none
      let acks : BitVec 8 := 0b11001000 ||| (if crews then 1 else 0) ||| (if matrix then 2 else 0) ||| (if copies then 4 else 0) |||
        (if r.cfg.layer = none ∨ s.carouselQuiet d r = true then 16 else 0) ||| (if s.banksQuiet d r = true then 32 else 0)
      (acks ≠ 0xFF → exec (.collectorSave d) s = .next (s.onDie d fun y => { y with regs := { y.regs with ack := acks } })) ∧
      (acks = 0xFF → x.collectQueue = [] → x.savedRegion g = none → ∃ t y, exec (.collectorSave d) s = .next t ∧
        LeftItsCores s t d g r ∧ (t.die d).savedRegion g = some y ∧ y.stopped = false ∧ y.seq = x.evseq ∧
        y.cores = r.cores.map (fun k => (s.core d k).saved) ∧ y.region = { r with phase := .preempting } ∧
        (t.die d).collector = none ∧ (t.die d).regs.ack = 0xFF ∧ (t.die d).regs.preDone = true ∧
        (t.die d).regs.statRegion = g ∧ (t.die d).regs.statKind = 1)) ∧
    (∀ y c, x.savedRegion g = some y → x.declaredRegion g = some c →
      (y.stopped = true ∨ x.freeCores.length < y.region.cores.length ∨ x.regs.swapping = true ∨
        (∃ q, x.collector = some q ∧ q.region = g) → exec (.restore d g) s = .next s) ∧
      (y.stopped = false → y.region.cores.length ≤ x.freeCores.length → x.regs.swapping = false →
        (∀ q, x.collector = some q → q.region ≠ g) → s.memMarks = [] → x.region g = none →
        let w := (s.home64 (x.regs.saveBase.toNat + g * x.regs.saveStride.toNat)).toNat
        let fits := w % 2 ^ 16 = c.version.toNat ∧ w / 2 ^ 16 % 2 ^ 8 = c.num ∧ w / 2 ^ 24 % 2 ^ 8 = c.coreCount
        (fits → ∃ t, exec (.restore d g) s = .next t ∧
          StandsAgain t d g y (((List.range 64).filter fun k => (s.core d k).region = none ∧
            ∀ r, r ∈ x.saved → r.stopped = true → k ∉ r.region.cores).take y.region.cores.length) .running) ∧
        (¬fits → ∃ t, exec (.restore d g) s = .next t ∧ (t.die d).savedRegion g = none ∧ (t.die d).regions = x.regions)))

/-- R360 and R361: PRECTL flushes a region. A resident one takes the flush configuration: its locks discard, each of its crews
meets an EXIT, its channels, streams and matrix queues are emptied, but for a copy that runs, which ends in error with its chunk.
One that is neither resident nor saved is refused with ERR. The region is freed once its occupancy tree reports no tokens, and is
then discarding, until a node of it is idle again or no partition lists it. What counts as started, what ACK shows and which node
ends the discarding are the model's readings (logs 58, 59, 78, 79). -/
def Obligations.FlushesAndDiscarding : Prop :=
  ∀ (s : State) (d g : Nat), d < 4 →
    let x := s.die d
    let free := x.collector = none ∧ x.collectQueue = []
    (∀ k i, (k, i) ∈ [(2, Instr.flushCancel d g), (3, Instr.flushPoison d g)] →
      ((∃ q, (x.collector = some q ∨ q ∈ x.collectQueue) ∧ q.kind.isStop = false) → exec i s = .next s) ∧
      (free → x.region g = none → x.savedRegion g = none → exec i s =
        .next (shownAt (s.onDie d fun y => { y with regs := { y.regs with preRegion := g, preKind := k } }) d g k true false)) ∧
      (∀ r, free → x.region g = some r → r.phase ≠ .stopping → s.nodesOf d g = [] →
        (∀ c, c ∈ s.regionCrews d r → s.crewAt c.place = some c) → ∃ t, exec i s = .next t ∧
        (t.die d).collector = some { region := g, kind := .flush k, since := s.now, fromWalk := false } ∧
        (t.die d).regs = { x.regs with preRegion := g, preKind := k, statRegion := g, statKind := k, ack := 0 } ∧
        (∃ z, (t.die d).region g = some z ∧ z.phase = .flushing k ∧ z.cores = r.cores ∧
          ∀ l, l ∈ z.cfg.locks → l.discarding = some k) ∧
        (∀ c, c ∈ s.regionCrews d r → ∃ c', t.crewAt c.place = some c' ∧ c'.exitPending = true ∧
          c'.uid = c.uid) ∧
        ∀ e, e ∈ r.cores →
          (∀ n, n < 16 → (t.chan d e n).tokens = [] ∧ (t.chan d e n).rows = [] ∧ (t.chan d e n).jobs.length ≤ 1 ∧
            ∀ j, j ∈ (t.chan d e n).jobs → j.bad = true ∧ ∃ y, j.chunk = some y ∧ j.len = j.off + y.bytes.length) ∧
          (∀ n, n < 8 → (t.stream d e n).state ≠ .ready ∧ (t.stream d e n).state ≠ .running ∧ (t.stream d e n).rows = [] ∧
            (t.stream d e n).tails = []) ∧
          (t.matrix d e).queue = [] ∧ (t.matrix d e).drainActive = none ∧ (t.matrix d e).drainPending = none ∧
          (t.matrix d e).drainRows = [] ∧ ∀ m, (t.matrix d e).running = some m → m.group ≠ 0 ∨ m.half = true ∨ m.rerun = true)) ∧
    (∀ q k r, x.collector = some q → q.kind = .flush k → q.region = g → x.region g = some r →
      let empty := (∀ c, c ∈ r.cores → (s.core d c).crews = [] ∧ (s.core d c).still = true ∧ (s.matrix d c).drainRows = [] ∧
          (∀ n, n < 16 → (s.chan d c n).tokens = [] ∧ (s.chan d c n).rows = []) ∧ ∀ n, n < 8 → (s.stream d c n).rows = []) ∧
        (∀ l, l ∈ r.cfg.locks → l.slots = [] ∧ l.canal = 0) ∧ ∀ b, b ∈ x.sent → b.region ≠ g
      (¬empty → ∃ a, exec (.regionFreed d g) s = .next (s.onDie d fun y => { y with regs := { y.regs with ack := a } })) ∧
      (empty → x.collectQueue = [] → ∃ t, exec (.regionFreed d g) s = .next t ∧ LeftItsCores s t d g r ∧
        (t.die d).discarding = x.discarding.filter (fun p => p.1 != g) ++ [(g, k)] ∧
        (t.die d).collector = none ∧ (t.die d).regs.preDone = true)) ∧
    (let op (n : W64) : Prop := (s.sys64 d n).toNat / 2 ^ 60 = 1
     let idle (n : W64) : Prop := (s.sys64 d n).toNat / 2 ^ 57 % 8 = 0 ∧ nodeCount (s.sys64 d n) = 0
     let ended := x.declaredRegion g = none ∨ ∃ n, n ∈ s.nodesOf d g ∧ idle n ∧ (op n ∨ ∀ m, m ∈ s.nodesOf d g → ¬op m)
     (ended → exec (.discardingEnd d g) s =
       .next (s.onDie d fun y => { y with discarding := y.discarding.filter fun p => p.1 != g })) ∧
     (¬ended → exec (.discardingEnd d g) s = .next s))

/-- R356, R371 to R373: a write of STOP to a resident region that is not confidential, and whose save fits its area, writes a
kind-4 record and stops its handlers and locks; one that does not fit sets ERR. The collector saves the region, with STOPPED, once its
crews are held and nothing of it is in flight. A stop that LIMIT ends is abandoned with FAILED. RESUME restores the region onto its
held cores, with STEP for one step. BUSY during a stop, the moment of the record and a step that cannot be saved are the model's
readings (logs 53, 65). -/
def Obligations.DebugStops : Prop :=
  ∀ (s : State) (d : Nat) (v : W64), d < 4 →
    let x := s.die d
    let g := v.toNat / 2 ^ 40 % 2 ^ 8
    let put : State := s.onDie d fun y => { y with dbg := { y.dbg with
      stopRegion := g, stopLimit := v.toNat / 2 ^ 24 % 2 ^ 16, stopStep := v.getLsbD 4
      stopFailed := y.dbg.stopFailed && !v.getLsbD 3 } }
    let named (r : Region) : Naming := { region := r.cfg.num, version := r.cfg.version, handler := 0, poff := 0 }
    let req (b : Nat) (n : Naming) : Collect := { region := g, kind := .stop b n, since := s.now, fromWalk := false }
    let whole : Naming := { region := g, version := 0, handler := 0, poff := 0 }
    (v &&& 0xFFFF000000FFFFE0 ≠ 0 ∨ v.getLsbD 0 = v.getLsbD 1 →
      exec (.dbgstopStop d v) s = .next s ∧ exec (.dbgstopResume d v) s = .next s) ∧
    (v &&& 0xFFFF000000FFFFE0 = 0 → v.getLsbD 0 = true → v.getLsbD 1 = false → exec (.dbgstopResume d v) s = .next s ∧
      (x.region g = none ∨ (∃ r, x.region g = some r ∧ s.confidential d r.cfg = true) → exec (.dbgstopStop d v) s = .next s) ∧
      (∀ r, x.region g = some r → s.confidential d r.cfg = false → r.phase = .running → x.collector = none →
        x.collectQueue = [] → x.regs.saveStride.toNat < areaBytes r → exec (.dbgstopStop d v) s =
          .next (put.onDie d fun y => { y with regs := { y.regs with preErr := true } })) ∧
      (∀ r, x.region g = some r → s.confidential d r.cfg = false → r.phase = .running → x.collector = none →
        x.collectQueue = [] → areaBytes r ≤ x.regs.saveStride.toNat → exec (.dbgstopStop d v) s = .next (((put.trace d 4 (named r) 0 2 0 0).onRegion d g fun r =>
          { r with phase := .stopping }).onDie d fun y =>
            { y with collector := some (req 2 (named r)), regs := { y.regs with ack := 0 } }))) ∧
    (v &&& 0xFFFF000000FFFFE0 = 0 → v.getLsbD 0 = false → v.getLsbD 1 = true → exec (.dbgstopStop d v) s = .next s ∧
      ((∀ y, x.savedRegion g = some y → y.stopped = false) ∨ x.declaredRegion g = none → exec (.dbgstopResume d v) s = .next s) ∧
      (∀ y c, x.savedRegion g = some y → y.stopped = true → x.declaredRegion g = some c → s.memMarks = [] → x.region g = none →
        let w := (s.home64 (x.regs.saveBase.toNat + g * x.regs.saveStride.toNat)).toNat
        let fits := w % 2 ^ 16 = c.version.toNat ∧ w / 2 ^ 16 % 2 ^ 8 = c.num ∧ w / 2 ^ 24 % 2 ^ 8 = c.coreCount
        let steps := v.getLsbD 4 = true ∧ areaBytes y.region ≤ x.regs.saveStride.toNat
        (fits → x.collector = none → x.collectQueue = [] → ∃ t z, exec (.dbgstopResume d v) s = .next t ∧
          (t.die d).savedRegion g = none ∧ (t.die d).region g = some z ∧ z.cores = y.region.cores ∧
          z.phase = (if steps then .stopping else .running) ∧
          (t.die d).collector = if steps then some (req 0 whole) else none) ∧
        (¬fits → ∃ t, exec (.dbgstopResume d v) s = .next t ∧ (t.die d).savedRegion g = none ∧ (t.die d).regions = x.regions))) ∧
    (∀ q r, x.collector = some q → q.kind.isStop = true → x.region q.region = some r →
      (s.regionHeld d r = false → exec (.regionStopped d) s = .next s) ∧
      (s.regionHeld d r = true → s.NoLog → x.collectQueue = [] → x.savedRegion q.region = none →
        ∃ t y, exec (.regionStopped d) s = .next t ∧ LeftItsCores s t d q.region r ∧ (t.die d).savedRegion q.region = some y ∧
          y.stopped = true ∧ y.region.cores = r.cores ∧ (t.die d).collector = none) ∧
      (x.dbg.stopLimit = 0 ∨ s.now < q.since + 1024 * x.dbg.stopLimit → exec (.stopAbandon d) s = .next s) ∧
      (x.dbg.stopLimit ≠ 0 → q.since + 1024 * x.dbg.stopLimit ≤ s.now → x.collectQueue = [] →
        ∃ t, exec (.stopAbandon d) s = .next t ∧ (t.die d).collector = none ∧ (t.die d).dbg.stopFailed = true ∧
          (∃ z, (t.die d).region q.region = some z ∧ z.phase = .running ∧ z.cfg = r.cfg ∧ z.cores = r.cores)))

/-! ## Registers of the 0xE0 path (R10, R247, R277, R300, R305 to R310, R315, R328, R353, R355, R365, R372 to R376, R384 to R394) -/

/-- The address of a die-block register (R308). -/
def dieReg (d off : Nat) : W64 := BitVec.ofNat 64 (0xE0 * 2 ^ 56 + d * 2 ^ 52 + off)

/-- R10 and R308: a write of a register whose reserved bits are all zero sets the fields that its map makes writable, clears the
W1C fields that it writes a one to, and does nothing else; a write with a reserved bit set, or where the register's own rule
forbids it, is not performed. The registers of a compute die, of the I/O die, of a core, and the saved berth records of a stopped
region, whose block answers BUSY while no region that owns the berth stands stopped (R372). What a value outside a field's range
does, and the write rules at one another's edges, are the model's readings (logs 51, 61). -/
def Obligations.RegisterWrites : Prop :=
  ∀ (s : State) (v : W64),
    let put (i : Instr) (mask : W64) (t : State) : Prop :=
      (v &&& mask ≠ 0 → exec i s = .next s) ∧ (v &&& mask = 0 → exec i s = .next t)
    let f (lo n : Nat) : Nat := v.toNat / 2 ^ lo % 2 ^ n
    (∀ d, d < 4 →
      let x := s.die d
      let regs (h : DieRegs → DieRegs) : State := s.onDie d fun y => { y with regs := h y.regs }
      let dbg (h : Debug → Debug) : State := s.onDie d fun y => { y with dbg := h y.dbg }
      (∀ off mask t, (off, mask, t) ∈ ([
        (0x08, 0xFFFFFF00FFFFFFFC, regs fun y => { y with refused := y.refused && !v.getLsbD 1 }),
        (0x10, 0x7E, s), (0x40, 0xFFFFFFFFFFFFF000, s), (0xA0, 0xFFFF000000000000, s), (0x138, 0, s), (0x140, 0, s),
        (0x130, 0xFFFFFFFFFFF00000, s), (0x160, 0x7F0000FF80000000, s),
        (0x18, 0xFFFF00000001FFFE, regs fun y => { y with ptRoot := v }),
        (0x38, 0xFFFFF, regs fun y => { y with landBase := v }),
        (0x68, 0xFF0000FCFFFFFFF8, regs fun y =>
          { y with preErr := y.preErr && !v.getLsbD 2, preDone := y.preDone && !v.getLsbD 1 }),
        (0x70, 0xFFFF0000001FFFFF, regs fun y => { y with saveBase := v }),
        (0x78, 0xFFFFFF00001FFFFF, regs fun y => { y with saveStride := v }),
        (0x80, 0xFFFF00000000007F, regs fun y => { y with poisonBase := v }),
        (0x88, 0x0000FFFF00000000, regs fun y => { y with
          poisonSize := BitVec.ofNat 16 (f 48 16), poisonHead := BitVec.ofNat 16 (f 16 16) }),
        (0xA8, 0xFFFE, dbg fun y => { y with
          sample := BitVec.ofNat 32 (f 32 32), cpPeriod := BitVec.ofNat 16 (f 16 16), traceEn := v.getLsbD 0 }),
        (0xB0, 0xFFFF00000000007F, dbg fun y => { y with traceBase := v }),
        (0xB8, 0, dbg fun y => { y with traceSize := BitVec.ofNat 16 (f 48 16), dropped := BitVec.ofNat 16 (f 32 16)
                                        traceHead := BitVec.ofNat 16 (f 16 16) }),
        (0x120, 0x7FFF000000000000, s.onDie d fun y => { y with recorder := { y.recorder with
          notReplay := y.recorder.notReplay && !v.getLsbD 63 } }),
        (0x148, 0x7FFF00000000FF80, s.onDie d fun y => { y with faults := { y.faults with
          overflow := if f 32 16 = 0 then y.faults.overflow else 0
          merged := if f 16 16 = 0 then y.faults.merged else 0 } })] : List (Nat × W64 × State)) →
        put (.sysregWrite (dieReg d off) v) mask t) ∧
      (∀ off, off ∈ [0x00, 0x20, 0x60, 0x90, 0x100, 0x108, 0x118, 0x48, 0x50, 0x58] →
        exec (.sysregWrite (dieReg d off) v) s = .next s) ∧
      (∀ k, k < 4 → ∃ m n,
        exec (.sysregWrite (dieReg d (0xC0 + 8 * k)) v) s = .next (dbg fun y => { y with traceMap := m }) ∧
        exec (.sysregWrite (dieReg d (0xE0 + 8 * k)) v) s = .next (dbg fun y => { y with stopMap := n }) ∧
        ∀ b, b < 256 → m.getLsbD b = (if b / 64 = k then v.getLsbD (b % 64) else x.dbg.traceMap.getLsbD b) ∧
          n.getLsbD b = if b / 64 = k then v.getLsbD (b % 64) else x.dbg.stopMap.getLsbD b) ∧
      (f 48 16 ≠ 0 → exec (.sysregWrite (dieReg d 0x128) v) s =
        .next (s.onDie d fun y => { y with recorder := { y.recorder with repCount := 0, firstSeq := 0 } })) ∧
      (f 48 16 = 0 → exec (.sysregWrite (dieReg d 0x128) v) s = .next s) ∧
      (x.recorder.mode = 0 → put (.sysregWrite (dieReg d 0x110) v) 0xFFFF00000000001F
        (s.onDie d fun y => { y with recorder := { y.recorder with logBase := v } })) ∧
      (x.recorder.mode ≠ 0 → exec (.sysregWrite (dieReg d 0x110) v) s = .next s) ∧
      put (.sysregWrite (dieReg d 0x28) v) 0xFFFF00000000FFFF
        (if x.regions = [] then regs fun y => { y with privBase := v } else s) ∧
      put (.sysregWrite (dieReg d 0x30) v) 0xFFFFFF000000FFFF
        (if x.regions = [] ∧ 2 ^ 22 ≤ v.toNat then regs fun y => { y with privStride := v } else s) ∧
      put (.sysregWrite (dieReg d 0x150) v) 0x80000000000000FF
        (if f 32 31 < 2 ^ 24 ∨ f 32 31 < x.gov.carAmount.toNat then s else s.onDie d fun y => { y with gov := { y.gov with
          depth := BitVec.ofNat 31 (f 32 31), rate := BitVec.ofNat 16 (f 16 16), tthrot := BitVec.ofNat 8 (f 8 8) } }) ∧
      put (.sysregWrite (dieReg d 0x158) v) 0xFFFFFFFF00000000
        (if x.gov.depth.toNat < f 0 32 then s
         else s.onDie d fun y => { y with gov := { y.gov with carAmount := BitVec.ofNat 32 (f 0 32) } }) ∧
      put (.partbaseWrite d v) 0x3F (regs fun y => { y with partBase := v, swapping := true }) ∧
      (∀ k off, k < 64 → off ∈ [0x00, 0x08, 0x10] →
        exec (.sysregWrite (BitVec.ofNat 64 (0xE0 * 2 ^ 56 + d * 2 ^ 52 + 2 ^ 50 + k * 2 ^ 44 + off)) v) s = .next s) ∧
      (∀ k b off, k < 64 → b < 4 → off < 2 ^ 16 → off % 8 = 0 →
        let berth : W64 := BitVec.ofNat 64 (0xE0 * 2 ^ 56 + d * 2 ^ 52 + 2 * 2 ^ 50 + k * 2 ^ 44 + b * 2 ^ 42 + off)
        (0x2000 ≤ off → exec (.sysregWrite berth v) s = .next s) ∧
        ((∀ y, x.savedRegion x.dbg.stopRegion = some y → y.stopped = false ∨ k ∉ y.region.cores) →
          exec (.sysregWrite berth v) s = .next s ∧ s.readReg berth = .error 2 ∧ s.writeReg berth v = .error 2)) ∧
      (∀ k b off (y : SavedRegion) (pre post : List Nat), k < 64 → b < 4 → off < 0x2000 → off % 8 = 0 →
        x.savedRegion x.dbg.stopRegion = some y → y.stopped = true → y.region.cores = pre ++ k :: post → k ∉ pre →
        let berth : W64 := BitVec.ofNat 64 (0xE0 * 2 ^ 56 + d * 2 ^ 52 + 2 * 2 ^ 50 + k * 2 ^ 44 + b * 2 ^ 42 + off)
        let kept := off = 0 ∨ (off = 8 ∧ v.toNat % 8 ≠ 0) ∨ (8 < off ∧ off < 0x100) ∨ (0x1C00 ≤ off ∧ off < 0x1D00) ∨
          (0x1900 ≤ off ∧ off < 0x1940 ∧ v &&& 0xFFFE00E0FFFE00E0 ≠ 0)
        let block := x.regs.saveBase.toNat + y.region.cfg.num * x.regs.saveStride.toNat + 2 ^ 21 +
          (2 ^ 24 + (y.region.cfg.privPool + 2 ^ 20 - 1) / 2 ^ 20 * 2 ^ 20) * pre.length
        (kept → exec (.sysregWrite berth v) s = .next s) ∧
        (¬kept → s.InTheClear → Memory.wf s.mem = true → ∃ t, exec (.sysregWrite berth v) s = .next t ∧
          WritesCells s t (block + 0x600000 + 2 ^ 21 * b + off) 8 v.toNat))) ∧
    (let io := s.io
     let car (h : Carousel → Carousel) : State := s.onIo fun y => { y with carousel := h y.carousel }
     (∀ off mask t, (off, mask, t) ∈ ([
       (0x18, 0xFFF00000, s), (0xA0, 0xFFFF000000000000, s), (0x190, 0x00000000FFFFF0F0, s), (0x130, 0xFFFFFFFFFFF00000, s),
       (0x20, 0, car fun y => { y with leaveWait := BitVec.ofNat 32 (f 32 32), bufWait := BitVec.ofNat 32 (f 0 32) }),
       (0x170, 0xFFFFFFFFFFFF0000, if v = 0 then s else s.onIo fun y => { y with evqWin := BitVec.ofNat 16 (f 0 16) }),
       (0x180, 0xFFFFFFFFFFFF8000, s.onIo fun y => { y with pkgId := BitVec.ofNat 15 (f 0 15) }),
       (0x00, 0xF, if io.carousel.run = true then s else car fun y => { y with base := v }),
       (0x1A8, 0xFFFFFFFFFFFFF000, if io.cacheEn = true ∨ 2048 < f 0 12 then s
                                   else s.onIo fun y => { y with tierSize := BitVec.ofNat 12 (f 0 12) }),
       (0x148, 0x7FFF00000000FF80, s.onIo fun y => { y with faults := { y.faults with
         overflow := if f 32 16 = 0 then y.faults.overflow else 0
         merged := if f 16 16 = 0 then y.faults.merged else 0 } })] : List (Nat × W64 × State)) →
       put (.sysregWrite (dieReg 4 off) v) mask t) ∧
     (∀ off, off ∈ [0x08, 0x10, 0x40, 0x108, 0x118, 0x178, 0x188, 0x198, 0x1A0, 0x48, 0x50, 0x58] →
       exec (.sysregWrite (dieReg 4 off) v) s = .next s) ∧
     (∀ n, n < 64 →
       put (.sysregWrite (dieReg 4 (0x1000 + 16 * n)) v) 0xFFFE000000000000 (s.onQueue n fun q =>
         { q with en := v.getLsbD 48, advance := BitVec.ofNat 16 (f 32 16), quantum := BitVec.ofNat 32 (f 0 32) }) ∧
       put (.sysregWrite (dieReg 4 (0x1008 + 16 * n)) v) 0xFFFF0000 s) ∧
     (∀ n, n < 16 → put (.sysregWrite (dieReg 4 (0x2000 + 8 * n)) v) 0x0000CFFFFFFF0000
       (s.onIo fun y => { y with rwin := y.rwin.setIfInBounds n v })) ∧
     (∀ n, n < 32 → put (.sysregWrite (dieReg 4 (0x3000 + 8 * n)) v) 0xFFFF0000 (s.onPort n fun p =>
       { p with retry := if f 32 16 = 0 then p.retry else 0, discard := if f 0 16 = 0 then p.discard else 0 })) ∧
     (let starts := io.carousel.run = false ∧ io.carousel.count.toNat ≤ io.carousel.next.toNat
      let halted := io.carousel.halted && !v.getLsbD 1
      (v.getLsbD 0 = true → exec (.carctlRunClear v) s = .next s ∧ put (.carctlRunSet v) 0xFFFFFFFF0000FFFC
        { (car fun y => { y with
            lead := BitVec.ofNat 16 (f 16 16), halted := halted, run := y.count != 0, next := if starts then 0 else y.next }) with
          stack := if io.carousel.run = false then [] else s.stack }) ∧
      (v.getLsbD 0 = false → exec (.carctlRunSet v) s = .next s ∧ put (.carctlRunClear v) 0xFFFFFFFF0000FFFC (car fun y =>
        { y with lead := BitVec.ofNat 16 (f 16 16), halted := halted, run := false }))) ∧
     put (.carcntWrite v) 0xFFFFFFFFFFF00000
       (if io.carousel.run = true then s else car fun y => { y with count := BitVec.ofNat 20 (f 0 20) }) ∧
     (let agrees := ∀ i, i < 8 → v.getLsbD (5 * i + 4) = true ∨ f (5 * i) 4 = 0
      (io.cacheEn = true ∨ ¬agrees → exec (.slicehashWrite v) s = .next s) ∧
      (io.cacheEn = false → agrees → put (.slicehashWrite v) 0xFFFFFF0000000000 (s.onIo fun y => { y with sliceHash := v }))) ∧
     put (.cachectlEnable v) 0xFFFFFFFFFFFFFFFE (if v = 0 ∧ io.cacheEn = true then s
       else s.onIo fun y => { y with cacheEn := v.getLsbD 0 }) ∧
     put (.evqackWrite v) 0xFFFFFFFFFFFF0000 (s.onIo fun y => { y with evqAck := y.evqAck + f 0 16 }) ∧
     ((∀ (n : Nat) (p : Port), io.ports[n]? = some p → p.held = []) → ∃ routes,
       (∀ p q, (p, q) ∈ routes ↔ p < 32768 ∧ q < 32 ∧ (s.homeByte 0 (v.toNat + p)).toNat = q) ∧
       put (.routebaseWrite v) 0xFFFF000000007FFF (s.onIo fun y => { y with routeBase := v, routes := routes })))

/-- R315 and R328: TLBINV drops every entry of a die's TLBs that covers a page, or every entry, and is busy until the die has
finished, which waits for every copy chunk that was translated before it; a dirty line whose stores used a page under it goes home
through a fresh walk, or is lost with a record and a note to its crew. R353: SERVICE releases the retries that wait for a record.
R374 and R376: RECCTL arms recording or replay and ends them; LOGRING is written in mode 0, and its HEAD alone while a recording
with STALL 1 runs. When the entries go, when a replay reads its log, and that HEAD write, are the model's readings (logs 22, 60,
62). -/
def Obligations.InvalidationsServiceAndRecording : Prop :=
  ∀ (s : State) (d : Nat) (v : W64), d < 4 →
    let x := s.die d
    let page := v.toNat / 2 ^ 24
    let refused := x.regs.tlbBusy = true ∨ v &&& 0xFFFFFC ≠ 0
    let inv (keep : TlbEntry → Bool) (y : Die) : Die :=
      { y with
        cores := y.cores.map fun k => (k.1, { k.2 with
          tlb := k.2.tlb.filter keep
          chans := mapVec (fun n => { n with jobs := n.jobs.map fun j => { j with chunk := j.chunk.map fun h => { h with old := true } } })
            k.2.chans })
        regs := { y.regs with tlbPage := BitVec.ofNat 40 page, tlbAll := v.getLsbD 1, tlbBusy := true } }
    let covers (va size : Nat) : Bool := decide (va ≤ 65536 * page) && decide (65536 * page < va + size)
    let kept (e : TlbEntry) : Bool := !v.getLsbD 1 && !covers e.va e.size
    let under (p : VPage) : Prop := v.getLsbD 1 = true ∨ covers p.va p.size = true
    let word : Instr := if v.getLsbD 1 then .tlbinvAll d v else .tlbinvPage d v
    let waits := ∃ k n j h, k ∈ x.cores ∧ n ∈ k.2.chans.toList ∧ j ∈ n.jobs ∧ j.chunk = some h ∧ h.old = true
    (waits → exec (.tlbinvDone d) s = .next s) ∧
    (¬waits → exec (.tlbinvDone d) s = .next (s.onDie d fun y => { y with regs := { y.regs with tlbBusy := false } })) ∧
    (refused ∨ v.getLsbD 1 = true → exec (.tlbinvPage d v) s = .next s) ∧
    (refused ∨ v.getLsbD 1 = false → exec (.tlbinvAll d v) s = .next s) ∧
    (¬refused → (∀ l, l ∈ x.dirty → ∀ p, p ∈ l.pages → ¬under p) → exec word s = .next (s.onDie d (inv kept))) ∧
    (∀ (l : DirtyLine) (p : VPage) (before after : List VPage), ¬refused → x.dirty = [l] → l.pages = before ++ p :: after →
      (∀ q, q ∈ before → ¬under q) → under p →
      let va := p.va + 128 * l.line % p.size
      let lost (e : Nat) : Prop := exec word s = .next
        (((s.record d (originWord d l.region l.version l.handler l.owner.berth 6 e l.poff) false false
            [BitVec.ofNat 64 va, BitVec.ofNat 64 (128 * l.line)]).onCrew l.uid fun c =>
              { c with wbLost := true, service := c.service ++ [x.evseq] }).onDie d fun y => inv kept { y with dirty := [] })
      (s.walk d va = none → lost 4) ∧
      (∀ e, s.walk d va = some e → e.w = false → lost 5) ∧
      (∀ e, s.walk d va = some e → e.w = true → s.InTheClear → Memory.wf s.mem = true → (l.bytes.map Prod.fst).Nodup →
        (∀ b, b ∈ l.bytes → b.1 / 128 = l.line) → ∃ t, exec word s = .next t ∧ (t.die d).dirty = [] ∧
          ∀ j, t.cell j = ((l.bytes.find? fun b => e.pa + (va - e.va) + b.1 % 128 == j).map Prod.snd).getD (s.cell j))) ∧
    (2 ^ 48 ≤ v.toNat → exec (.serviceWrite d v) s = .next s) ∧
    (v.toNat < 2 ^ 48 →
      let hit (h : HeldRetry) : Bool := decide (BitVec.ofNat 48 v.toNat ∈ h.seqs)
      ∃ t, exec (.serviceWrite d v) s = .next t ∧ t.die d = { x with heldRetries := x.heldRetries.filter fun h => !hit h } ∧
        (∀ e, e ≠ d → t.die e = s.die e) ∧ t.mem = s.mem ∧ t.io = { s.io with queues := t.io.queues } ∧
        ∀ q, q < 64 → t.queue q = { s.queue q with pend := (s.queue q).pend ++
          ((x.heldRetries.filter fun h => hit h && h.queue = q).map fun h => { node := h.node }) }) ∧
    (let r := x.recorder
     let mode := v.toNat % 4
     let confidential := ∃ g, g ∈ x.regions ∧ s.confidential d g.cfg = true
     let armed (m : BitVec 2) (y : Recorder) : Recorder := { y with
       mode := m, stall := v.getLsbD 2, ended := false, nextCid := 1, starts := [], open_ := [], chunks := [], entries := []
       pending := if m = 0 then y.pending else [], blocked := [] }
     let on (h : Recorder → Recorder) : State := s.onDie d fun y => { y with recorder := h y.recorder }
     (8 ≤ v.toNat ∨ mode ≠ 1 ∨ r.mode ≠ 0 ∨ confidential → exec (.recordStart d v) s = .next s) ∧
     (8 ≤ v.toNat ∨ mode ≠ 2 ∨ r.mode ≠ 0 ∨ confidential → exec (.replayStart d v) s = .next s) ∧
     (8 ≤ v.toNat ∨ mode ≠ 0 → exec (.recordStop d v) s = .next s) ∧
     (v.toNat < 8 → mode = 1 → r.mode = 0 → ¬confidential → exec (.recordStart d v) s = .next (on (armed 1))) ∧
     (v.toNat < 8 → mode = 2 → r.mode = 0 → ¬confidential → r.logHead = r.logTail →
       exec (.replayStart d v) s = .next (on (armed 2))) ∧
     (v.toNat < 8 → mode = 2 → r.mode = 0 → ¬confidential → ∃ t es, exec (.replayStart d v) s = .next t ∧
       (t.recorderOf d).mode = 2 ∧ (t.recorderOf d).entries = es ∧ (t.recorderOf d).logHead = r.logTail ∧
       (t.recorderOf d).chunks = es.filterMap LogEntry.chunk ∧ t.mem = s.mem ∧
       ∀ i : Nat, (i < (r.logTail.toNat + r.logSize.toNat - r.logHead.toNat) % r.logSize.toNat ∧ r.logHead.toNat < r.logSize.toNat ∧
         (s.home64 (r.logBase.toNat + 32 * ((r.logHead.toNat + i) % r.logSize.toNat))).toNat / 2 ^ 56 % 2 ^ 4 = d) →
         ∃ e, e ∈ es ∧ e.seq = (s.home64 (r.logBase.toNat + 32 * ((r.logHead.toNat + i) % r.logSize.toNat))).setWidth 48) ∧
     (v.toNat < 8 → mode = 0 → r.mode ≠ 1 ∨ r.open_ = [] → exec (.recordStop d v) s = .next (on (armed 0))) ∧
     (let size := v.toNat / 2 ^ 40
      let head := BitVec.ofNat 20 (v.toNat / 2 ^ 20)
      let tail := BitVec.ofNat 20 v.toNat
      (2 ^ 20 ≤ size ∨ size = 1 → exec (.logringHeadWrite d v) s = .next s) ∧
      (size < 2 ^ 20 → size ≠ 1 →
        let releases := r.mode = 1 ∧ r.stall = true ∧ BitVec.ofNat 20 size = r.logSize ∧ tail = r.logTail
        (r.mode = 0 → r.pending = [] → exec (.logringHeadWrite d v) s =
          .next (on fun y => { y with logSize := BitVec.ofNat 20 size, logHead := head, logTail := tail, blocked := [] })) ∧
        (r.mode ≠ 0 → ¬releases → exec (.logringHeadWrite d v) s = .next s) ∧
        (releases → r.pending = [] →
          exec (.logringHeadWrite d v) s = .next (on fun y => { y with logHead := head, blocked := [] })))))

/-! ## The Wilite link, bring-up and attestation (R323, R378 to R383, R396 to R404) -/

/-- A request is answered with a status of R380 and a payload. -/
def answered (u : State) (m : HostMsg) (status : Nat) (payload : List W64) : State :=
  { u with toHost := u.toHost ++ [{
      head := BitVec.ofNat 64 (m.head.toNat / 2 ^ 60 * 2 ^ 60 + 2 ^ 59 + status * 2 ^ 56 +
        m.head.toNat / 2 ^ 32 % 2 ^ 16 * 2 ^ 32 + payload.length)
      addr := 0, arg := 0, last := 0, payload := payload }] }

/-- A message is a request of a type, and no earlier request waits for its answer (R382). -/
def Asks (s : State) (m : HostMsg) (type : Nat) : Prop :=
  m.head.toNat / 2 ^ 60 = type ∧ m.head.getLsbD 59 = false ∧ (∀ a, a ∈ s.flight.arrivals → a.answer = none) ∧
    ∀ p, p ∈ s.flight.posts → p.answer = none

/-- The header keeps the limits of R378. -/
def HeaderHolds (m : HostMsg) : Prop :=
  m.head.toNat / 2 ^ 56 % 2 ^ 3 = 0 ∧ m.head.toNat / 2 ^ 48 % 2 ^ 3 = 0 ∧ m.head.toNat / 2 ^ 10 % 2 ^ 22 = 0 ∧ m.last = 0 ∧
    m.payload.length ≤ 512 ∧ m.head.toNat % 2 ^ 10 = m.payload.length

/-- The payload as 64-byte little-endian data. -/
def payloadBytes (m : HostMsg) : List Byte := m.payload.flatMap wordBytes

/-- R378 to R382, R396: a memory message that breaks a limit draws BADMSG, and one that comes before READY and is not of the
boot range or of the boot registers draws BUSY. PHYS 1 names bytes as stored; path 0x00 is translated by the named die, with
ERROR where no leaf is and DENIED under a key without HOSTRW; basins and tile stores are reached as they lie, the barge stores
for reads alone, and no other path. An address of a remote window draws ERROR (R391), and a refused read of a register one zero
beside its status (R308, R372). A read merges the clocks of the writes that it returns (R320). A message of a reserved type or kind
draws BADMSG. The order of a message's refusals is log 70, a read of a marked word log 73; no recorder's log or gate is used
here (log 48). -/
def Obligations.HostMemoryMessages : Prop :=
  ∀ (s : State) (m : HostMsg),
    let a := m.addr.toNat
    let top := a / 2 ^ 56
    let phys := m.head.getLsbD 51
    let die := m.head.toNat / 2 ^ 52 % 2 ^ 4
    let inRange (n : Nat) : Prop := a % 8 = 0 ∧ a % 4096 + n ≤ 4096 ∧ (phys = true → a < 2 ^ 48) ∧ (phys = false → top = 0xE0 → n = 8)
    let reg := phys = false ∧ top = 0xE0
    let bootReg := reg ∧ (a = 0xE0 * 2 ^ 56 + 4 * 2 ^ 52 + 0x190 ∨ a = 0xE0 * 2 ^ 56 + 4 * 2 ^ 52 + 0x198)
    let ready := s.io.sec.state = .ready
    let memory (p n : Nat) : Prop := (p + n ≤ 0x8000000000) ∨
      (0x10000000000 ≤ p ∧ p + n ≤ 0x10000000000 + s.io.tierSize.toNat * 2 ^ 30)
    let chip (n : Nat) : Prop := (0xB0 ≤ top ∧ top ≤ 0xB3 ∧ a / 2 ^ 27 % 2 ^ 29 = 0 ∧ a % 2 ^ 27 + n ≤ 96 * 2 ^ 20) ∨
      (top = 0xC0 ∧ a / 2 ^ 52 % 2 ^ 4 ≤ 3 ∧ a / 2 ^ 22 % 2 ^ 24 = 0 ∧ a % 2 ^ 22 + n ≤ 2 ^ 22)
    let barge (n : Nat) : Prop := top = 0xD0 ∧ a / 2 ^ 52 % 2 ^ 4 ≤ 3 ∧ a / 2 ^ 22 % 2 ^ 30 = 0 ∧ a % 2 ^ 22 + n ≤ 2 ^ 22
    let denied (e : TlbEntry) : Prop := e.key ≠ 0 ∧ ∀ p, ((s.io.sec.keys.find? fun k => k.1 = e.key).map fun k => k.2) ≠ some (p, true)
    let writes := m.payload.length
    let asked := m.arg.toNat
    (¬Asks s m 1 → exec (.writeMemory m) s = .next s) ∧ (¬Asks s m 2 → exec (.readMemory m) s = .next s) ∧
    (Asks s m 1 → ¬(HeaderHolds m ∧ 1 ≤ writes ∧ inRange (8 * writes)) → exec (.writeMemory m) s = .next (answered s m 5 [])) ∧
    (Asks s m 2 → ¬(HeaderHolds m ∧ writes = 0 ∧ 8 ≤ asked ∧ asked ≤ 4096 ∧ asked % 8 = 0 ∧ inRange asked) →
      exec (.readMemory m) s = .next (answered s m 5 [])) ∧
    (Asks s m 1 → HeaderHolds m → 1 ≤ writes → inRange (8 * writes) →
      let boot := phys = true ∧ a + 8 * writes ≤ 0x1000000
      let lands (p : Nat) : Prop := ∃ w, WritesCells s w p (8 * writes) (natOfBytes (payloadBytes m)) ∧
        exec (.writeMemory m) s = .next (answered (if boot ∧ s.io.sec.state = .failed
          then w.onIo fun io => { io with sec := { io.sec with state := .load } } else w) m 0 [])
      (¬ready → ¬boot → ¬bootReg → exec (.writeMemory m) s = .next (answered s m 2 [])) ∧
      (ready ∨ bootReg → reg → s.NoLog →
        (∀ t, s.writeReg m.addr (wordAt m.payload 0) = .ok t → exec (.writeMemory m) s = .next (answered t m 0 [])) ∧
        (∀ e, s.writeReg m.addr (wordAt m.payload 0) = .error e → exec (.writeMemory m) s = .next (answered s m e []))) ∧
      (ready ∨ boot → phys = true → ¬memory a (8 * writes) → exec (.writeMemory m) s = .next (answered s m 1 [])) ∧
      (ready → phys = false → top = 0 → 3 < die ∨ (s.remoteWindow m.addr).isSome ∨ s.walk die a = none →
        exec (.writeMemory m) s = .next (answered s m 1 [])) ∧
      (∀ e, ready → phys = false → top = 0 → die ≤ 3 → s.remoteWindow m.addr = none → s.walk die a = some e → denied e →
        exec (.writeMemory m) s = .next (answered s m 6 [])) ∧
      (ready → phys = false → top ≠ 0 → ¬chip (8 * writes) → ¬reg → exec (.writeMemory m) s = .next (answered s m 1 [])) ∧
      (s.NoLog → Memory.wf s.mem = true →
        (s.InTheClear → ready ∨ boot → phys = true → memory a (8 * writes) → lands a) ∧
        (∀ e, s.InTheClear → ready → phys = false → top = 0 → die ≤ 3 → s.remoteWindow m.addr = none → s.walk die a = some e →
          e.key = 0 → lands (e.pa + (a - e.va))) ∧
        (ready → phys = false → chip (8 * writes) → lands a))) ∧
    (Asks s m 2 → HeaderHolds m → writes = 0 → 8 ≤ asked → asked ≤ 4096 → asked % 8 = 0 → inRange asked →
      let reads (byte : Nat → Byte) : Prop := ∃ u : IoDie, (s.stamps = [] → u = s.io) ∧ exec (.readMemory m) s = .next (answered
        { s with free := s.free + asked / 8, io := { s.io with clock := u.clock, evseq := u.evseq } } m 0
        ((List.range (asked / 8)).map fun i => BitVec.ofNat 64 (natOfBytes ((List.range 8).map fun j => byte (8 * i + j)))))
      (¬ready → ¬bootReg → exec (.readMemory m) s = .next (answered s m 2 [])) ∧
      (ready ∨ bootReg → reg → s.NoLog →
        (∀ v, s.readReg m.addr = .ok v → exec (.readMemory m) s = .next (answered s m 0 [v])) ∧
        (∀ e, s.readReg m.addr = .error e → exec (.readMemory m) s = .next (answered s m e [0]))) ∧
      (ready → phys = true → ¬memory a asked → exec (.readMemory m) s = .next (answered s m 1 [])) ∧
      (ready → phys = false → top = 0 → 3 < die ∨ (s.remoteWindow m.addr).isSome ∨ s.walk die a = none →
        exec (.readMemory m) s = .next (answered s m 1 [])) ∧
      (∀ e, ready → phys = false → top = 0 → die ≤ 3 → s.remoteWindow m.addr = none → s.walk die a = some e → denied e →
        exec (.readMemory m) s = .next (answered s m 6 [])) ∧
      (s.memMarks = [] → s.NoLog →
        (ready → phys = true → memory a asked → reads fun j => s.homeByte 0 (a + j)) ∧
        (∀ e, ready → phys = false → top = 0 → die ≤ 3 → s.remoteWindow m.addr = none → s.walk die a = some e → ¬denied e →
          reads fun j => s.homeByte e.key (e.pa + (a - e.va) + j)) ∧
        (ready → phys = false → chip asked → reads fun j => s.cell (a + j)) ∧
        (ready → phys = false → barge asked → (∀ d i b, s.barge d i = some b → b.marked = false) →
          reads fun j => s.bargeByte (a / 2 ^ 52 % 2 ^ 4) (a % 2 ^ 22 + j))) ∧
      (ready → phys = false → top ≠ 0 → ¬chip asked → ¬barge asked → ¬reg → exec (.readMemory m) s = .next (answered s m 1 []))) ∧
    (let type := m.head.toNat / 2 ^ 60
     let kind := m.arg.toNat % 2 ^ 8
     let reserved := type = 0 ∨ type = 5 ∨ 7 ≤ type ∨ (type = 6 ∧ (kind = 0 ∨ 4 < kind))
     (¬reserved ∨ m.head.getLsbD 59 = true → exec (.reservedMessageType m) s = .next s) ∧
     (reserved → Asks s m type → exec (.reservedMessageType m) s = .next (answered s m 5 [])))

/-- R379, R382, R383 and R400 to R404: a post of tokens sets off for its node as a release; a signal boards a barge at a declared
lock with room, with the next SEQ of the lock's die and, where one is free, a record (else it takes one when its turn comes),
unless a limit, its payload address, its lock or a full canal turns it away. The kinds of attestation beside the report: the key
agreement, a key load under the agreed key, and the certificate; and what each kind refuses. Signatures, keys and their byte order
are logs 6 and 69, the order of refusals log 70, the fullness under an adapter log 71, the zero fields of an attestation log 72. -/
def Obligations.TokensSignalsAndAttestation : Prop :=
  ∀ (s : State) (m : HostMsg),
    let a := m.addr.toNat
    let kind := m.arg.toNat % 2 ^ 8
    let len := m.payload.length
    let bs := payloadBytes m
    let tag : BitVec 16 := BitVec.ofNat 16 (m.head.toNat / 2 ^ 32)
    let ready := s.io.sec.state = .ready
    let tick (u : State) : State := u.onIo fun io => { io with clock := io.clock.setIfInBounds 4 ((io.clock[4]?.getD 0) + 1) }
    let sec (u : State) (f : Security → Security) : State := u.onIo fun io => { io with sec := f io.sec }
    let ref := wordAt m.payload 8
    let named := ref.toNat < 2 ^ 32 ∧ ref.getLsbD 31 = false ∧ ref.toNat / 2 ^ 16 % 2 ^ 15 = 0 ∧ ref.toNat / 2 ^ 12 % 2 ^ 4 ≤ 3
    let zeros := (∀ i, i ∈ [51, 52] → bytesAt bs i 1 / 4 = 0) ∧ bytesAt bs 54 10 = 0
    let limits (i : Instr) (type : Nat) (ok : Prop) : Prop :=
      (¬Asks s m type → exec i s = .next s) ∧ (Asks s m type → ¬(HeaderHolds m ∧ ok) → exec i s = .next (answered s m 5 []))
    limits (.postToken m) 3 (len = 0 ∧ 1 ≤ m.arg.toNat ∧ m.arg.toNat ≤ 65535 ∧ m.head.getLsbD 51 = false ∧ a < 2 ^ 56 ∧ a % 8 = 0) ∧
    limits (.signalBoard m) 4 (kind = 1 ∧ len = 9 ∧ named ∧ zeros) ∧
    (kind ≠ 1 → exec (.attestReport m) s = .next s) ∧ (kind = 1 → limits (.attestReport m) 6 (len = 4)) ∧
    (kind ≠ 2 → exec (.attestKeyAgree m) s = .next s) ∧ (kind = 2 → limits (.attestKeyAgree m) 6 (len = 8)) ∧
    (kind ≠ 3 → exec (.keyLoad m) s = .next s) ∧
    (kind = 3 → limits (.keyLoad m) 6 (len = 10 ∧ bytesAt bs 2 1 / 4 = 0 ∧ bytesAt bs 3 13 = 0 ∧ bytesAt bs 76 4 = 0)) ∧
    (kind ≠ 4 → exec (.attestCert m) s = .next s) ∧ (kind = 4 → limits (.attestCert m) 6 True) ∧
    (∀ e, Asks s m 3 → HeaderHolds m → len = 0 → 1 ≤ m.arg.toNat → m.arg.toNat ≤ 65535 → m.head.getLsbD 51 = false → a < 2 ^ 56 →
      a % 8 = 0 →
      let die := m.head.toNat / 2 ^ 52 % 2 ^ 4
      (¬ready → exec (.postToken m) s = .next (answered s m 2 [])) ∧
      (ready → a % 128 ≠ 0 ∨ 3 < die ∨ (s.remoteWindow m.addr).isSome ∨ s.walk die a = none → exec (.postToken m) s = .next (answered s m 1 [])) ∧
      (ready → a % 128 = 0 → die ≤ 3 → s.remoteWindow m.addr = none → s.walk die a = some e → e.key = 0 → s.NoLog → exec (.postToken m) s =
        .next ((tick s).onFlight fun f => { f with posts := f.posts ++ [{
          agent := none, writer := 4, node := m.addr, die := die, count := m.arg.toNat, op := none, dest := none, pred := 0
          answer := some tag }] }))) ∧
    (Asks s m 4 → HeaderHolds m → kind = 1 → len = 9 → named → zeros →
      let d := ref.toNat / 2 ^ 12 % 2 ^ 4
      let g := ref.toNat / 2 ^ 4 % 2 ^ 8
      let l := ref.toNat % 2 ^ 4
      let pay := bytesAt bs 24 8
      let payOk := pay % 128 = 0 ∧ (pay / 2 ^ 56 = 0 ∨ (0xB0 ≤ pay / 2 ^ 56 ∧ pay / 2 ^ 56 ≤ 0xB3) ∨ pay / 2 ^ 56 = 0xC0)
      let b : Barge := { bargeOf (bs.take 64) with seq := (s.die d).nextSeq, flags := 0, origin := 0 }
      (¬ready → exec (.signalBoard m) s = .next (answered s m 2 [])) ∧
      (ready → ¬payOk → exec (.signalBoard m) s = .next (answered s m 1 [])) ∧
      (ready → payOk → (s.die d).declaredLock g l = none → exec (.signalBoard m) s = .next (answered s m 3 [])) ∧
      (∀ k, ready → payOk → (s.die d).declaredLock g l = some k → b.adapt = 0 →
        (s.lockRoom d g l = false → exec (.signalBoard m) s = .next (answered s m 4 [])) ∧
        (s.lockRoom d g l = true → s.NoLog → exec (.signalBoard m) s =
          .next (((tick s).onDie d fun x => { x with
              barges := match x.freeRecord with
                        | some i => assocSet x.barges i b
                        | none => x.barges
              nextSeq := x.nextSeq + 1 }).onFlight fun f =>
            { f with arrivals := f.arrivals ++ [{
              die := d, region := g, lock := l, record := (s.die d).freeRecord, barge := b, op := none, fromRegion := none, sender := .host
              cid := 0xFFFF, credit := none, answer := some tag, redirected := false, by_ := 0, waiting := false }] })))) ∧
    (Asks s m 6 → HeaderHolds m → s.NoLog →
      let measured := s.io.sec.state = .init ∨ ready
      let signed (bytes : List Byte) : List Byte :=
        bytesOfNat 64 (Config.sm2Sign Config.identityKey (Config.sm3 bytes) s.io.sec.signatures).toNat
      let words (bytes : List Byte) : List W64 := (List.range ((bytes.length + 7) / 8)).map fun i =>
        BitVec.ofNat 64 (natOfBytes ((bytes.drop (8 * i)).take 8))
      (kind = 1 → len = 4 →
        ¬measured → exec (.attestReport m) s = .next (answered s m 2 [])) ∧
      (kind = 2 → len = 8 →
        let ours := bytesOfNat 64 (Config.sm2Ephemeral s.io.sec.agreements).toNat
        (¬ready → exec (.attestKeyAgree m) s = .next (answered s m 2 [])) ∧
        (ready → exec (.attestKeyAgree m) s = .next (answered (sec s fun x =>
          { x with signatures := x.signatures + 1, agreements := x.agreements + 1
                   session := some (Config.sm2Agree x.agreements (BitVec.ofNat 512 (natOfBytes bs))) }) m 0
            (words (ours ++ signed (bs ++ ours)))))) ∧
      (kind = 3 → len = 10 → bytesAt bs 2 1 / 4 = 0 → bytesAt bs 3 13 = 0 → bytesAt bs 76 4 = 0 →
        let index := bytesAt bs 0 2
        let hostrw : Bool := bytesAt bs 2 1 % 2 = 1
        let erase := bytesAt bs 2 1 / 2 = 1
        let installed (pair : BitVec 256) (draws : Nat) : State := sec s fun x =>
          { x with keys := (index, pair, hostrw) :: x.keys.filter (fun k => k.1 != index), draws := draws }
        (¬ready → exec (.keyLoad m) s = .next (answered s m 2 [])) ∧
        (ready → s.io.sec.session = none ∨ index = 0 ∨ 4095 < index → exec (.keyLoad m) s = .next (answered s m 6 [])) ∧
        (∀ ks, ready → s.io.sec.session = some ks → 1 ≤ index → index ≤ 4095 →
          let opened := Config.gcmOpen ks (BitVec.ofNat 96 (bytesAt bs 16 12)) (bs.take 16) ((bs.drop 28).take 32)
            (BitVec.ofNat 128 (bytesAt bs 60 16))
          let clean := ∀ d x, d < 4 → x ∈ (s.die d).dirty → x.key ≠ index
          (¬erase → opened = none → exec (.keyLoad m) s = .next (answered s m 6 [])) ∧
          (clean → (erase → exec (.keyLoad m) s =
              .next (answered (installed (Config.freshKeyPair s.io.sec.draws) (s.io.sec.draws + 1)) m 0 [])) ∧
            ∀ pair, ¬erase → opened = some pair →
              exec (.keyLoad m) s = .next (answered (installed (BitVec.ofNat 256 (natOfBytes pair)) s.io.sec.draws) m 0 [])))) ∧
      (kind = 4 →
        (¬measured → exec (.attestCert m) s = .next (answered s m 2 [])) ∧
        (measured → exec (.attestCert m) s = .next (answered s m 0 (words Config.identityCertificate)))))

/-- R401: the report over a nonce of 32 bytes, once the firmware is measured: its 192 bytes, and the signature under the identity
key over their digest. The byte order of the report's numbers and of the signature is log 69; SM2 and SM3 are log 6. -/
def Obligations.AttestationReport : Prop :=
  ∀ (s : State) (m : HostMsg), s.NoLog → Asks s m 6 → HeaderHolds m → m.arg.toNat % 2 ^ 8 = 1 → m.payload.length = 4 →
    s.io.sec.state = .init ∨ s.io.sec.state = .ready →
    let x := s.io.sec
    let report := bytesOfNat 16 Config.deviceId.toNat ++ payloadBytes m ++ bytesOfNat 32 x.meas0.toNat ++
      bytesOfNat 32 (if x.state = .ready then x.meas1.toNat else 0) ++ bytesOfNat 4 x.svn.toNat ++
      bytesOfNat 2 s.io.pkgId.toNat ++ [if x.state = .ready then 4 else 3] ++ List.replicate 73 0
    let signature := bytesOfNat 64 (Config.sm2Sign Config.identityKey (Config.sm3 report) x.signatures).toNat
    report.length = 192 ∧ exec (.attestReport m) s =
      .next (answered (s.onIo fun io => { io with sec := { io.sec with signatures := x.signatures + 1 } }) m 0
        ((List.range 32).map fun i => BitVec.ofNat 64 (natOfBytes (((report ++ signature).drop (8 * i)).take 8))))

/-- R396 to R399: cold reset leaves the package in LOAD. After a VERIFY the ROM checks the image in the order of REASON and enters
FAILED or INIT; INIT's firmware sets the fields whose reset it gives, enables the caches, frees every barge record, draws the keys
and enters READY. The dies throttle at 105 degrees (R377). The values of "fw" fields are log 3, what cold reset keeps log 67, a
misaligned LENGTH or ENTRY log 68, the ports that train log 89. -/
def Obligations.BringUp : Prop :=
  ∀ s : State,
    let num (at_ n : Nat) : Nat := natOfBytes ((List.range n).map fun i => s.homeByte 0 (at_ + i))
    let bytes (at_ n : Nat) : List Byte := (List.range n).map fun i => s.homeByte 0 (at_ + i)
    let n := num 8 8
    let entry := num 16 8
    let digest := Config.sm3 (bytes 0 88 ++ bytes 256 n)
    let sec (f : Security → Security) : State := s.onIo fun io => { io with sec := f io.sec }
    let c1 := n % 8 = 0 ∧ n ≤ 2 ^ 24 - 256 ∧ entry % 8 = 0 ∧ entry < n
    let c2 := Config.sm3 (bytes 24 64) = Config.fusedKeyDigest
    let c3 := Config.sm2Verify (BitVec.ofNat 512 (num 24 64)) digest (BitVec.ofNat 512 (num 88 64)) = true
    let c4 := Config.fusedMinSvn.toNat ≤ num 4 4
    let c5 := num 0 4 = 0x34324443 ∧ num 152 104 = 0
    let fails (r : BitVec 4) : Prop := exec .bootVerify s = .next (sec fun x => { x with state := .failed, reason := r })
    (∃ t, exec .coldReset s = .next t ∧ t.mem = [] ∧ t.memMarks = [] ∧ t.dies = State.reset.dies ∧ t.flight = State.reset.flight ∧
      t.now = 0 ∧ t.io = { State.reset.io with sec := t.io.sec } ∧ t.io.sec = { State.reset.io.sec with
        state := .load, agreements := s.io.sec.agreements, signatures := s.io.sec.signatures, draws := s.io.sec.draws } ∧
      t.toHost = s.toHost ∧ t.toPeers = s.toPeers) ∧
    (s.io.sec.state ≠ .verify → exec .bootVerify s = .next s) ∧
    (s.io.sec.state = .verify →
      (¬c1 → fails 1) ∧ (c1 → ¬c2 → fails 2) ∧ (c1 → c2 → ¬c3 → fails 3) ∧ (c1 → c2 → c3 → ¬c4 → fails 4) ∧
      (c1 → c2 → c3 → c4 → ¬c5 → fails 5) ∧
      (c1 → c2 → c3 → c4 → c5 → exec .bootVerify s = .next (sec fun x =>
        { x with state := .init, reason := 0, svn := BitVec.ofNat 32 (num 4 4), meas0 := digest }))) ∧
    (s.io.sec.state ≠ .init → exec .firmwareReady s = .next s) ∧
    (s.io.sec.state = .init → ∃ t, exec .firmwareReady s = .next t ∧ t.io.sec.state = .ready ∧ t.io.cacheEn = true ∧
      t.mem = s.mem ∧ t.io.sec.meas0 = s.io.sec.meas0 ∧ t.io.sec.svn = s.io.sec.svn ∧
      t.io.sec.meas1 = Config.sm3 (wordBytes t.io.sliceHash ++ wordBytes (t.io.pkgId.setWidth 64) ++
        wordBytes (Config.fusedMinSvn.setWidth 64)) ∧
      (∀ k, 1 ≤ k → k ≤ 4095 → (t.io.sec.keys.find? fun p => p.1 = k) =
        some (k, Config.freshKeyPair (s.io.sec.draws + (k - 1)), false)) ∧
      (∀ i, i < 8 → t.io.sliceHash.getLsbD (5 * i + 4) = true ∨ t.io.sliceHash.toNat / 2 ^ (5 * i) % 2 ^ 4 = 0) ∧
      t.io.sliceHash.toNat < 2 ^ 40 ∧ t.io.tierSize.toNat ≤ 2048 ∧ 1 ≤ t.io.evqWin.toNat ∧ t.io.routeBase.toNat % 2 ^ 15 = 0 ∧
      t.io.routeBase.toNat < 2 ^ 48 ∧ t.io.phases = Vector.replicate 16 PhaseBarrier.reset ∧
      (∀ p q, (p, q) ∈ t.io.routes ↔ p < 32768 ∧ q < 32 ∧ (t.homeByte 0 (t.io.routeBase.toNat + p)).toNat = q) ∧
      ∀ d, d < 4 → (t.die d).barges = [] ∧ (t.die d).cores = (s.die d).cores ∧ (t.die d).regions = (s.die d).regions ∧
        (t.die d).gov.tthrot = 105 ∧ 2 ^ 24 ≤ (t.die d).gov.depth.toNat ∧ (t.die d).gov.carAmount.toNat ≤ (t.die d).gov.depth.toNat ∧
        (t.die d).gov.bucket = 512 * (t.die d).gov.depth.toNat ∧ (t.die d).regs.privBase.toNat % 2 ^ 16 = 0 ∧
        2 ^ 22 ≤ (t.die d).regs.privStride.toNat ∧ (t.die d).regs.landBase.toNat % 2 ^ 20 = 0 ∧
        (t.die d).regs.saveBase.toNat % 2 ^ 21 = 0 ∧ (t.die d).regs.saveStride.toNat % 2 ^ 21 = 0 ∧
        (t.die d).regs.poisonBase.toNat % 2 ^ 7 = 0 ∧ (t.die d).recorder.logSize ≠ 1)
end

