-- ==== Sys2Proof/Laws/State.lean ====
section
/-! SUPPORT. One lemma per field per update of the package's state and of a crew, so that no proof unfolds a record update. -/

namespace Sys2Proof.Machine

/-! ## onIo -/

@[simp] theorem State.onIo_mem (s : State) (f : IoDie → IoDie) : (s.onIo f).mem = s.mem := rfl
@[simp] theorem State.onIo_memMarks (s : State) (f : IoDie → IoDie) : (s.onIo f).memMarks = s.memMarks := rfl
@[simp] theorem State.onIo_stamps (s : State) (f : IoDie → IoDie) : (s.onIo f).stamps = s.stamps := rfl
@[simp] theorem State.onIo_stack (s : State) (f : IoDie → IoDie) : (s.onIo f).stack = s.stack := rfl
@[simp] theorem State.onIo_dies (s : State) (f : IoDie → IoDie) : (s.onIo f).dies = s.dies := rfl
@[simp] theorem State.onIo_flight (s : State) (f : IoDie → IoDie) : (s.onIo f).flight = s.flight := rfl
@[simp] theorem State.onIo_xtimers (s : State) (f : IoDie → IoDie) : (s.onIo f).xtimers = s.xtimers := rfl
@[simp] theorem State.onIo_toHost (s : State) (f : IoDie → IoDie) : (s.onIo f).toHost = s.toHost := rfl
@[simp] theorem State.onIo_toPeers (s : State) (f : IoDie → IoDie) : (s.onIo f).toPeers = s.toPeers := rfl
@[simp] theorem State.onIo_now (s : State) (f : IoDie → IoDie) : (s.onIo f).now = s.now := rfl
@[simp] theorem State.onIo_nextUid (s : State) (f : IoDie → IoDie) : (s.onIo f).nextUid = s.nextUid := rfl
@[simp] theorem State.onIo_cur (s : State) (f : IoDie → IoDie) : (s.onIo f).cur = s.cur := rfl
@[simp] theorem State.onIo_agenda (s : State) (f : IoDie → IoDie) : (s.onIo f).agenda = s.agenda := rfl
@[simp] theorem State.onIo_free (s : State) (f : IoDie → IoDie) : (s.onIo f).free = s.free := rfl
@[simp] theorem State.onIo_io (s : State) (f : IoDie → IoDie) : (s.onIo f).io = f s.io := rfl

/-! ## onFlight -/

@[simp] theorem State.onFlight_mem (s : State) (f : Flight → Flight) : (s.onFlight f).mem = s.mem := rfl
@[simp] theorem State.onFlight_memMarks (s : State) (f : Flight → Flight) : (s.onFlight f).memMarks = s.memMarks := rfl
@[simp] theorem State.onFlight_stamps (s : State) (f : Flight → Flight) : (s.onFlight f).stamps = s.stamps := rfl
@[simp] theorem State.onFlight_stack (s : State) (f : Flight → Flight) : (s.onFlight f).stack = s.stack := rfl
@[simp] theorem State.onFlight_dies (s : State) (f : Flight → Flight) : (s.onFlight f).dies = s.dies := rfl
@[simp] theorem State.onFlight_io (s : State) (f : Flight → Flight) : (s.onFlight f).io = s.io := rfl
@[simp] theorem State.onFlight_xtimers (s : State) (f : Flight → Flight) : (s.onFlight f).xtimers = s.xtimers := rfl
@[simp] theorem State.onFlight_toHost (s : State) (f : Flight → Flight) : (s.onFlight f).toHost = s.toHost := rfl
@[simp] theorem State.onFlight_toPeers (s : State) (f : Flight → Flight) : (s.onFlight f).toPeers = s.toPeers := rfl
@[simp] theorem State.onFlight_now (s : State) (f : Flight → Flight) : (s.onFlight f).now = s.now := rfl
@[simp] theorem State.onFlight_nextUid (s : State) (f : Flight → Flight) : (s.onFlight f).nextUid = s.nextUid := rfl
@[simp] theorem State.onFlight_cur (s : State) (f : Flight → Flight) : (s.onFlight f).cur = s.cur := rfl
@[simp] theorem State.onFlight_agenda (s : State) (f : Flight → Flight) : (s.onFlight f).agenda = s.agenda := rfl
@[simp] theorem State.onFlight_free (s : State) (f : Flight → Flight) : (s.onFlight f).free = s.free := rfl
@[simp] theorem State.onFlight_flight (s : State) (f : Flight → Flight) : (s.onFlight f).flight = f s.flight := rfl

/-! ## setDie -/

@[simp] theorem State.setDie_mem (s : State) (d : Nat) (x : Die) : (s.setDie d x).mem = s.mem := rfl
@[simp] theorem State.setDie_memMarks (s : State) (d : Nat) (x : Die) : (s.setDie d x).memMarks = s.memMarks := rfl
@[simp] theorem State.setDie_stamps (s : State) (d : Nat) (x : Die) : (s.setDie d x).stamps = s.stamps := rfl
@[simp] theorem State.setDie_stack (s : State) (d : Nat) (x : Die) : (s.setDie d x).stack = s.stack := rfl
@[simp] theorem State.setDie_io (s : State) (d : Nat) (x : Die) : (s.setDie d x).io = s.io := rfl
@[simp] theorem State.setDie_flight (s : State) (d : Nat) (x : Die) : (s.setDie d x).flight = s.flight := rfl
@[simp] theorem State.setDie_xtimers (s : State) (d : Nat) (x : Die) : (s.setDie d x).xtimers = s.xtimers := rfl
@[simp] theorem State.setDie_toHost (s : State) (d : Nat) (x : Die) : (s.setDie d x).toHost = s.toHost := rfl
@[simp] theorem State.setDie_toPeers (s : State) (d : Nat) (x : Die) : (s.setDie d x).toPeers = s.toPeers := rfl
@[simp] theorem State.setDie_now (s : State) (d : Nat) (x : Die) : (s.setDie d x).now = s.now := rfl
@[simp] theorem State.setDie_nextUid (s : State) (d : Nat) (x : Die) : (s.setDie d x).nextUid = s.nextUid := rfl
@[simp] theorem State.setDie_cur (s : State) (d : Nat) (x : Die) : (s.setDie d x).cur = s.cur := rfl
@[simp] theorem State.setDie_agenda (s : State) (d : Nat) (x : Die) : (s.setDie d x).agenda = s.agenda := rfl
@[simp] theorem State.setDie_free (s : State) (d : Nat) (x : Die) : (s.setDie d x).free = s.free := rfl
@[simp] theorem State.setDie_dies (s : State) (d : Nat) (x : Die) : (s.setDie d x).dies = s.dies.setIfInBounds d x := rfl

/-! ## onDie -/

@[simp] theorem State.onDie_mem (s : State) (d : Nat) (f : Die → Die) : (s.onDie d f).mem = s.mem := rfl
@[simp] theorem State.onDie_memMarks (s : State) (d : Nat) (f : Die → Die) : (s.onDie d f).memMarks = s.memMarks := rfl
@[simp] theorem State.onDie_stamps (s : State) (d : Nat) (f : Die → Die) : (s.onDie d f).stamps = s.stamps := rfl
@[simp] theorem State.onDie_stack (s : State) (d : Nat) (f : Die → Die) : (s.onDie d f).stack = s.stack := rfl
@[simp] theorem State.onDie_io (s : State) (d : Nat) (f : Die → Die) : (s.onDie d f).io = s.io := rfl
@[simp] theorem State.onDie_flight (s : State) (d : Nat) (f : Die → Die) : (s.onDie d f).flight = s.flight := rfl
@[simp] theorem State.onDie_xtimers (s : State) (d : Nat) (f : Die → Die) : (s.onDie d f).xtimers = s.xtimers := rfl
@[simp] theorem State.onDie_toHost (s : State) (d : Nat) (f : Die → Die) : (s.onDie d f).toHost = s.toHost := rfl
@[simp] theorem State.onDie_toPeers (s : State) (d : Nat) (f : Die → Die) : (s.onDie d f).toPeers = s.toPeers := rfl
@[simp] theorem State.onDie_now (s : State) (d : Nat) (f : Die → Die) : (s.onDie d f).now = s.now := rfl
@[simp] theorem State.onDie_nextUid (s : State) (d : Nat) (f : Die → Die) : (s.onDie d f).nextUid = s.nextUid := rfl
@[simp] theorem State.onDie_cur (s : State) (d : Nat) (f : Die → Die) : (s.onDie d f).cur = s.cur := rfl
@[simp] theorem State.onDie_agenda (s : State) (d : Nat) (f : Die → Die) : (s.onDie d f).agenda = s.agenda := rfl
@[simp] theorem State.onDie_free (s : State) (d : Nat) (f : Die → Die) : (s.onDie d f).free = s.free := rfl
@[simp] theorem State.onDie_dies (s : State) (d : Nat) (f : Die → Die) : (s.onDie d f).dies = s.dies.setIfInBounds d (f (s.die d)) := rfl

/-! ## onCore -/

@[simp] theorem State.onCore_mem (s : State) (d k : Nat) (f : Core → Core) : (s.onCore d k f).mem = s.mem := rfl
@[simp] theorem State.onCore_memMarks (s : State) (d k : Nat) (f : Core → Core) : (s.onCore d k f).memMarks = s.memMarks := rfl
@[simp] theorem State.onCore_stamps (s : State) (d k : Nat) (f : Core → Core) : (s.onCore d k f).stamps = s.stamps := rfl
@[simp] theorem State.onCore_stack (s : State) (d k : Nat) (f : Core → Core) : (s.onCore d k f).stack = s.stack := rfl
@[simp] theorem State.onCore_io (s : State) (d k : Nat) (f : Core → Core) : (s.onCore d k f).io = s.io := rfl
@[simp] theorem State.onCore_flight (s : State) (d k : Nat) (f : Core → Core) : (s.onCore d k f).flight = s.flight := rfl
@[simp] theorem State.onCore_xtimers (s : State) (d k : Nat) (f : Core → Core) : (s.onCore d k f).xtimers = s.xtimers := rfl
@[simp] theorem State.onCore_toHost (s : State) (d k : Nat) (f : Core → Core) : (s.onCore d k f).toHost = s.toHost := rfl
@[simp] theorem State.onCore_toPeers (s : State) (d k : Nat) (f : Core → Core) : (s.onCore d k f).toPeers = s.toPeers := rfl
@[simp] theorem State.onCore_now (s : State) (d k : Nat) (f : Core → Core) : (s.onCore d k f).now = s.now := rfl
@[simp] theorem State.onCore_nextUid (s : State) (d k : Nat) (f : Core → Core) : (s.onCore d k f).nextUid = s.nextUid := rfl
@[simp] theorem State.onCore_cur (s : State) (d k : Nat) (f : Core → Core) : (s.onCore d k f).cur = s.cur := rfl
@[simp] theorem State.onCore_agenda (s : State) (d k : Nat) (f : Core → Core) : (s.onCore d k f).agenda = s.agenda := rfl
@[simp] theorem State.onCore_free (s : State) (d k : Nat) (f : Core → Core) : (s.onCore d k f).free = s.free := rfl

/-! ## onRegion -/

@[simp] theorem State.onRegion_mem (s : State) (d n : Nat) (f : Region → Region) : (s.onRegion d n f).mem = s.mem := rfl
@[simp] theorem State.onRegion_memMarks (s : State) (d n : Nat) (f : Region → Region) : (s.onRegion d n f).memMarks = s.memMarks := rfl
@[simp] theorem State.onRegion_stamps (s : State) (d n : Nat) (f : Region → Region) : (s.onRegion d n f).stamps = s.stamps := rfl
@[simp] theorem State.onRegion_stack (s : State) (d n : Nat) (f : Region → Region) : (s.onRegion d n f).stack = s.stack := rfl
@[simp] theorem State.onRegion_io (s : State) (d n : Nat) (f : Region → Region) : (s.onRegion d n f).io = s.io := rfl
@[simp] theorem State.onRegion_flight (s : State) (d n : Nat) (f : Region → Region) : (s.onRegion d n f).flight = s.flight := rfl
@[simp] theorem State.onRegion_xtimers (s : State) (d n : Nat) (f : Region → Region) : (s.onRegion d n f).xtimers = s.xtimers := rfl
@[simp] theorem State.onRegion_toHost (s : State) (d n : Nat) (f : Region → Region) : (s.onRegion d n f).toHost = s.toHost := rfl
@[simp] theorem State.onRegion_toPeers (s : State) (d n : Nat) (f : Region → Region) : (s.onRegion d n f).toPeers = s.toPeers := rfl
@[simp] theorem State.onRegion_now (s : State) (d n : Nat) (f : Region → Region) : (s.onRegion d n f).now = s.now := rfl
@[simp] theorem State.onRegion_nextUid (s : State) (d n : Nat) (f : Region → Region) : (s.onRegion d n f).nextUid = s.nextUid := rfl
@[simp] theorem State.onRegion_cur (s : State) (d n : Nat) (f : Region → Region) : (s.onRegion d n f).cur = s.cur := rfl
@[simp] theorem State.onRegion_agenda (s : State) (d n : Nat) (f : Region → Region) : (s.onRegion d n f).agenda = s.agenda := rfl
@[simp] theorem State.onRegion_free (s : State) (d n : Nat) (f : Region → Region) : (s.onRegion d n f).free = s.free := rfl

/-! ## onLock -/

@[simp] theorem State.onLock_mem (s : State) (d n j : Nat) (f : Lock → Lock) : (s.onLock d n j f).mem = s.mem := rfl
@[simp] theorem State.onLock_memMarks (s : State) (d n j : Nat) (f : Lock → Lock) : (s.onLock d n j f).memMarks = s.memMarks := rfl
@[simp] theorem State.onLock_stamps (s : State) (d n j : Nat) (f : Lock → Lock) : (s.onLock d n j f).stamps = s.stamps := rfl
@[simp] theorem State.onLock_stack (s : State) (d n j : Nat) (f : Lock → Lock) : (s.onLock d n j f).stack = s.stack := rfl
@[simp] theorem State.onLock_io (s : State) (d n j : Nat) (f : Lock → Lock) : (s.onLock d n j f).io = s.io := rfl
@[simp] theorem State.onLock_flight (s : State) (d n j : Nat) (f : Lock → Lock) : (s.onLock d n j f).flight = s.flight := rfl
@[simp] theorem State.onLock_xtimers (s : State) (d n j : Nat) (f : Lock → Lock) : (s.onLock d n j f).xtimers = s.xtimers := rfl
@[simp] theorem State.onLock_toHost (s : State) (d n j : Nat) (f : Lock → Lock) : (s.onLock d n j f).toHost = s.toHost := rfl
@[simp] theorem State.onLock_toPeers (s : State) (d n j : Nat) (f : Lock → Lock) : (s.onLock d n j f).toPeers = s.toPeers := rfl
@[simp] theorem State.onLock_now (s : State) (d n j : Nat) (f : Lock → Lock) : (s.onLock d n j f).now = s.now := rfl
@[simp] theorem State.onLock_nextUid (s : State) (d n j : Nat) (f : Lock → Lock) : (s.onLock d n j f).nextUid = s.nextUid := rfl
@[simp] theorem State.onLock_cur (s : State) (d n j : Nat) (f : Lock → Lock) : (s.onLock d n j f).cur = s.cur := rfl
@[simp] theorem State.onLock_agenda (s : State) (d n j : Nat) (f : Lock → Lock) : (s.onLock d n j f).agenda = s.agenda := rfl
@[simp] theorem State.onLock_free (s : State) (d n j : Nat) (f : Lock → Lock) : (s.onLock d n j f).free = s.free := rfl

/-! ## setBerth -/

@[simp] theorem State.setBerth_mem (s : State) (r : CrewRef) (c : Option Crew) : (s.setBerth r c).mem = s.mem := rfl
@[simp] theorem State.setBerth_memMarks (s : State) (r : CrewRef) (c : Option Crew) : (s.setBerth r c).memMarks = s.memMarks := rfl
@[simp] theorem State.setBerth_stamps (s : State) (r : CrewRef) (c : Option Crew) : (s.setBerth r c).stamps = s.stamps := rfl
@[simp] theorem State.setBerth_stack (s : State) (r : CrewRef) (c : Option Crew) : (s.setBerth r c).stack = s.stack := rfl
@[simp] theorem State.setBerth_io (s : State) (r : CrewRef) (c : Option Crew) : (s.setBerth r c).io = s.io := rfl
@[simp] theorem State.setBerth_flight (s : State) (r : CrewRef) (c : Option Crew) : (s.setBerth r c).flight = s.flight := rfl
@[simp] theorem State.setBerth_xtimers (s : State) (r : CrewRef) (c : Option Crew) : (s.setBerth r c).xtimers = s.xtimers := rfl
@[simp] theorem State.setBerth_toHost (s : State) (r : CrewRef) (c : Option Crew) : (s.setBerth r c).toHost = s.toHost := rfl
@[simp] theorem State.setBerth_toPeers (s : State) (r : CrewRef) (c : Option Crew) : (s.setBerth r c).toPeers = s.toPeers := rfl
@[simp] theorem State.setBerth_now (s : State) (r : CrewRef) (c : Option Crew) : (s.setBerth r c).now = s.now := rfl
@[simp] theorem State.setBerth_nextUid (s : State) (r : CrewRef) (c : Option Crew) : (s.setBerth r c).nextUid = s.nextUid := rfl
@[simp] theorem State.setBerth_cur (s : State) (r : CrewRef) (c : Option Crew) : (s.setBerth r c).cur = s.cur := rfl
@[simp] theorem State.setBerth_agenda (s : State) (r : CrewRef) (c : Option Crew) : (s.setBerth r c).agenda = s.agenda := rfl
@[simp] theorem State.setBerth_free (s : State) (r : CrewRef) (c : Option Crew) : (s.setBerth r c).free = s.free := rfl

/-! ## putCrew -/

@[simp] theorem State.putCrew_mem (s : State) (c : Crew) : (s.putCrew c).mem = s.mem := rfl
@[simp] theorem State.putCrew_memMarks (s : State) (c : Crew) : (s.putCrew c).memMarks = s.memMarks := rfl
@[simp] theorem State.putCrew_stamps (s : State) (c : Crew) : (s.putCrew c).stamps = s.stamps := rfl
@[simp] theorem State.putCrew_stack (s : State) (c : Crew) : (s.putCrew c).stack = s.stack := rfl
@[simp] theorem State.putCrew_io (s : State) (c : Crew) : (s.putCrew c).io = s.io := rfl
@[simp] theorem State.putCrew_flight (s : State) (c : Crew) : (s.putCrew c).flight = s.flight := rfl
@[simp] theorem State.putCrew_xtimers (s : State) (c : Crew) : (s.putCrew c).xtimers = s.xtimers := rfl
@[simp] theorem State.putCrew_toHost (s : State) (c : Crew) : (s.putCrew c).toHost = s.toHost := rfl
@[simp] theorem State.putCrew_toPeers (s : State) (c : Crew) : (s.putCrew c).toPeers = s.toPeers := rfl
@[simp] theorem State.putCrew_now (s : State) (c : Crew) : (s.putCrew c).now = s.now := rfl
@[simp] theorem State.putCrew_nextUid (s : State) (c : Crew) : (s.putCrew c).nextUid = s.nextUid := rfl
@[simp] theorem State.putCrew_cur (s : State) (c : Crew) : (s.putCrew c).cur = s.cur := rfl
@[simp] theorem State.putCrew_agenda (s : State) (c : Crew) : (s.putCrew c).agenda = s.agenda := rfl
@[simp] theorem State.putCrew_free (s : State) (c : Crew) : (s.putCrew c).free = s.free := rfl

/-! ## onCrew -/

@[simp] theorem State.onCrew_mem (s : State) (uid : Nat) (f : Crew → Crew) : (s.onCrew uid f).mem = s.mem := rfl
@[simp] theorem State.onCrew_memMarks (s : State) (uid : Nat) (f : Crew → Crew) : (s.onCrew uid f).memMarks = s.memMarks := rfl
@[simp] theorem State.onCrew_stamps (s : State) (uid : Nat) (f : Crew → Crew) : (s.onCrew uid f).stamps = s.stamps := rfl
@[simp] theorem State.onCrew_stack (s : State) (uid : Nat) (f : Crew → Crew) : (s.onCrew uid f).stack = s.stack := rfl
@[simp] theorem State.onCrew_io (s : State) (uid : Nat) (f : Crew → Crew) : (s.onCrew uid f).io = s.io := rfl
@[simp] theorem State.onCrew_flight (s : State) (uid : Nat) (f : Crew → Crew) : (s.onCrew uid f).flight = s.flight := rfl
@[simp] theorem State.onCrew_xtimers (s : State) (uid : Nat) (f : Crew → Crew) : (s.onCrew uid f).xtimers = s.xtimers := rfl
@[simp] theorem State.onCrew_toHost (s : State) (uid : Nat) (f : Crew → Crew) : (s.onCrew uid f).toHost = s.toHost := rfl
@[simp] theorem State.onCrew_toPeers (s : State) (uid : Nat) (f : Crew → Crew) : (s.onCrew uid f).toPeers = s.toPeers := rfl
@[simp] theorem State.onCrew_now (s : State) (uid : Nat) (f : Crew → Crew) : (s.onCrew uid f).now = s.now := rfl
@[simp] theorem State.onCrew_nextUid (s : State) (uid : Nat) (f : Crew → Crew) : (s.onCrew uid f).nextUid = s.nextUid := rfl
@[simp] theorem State.onCrew_cur (s : State) (uid : Nat) (f : Crew → Crew) : (s.onCrew uid f).cur = s.cur := rfl
@[simp] theorem State.onCrew_agenda (s : State) (uid : Nat) (f : Crew → Crew) : (s.onCrew uid f).agenda = s.agenda := rfl
@[simp] theorem State.onCrew_free (s : State) (uid : Nat) (f : Crew → Crew) : (s.onCrew uid f).free = s.free := rfl

/-! ## setCell -/

@[simp] theorem State.setCell_memMarks (s : State) (k : Nat) (b : Byte) : (s.setCell k b).memMarks = s.memMarks := rfl
@[simp] theorem State.setCell_stamps (s : State) (k : Nat) (b : Byte) : (s.setCell k b).stamps = s.stamps := rfl
@[simp] theorem State.setCell_stack (s : State) (k : Nat) (b : Byte) : (s.setCell k b).stack = s.stack := rfl
@[simp] theorem State.setCell_dies (s : State) (k : Nat) (b : Byte) : (s.setCell k b).dies = s.dies := rfl
@[simp] theorem State.setCell_io (s : State) (k : Nat) (b : Byte) : (s.setCell k b).io = s.io := rfl
@[simp] theorem State.setCell_flight (s : State) (k : Nat) (b : Byte) : (s.setCell k b).flight = s.flight := rfl
@[simp] theorem State.setCell_xtimers (s : State) (k : Nat) (b : Byte) : (s.setCell k b).xtimers = s.xtimers := rfl
@[simp] theorem State.setCell_toHost (s : State) (k : Nat) (b : Byte) : (s.setCell k b).toHost = s.toHost := rfl
@[simp] theorem State.setCell_toPeers (s : State) (k : Nat) (b : Byte) : (s.setCell k b).toPeers = s.toPeers := rfl
@[simp] theorem State.setCell_now (s : State) (k : Nat) (b : Byte) : (s.setCell k b).now = s.now := rfl
@[simp] theorem State.setCell_nextUid (s : State) (k : Nat) (b : Byte) : (s.setCell k b).nextUid = s.nextUid := rfl
@[simp] theorem State.setCell_cur (s : State) (k : Nat) (b : Byte) : (s.setCell k b).cur = s.cur := rfl
@[simp] theorem State.setCell_agenda (s : State) (k : Nat) (b : Byte) : (s.setCell k b).agenda = s.agenda := rfl
@[simp] theorem State.setCell_free (s : State) (k : Nat) (b : Byte) : (s.setCell k b).free = s.free := rfl
@[simp] theorem State.setCell_mem (s : State) (k : Nat) (b : Byte) : (s.setCell k b).mem = cellWrite s.mem k b := rfl

/-! ## clearMark -/

@[simp] theorem State.clearMark_mem (s : State) (k : Nat) : (s.clearMark k).mem = s.mem := rfl
@[simp] theorem State.clearMark_stamps (s : State) (k : Nat) : (s.clearMark k).stamps = s.stamps := rfl
@[simp] theorem State.clearMark_stack (s : State) (k : Nat) : (s.clearMark k).stack = s.stack := rfl
@[simp] theorem State.clearMark_dies (s : State) (k : Nat) : (s.clearMark k).dies = s.dies := rfl
@[simp] theorem State.clearMark_io (s : State) (k : Nat) : (s.clearMark k).io = s.io := rfl
@[simp] theorem State.clearMark_flight (s : State) (k : Nat) : (s.clearMark k).flight = s.flight := rfl
@[simp] theorem State.clearMark_xtimers (s : State) (k : Nat) : (s.clearMark k).xtimers = s.xtimers := rfl
@[simp] theorem State.clearMark_toHost (s : State) (k : Nat) : (s.clearMark k).toHost = s.toHost := rfl
@[simp] theorem State.clearMark_toPeers (s : State) (k : Nat) : (s.clearMark k).toPeers = s.toPeers := rfl
@[simp] theorem State.clearMark_now (s : State) (k : Nat) : (s.clearMark k).now = s.now := rfl
@[simp] theorem State.clearMark_nextUid (s : State) (k : Nat) : (s.clearMark k).nextUid = s.nextUid := rfl
@[simp] theorem State.clearMark_cur (s : State) (k : Nat) : (s.clearMark k).cur = s.cur := rfl
@[simp] theorem State.clearMark_agenda (s : State) (k : Nat) : (s.clearMark k).agenda = s.agenda := rfl
@[simp] theorem State.clearMark_free (s : State) (k : Nat) : (s.clearMark k).free = s.free := rfl

/-! ## clearMarks -/

@[simp] theorem State.clearMarks_mem (s : State) (k n : Nat) : (s.clearMarks k n).mem = s.mem := rfl
@[simp] theorem State.clearMarks_stamps (s : State) (k n : Nat) : (s.clearMarks k n).stamps = s.stamps := rfl
@[simp] theorem State.clearMarks_stack (s : State) (k n : Nat) : (s.clearMarks k n).stack = s.stack := rfl
@[simp] theorem State.clearMarks_dies (s : State) (k n : Nat) : (s.clearMarks k n).dies = s.dies := rfl
@[simp] theorem State.clearMarks_io (s : State) (k n : Nat) : (s.clearMarks k n).io = s.io := rfl
@[simp] theorem State.clearMarks_flight (s : State) (k n : Nat) : (s.clearMarks k n).flight = s.flight := rfl
@[simp] theorem State.clearMarks_xtimers (s : State) (k n : Nat) : (s.clearMarks k n).xtimers = s.xtimers := rfl
@[simp] theorem State.clearMarks_toHost (s : State) (k n : Nat) : (s.clearMarks k n).toHost = s.toHost := rfl
@[simp] theorem State.clearMarks_toPeers (s : State) (k n : Nat) : (s.clearMarks k n).toPeers = s.toPeers := rfl
@[simp] theorem State.clearMarks_now (s : State) (k n : Nat) : (s.clearMarks k n).now = s.now := rfl
@[simp] theorem State.clearMarks_nextUid (s : State) (k n : Nat) : (s.clearMarks k n).nextUid = s.nextUid := rfl
@[simp] theorem State.clearMarks_cur (s : State) (k n : Nat) : (s.clearMarks k n).cur = s.cur := rfl
@[simp] theorem State.clearMarks_agenda (s : State) (k n : Nat) : (s.clearMarks k n).agenda = s.agenda := rfl
@[simp] theorem State.clearMarks_free (s : State) (k n : Nat) : (s.clearMarks k n).free = s.free := rfl

/-! ## Crew.advance -/

@[simp] theorem Crew.advance_uid (c : Crew) : (c.advance).uid = c.uid := rfl
@[simp] theorem Crew.advance_place (c : Crew) : (c.advance).place = c.place := rfl
@[simp] theorem Crew.advance_region (c : Crew) : (c.advance).region = c.region := rfl
@[simp] theorem Crew.advance_version (c : Crew) : (c.advance).version = c.version := rfl
@[simp] theorem Crew.advance_handler (c : Crew) : (c.advance).handler = c.handler := rfl
@[simp] theorem Crew.advance_entry (c : Crew) : (c.advance).entry = c.entry := rfl
@[simp] theorem Crew.advance_lanes (c : Crew) : (c.advance).lanes = c.lanes := rfl
@[simp] theorem Crew.advance_sregs (c : Crew) : (c.advance).sregs = c.sregs := rfl
@[simp] theorem Crew.advance_mregs (c : Crew) : (c.advance).mregs = c.mregs := rfl
@[simp] theorem Crew.advance_cur (c : Crew) : (c.advance).cur = c.cur := rfl
@[simp] theorem Crew.advance_live (c : Crew) : (c.advance).live = c.live := rfl
@[simp] theorem Crew.advance_stack (c : Crew) : (c.advance).stack = c.stack := rfl
@[simp] theorem Crew.advance_vregs (c : Crew) : (c.advance).vregs = c.vregs := rfl
@[simp] theorem Crew.advance_fmts (c : Crew) : (c.advance).fmts = c.fmts := rfl
@[simp] theorem Crew.advance_tiles (c : Crew) : (c.advance).tiles = c.tiles := rfl
@[simp] theorem Crew.advance_sca (c : Crew) : (c.advance).sca = c.sca := rfl
@[simp] theorem Crew.advance_scb (c : Crew) : (c.advance).scb = c.scb := rfl
@[simp] theorem Crew.advance_ops (c : Crew) : (c.advance).ops = c.ops := rfl
@[simp] theorem Crew.advance_nextTicket (c : Crew) : (c.advance).nextTicket = c.nextTicket := rfl
@[simp] theorem Crew.advance_busy (c : Crew) : (c.advance).busy = c.busy := rfl
@[simp] theorem Crew.advance_werr (c : Crew) : (c.advance).werr = c.werr := rfl
@[simp] theorem Crew.advance_cflags (c : Crew) : (c.advance).cflags = c.cflags := rfl
@[simp] theorem Crew.advance_held (c : Crew) : (c.advance).held = c.held := rfl
@[simp] theorem Crew.advance_lockBuf (c : Crew) : (c.advance).lockBuf = c.lockBuf := rfl
@[simp] theorem Crew.advance_buffers (c : Crew) : (c.advance).buffers = c.buffers := rfl
@[simp] theorem Crew.advance_granules (c : Crew) : (c.advance).granules = c.granules := rfl
@[simp] theorem Crew.advance_privBase (c : Crew) : (c.advance).privBase = c.privBase := rfl
@[simp] theorem Crew.advance_privSize (c : Crew) : (c.advance).privSize = c.privSize := rfl
@[simp] theorem Crew.advance_boundBlocks (c : Crew) : (c.advance).boundBlocks = c.boundBlocks := rfl
@[simp] theorem Crew.advance_spillBlocks (c : Crew) : (c.advance).spillBlocks = c.spillBlocks := rfl
@[simp] theorem Crew.advance_declared (c : Crew) : (c.advance).declared = c.declared := rfl
@[simp] theorem Crew.advance_weir (c : Crew) : (c.advance).weir = c.weir := rfl
@[simp] theorem Crew.advance_tie (c : Crew) : (c.advance).tie = c.tie := rfl
@[simp] theorem Crew.advance_wait (c : Crew) : (c.advance).wait = c.wait := rfl
@[simp] theorem Crew.advance_started (c : Crew) : (c.advance).started = c.started := rfl
@[simp] theorem Crew.advance_launched (c : Crew) : (c.advance).launched = c.launched := rfl
@[simp] theorem Crew.advance_cid (c : Crew) : (c.advance).cid = c.cid := rfl
@[simp] theorem Crew.advance_fp (c : Crew) : (c.advance).fp = c.fp := rfl
@[simp] theorem Crew.advance_exitPending (c : Crew) : (c.advance).exitPending = c.exitPending := rfl
@[simp] theorem Crew.advance_wbLost (c : Crew) : (c.advance).wbLost = c.wbLost := rfl
@[simp] theorem Crew.advance_poison (c : Crew) : (c.advance).poison = c.poison := rfl
@[simp] theorem Crew.advance_service (c : Crew) : (c.advance).service = c.service := rfl
@[simp] theorem Crew.advance_stepLeft (c : Crew) : (c.advance).stepLeft = c.stepLeft := rfl
@[simp] theorem Crew.advance_absent (c : Crew) : (c.advance).absent = c.absent := rfl
@[simp] theorem Crew.advance_begun (c : Crew) : (c.advance).begun = c.begun := rfl
@[simp] theorem Crew.advance_folds (c : Crew) : (c.advance).folds = c.folds := rfl
@[simp] theorem Crew.advance_pc (c : Crew) : (c.advance).pc = c.pc + 8 := rfl

/-! ## Crew.setM -/

@[simp] theorem Crew.setM_uid (c : Crew) (r : BitVec 8) (m : Mask) : (c.setM r m).uid = c.uid := rfl
@[simp] theorem Crew.setM_place (c : Crew) (r : BitVec 8) (m : Mask) : (c.setM r m).place = c.place := rfl
@[simp] theorem Crew.setM_region (c : Crew) (r : BitVec 8) (m : Mask) : (c.setM r m).region = c.region := rfl
@[simp] theorem Crew.setM_version (c : Crew) (r : BitVec 8) (m : Mask) : (c.setM r m).version = c.version := rfl
@[simp] theorem Crew.setM_handler (c : Crew) (r : BitVec 8) (m : Mask) : (c.setM r m).handler = c.handler := rfl
@[simp] theorem Crew.setM_entry (c : Crew) (r : BitVec 8) (m : Mask) : (c.setM r m).entry = c.entry := rfl
@[simp] theorem Crew.setM_lanes (c : Crew) (r : BitVec 8) (m : Mask) : (c.setM r m).lanes = c.lanes := rfl
@[simp] theorem Crew.setM_pc (c : Crew) (r : BitVec 8) (m : Mask) : (c.setM r m).pc = c.pc := rfl
@[simp] theorem Crew.setM_sregs (c : Crew) (r : BitVec 8) (m : Mask) : (c.setM r m).sregs = c.sregs := rfl
@[simp] theorem Crew.setM_cur (c : Crew) (r : BitVec 8) (m : Mask) : (c.setM r m).cur = c.cur := rfl
@[simp] theorem Crew.setM_live (c : Crew) (r : BitVec 8) (m : Mask) : (c.setM r m).live = c.live := rfl
@[simp] theorem Crew.setM_stack (c : Crew) (r : BitVec 8) (m : Mask) : (c.setM r m).stack = c.stack := rfl
@[simp] theorem Crew.setM_vregs (c : Crew) (r : BitVec 8) (m : Mask) : (c.setM r m).vregs = c.vregs := rfl
@[simp] theorem Crew.setM_fmts (c : Crew) (r : BitVec 8) (m : Mask) : (c.setM r m).fmts = c.fmts := rfl
@[simp] theorem Crew.setM_tiles (c : Crew) (r : BitVec 8) (m : Mask) : (c.setM r m).tiles = c.tiles := rfl
@[simp] theorem Crew.setM_sca (c : Crew) (r : BitVec 8) (m : Mask) : (c.setM r m).sca = c.sca := rfl
@[simp] theorem Crew.setM_scb (c : Crew) (r : BitVec 8) (m : Mask) : (c.setM r m).scb = c.scb := rfl
@[simp] theorem Crew.setM_ops (c : Crew) (r : BitVec 8) (m : Mask) : (c.setM r m).ops = c.ops := rfl
@[simp] theorem Crew.setM_nextTicket (c : Crew) (r : BitVec 8) (m : Mask) : (c.setM r m).nextTicket = c.nextTicket := rfl
@[simp] theorem Crew.setM_busy (c : Crew) (r : BitVec 8) (m : Mask) : (c.setM r m).busy = c.busy := rfl
@[simp] theorem Crew.setM_werr (c : Crew) (r : BitVec 8) (m : Mask) : (c.setM r m).werr = c.werr := rfl
@[simp] theorem Crew.setM_cflags (c : Crew) (r : BitVec 8) (m : Mask) : (c.setM r m).cflags = c.cflags := rfl
@[simp] theorem Crew.setM_held (c : Crew) (r : BitVec 8) (m : Mask) : (c.setM r m).held = c.held := rfl
@[simp] theorem Crew.setM_lockBuf (c : Crew) (r : BitVec 8) (m : Mask) : (c.setM r m).lockBuf = c.lockBuf := rfl
@[simp] theorem Crew.setM_buffers (c : Crew) (r : BitVec 8) (m : Mask) : (c.setM r m).buffers = c.buffers := rfl
@[simp] theorem Crew.setM_granules (c : Crew) (r : BitVec 8) (m : Mask) : (c.setM r m).granules = c.granules := rfl
@[simp] theorem Crew.setM_privBase (c : Crew) (r : BitVec 8) (m : Mask) : (c.setM r m).privBase = c.privBase := rfl
@[simp] theorem Crew.setM_privSize (c : Crew) (r : BitVec 8) (m : Mask) : (c.setM r m).privSize = c.privSize := rfl
@[simp] theorem Crew.setM_boundBlocks (c : Crew) (r : BitVec 8) (m : Mask) : (c.setM r m).boundBlocks = c.boundBlocks := rfl
@[simp] theorem Crew.setM_spillBlocks (c : Crew) (r : BitVec 8) (m : Mask) : (c.setM r m).spillBlocks = c.spillBlocks := rfl
@[simp] theorem Crew.setM_declared (c : Crew) (r : BitVec 8) (m : Mask) : (c.setM r m).declared = c.declared := rfl
@[simp] theorem Crew.setM_weir (c : Crew) (r : BitVec 8) (m : Mask) : (c.setM r m).weir = c.weir := rfl
@[simp] theorem Crew.setM_tie (c : Crew) (r : BitVec 8) (m : Mask) : (c.setM r m).tie = c.tie := rfl
@[simp] theorem Crew.setM_wait (c : Crew) (r : BitVec 8) (m : Mask) : (c.setM r m).wait = c.wait := rfl
@[simp] theorem Crew.setM_started (c : Crew) (r : BitVec 8) (m : Mask) : (c.setM r m).started = c.started := rfl
@[simp] theorem Crew.setM_launched (c : Crew) (r : BitVec 8) (m : Mask) : (c.setM r m).launched = c.launched := rfl
@[simp] theorem Crew.setM_cid (c : Crew) (r : BitVec 8) (m : Mask) : (c.setM r m).cid = c.cid := rfl
@[simp] theorem Crew.setM_fp (c : Crew) (r : BitVec 8) (m : Mask) : (c.setM r m).fp = c.fp := rfl
@[simp] theorem Crew.setM_exitPending (c : Crew) (r : BitVec 8) (m : Mask) : (c.setM r m).exitPending = c.exitPending := rfl
@[simp] theorem Crew.setM_wbLost (c : Crew) (r : BitVec 8) (m : Mask) : (c.setM r m).wbLost = c.wbLost := rfl
@[simp] theorem Crew.setM_poison (c : Crew) (r : BitVec 8) (m : Mask) : (c.setM r m).poison = c.poison := rfl
@[simp] theorem Crew.setM_service (c : Crew) (r : BitVec 8) (m : Mask) : (c.setM r m).service = c.service := rfl
@[simp] theorem Crew.setM_stepLeft (c : Crew) (r : BitVec 8) (m : Mask) : (c.setM r m).stepLeft = c.stepLeft := rfl
@[simp] theorem Crew.setM_absent (c : Crew) (r : BitVec 8) (m : Mask) : (c.setM r m).absent = c.absent := rfl
@[simp] theorem Crew.setM_begun (c : Crew) (r : BitVec 8) (m : Mask) : (c.setM r m).begun = c.begun := rfl
@[simp] theorem Crew.setM_folds (c : Crew) (r : BitVec 8) (m : Mask) : (c.setM r m).folds = c.folds := rfl
@[simp] theorem Crew.setM_mregs (c : Crew) (r : BitVec 8) (m : Mask) : (c.setM r m).mregs = c.mregs.setIfInBounds (r.toNat - 0x40) (m &&& c.allLanes) := rfl

/-! ## Crew.setTile -/

@[simp] theorem Crew.setTile_uid (c : Crew) (r : BitVec 8) (x : TileHandle) : (c.setTile r x).uid = c.uid := rfl
@[simp] theorem Crew.setTile_place (c : Crew) (r : BitVec 8) (x : TileHandle) : (c.setTile r x).place = c.place := rfl
@[simp] theorem Crew.setTile_region (c : Crew) (r : BitVec 8) (x : TileHandle) : (c.setTile r x).region = c.region := rfl
@[simp] theorem Crew.setTile_version (c : Crew) (r : BitVec 8) (x : TileHandle) : (c.setTile r x).version = c.version := rfl
@[simp] theorem Crew.setTile_handler (c : Crew) (r : BitVec 8) (x : TileHandle) : (c.setTile r x).handler = c.handler := rfl
@[simp] theorem Crew.setTile_entry (c : Crew) (r : BitVec 8) (x : TileHandle) : (c.setTile r x).entry = c.entry := rfl
@[simp] theorem Crew.setTile_lanes (c : Crew) (r : BitVec 8) (x : TileHandle) : (c.setTile r x).lanes = c.lanes := rfl
@[simp] theorem Crew.setTile_pc (c : Crew) (r : BitVec 8) (x : TileHandle) : (c.setTile r x).pc = c.pc := rfl
@[simp] theorem Crew.setTile_sregs (c : Crew) (r : BitVec 8) (x : TileHandle) : (c.setTile r x).sregs = c.sregs := rfl
@[simp] theorem Crew.setTile_mregs (c : Crew) (r : BitVec 8) (x : TileHandle) : (c.setTile r x).mregs = c.mregs := rfl
@[simp] theorem Crew.setTile_cur (c : Crew) (r : BitVec 8) (x : TileHandle) : (c.setTile r x).cur = c.cur := rfl
@[simp] theorem Crew.setTile_live (c : Crew) (r : BitVec 8) (x : TileHandle) : (c.setTile r x).live = c.live := rfl
@[simp] theorem Crew.setTile_stack (c : Crew) (r : BitVec 8) (x : TileHandle) : (c.setTile r x).stack = c.stack := rfl
@[simp] theorem Crew.setTile_vregs (c : Crew) (r : BitVec 8) (x : TileHandle) : (c.setTile r x).vregs = c.vregs := rfl
@[simp] theorem Crew.setTile_fmts (c : Crew) (r : BitVec 8) (x : TileHandle) : (c.setTile r x).fmts = c.fmts := rfl
@[simp] theorem Crew.setTile_sca (c : Crew) (r : BitVec 8) (x : TileHandle) : (c.setTile r x).sca = c.sca := rfl
@[simp] theorem Crew.setTile_scb (c : Crew) (r : BitVec 8) (x : TileHandle) : (c.setTile r x).scb = c.scb := rfl
@[simp] theorem Crew.setTile_ops (c : Crew) (r : BitVec 8) (x : TileHandle) : (c.setTile r x).ops = c.ops := rfl
@[simp] theorem Crew.setTile_nextTicket (c : Crew) (r : BitVec 8) (x : TileHandle) : (c.setTile r x).nextTicket = c.nextTicket := rfl
@[simp] theorem Crew.setTile_busy (c : Crew) (r : BitVec 8) (x : TileHandle) : (c.setTile r x).busy = c.busy := rfl
@[simp] theorem Crew.setTile_werr (c : Crew) (r : BitVec 8) (x : TileHandle) : (c.setTile r x).werr = c.werr := rfl
@[simp] theorem Crew.setTile_cflags (c : Crew) (r : BitVec 8) (x : TileHandle) : (c.setTile r x).cflags = c.cflags := rfl
@[simp] theorem Crew.setTile_held (c : Crew) (r : BitVec 8) (x : TileHandle) : (c.setTile r x).held = c.held := rfl
@[simp] theorem Crew.setTile_lockBuf (c : Crew) (r : BitVec 8) (x : TileHandle) : (c.setTile r x).lockBuf = c.lockBuf := rfl
@[simp] theorem Crew.setTile_buffers (c : Crew) (r : BitVec 8) (x : TileHandle) : (c.setTile r x).buffers = c.buffers := rfl
@[simp] theorem Crew.setTile_granules (c : Crew) (r : BitVec 8) (x : TileHandle) : (c.setTile r x).granules = c.granules := rfl
@[simp] theorem Crew.setTile_privBase (c : Crew) (r : BitVec 8) (x : TileHandle) : (c.setTile r x).privBase = c.privBase := rfl
@[simp] theorem Crew.setTile_privSize (c : Crew) (r : BitVec 8) (x : TileHandle) : (c.setTile r x).privSize = c.privSize := rfl
@[simp] theorem Crew.setTile_boundBlocks (c : Crew) (r : BitVec 8) (x : TileHandle) : (c.setTile r x).boundBlocks = c.boundBlocks := rfl
@[simp] theorem Crew.setTile_spillBlocks (c : Crew) (r : BitVec 8) (x : TileHandle) : (c.setTile r x).spillBlocks = c.spillBlocks := rfl
@[simp] theorem Crew.setTile_declared (c : Crew) (r : BitVec 8) (x : TileHandle) : (c.setTile r x).declared = c.declared := rfl
@[simp] theorem Crew.setTile_weir (c : Crew) (r : BitVec 8) (x : TileHandle) : (c.setTile r x).weir = c.weir := rfl
@[simp] theorem Crew.setTile_tie (c : Crew) (r : BitVec 8) (x : TileHandle) : (c.setTile r x).tie = c.tie := rfl
@[simp] theorem Crew.setTile_wait (c : Crew) (r : BitVec 8) (x : TileHandle) : (c.setTile r x).wait = c.wait := rfl
@[simp] theorem Crew.setTile_started (c : Crew) (r : BitVec 8) (x : TileHandle) : (c.setTile r x).started = c.started := rfl
@[simp] theorem Crew.setTile_launched (c : Crew) (r : BitVec 8) (x : TileHandle) : (c.setTile r x).launched = c.launched := rfl
@[simp] theorem Crew.setTile_cid (c : Crew) (r : BitVec 8) (x : TileHandle) : (c.setTile r x).cid = c.cid := rfl
@[simp] theorem Crew.setTile_fp (c : Crew) (r : BitVec 8) (x : TileHandle) : (c.setTile r x).fp = c.fp := rfl
@[simp] theorem Crew.setTile_exitPending (c : Crew) (r : BitVec 8) (x : TileHandle) : (c.setTile r x).exitPending = c.exitPending := rfl
@[simp] theorem Crew.setTile_wbLost (c : Crew) (r : BitVec 8) (x : TileHandle) : (c.setTile r x).wbLost = c.wbLost := rfl
@[simp] theorem Crew.setTile_poison (c : Crew) (r : BitVec 8) (x : TileHandle) : (c.setTile r x).poison = c.poison := rfl
@[simp] theorem Crew.setTile_service (c : Crew) (r : BitVec 8) (x : TileHandle) : (c.setTile r x).service = c.service := rfl
@[simp] theorem Crew.setTile_stepLeft (c : Crew) (r : BitVec 8) (x : TileHandle) : (c.setTile r x).stepLeft = c.stepLeft := rfl
@[simp] theorem Crew.setTile_absent (c : Crew) (r : BitVec 8) (x : TileHandle) : (c.setTile r x).absent = c.absent := rfl
@[simp] theorem Crew.setTile_begun (c : Crew) (r : BitVec 8) (x : TileHandle) : (c.setTile r x).begun = c.begun := rfl
@[simp] theorem Crew.setTile_folds (c : Crew) (r : BitVec 8) (x : TileHandle) : (c.setTile r x).folds = c.folds := rfl
@[simp] theorem Crew.setTile_tiles (c : Crew) (r : BitVec 8) (x : TileHandle) : (c.setTile r x).tiles = c.tiles.setIfInBounds (r.toNat - 0xA0) x := rfl

/-! ## Crew.setErr -/

@[simp] theorem Crew.setErr_uid (c : Crew) (k : Counter) : (c.setErr k).uid = c.uid := rfl
@[simp] theorem Crew.setErr_place (c : Crew) (k : Counter) : (c.setErr k).place = c.place := rfl
@[simp] theorem Crew.setErr_region (c : Crew) (k : Counter) : (c.setErr k).region = c.region := rfl
@[simp] theorem Crew.setErr_version (c : Crew) (k : Counter) : (c.setErr k).version = c.version := rfl
@[simp] theorem Crew.setErr_handler (c : Crew) (k : Counter) : (c.setErr k).handler = c.handler := rfl
@[simp] theorem Crew.setErr_entry (c : Crew) (k : Counter) : (c.setErr k).entry = c.entry := rfl
@[simp] theorem Crew.setErr_lanes (c : Crew) (k : Counter) : (c.setErr k).lanes = c.lanes := rfl
@[simp] theorem Crew.setErr_pc (c : Crew) (k : Counter) : (c.setErr k).pc = c.pc := rfl
@[simp] theorem Crew.setErr_sregs (c : Crew) (k : Counter) : (c.setErr k).sregs = c.sregs := rfl
@[simp] theorem Crew.setErr_mregs (c : Crew) (k : Counter) : (c.setErr k).mregs = c.mregs := rfl
@[simp] theorem Crew.setErr_cur (c : Crew) (k : Counter) : (c.setErr k).cur = c.cur := rfl
@[simp] theorem Crew.setErr_live (c : Crew) (k : Counter) : (c.setErr k).live = c.live := rfl
@[simp] theorem Crew.setErr_stack (c : Crew) (k : Counter) : (c.setErr k).stack = c.stack := rfl
@[simp] theorem Crew.setErr_vregs (c : Crew) (k : Counter) : (c.setErr k).vregs = c.vregs := rfl
@[simp] theorem Crew.setErr_fmts (c : Crew) (k : Counter) : (c.setErr k).fmts = c.fmts := rfl
@[simp] theorem Crew.setErr_tiles (c : Crew) (k : Counter) : (c.setErr k).tiles = c.tiles := rfl
@[simp] theorem Crew.setErr_sca (c : Crew) (k : Counter) : (c.setErr k).sca = c.sca := rfl
@[simp] theorem Crew.setErr_scb (c : Crew) (k : Counter) : (c.setErr k).scb = c.scb := rfl
@[simp] theorem Crew.setErr_ops (c : Crew) (k : Counter) : (c.setErr k).ops = c.ops := rfl
@[simp] theorem Crew.setErr_nextTicket (c : Crew) (k : Counter) : (c.setErr k).nextTicket = c.nextTicket := rfl
@[simp] theorem Crew.setErr_busy (c : Crew) (k : Counter) : (c.setErr k).busy = c.busy := rfl
@[simp] theorem Crew.setErr_cflags (c : Crew) (k : Counter) : (c.setErr k).cflags = c.cflags := rfl
@[simp] theorem Crew.setErr_held (c : Crew) (k : Counter) : (c.setErr k).held = c.held := rfl
@[simp] theorem Crew.setErr_lockBuf (c : Crew) (k : Counter) : (c.setErr k).lockBuf = c.lockBuf := rfl
@[simp] theorem Crew.setErr_buffers (c : Crew) (k : Counter) : (c.setErr k).buffers = c.buffers := rfl
@[simp] theorem Crew.setErr_granules (c : Crew) (k : Counter) : (c.setErr k).granules = c.granules := rfl
@[simp] theorem Crew.setErr_privBase (c : Crew) (k : Counter) : (c.setErr k).privBase = c.privBase := rfl
@[simp] theorem Crew.setErr_privSize (c : Crew) (k : Counter) : (c.setErr k).privSize = c.privSize := rfl
@[simp] theorem Crew.setErr_boundBlocks (c : Crew) (k : Counter) : (c.setErr k).boundBlocks = c.boundBlocks := rfl
@[simp] theorem Crew.setErr_spillBlocks (c : Crew) (k : Counter) : (c.setErr k).spillBlocks = c.spillBlocks := rfl
@[simp] theorem Crew.setErr_declared (c : Crew) (k : Counter) : (c.setErr k).declared = c.declared := rfl
@[simp] theorem Crew.setErr_weir (c : Crew) (k : Counter) : (c.setErr k).weir = c.weir := rfl
@[simp] theorem Crew.setErr_tie (c : Crew) (k : Counter) : (c.setErr k).tie = c.tie := rfl
@[simp] theorem Crew.setErr_wait (c : Crew) (k : Counter) : (c.setErr k).wait = c.wait := rfl
@[simp] theorem Crew.setErr_started (c : Crew) (k : Counter) : (c.setErr k).started = c.started := rfl
@[simp] theorem Crew.setErr_launched (c : Crew) (k : Counter) : (c.setErr k).launched = c.launched := rfl
@[simp] theorem Crew.setErr_cid (c : Crew) (k : Counter) : (c.setErr k).cid = c.cid := rfl
@[simp] theorem Crew.setErr_fp (c : Crew) (k : Counter) : (c.setErr k).fp = c.fp := rfl
@[simp] theorem Crew.setErr_exitPending (c : Crew) (k : Counter) : (c.setErr k).exitPending = c.exitPending := rfl
@[simp] theorem Crew.setErr_wbLost (c : Crew) (k : Counter) : (c.setErr k).wbLost = c.wbLost := rfl
@[simp] theorem Crew.setErr_poison (c : Crew) (k : Counter) : (c.setErr k).poison = c.poison := rfl
@[simp] theorem Crew.setErr_service (c : Crew) (k : Counter) : (c.setErr k).service = c.service := rfl
@[simp] theorem Crew.setErr_stepLeft (c : Crew) (k : Counter) : (c.setErr k).stepLeft = c.stepLeft := rfl
@[simp] theorem Crew.setErr_absent (c : Crew) (k : Counter) : (c.setErr k).absent = c.absent := rfl
@[simp] theorem Crew.setErr_begun (c : Crew) (k : Counter) : (c.setErr k).begun = c.begun := rfl
@[simp] theorem Crew.setErr_folds (c : Crew) (k : Counter) : (c.setErr k).folds = c.folds := rfl
@[simp] theorem Crew.setErr_werr (c : Crew) (k : Counter) : (c.setErr k).werr = c.werr ||| BitVec.ofNat 6 (2 ^ k.bit) := rfl

/-! ## Crew.addOp -/

@[simp] theorem Crew.addOp_uid (c : Crew) (k : Counter) (dn er : Bool) : (c.addOp k dn er).uid = c.uid := rfl
@[simp] theorem Crew.addOp_place (c : Crew) (k : Counter) (dn er : Bool) : (c.addOp k dn er).place = c.place := rfl
@[simp] theorem Crew.addOp_region (c : Crew) (k : Counter) (dn er : Bool) : (c.addOp k dn er).region = c.region := rfl
@[simp] theorem Crew.addOp_version (c : Crew) (k : Counter) (dn er : Bool) : (c.addOp k dn er).version = c.version := rfl
@[simp] theorem Crew.addOp_handler (c : Crew) (k : Counter) (dn er : Bool) : (c.addOp k dn er).handler = c.handler := rfl
@[simp] theorem Crew.addOp_entry (c : Crew) (k : Counter) (dn er : Bool) : (c.addOp k dn er).entry = c.entry := rfl
@[simp] theorem Crew.addOp_lanes (c : Crew) (k : Counter) (dn er : Bool) : (c.addOp k dn er).lanes = c.lanes := rfl
@[simp] theorem Crew.addOp_pc (c : Crew) (k : Counter) (dn er : Bool) : (c.addOp k dn er).pc = c.pc := rfl
@[simp] theorem Crew.addOp_sregs (c : Crew) (k : Counter) (dn er : Bool) : (c.addOp k dn er).sregs = c.sregs := rfl
@[simp] theorem Crew.addOp_mregs (c : Crew) (k : Counter) (dn er : Bool) : (c.addOp k dn er).mregs = c.mregs := rfl
@[simp] theorem Crew.addOp_cur (c : Crew) (k : Counter) (dn er : Bool) : (c.addOp k dn er).cur = c.cur := rfl
@[simp] theorem Crew.addOp_live (c : Crew) (k : Counter) (dn er : Bool) : (c.addOp k dn er).live = c.live := rfl
@[simp] theorem Crew.addOp_stack (c : Crew) (k : Counter) (dn er : Bool) : (c.addOp k dn er).stack = c.stack := rfl
@[simp] theorem Crew.addOp_vregs (c : Crew) (k : Counter) (dn er : Bool) : (c.addOp k dn er).vregs = c.vregs := rfl
@[simp] theorem Crew.addOp_fmts (c : Crew) (k : Counter) (dn er : Bool) : (c.addOp k dn er).fmts = c.fmts := rfl
@[simp] theorem Crew.addOp_tiles (c : Crew) (k : Counter) (dn er : Bool) : (c.addOp k dn er).tiles = c.tiles := rfl
@[simp] theorem Crew.addOp_sca (c : Crew) (k : Counter) (dn er : Bool) : (c.addOp k dn er).sca = c.sca := rfl
@[simp] theorem Crew.addOp_scb (c : Crew) (k : Counter) (dn er : Bool) : (c.addOp k dn er).scb = c.scb := rfl
@[simp] theorem Crew.addOp_busy (c : Crew) (k : Counter) (dn er : Bool) : (c.addOp k dn er).busy = c.busy := rfl
@[simp] theorem Crew.addOp_werr (c : Crew) (k : Counter) (dn er : Bool) : (c.addOp k dn er).werr = c.werr := rfl
@[simp] theorem Crew.addOp_cflags (c : Crew) (k : Counter) (dn er : Bool) : (c.addOp k dn er).cflags = c.cflags := rfl
@[simp] theorem Crew.addOp_held (c : Crew) (k : Counter) (dn er : Bool) : (c.addOp k dn er).held = c.held := rfl
@[simp] theorem Crew.addOp_lockBuf (c : Crew) (k : Counter) (dn er : Bool) : (c.addOp k dn er).lockBuf = c.lockBuf := rfl
@[simp] theorem Crew.addOp_buffers (c : Crew) (k : Counter) (dn er : Bool) : (c.addOp k dn er).buffers = c.buffers := rfl
@[simp] theorem Crew.addOp_granules (c : Crew) (k : Counter) (dn er : Bool) : (c.addOp k dn er).granules = c.granules := rfl
@[simp] theorem Crew.addOp_privBase (c : Crew) (k : Counter) (dn er : Bool) : (c.addOp k dn er).privBase = c.privBase := rfl
@[simp] theorem Crew.addOp_privSize (c : Crew) (k : Counter) (dn er : Bool) : (c.addOp k dn er).privSize = c.privSize := rfl
@[simp] theorem Crew.addOp_boundBlocks (c : Crew) (k : Counter) (dn er : Bool) : (c.addOp k dn er).boundBlocks = c.boundBlocks := rfl
@[simp] theorem Crew.addOp_spillBlocks (c : Crew) (k : Counter) (dn er : Bool) : (c.addOp k dn er).spillBlocks = c.spillBlocks := rfl
@[simp] theorem Crew.addOp_declared (c : Crew) (k : Counter) (dn er : Bool) : (c.addOp k dn er).declared = c.declared := rfl
@[simp] theorem Crew.addOp_weir (c : Crew) (k : Counter) (dn er : Bool) : (c.addOp k dn er).weir = c.weir := rfl
@[simp] theorem Crew.addOp_tie (c : Crew) (k : Counter) (dn er : Bool) : (c.addOp k dn er).tie = c.tie := rfl
@[simp] theorem Crew.addOp_wait (c : Crew) (k : Counter) (dn er : Bool) : (c.addOp k dn er).wait = c.wait := rfl
@[simp] theorem Crew.addOp_started (c : Crew) (k : Counter) (dn er : Bool) : (c.addOp k dn er).started = c.started := rfl
@[simp] theorem Crew.addOp_launched (c : Crew) (k : Counter) (dn er : Bool) : (c.addOp k dn er).launched = c.launched := rfl
@[simp] theorem Crew.addOp_cid (c : Crew) (k : Counter) (dn er : Bool) : (c.addOp k dn er).cid = c.cid := rfl
@[simp] theorem Crew.addOp_fp (c : Crew) (k : Counter) (dn er : Bool) : (c.addOp k dn er).fp = c.fp := rfl
@[simp] theorem Crew.addOp_exitPending (c : Crew) (k : Counter) (dn er : Bool) : (c.addOp k dn er).exitPending = c.exitPending := rfl
@[simp] theorem Crew.addOp_wbLost (c : Crew) (k : Counter) (dn er : Bool) : (c.addOp k dn er).wbLost = c.wbLost := rfl
@[simp] theorem Crew.addOp_poison (c : Crew) (k : Counter) (dn er : Bool) : (c.addOp k dn er).poison = c.poison := rfl
@[simp] theorem Crew.addOp_service (c : Crew) (k : Counter) (dn er : Bool) : (c.addOp k dn er).service = c.service := rfl
@[simp] theorem Crew.addOp_stepLeft (c : Crew) (k : Counter) (dn er : Bool) : (c.addOp k dn er).stepLeft = c.stepLeft := rfl
@[simp] theorem Crew.addOp_absent (c : Crew) (k : Counter) (dn er : Bool) : (c.addOp k dn er).absent = c.absent := rfl
@[simp] theorem Crew.addOp_begun (c : Crew) (k : Counter) (dn er : Bool) : (c.addOp k dn er).begun = c.begun := rfl
@[simp] theorem Crew.addOp_folds (c : Crew) (k : Counter) (dn er : Bool) : (c.addOp k dn er).folds = c.folds := rfl
@[simp] theorem Crew.addOp_ops (c : Crew) (k : Counter) (dn er : Bool) : (c.addOp k dn er).ops = c.ops ++ [{ ctr := k, ticket := c.nextTicket, done := dn, err := er }] := rfl
@[simp] theorem Crew.addOp_nextTicket (c : Crew) (k : Counter) (dn er : Bool) : (c.addOp k dn er).nextTicket = c.nextTicket + 1 := rfl

end Sys2Proof.Machine
end

