-- ==== Sys2Proof/Laws/Access.lean ====
section
/-! SUPPORT. What the accessors of the state say after an update: sparse tables, dies, cores, berths, crews, and a crew's
registers. -/

namespace Sys2Proof.Machine

/-! ## Sparse tables -/

theorem assocGet_assocSet {α : Type} (xs : List (Nat × α)) (k j : Nat) (v : α) :
    assocGet (assocSet xs k v) j = if j = k then some v else assocGet xs j := by
  induction xs with
  | nil => by_cases h : j = k <;> simp [assocSet, assocGet, h, Ne.symm]
  | cons x rest ih =>
    obtain ⟨i, y⟩ := x
    simp only [assocSet]
    split
    · by_cases h : j = k
      · simp [assocGet, h]
      · simp [assocGet, h, Ne.symm h]
    · split
      · rename_i h2; subst h2
        by_cases h : j = k
        · simp [assocGet, h]
        · simp [assocGet, h, Ne.symm h]
      · simp only [assocGet, ih]
        split <;> split <;> simp_all

theorem length_assocSet_ne {α : Type} (xs : List (Nat × α)) (k : Nat) (v : α) : assocSet xs k v ≠ [] := by
  cases xs with
  | nil => simp [assocSet]
  | cons x rest => simp only [assocSet]; split <;> [simp; split <;> simp]

/-! ## Dies, cores and berths -/

theorem State.die_setDie (s : State) (d e : Nat) (x : Die) :
    (s.setDie d x).die e = if e = d ∧ d < 4 then x else s.die e := by
  simp only [State.die, State.setDie_dies, Vector.getElem?_setIfInBounds]
  by_cases h : d = e
  · subst h; by_cases h4 : d < 4 <;> simp [h4]
  · simp [h, Ne.symm h]

theorem State.die_onDie (s : State) (d e : Nat) (f : Die → Die) :
    (s.onDie d f).die e = if e = d ∧ d < 4 then f (s.die d) else s.die e := s.die_setDie d e _

/-- A die that the package does not have is as reset left it. -/
theorem State.die_out (s : State) (d : Nat) (h : ¬ d < 4) : s.die d = Die.reset := by
  simp [State.die, h]

theorem Die.core_setCore (x : Die) (c e : Nat) (k : Core) : (x.setCore c k).core e = if e = c then k else x.core e := by
  simp only [Die.core, Die.setCore, assocGet_assocSet]
  split <;> simp

theorem State.core_onCore (s : State) (d c e j : Nat) (f : Core → Core) :
    (s.onCore d c f).core e j = if e = d ∧ j = c ∧ d < 4 then f (s.core d c) else s.core e j := by
  simp only [State.core, State.onCore, State.setCore, State.die_onDie]
  by_cases h : e = d ∧ d < 4
  · obtain ⟨rfl, h4⟩ := h; simp [h4, Die.core_setCore]
  · rw [if_neg h, if_neg fun h' => h ⟨h'.1, h'.2.2⟩]

theorem Core.crew_setBerth (k : Core) (b e : Nat) (c : Option Crew) :
    (k.setBerth b c).crew e = if e = b ∧ b < 4 then c else k.crew e := by
  simp only [Core.crew, Core.setBerth, Vector.getElem?_setIfInBounds]
  by_cases h : b = e
  · subst h; by_cases h4 : b < 4 <;> simp [h4]
  · simp [h, Ne.symm h]

theorem Core.crew_reset (b : Nat) : Core.reset.crew b = none := by
  simp only [Core.crew, Core.reset, Vector.getElem?_replicate]; split <;> rfl

/-- A crew stands on a berth that the package has, and knows it. -/
theorem State.crewAt_some {s : State} {r : CrewRef} {c : Crew} (h : s.crewAt r = some c) :
    r.die < 4 ∧ r.berth < 4 ∧ c.place = r := by
  simp only [State.crewAt, Option.map_eq_some_iff] at h
  obtain ⟨x, hx, rfl⟩ := h
  refine ⟨?_, ?_, rfl⟩
  · by_cases h4 : r.die < 4
    · exact h4
    · rw [State.core, s.die_out _ h4] at hx
      simp [Die.core, Die.reset, assocGet, Core.crew_reset] at hx
  · by_cases h4 : r.berth < 4
    · exact h4
    · simp [Core.crew, h4] at hx

theorem State.crewAt_setBerth (s : State) (r w : CrewRef) (c : Option Crew) :
    (s.setBerth r c).crewAt w =
      if w = r ∧ r.die < 4 ∧ r.berth < 4 then c.map fun x => { x with place := r } else s.crewAt w := by
  simp only [State.crewAt, State.setBerth, State.core_onCore]
  by_cases h : w.die = r.die ∧ w.core = r.core ∧ r.die < 4
  · obtain ⟨h1, h2, h3⟩ := h
    simp only [h1, h2, h3, and_self, if_true, Core.crew_setBerth]
    by_cases h4 : w.berth = r.berth ∧ r.berth < 4
    · have hw : w = r := by cases w; cases r; simp_all
      subst hw; simp [h4.2]
    · rw [if_neg h4, if_neg]
      rintro ⟨rfl, -, hb⟩; exact h4 ⟨rfl, hb⟩
  · rw [if_neg h, if_neg]
    rintro ⟨rfl, h3, -⟩; exact h ⟨rfl, rfl, h3⟩

/-- A crew put back on the berth it stands on. -/
theorem State.crewAt_putCrew {s : State} {c c' : Crew} (w : CrewRef) (h : s.crewAt s.cur = some c) (hp : c'.place = c.place) :
    (s.putCrew c').crewAt w = if w = s.cur then some c' else s.crewAt w := by
  obtain ⟨h1, h2, h3⟩ := State.crewAt_some h
  have hr : c'.place = s.cur := hp.trans h3
  rw [State.putCrew, State.crewAt_setBerth, hr]
  by_cases hw : w = s.cur
  · subst hw; rw [if_pos ⟨rfl, h1, h2⟩, if_pos rfl, Option.map_some, ← hr]
  · simp [hw]

theorem State.die_setBerth_eq (s : State) (r : CrewRef) (c : Option Crew) (d : Nat) :
    (s.setBerth r c).die d = { s.die d with cores := ((s.setBerth r c).die d).cores } := by
  simp only [State.setBerth, State.onCore, State.setCore, State.die_onDie]
  split
  · rename_i h; rw [h.1]; rfl
  · rfl

theorem State.core_setBerth_eq (s : State) (r : CrewRef) (c : Option Crew) (d k : Nat) :
    (s.setBerth r c).core d k = { s.core d k with berths := ((s.setBerth r c).core d k).berths } := by
  simp only [State.setBerth, State.core_onCore]
  split
  · rename_i h; rw [h.1, h.2.1]; rfl
  · rfl

/-! ## A crew's registers (R24, R94) -/

/-- The scalar registers of a crew after a write: s0 stays zero (R24). -/
theorem Crew.sreg_setS (c : Crew) (d f : BitVec 8) (v : W64) (hf : f.toNat < 64) :
    (c.setS d v).sreg f = if f = d ∧ d ≠ 0 then v else c.sreg f := by
  by_cases hd : d = 0
  · rw [show c.setS d v = c from if_pos hd, if_neg (by simp [hd])]
  · have hs : c.setS d v = { c with sregs := c.sregs.setIfInBounds d.toNat v } := if_neg hd
    rw [hs]
    unfold Crew.sreg
    by_cases hfd : f = d
    · subst hfd
      rw [if_neg hd, if_pos ⟨rfl, hd⟩]; simp [hf]
    · have h : ¬ d.toNat = f.toNat := fun h => hfd (BitVec.eq_of_toNat_eq h.symm)
      simp [hfd, h]

theorem Crew.setS_eq (c : Crew) (d : BitVec 8) (v : W64) : c.setS d v = { c with sregs := (c.setS d v).sregs } := by
  simp only [Crew.setS]; split <;> rfl

@[simp] theorem Crew.setS_place (c : Crew) (d : BitVec 8) (v : W64) : (c.setS d v).place = c.place := by
  rw [Crew.setS_eq]

@[simp] theorem Crew.setS_pc (c : Crew) (d : BitVec 8) (v : W64) : (c.setS d v).pc = c.pc := by
  rw [Crew.setS_eq]

end Sys2Proof.Machine
end

