-- ==== Sys2Proof/Laws/Memory.lean ====
section
/-! SUPPORT. Memory's laws: a read after a write, and the canonical form that every memory operation keeps. -/

namespace Sys2Proof.Machine

/-! ## Cells -/

theorem cellsAbove_mono {a b : Nat} {m : List Host.Cell} (h : cellsAbove b m = true) (hab : a ≤ b) : cellsAbove a m = true := by
  cases m with
  | nil => rfl
  | cons x rest =>
    obtain ⟨k, v⟩ := x
    simp only [cellsAbove, Bool.and_eq_true, decide_eq_true_eq] at h ⊢
    exact ⟨⟨by omega, h.1.2⟩, h.2⟩

/-- Below every listed address a memory reads as zero. -/
theorem cellRead_below {a j : Nat} {m : List Host.Cell} (h : cellsAbove a m = true) (hj : j < a) : cellRead m j = 0 := by
  induction m generalizing a with
  | nil => rfl
  | cons x rest ih =>
    obtain ⟨k, v⟩ := x
    simp only [cellsAbove, Bool.and_eq_true, decide_eq_true_eq] at h
    rw [cellRead, if_neg (by omega)]
    exact ih h.2 (by omega)

/-- A byte put into a cell keeps the canonical form. -/
theorem cellsAbove_cellWrite {a key : Nat} {m : List Host.Cell} (x : Byte) (h : cellsAbove a m = true) (hk : a ≤ key) :
    cellsAbove a (cellWrite m key x) = true := by
  induction m generalizing a with
  | nil =>
    simp only [cellWrite]
    split
    · rfl
    · simp_all [cellsAbove]
  | cons y rest ih =>
    obtain ⟨k, v⟩ := y
    have h' := h
    simp only [cellsAbove, Bool.and_eq_true, decide_eq_true_eq] at h
    simp only [cellWrite]
    split
    · split
      · exact h'
      · simp_all [cellsAbove]
    · split
      · subst key
        split
        · exact cellsAbove_mono h.2 (by omega)
        · simp_all [cellsAbove]
      · simp only [cellsAbove, Bool.and_eq_true, decide_eq_true_eq]
        exact ⟨h.1, ih h.2 (by omega)⟩

/-- A read after a write. -/
theorem cellRead_cellWrite {a key : Nat} {m : List Host.Cell} (x : Byte) (h : cellsAbove a m = true) (j : Nat) :
    cellRead (cellWrite m key x) j = if j = key then x else cellRead m j := by
  induction m generalizing a with
  | nil =>
    simp only [cellWrite]
    split
    · rename_i h0
      split <;> simp_all [cellRead]
    · simp only [cellRead, eq_comm (a := key)]
  | cons y rest ih =>
    obtain ⟨k, v⟩ := y
    have h' := h
    simp only [cellsAbove, Bool.and_eq_true, decide_eq_true_eq] at h
    simp only [cellWrite]
    split
    · rename_i hlt
      split
      · rename_i h0
        split
        · rename_i hj
          subst hj
          rw [cellRead, if_neg (by omega), cellRead_below h.2 (by omega), h0]
        · rfl
      · simp only [cellRead]
        by_cases hj : j = key
        · simp [hj]
        · simp [hj, Ne.symm hj]
    · split
      · rename_i hk
        subst k
        by_cases hj : j = key
        · subst hj
          split
          · rename_i h0
            rw [if_pos rfl, cellRead_below h.2 (by omega), h0]
          · simp [cellRead]
        · split <;> simp only [cellRead, if_neg (Ne.symm hj)]
      · rename_i hk
        simp only [cellRead]
        by_cases hj : k = j
        · rw [if_pos hj, if_pos hj, if_neg (by omega)]
        · rw [if_neg hj, if_neg hj]; exact ih h.2

theorem State.cell_setCell {s : State} (h : Memory.wf s.mem = true) (k : Nat) (b : Byte) (j : Nat) :
    (s.setCell k b).cell j = if j = k then b else s.cell j := cellRead_cellWrite b h j

/-! ## Every memory operation keeps the canonical form -/

theorem State.wf_setCell {s : State} (h : Memory.wf s.mem = true) (k : Nat) (b : Byte) :
    Memory.wf (s.setCell k b).mem = true := cellsAbove_cellWrite b h (Nat.zero_le k)

/-- A fold of steps that keep the form keeps it. -/
theorem wf_foldl {α : Type} {f : State → α → State} (hf : ∀ s x, Memory.wf s.mem = true → Memory.wf (f s x).mem = true)
    (xs : List α) {s : State} (h : Memory.wf s.mem = true) : Memory.wf (xs.foldl f s).mem = true := by
  induction xs generalizing s with
  | nil => exact h
  | cons x rest ih => exact ih (hf s x h)

theorem State.wf_rekeyLine {s : State} (h : Memory.wf s.mem = true) (key line : Nat) :
    Memory.wf (s.rekeyLine key line).mem = true := by
  show Memory.wf (if s.keyPair key = s.lineKey line then s else _).mem = true
  split
  · exact h
  · rw [State.onIo_mem]
    exact wf_foldl (fun t p ht => State.wf_setCell ht _ _) _ h

@[simp] theorem State.keepOld_mem (s : State) (pa : Nat) : (s.keepOld pa).mem = s.mem := by
  unfold State.keepOld; split <;> rfl

@[simp] theorem State.keepOld_dies (s : State) (pa : Nat) : (s.keepOld pa).dies = s.dies := by
  unfold State.keepOld; split <;> rfl

@[simp] theorem State.keepOld_io (s : State) (pa : Nat) : (s.keepOld pa).io = s.io := by
  unfold State.keepOld; split <;> rfl

@[simp] theorem State.putStamp_mem (s : State) (lo n w : Nat) (g : Option Image) : (s.putStamp lo n w g).mem = s.mem := rfl

@[simp] theorem State.landMarks_mem (s : State) (l : DirtyLine) : (s.landMarks l).mem = s.mem := rfl

@[simp] theorem State.stampPlace_mem (s : State) (die : Nat) (p : Place) (n : Nat) : (s.stampPlace die p n).mem = s.mem := by
  cases p <;> rfl

@[simp] theorem State.clearPlace_mem (s : State) (p : Place) (n : Nat) : (s.clearPlace p n).mem = s.mem := by cases p <;> rfl

@[simp] theorem State.afterStore_mem (s : State) (die : Nat) (p : Place) (n : Nat) : (s.afterStore die p n).mem = s.mem := by
  cases p with
  | pa x key page => unfold State.afterStore; simp only []; split <;> simp
  | chip k => simp [State.afterStore]
  | barge d off => simp [State.afterStore]

theorem State.wf_setHomeByte {s : State} (h : Memory.wf s.mem = true) (key pa : Nat) (b : Byte) :
    Memory.wf (s.setHomeByte key pa b).mem = true :=
  State.wf_setCell (by rw [State.keepOld_mem]; exact State.wf_rekeyLine h key _) pa b

theorem State.wf_writeLine {s : State} (h : Memory.wf s.mem = true) (die : Nat) (l : DirtyLine) :
    Memory.wf (s.writeLine die l).mem = true := by
  unfold State.writeLine
  refine wf_foldl (fun t r ht => by simpa using ht) _ ?_
  rw [State.landMarks_mem]
  exact wf_foldl (fun _ p ht => State.wf_setHomeByte ht l.key p.1 p.2) _ h

theorem State.wf_writeBack {s : State} (h : Memory.wf s.mem = true) (die : Nat) (pick : DirtyLine → Bool) :
    Memory.wf (s.writeBack die pick).mem = true := wf_foldl (fun _ l ht => State.wf_writeLine ht die l) _ h

theorem State.wf_settleKey {s : State} (h : Memory.wf s.mem = true) (die key line : Nat) :
    Memory.wf (s.settleKey die key line).mem = true := by
  unfold State.settleKey
  split
  · exact State.wf_writeBack h die _
  · exact h

theorem State.wf_storeByte {s : State} (h : Memory.wf s.mem = true) (who : Storer) (page : Option VPage) (key pa : Nat) (b : Byte) :
    Memory.wf (s.storeByte who page key pa b).mem = true := by
  unfold State.storeByte
  simp only []
  split
  · exact State.wf_settleKey h who.owner.die key _
  · exact State.wf_setHomeByte (State.wf_settleKey h who.owner.die key _) key pa b

theorem State.wf_storeAt {s : State} (h : Memory.wf s.mem = true) (who : Storer) (p : Place) (b : Byte) :
    Memory.wf (s.storeAt who p b).mem = true := by
  cases p with
  | pa x key page => exact State.wf_storeByte h who page key x b
  | chip k => exact State.wf_setCell h k b
  | barge d off => exact h

theorem State.wf_storeBytes {s : State} (h : Memory.wf s.mem = true) (who : Storer) (p : Place) (bs : List Byte) :
    Memory.wf (s.storeBytes who p bs).mem = true := by
  rw [State.storeBytes, State.afterStore_mem]
  exact wf_foldl (fun _ x ht => State.wf_storeAt ht who (p.plus x.2) x.1) _ h

theorem State.wf_engineAt {s : State} (h : Memory.wf s.mem = true) (die : Nat) (p : Place) (b : Byte) :
    Memory.wf (s.engineAt die p b).mem = true := by
  cases p with
  | pa x key page => exact State.wf_setHomeByte (State.wf_writeBack h die _) key x b
  | chip k => exact State.wf_setCell h k b
  | barge d off => exact h

theorem State.wf_engineBytes {s : State} (h : Memory.wf s.mem = true) (die : Nat) (p : Place) (bs : List Byte) :
    Memory.wf (s.engineBytes die p bs).mem = true := by
  rw [State.engineBytes, State.stampPlace_mem, State.clearPlace_mem]
  exact wf_foldl (fun _ x ht => State.wf_engineAt ht die (p.plus x.2) x.1) _ h

theorem State.wf_flushPlace {s : State} (h : Memory.wf s.mem = true) (die : Nat) (p : Place) :
    Memory.wf (s.flushPlace die p).mem = true := by
  cases p with
  | pa x key page => exact State.wf_writeBack h die _
  | chip k => exact h
  | barge d off => exact h

theorem State.wf_setSysBy {s : State} (h : Memory.wf s.mem = true) (writer die : Nat) (a v : W64) :
    Memory.wf (s.setSysBy writer die a v).mem = true := by
  unfold State.setSysBy
  split
  · exact State.wf_engineBytes h writer _ _
  · exact h

/-! ## What a read leaves (R320, R403) -/

/-- A received image changes no byte of memory. -/
@[simp] theorem State.receive_mem (s : State) (die : Nat) (g : Image) : (s.receive die g).mem = s.mem := by
  unfold State.receive; split <;> rfl

@[simp] theorem State.mergeStamps_mem (s : State) (die : Nat) (keys : List Nat) : (s.mergeStamps die keys).mem = s.mem := by
  unfold State.mergeStamps
  induction keys.filterMap (s.stampAt die) generalizing s with
  | nil => rfl
  | cons g rest ih => rw [List.foldl_cons, ih, State.receive_mem]

theorem State.wf_settlePlace {s : State} (h : Memory.wf s.mem = true) (die : Nat) (p : Place) (n : Nat) :
    Memory.wf (s.settlePlace die p n).mem = true := by
  cases p with
  | pa x key page => exact State.wf_settleKey (State.wf_settleKey h die key _) die key _
  | chip k => exact h
  | barge d off => exact h

theorem State.wf_observe {s : State} (h : Memory.wf s.mem = true) (die : Nat) (p : Place) (n : Nat) :
    Memory.wf (s.observe die p n).mem = true := by
  unfold State.observe
  rw [State.mergeStamps_mem]
  exact State.wf_settlePlace h die p n

/-- A line that the die caches under no other key index needs no write-back. -/
theorem State.settleKey_own {s : State} {die key line : Nat}
    (h : ∀ l, l ∈ (s.die die).dirty → l.key ≠ key → l.line ≠ line) : s.settleKey die key line = s := by
  unfold State.settleKey
  rw [if_neg]
  simp only [List.any_eq_true, Bool.and_eq_true, decide_eq_true_eq, bne_iff_ne, not_exists, not_and]
  exact fun l hl h1 h2 => h l hl h2 h1

theorem State.settlePlace_own {s : State} {die : Nat} {p : Place} {n : Nat} (hn : 0 < n) (h : s.OwnKeys die p n) :
    s.settlePlace die p n = s := by
  cases p with
  | chip k => rfl
  | barge d off => rfl
  | pa x key page =>
    have h1 : ∀ i, i < n → ∀ l, l ∈ (s.die die).dirty → l.key ≠ key → l.line ≠ (x + i) / 128 := by
      intro i hi l hl hk he
      have h2 := h l hl hk i hi
      omega
    have h0 : s.settleKey die key (x / 128) = s := State.settleKey_own (h1 0 hn)
    show (s.settleKey die key (x / 128)).settleKey die key ((x + (n - 1)) / 128) = s
    rw [h0]
    exact State.settleKey_own (h1 (n - 1) (by omega))

/-! ## Memory that no key pair encrypts -/

/-- With no key pair anywhere, a byte written at its home slice is a byte put into its cell. -/
theorem State.setHomeByte_clear {s : State} (h : s.InTheClear) (key pa : Nat) (b : Byte) :
    s.setHomeByte key pa b = (s.keepOld pa).setCell pa b := by
  have h1 : s.keyPair key = none := by simp [State.keyPair, h.1]
  have h2 : s.lineKey (pa / 128) = none := by simp [State.lineKey, h.2]
  simp [State.setHomeByte, State.rekeyLine, h1, h2]

theorem State.homeByte_clear {s : State} (h : s.InTheClear) (key pa : Nat) : s.homeByte key pa = s.cell pa := by
  have h1 : s.keyPair key = none := by simp [State.keyPair, h.1]
  have h2 : s.lineKey (pa / 128) = none := by simp [State.lineKey, h.2]
  simp [State.homeByte, h1, h2]

end Sys2Proof.Machine
end

