-- ==== Sys2Proof/Laws/Words.lean ====
section
/-! SUPPORT. What a word's frame does: the guard, an effect on the issuing crew alone, and a scalar result. -/

namespace Sys2Proof.Machine

/-- Putting the issuing crew back changes nothing else. -/
theorem crewOnly_putCrew {s : State} {c c' : Crew} (h : s.crewAt s.cur = some c) (hp : c'.place = c.place) :
    CrewOnly s (s.putCrew c') c' where
  here := by rw [State.crewAt_putCrew _ h hp, if_pos rfl]
  others who hw := by rw [State.crewAt_putCrew _ h hp, if_neg hw]
  memory _ := rfl
  package := rfl
  dies d := s.die_setBerth_eq c'.place (some c') d
  cores d k := s.core_setBerth_eq c'.place (some c') d k

/-- A word whose guard lets it run acts through its body. -/
theorem crewInstr_run {s : State} {c : Crew} {g : BitVec 5} (h : Issues s c g) (body : State → Crew → Eff State) :
    crewInstr g s body = runBody s c body := by
  simp [crewInstr, h.1, h.2]

theorem runBody_ok {s t : State} {c : Crew} {body : State → Crew → Eff State} (h : body s c = .ok t) :
    runBody s c body = .next t := by
  simp [runBody, h]

theorem runBody_fault {s : State} {c : Crew} {body : State → Crew → Eff State} {f : CrewFault}
    (h : body s c = .error (.fault f)) : runBody s c body = .next (s.killCrew c f) := by
  simp [runBody, h]

theorem crewStep_run {s : State} {c : Crew} {g : BitVec 5} (h : Issues s c g) (f : Crew → Crew) :
    crewStep g s f = .next (s.putCrew (f c).advance) := by
  rw [crewStep, crewInstr_run h]; rfl

/-- A scalar result written by a word that runs. -/
theorem scalarResult_of_step {i : Instr} {s : State} {c : Crew} {g : BitVec 5} {d : BitVec 8} {f : Crew → W64} {v : W64}
    (h : Issues s c g) (he : exec i s = scalarStep g d s f) (hv : f c = v) : ScalarResult i s c d v := by
  subst hv
  refine ⟨(c.setS d (f c)).advance, ⟨_, ?_, crewOnly_putCrew h.1 ?_⟩, ?_, ?_, ?_⟩
  · rw [he, scalarStep, crewStep_run h]
  · simp
  · intro r hr
    exact c.sreg_setS d r (f c) hr
  · simp
  · rw [Crew.setS_eq]; rfl

end Sys2Proof.Machine
end

