-- ==== Sys2Proof/Laws/Accesses.lean ====
section
/-! SUPPORT. What an access leaves beside its bytes: the translations its core keeps, and the frame of a word that loads. -/

namespace Sys2Proof.Machine

/-- Only the translations and the spill counts of cores differ between two states. -/
structure CoreSide (s t : State) : Prop where
  crews : ∀ who, t.crewAt who = s.crewAt who
  package : t = { s with dies := t.dies }
  dies : ∀ d, t.die d = { s.die d with cores := (t.die d).cores }
  cores : ∀ d k, t.core d k = { s.core d k with tlb := (t.core d k).tlb, spill := (t.core d k).spill }

theorem CoreSide.refl (s : State) : CoreSide s s := ⟨fun _ => rfl, rfl, fun _ => rfl, fun _ _ => rfl⟩

theorem package_trans {s t u : State} (h : t = { s with dies := t.dies }) (k : u = { t with dies := u.dies }) :
    u = { s with dies := u.dies } := by rw [k, h]

theorem CoreSide.trans {s t u : State} (h : CoreSide s t) (k : CoreSide t u) : CoreSide s u where
  crews who := (k.crews who).trans (h.crews who)
  package := package_trans h.package k.package
  dies d := by rw [k.dies d, h.dies d]
  cores d c := by rw [k.cores d c, h.cores d c]

/-- A change to the translations and the spill count of one core. -/
theorem coreSide_onCore (s : State) (d c : Nat) {f : Core → Core}
    (hf : ∀ k, f k = { k with tlb := (f k).tlb, spill := (f k).spill }) : CoreSide s (s.onCore d c f) where
  crews who := by
    simp only [State.crewAt, State.core_onCore]
    split
    · rename_i h
      rw [h.1, h.2.1, Core.crew, hf]; rfl
    · rfl
  package := rfl
  dies e := by
    simp only [State.onCore, State.setCore, State.die_onDie]
    split
    · rename_i h; rw [h.1]; rfl
    · rfl
  cores e k := by
    simp only [State.core_onCore]
    split
    · rename_i h
      rw [h.1, h.2.1]
      exact hf _
    · rfl

/-- Only the translations of cores, and the clocks and event counts of dies, differ between two states. -/
structure ReadSide (s t : State) : Prop where
  crews : ∀ who, t.crewAt who = s.crewAt who
  package : t = { s with dies := t.dies }
  dies : ∀ d, t.die d = { s.die d with cores := (t.die d).cores, clock := (t.die d).clock, evseq := (t.die d).evseq }
  cores : ∀ d k, t.core d k = { s.core d k with tlb := (t.core d k).tlb, spill := (t.core d k).spill }

theorem ReadSide.refl (s : State) : ReadSide s s := ⟨fun _ => rfl, rfl, fun _ => rfl, fun _ _ => rfl⟩

theorem ReadSide.trans {s t u : State} (h : ReadSide s t) (k : ReadSide t u) : ReadSide s u where
  crews who := (k.crews who).trans (h.crews who)
  package := package_trans h.package k.package
  dies d := by rw [k.dies d, h.dies d]
  cores d c := by rw [k.cores d c, h.cores d c]

theorem CoreSide.read {s t : State} (h : CoreSide s t) : ReadSide s t := ⟨h.crews, h.package, fun d => by rw [h.dies d], h.cores⟩

/-- An image that a compute die receives moves its clock and its event count. -/
theorem readSide_receive (s : State) {d : Nat} (hd : d ≠ 4) (g : Image) : ReadSide s (s.receive d g) := by
  have h : ∀ e, (s.receive d g).die e = { s.die e with clock := ((s.receive d g).die e).clock, evseq := ((s.receive d g).die e).evseq } := by
    intro e
    unfold State.receive
    rw [if_neg hd, State.die_onDie]
    split
    · rename_i he; rw [he.1]
    · rfl
  have hc : ∀ e k, (s.receive d g).core e k = s.core e k := fun e k => by unfold State.core; rw [h e]; rfl
  refine ⟨fun who => by simp only [State.crewAt, hc], ?_, fun e => ?_, fun e k => by rw [hc]⟩
  · unfold State.receive; rw [if_neg hd]; rfl
  · rw [h e]

theorem readSide_mergeStamps (s : State) {d : Nat} (hd : d ≠ 4) (keys : List Nat) : ReadSide s (s.mergeStamps d keys) := by
  unfold State.mergeStamps
  induction keys.filterMap (s.stampAt d) generalizing s with
  | nil => exact ReadSide.refl s
  | cons g rest ih => exact (readSide_receive s hd g).trans (ih (s.receive d g))

theorem readSide_keepTlb (s : State) {d : Nat} (hd : d ≠ 4) (c va : Nat) : ReadSide s (s.keepTlb d c va) := by
  have hw : ReadSide s (s.seeWalk d va) := by
    unfold State.seeWalk
    simp only []
    split
    · exact readSide_mergeStamps s hd _
    · exact ReadSide.refl s
  unfold State.keepTlb
  split
  · exact ReadSide.refl s
  · split
    · exact hw
    · exact hw.trans (coreSide_onCore _ d c fun k => rfl).read

/-- What a read leaves where the die caches none of its lines under another key index. -/
theorem readSide_observe {s : State} {d : Nat} (hd : d ≠ 4) {p : Place} {n : Nat} (hn : 0 < n) (h : s.OwnKeys d p n) :
    ReadSide s (s.observe d p n) := by
  unfold State.observe
  simp only [State.settlePlace_own hn h]
  exact readSide_mergeStamps s hd _

theorem coreSide_countSpills (s : State) (c : Crew) (n : Nat) : CoreSide s (s.countSpills c n) := by
  unfold State.countSpills
  split
  · exact CoreSide.refl s
  · exact coreSide_onCore s _ _ fun k => rfl

/-- Without recording and replay no order point takes note of an access, and none holds one. -/
theorem State.atPoint_noLog {s : State} (h : s.NoLog) (d : Nat) (k : PointKind) (point src : Nat) (cid : BitVec 16) (n : Nat) :
    s.atPoint d k point src cid n = s := by simp [State.atPoint, h d]

theorem State.served_noLog {s : State} (h : s.NoLog) (p : Place) (cid : BitVec 16) : s.served p cid = s := by
  unfold State.served
  split
  · rfl
  · exact State.atPoint_noLog h _ _ _ _ _ _

theorem State.pointsHeld_noLog {s : State} (h : s.NoLog) (cid : BitVec 16) (points : List (Nat × PointKind × Nat)) :
    s.pointsHeld cid points = none := by
  unfold State.pointsHeld
  rw [List.find?_eq_none]
  intro q _
  simp [State.gateTakes, State.chunkStalls, State.logStalls, h q.1]

theorem readSide_noteAddr {s : State} (h : s.NoLog) {c : Crew} (hd : c.place.die ≠ 4) (a : W64) : ReadSide s (s.noteAddr c a) := by
  unfold State.noteAddr
  split
  · exact readSide_keepTlb s hd _ _
  · split
    · rw [State.served_noLog h]; exact ReadSide.refl s
    · exact ReadSide.refl s

/-- The issuing crew put back after a read. -/
theorem crewReads_putCrew {s t : State} {c c' : Crew} (hs : ReadSide s t) (h : s.crewAt s.cur = some c)
    (hp : c'.place = c.place) : CrewReads s (t.putCrew c') c' := by
  have hcur : t.cur = s.cur := by rw [hs.package]
  have ht : t.crewAt t.cur = some c := by rw [hcur, hs.crews, h]
  refine ⟨?_, ?_, fun key => ?_, ?_, fun d => ?_, fun d k => ?_⟩
  · rw [State.crewAt_putCrew _ ht hp, hcur, if_pos rfl]
  · intro who hw
    rw [State.crewAt_putCrew _ ht hp, hcur, if_neg hw, hs.crews]
  · show cellRead t.mem key = cellRead s.mem key
    rw [hs.package]
  · have h1 : t.putCrew c' = { t with dies := (t.putCrew c').dies } := rfl
    rw [h1, hs.package]
  · rw [State.putCrew, t.die_setBerth_eq c'.place (some c') d, hs.dies d]
  · rw [State.putCrew, t.core_setBerth_eq c'.place (some c') d k, hs.cores d k]

/-- The issuing crew put back after such a change. -/
theorem crewAndCore_putCrew {s t : State} {c c' : Crew} (hs : CoreSide s t) (h : s.crewAt s.cur = some c)
    (hp : c'.place = c.place) : CrewAndCore s (t.putCrew c') c' := by
  have hcur : t.cur = s.cur := by rw [hs.package]
  have ht : t.crewAt t.cur = some c := by rw [hcur, hs.crews, h]
  refine ⟨?_, ?_, ?_, ?_, ?_, ?_⟩
  · rw [State.crewAt_putCrew _ ht hp, hcur, if_pos rfl]
  · intro who hw
    rw [State.crewAt_putCrew _ ht hp, hcur, if_neg hw, hs.crews]
  · intro key
    show cellRead t.mem key = cellRead s.mem key
    rw [hs.package]
  · exact package_trans hs.package rfl
  · intro d
    rw [State.putCrew, t.die_setBerth_eq c'.place (some c') d, hs.dies d]
  · intro d k
    rw [State.putCrew, t.core_setBerth_eq c'.place (some c') d k, hs.cores d k]

/-- A vector word's end: the crew put back, and its new spill blocks counted. -/
theorem crewAndCore_spills {s t : State} {c' : Crew} (h : CrewAndCore s t c') (c : Crew) (n : Nat) :
    CrewAndCore s (t.countSpills c n) c' := by
  have k := coreSide_countSpills t c n
  refine ⟨?_, ?_, ?_, ?_, ?_, ?_⟩
  · rw [k.crews, h.here]
  · intro who hw; rw [k.crews, h.others who hw]
  · intro key
    rw [← h.memory key]
    show cellRead _ key = cellRead t.mem key
    rw [k.package]
  · exact package_trans h.package k.package
  · intro d; rw [k.dies d, h.dies d]
  · intro d e; rw [k.cores d e, h.cores d e]

end Sys2Proof.Machine
end

