-- ==== Sys2Proof/Laws/Stores.lean ====
section
/-! SUPPORT. What a store leaves: its bytes at their home slice or in the die's L1, and every other byte as it was. -/

namespace Sys2Proof.Machine

/-! ## Bytes of a number -/

@[simp] theorem bytesOfNat_length (n v : Nat) : (bytesOfNat n v).length = n := by
  induction n generalizing v with
  | zero => rfl
  | succ n ih => simp [bytesOfNat, ih]

theorem bytesOfNat_get (n v i : Nat) (h : i < n) : (bytesOfNat n v)[i]? = some (BitVec.ofNat 8 (v / 256 ^ i)) := by
  induction n generalizing v i with
  | zero => omega
  | succ n ih =>
    cases i with
    | zero => simp [bytesOfNat]
    | succ i =>
      simp only [bytesOfNat, List.getElem?_cons_succ]
      rw [ih _ _ (by omega), Nat.div_div_eq_div_mul, pow_succ, Nat.mul_comm 256]

/-! ## Cells -/

/-- Consecutive cells written in a memory of canonical form: the bytes lie from `k` on, and all other cells are as they were. -/
theorem State.setCells_spec (bs : List Byte) (k : Nat) {s : State} (h : Memory.wf s.mem = true) :
    let t := bs.zipIdx.foldl (fun t x => t.setCell (k + x.2) x.1) s
    t = { s with mem := t.mem } ∧ Memory.wf t.mem = true ∧
      ∀ j, t.cell j = if k ≤ j ∧ j < k + bs.length then bs[j - k]?.getD 0 else s.cell j := by
  induction bs using List.reverseRecOn with
  | nil => exact ⟨rfl, h, fun j => by rw [if_neg]; · rfl
                                      · simp⟩
  | append_singleton front b ih =>
    obtain ⟨h1, h2, h3⟩ := ih
    simp only [List.zipIdx_append, List.foldl_append, List.zipIdx_cons, List.zipIdx_nil, List.foldl_cons, List.foldl_nil,
      Nat.zero_add]
    refine ⟨by rw [h1]; rfl, State.wf_setCell h2 _ _, fun j => ?_⟩
    rw [State.cell_setCell h2, h3 j, List.length_append, List.length_singleton]
    rcases Nat.lt_trichotomy j (k + front.length) with hj | rfl | hj
    · by_cases hk : k ≤ j
      · rw [if_neg (by omega), if_pos ⟨hk, hj⟩, if_pos ⟨hk, by omega⟩, List.getElem?_append_left (by omega)]
      · rw [if_neg (by omega), if_neg (fun e => hk e.1), if_neg (fun e => hk e.1)]
    · rw [if_pos rfl, if_pos (by omega)]; simp
    · rw [if_neg (by omega), if_neg (by omega), if_neg (by omega)]

/-! ## Dirty lines -/

/-- A line put among a die's dirty lines is the one found under its number and key index; the others are found as before. -/
theorem Die.dirtyLine_putLine (x : Die) (l : DirtyLine) (line key : Nat) :
    (x.putLine l).dirtyLine line key = if line = l.line ∧ key = l.key then some l else x.dirtyLine line key := by
  unfold Die.dirtyLine Die.putLine
  rw [List.find?_append, List.find?_filter]
  by_cases h : line = l.line ∧ key = l.key
  · rw [if_pos h, List.find?_eq_none.2]
    · simp [h.1, h.2]
    · intro o _
      rw [h.1, h.2]
      simp only [decide_eq_true_eq, Bool.not_eq_true', Bool.and_eq_false_iff, decide_eq_false_iff_not, Bool.and_eq_true, not_and]
      tauto
  · have hl : ([l].find? fun o => decide (o.line = line) && decide (o.key = key)) = none := by
      simp only [List.find?_singleton]
      rw [if_neg]
      simp only [Bool.and_eq_true, decide_eq_true_eq]
      exact fun e => h ⟨e.1.symm, e.2.symm⟩
    rw [if_neg h, hl, Option.or_none]
    congr 1
    funext o
    by_cases ho : o.line = line ∧ o.key = key
    · have hn : ¬(o.line = l.line ∧ o.key = l.key) := fun e => h ⟨ho.1.symm.trans e.1, ho.2.symm.trans e.2⟩
      simp [ho.1, ho.2] at hn ⊢
      tauto
    · have hf : (decide (o.line = line) && decide (o.key = key)) = false := by simpa using ho
      simp [hf]

/-- A byte that a crew stores into an L1 which holds the line under no other key index changes the dirty lines of its die alone. -/
theorem State.storeByte_cached {s : State} {who : Storer} {key pa : Nat} (hc : s.io.cacheEn = true)
    (h : ∀ l, l ∈ (s.die who.owner.die).dirty → l.key ≠ key → l.line ≠ pa / 128) (page : Option VPage) (b : Byte) :
    s.storeByte who page key pa b = s.onDie who.owner.die fun x =>
      x.putLine (storedLine (x.dirtyLine (pa / 128) key) who page key pa b (s.marked pa)) := by
  simp only [State.storeByte, State.settleKey_own h, hc, if_true]

end Sys2Proof.Machine
end

