-- ==== Sys2Proof/Tests/Slice0.lean ====
section
/-! SUPPORT. The package's own tests: ill-formed words refused, words written out from the spec's encodings, single
steps and words on small states, and for every statement with hypotheses a state that meets them. -/

namespace Sys2Proof.Tests
open Sys2Proof Sys2Proof.Machine

set_option Elab.async false

/-! ## Ill-formed words (R36): one for every decode reason -/

/-- Reason 1: a reserved opcode of each form, and a reserved slot operation. -/
theorem test_reserved_opcode_refused :
    decodeWord 0x0210000000000000 = .error 1 ∧ decodeWord 0x4280000000000000 = .error 1 ∧
    decodeWord 0xC090000000000000 = .error 1 ∧ decodeWord 0x8980000000000000 = .error 1 := by decide

/-- Reason 2: the guard code 0b10000. -/
theorem test_reserved_guard_refused :
    (Instr.add ⟨16, 1, 2, 3, 0, 0, 0, 0, 0⟩).wf = false ∧ (Instr.li ⟨16, 1, 0, 7⟩).wf = false ∧
    decodeWord 0x0008000000000000 = .error 2 := by decide

/-- Reason 3: an ety that the row does not accept, a rounding code above 4, and an fn value that is not listed. -/
theorem test_reserved_codes_refused :
    (Instr.add ⟨0, 1, 2, 3, 0, 0, 0, 9, 0⟩).wf = false ∧ (Instr.fadd ⟨0, 1, 2, 3, 0, 5, 0, 11, 0⟩).wf = false ∧
    (Instr.fcmp ⟨0, 1, 2, 3, 0, 0, 0, 11, 6⟩).wf = false ∧ (Instr.ldo ⟨0, 1, 2, 13⟩).wf = false ∧
    decodeWord 0x0002808101800480 = .error 3 := by decide

/-- Reason 4: an unused subfield that is not zero. -/
theorem test_unused_field_refused :
    (Instr.andR ⟨0, 1, 2, 3, 0, 0, 1, 0, 0⟩).wf = false ∧ (Instr.shli ⟨0, 1, 2, 64⟩).wf = false ∧
    (Instr.join ⟨1, 0, 0, 0, 0, 0, 0, 0, 0⟩).wf = false ∧ decodeWord 0x0032808101800280 = .error 4 := by decide

/-- Reason 5: a field outside its operand class, and a position without a class that is not zero. -/
theorem test_operand_class_refused :
    (Instr.add ⟨0, 0x40, 2, 3, 0, 0, 0, 0, 0⟩).wf = false ∧ (Instr.add ⟨0, 1, 2, 3, 1, 0, 0, 0, 0⟩).wf = false ∧
    (Instr.mma ⟨0, 0x54, 0xA0, 0xA0, 0, 0, 0, 1, 0⟩).wf = false ∧ (Instr.br ⟨0, 1, 0, 8⟩).wf = false := by decide

/-- Reason 6: m0 as a mask destination. -/
theorem test_m0_destination_refused : (Instr.mand ⟨0, 0x40, 0x41, 0x42, 0, 0, 0, 0, 0⟩).wf = false := by decide

/-- Reason 7: an odd register under a 64-bit type. -/
theorem test_odd_pair_refused :
    (Instr.vadd ⟨0, 3, 4, 6, 0, 0, 0, 12, 0⟩).wf = false ∧ (Instr.accz ⟨0, 0x51, 0, 0, 0, 0, 0, 12, 0⟩).wf = false := by decide

/-- Reason 8: the pairs that R29 forbids: a bank of the other slot, two memory slots, one scalar destination twice. -/
theorem test_pair_rules_refused :
    (Instr.pWord ⟨0x41, 2, 0, 0, 0, 11⟩ ⟨0, 0, 0, 0, 0, 0⟩).wf = false ∧
    (Instr.pWord ⟨0x11, 1, 2, 0, 0, 4⟩ ⟨0x12, 3, 4, 0, 0, 4⟩).wf = false ∧
    (Instr.pWord ⟨0x01, 5, 6, 0, 0, 0⟩ ⟨0x02, 5, 7, 0, 0, 0⟩).wf = false := by decide

/-- The illegal word is no well-formed instruction; an event, which has no word, is. -/
theorem test_illegal_word_ill_formed : (Instr.illegalWord 0).wf = false ∧ (Instr.coldReset).wf = true := by decide

/-! ## Words of the spec's own examples -/

/-- The words that spec/ prints beside their assembly text. -/
theorem test_spec_words_1 :
    decodeWord 0x0440000000000000 = .ok (.nop ⟨0, 0, 0, 0, 0, 0, 0, 0, 0⟩) ∧
    decodeWord 0x20B0048000000040 = .ok (.li ⟨0, 9, 0, 64⟩) ∧
    decodeWord 0x20C004848003B200 = .ok (.lih ⟨0, 9, 9, 0x3B200⟩) ∧
    decodeWord 0x01E0018202800000 = .ok (.cmpltu ⟨0, 3, 4, 5, 0, 0, 0, 0, 0⟩) ∧
    decodeWord 0x0850020485000228 = .ok (.amov ⟨0, 4, 9, 10, 0, 0, 0, 4, 40⟩) ∧
    decodeWord 0x4400040505800580 = .ok (.vld ⟨0, 8, 10, 11, 0, 0, 0, 11, 0⟩) ∧
    decodeWord 0x44500A060A800000 = .ok (.vmaxvi ⟨0, 20, 12, 21, 0, 0, 0, 0, 0⟩) ∧
    decodeWord 0x0880398283038000 = .ok (.cpy ⟨0, 0x73, 5, 6, 7, 0, 0, 0, 0⟩) ∧
    decodeWord 0x0890043984800000 = .ok (.chwait ⟨0, 8, 0x73, 9, 0, 0, 0, 0, 0⟩) ∧
    decodeWord 0x480028D252830680 = .ok (.mma ⟨0, 0x51, 0xA4, 0xA5, 6, 0, 0, 13, 0⟩) ∧
    decodeWord 0x48303B2880000501 = .ok (.drain ⟨0, 0x76, 0x51, 0, 0, 0, 0, 10, 1⟩) ∧
    decodeWord 0x4850520404B90695 = .ok (.tld ⟨0, 0xA4, 8, 9, 0x72, 0, 0, 13, 0x15⟩) ∧
    decodeWord 0x4880000180000001 = .ok (.batonPass ⟨0, 0, 3, 0, 0, 0, 0, 0, 1⟩) ∧
    decodeWord 0x41B00622A2000002 = .ok (.vvote ⟨0, 12, 0x45, 0x44, 0, 0, 0, 0, 2⟩) := by decide

/-- More of them, with two P words: two vector multiply-adds, and an add beside a multiply. -/
theorem test_spec_words_2 :
    decodeWord 0x6040030380000019 = .ok (.vshufi ⟨0, 6, 7, 0x19⟩) ∧
    decodeWord 0xE020030000000162 = .ok (.bgeti ⟨0, 6, 0, 0x162⟩) ∧
    decodeWord 0xC400038606870000 = .ok (.jadd ⟨0, 7, 12, 13, 14, 0, 0, 0, 0⟩) ∧
    decodeWord 0xCC11000000000000 = .ok (.exitR ⟨2, 0, 0, 0, 0, 0, 0, 0, 0⟩) ∧
    decodeWord 0xCC20000200000000 = .ok (.rmark ⟨0, 0, 4, 0, 0, 0, 0, 0, 0⟩) ∧
    decodeWord 0x2470000000000005 = .ok (.markR ⟨0, 0, 0, 5⟩) ∧
    decodeWord 0x2441000000000003 = .ok (.brd ⟨2, 0, 0, 3⟩) ∧
    decodeWord 0x2400000000000002 = .ok (.br ⟨0, 0, 0, 2⟩) ∧
    decodeWord 0x0430000000000000 = .ok (.join ⟨0, 0, 0, 0, 0, 0, 0, 0, 0⟩) ∧
    decodeWord 0xA0840685C30A070B = .ok (.pWord ⟨0x41, 8, 13, 0, 0, 11⟩ ⟨0x43, 10, 7, 0, 0, 11⟩) ∧
    decodeWord 0x80810604030A0712 = .ok (.pWord ⟨0x01, 2, 12, 0, 0, 8⟩ ⟨0x03, 10, 7, 0, 1, 2⟩) := by decide

/-! ## One word of every constructor -/

/-- Words laid out field by field from R16, R17 and the opcode map. -/
theorem test_words_scalar_register_1 :
    decodeWord 0x00001F8903800980 = .ok (.add ⟨0, 0x3F, 0x12, 0x07, 0x00, 0, 1, 3, 0⟩) ∧
    decodeWord 0x00199F8903800280 = .ok (.sub ⟨19, 0x3F, 0x12, 0x07, 0x00, 0, 0, 5, 0⟩) ∧
    decodeWord 0x00229F8903800C00 = .ok (.mul ⟨5, 0x3F, 0x12, 0x07, 0x00, 0, 1, 8, 0⟩) ∧
    decodeWord 0x003F9F8903800000 = .ok (.mulh ⟨31, 0x3F, 0x12, 0x07, 0x00, 0, 0, 0, 0⟩) ∧
    decodeWord 0x00401F8903800000 = .ok (.mulhu ⟨0, 0x3F, 0x12, 0x07, 0x00, 0, 0, 0, 0⟩) ∧
    decodeWord 0x00599F8903800000 = .ok (.div ⟨19, 0x3F, 0x12, 0x07, 0x00, 0, 0, 0, 0⟩) ∧
    decodeWord 0x00629F8903800000 = .ok (.divu ⟨5, 0x3F, 0x12, 0x07, 0x00, 0, 0, 0, 0⟩) ∧
    decodeWord 0x007F9F8903800000 = .ok (.rem ⟨31, 0x3F, 0x12, 0x07, 0x00, 0, 0, 0, 0⟩) ∧
    decodeWord 0x00801F8903800000 = .ok (.remu ⟨0, 0x3F, 0x12, 0x07, 0x00, 0, 0, 0, 0⟩) ∧
    decodeWord 0x00999F8903800000 = .ok (.andR ⟨19, 0x3F, 0x12, 0x07, 0x00, 0, 0, 0, 0⟩) ∧
    decodeWord 0x00A29F8903800000 = .ok (.orR ⟨5, 0x3F, 0x12, 0x07, 0x00, 0, 0, 0, 0⟩) ∧
    decodeWord 0x00BF9F8903800000 = .ok (.xorR ⟨31, 0x3F, 0x12, 0x07, 0x00, 0, 0, 0, 0⟩) ∧
    decodeWord 0x00C01F8903800000 = .ok (.andn ⟨0, 0x3F, 0x12, 0x07, 0x00, 0, 0, 0, 0⟩) ∧
    decodeWord 0x00D99F8903800000 = .ok (.shl ⟨19, 0x3F, 0x12, 0x07, 0x00, 0, 0, 0, 0⟩) ∧
    decodeWord 0x00E29F8903800000 = .ok (.shr ⟨5, 0x3F, 0x12, 0x07, 0x00, 0, 0, 0, 0⟩) ∧
    decodeWord 0x00FF9F8903800000 = .ok (.sra ⟨31, 0x3F, 0x12, 0x07, 0x00, 0, 0, 0, 0⟩) ∧
    decodeWord 0x01001F8903800000 = .ok (.rot ⟨0, 0x3F, 0x12, 0x07, 0x00, 0, 0, 0, 0⟩) ∧
    decodeWord 0x01199F8903800000 = .ok (.minR ⟨19, 0x3F, 0x12, 0x07, 0x00, 0, 0, 0, 0⟩) := by decide

/-- Words laid out field by field from R16, R17 and the opcode map. -/
theorem test_words_scalar_register_2 :
    decodeWord 0x01229F8903800000 = .ok (.maxR ⟨5, 0x3F, 0x12, 0x07, 0x00, 0, 0, 0, 0⟩) ∧
    decodeWord 0x013F9F8903800000 = .ok (.minu ⟨31, 0x3F, 0x12, 0x07, 0x00, 0, 0, 0, 0⟩) ∧
    decodeWord 0x01401F8903800000 = .ok (.maxu ⟨0, 0x3F, 0x12, 0x07, 0x00, 0, 0, 0, 0⟩) ∧
    decodeWord 0x01599F8900000000 = .ok (.clz ⟨19, 0x3F, 0x12, 0x00, 0x00, 0, 0, 0, 0⟩) ∧
    decodeWord 0x01629F8900000000 = .ok (.ctz ⟨5, 0x3F, 0x12, 0x00, 0x00, 0, 0, 0, 0⟩) ∧
    decodeWord 0x017F9F8900000000 = .ok (.popc ⟨31, 0x3F, 0x12, 0x00, 0x00, 0, 0, 0, 0⟩) ∧
    decodeWord 0x01801F8900000100 = .ok (.sext ⟨0, 0x3F, 0x12, 0x00, 0x00, 0, 0, 2, 0⟩) ∧
    decodeWord 0x01999F8900000380 = .ok (.zext ⟨19, 0x3F, 0x12, 0x00, 0x00, 0, 0, 7, 0⟩) ∧
    decodeWord 0x01A29F8903960000 = .ok (.sel ⟨5, 0x3F, 0x12, 0x07, 0x2C, 0, 0, 0, 0⟩) ∧
    decodeWord 0x01BF9F8903800000 = .ok (.cmpeq ⟨31, 0x3F, 0x12, 0x07, 0x00, 0, 0, 0, 0⟩) ∧
    decodeWord 0x01C01F8903800000 = .ok (.cmpne ⟨0, 0x3F, 0x12, 0x07, 0x00, 0, 0, 0, 0⟩) ∧
    decodeWord 0x01D99F8903800000 = .ok (.cmplt ⟨19, 0x3F, 0x12, 0x07, 0x00, 0, 0, 0, 0⟩) ∧
    decodeWord 0x01E29F8903800000 = .ok (.cmpltu ⟨5, 0x3F, 0x12, 0x07, 0x00, 0, 0, 0, 0⟩) ∧
    decodeWord 0x01FF9F8903800000 = .ok (.cmple ⟨31, 0x3F, 0x12, 0x07, 0x00, 0, 0, 0, 0⟩) ∧
    decodeWord 0x02001F8903800000 = .ok (.cmpleu ⟨0, 0x3F, 0x12, 0x07, 0x00, 0, 0, 0, 0⟩) ∧
    decodeWord 0x03099F8903801580 = .ok (.fadd ⟨19, 0x3F, 0x12, 0x07, 0x00, 1, 0, 11, 0⟩) ∧
    decodeWord 0x03129F8903802480 = .ok (.fsub ⟨5, 0x3F, 0x12, 0x07, 0x00, 2, 0, 9, 0⟩) ∧
    decodeWord 0x032F9F8903803600 = .ok (.fmul ⟨31, 0x3F, 0x12, 0x07, 0x00, 3, 0, 12, 0⟩) := by decide

/-- Words laid out field by field from R16, R17 and the opcode map. -/
theorem test_words_scalar_register_3 :
    decodeWord 0x03301F8903964500 = .ok (.ffma ⟨0, 0x3F, 0x12, 0x07, 0x2C, 4, 0, 10, 0⟩) ∧
    decodeWord 0x03499F8903800580 = .ok (.fdiv ⟨19, 0x3F, 0x12, 0x07, 0x00, 0, 0, 11, 0⟩) ∧
    decodeWord 0x03529F8900001600 = .ok (.fsqrt ⟨5, 0x3F, 0x12, 0x00, 0x00, 1, 0, 12, 0⟩) ∧
    decodeWord 0x036F9F8903800580 = .ok (.fmin ⟨31, 0x3F, 0x12, 0x07, 0x00, 0, 0, 11, 0⟩) ∧
    decodeWord 0x03701F8903800500 = .ok (.fmax ⟨0, 0x3F, 0x12, 0x07, 0x00, 0, 0, 10, 0⟩) ∧
    decodeWord 0x03899F8903800585 = .ok (.fcmp ⟨19, 0x3F, 0x12, 0x07, 0x00, 0, 0, 11, 5⟩) ∧
    decodeWord 0x03929F890000198C = .ok (.fcvt ⟨5, 0x3F, 0x12, 0x00, 0x00, 1, 1, 3, 12⟩) ∧
    decodeWord 0x040F800900000000 = .ok (.jmp ⟨31, 0x00, 0x12, 0x00, 0x00, 0, 0, 0, 0⟩) ∧
    decodeWord 0x04101F8900000000 = .ok (.callr ⟨0, 0x3F, 0x12, 0x00, 0x00, 0, 0, 0, 0⟩) ∧
    decodeWord 0x0429800900000000 = .ok (.ret ⟨19, 0x00, 0x12, 0x00, 0x00, 0, 0, 0, 0⟩) ∧
    decodeWord 0x0430000000000000 = .ok (.join ⟨0, 0x00, 0x00, 0x00, 0x00, 0, 0, 0, 0⟩) ∧
    decodeWord 0x044F800000000000 = .ok (.nop ⟨31, 0x00, 0x00, 0x00, 0x00, 0, 0, 0, 0⟩) ∧
    decodeWord 0x04501F890000001F = .ok (.wait ⟨0, 0x3F, 0x12, 0x00, 0x00, 0, 0, 0, 31⟩) ∧
    decodeWord 0x0469A1A7A0800001 = .ok (.mand ⟨19, 0x43, 0x4F, 0x41, 0x00, 0, 0, 0, 1⟩) ∧
    decodeWord 0x0472A1A7A0800000 = .ok (.mor ⟨5, 0x43, 0x4F, 0x41, 0x00, 0, 0, 0, 0⟩) ∧
    decodeWord 0x048FA1A7A0800001 = .ok (.mxor ⟨31, 0x43, 0x4F, 0x41, 0x00, 0, 0, 0, 1⟩) ∧
    decodeWord 0x049021A780000001 = .ok (.mnot ⟨0, 0x43, 0x4F, 0x00, 0x00, 0, 0, 0, 1⟩) ∧
    decodeWord 0x04A99FA780000001 = .ok (.mcnt ⟨19, 0x3F, 0x4F, 0x00, 0x00, 0, 0, 0, 1⟩) := by decide

/-- Words laid out field by field from R16, R17 and the opcode map. -/
theorem test_words_scalar_register_4 :
    decodeWord 0x04B29FA780000000 = .ok (.many ⟨5, 0x3F, 0x4F, 0x00, 0x00, 0, 0, 0, 0⟩) ∧
    decodeWord 0x080F9F8903800600 = .ok (.ld ⟨31, 0x3F, 0x12, 0x07, 0x00, 0, 0, 12, 0⟩) ∧
    decodeWord 0x08101F8903800280 = .ok (.st ⟨0, 0x3F, 0x12, 0x07, 0x00, 0, 0, 5, 0⟩) ∧
    decodeWord 0x08299F8903800203 = .ok (.lda ⟨19, 0x3F, 0x12, 0x07, 0x00, 0, 0, 4, 3⟩) ∧
    decodeWord 0x08329F8903800605 = .ok (.stl ⟨5, 0x3F, 0x12, 0x07, 0x00, 0, 0, 12, 5⟩) ∧
    decodeWord 0x084F8009038003FA = .ok (.amo ⟨31, 0x00, 0x12, 0x07, 0x00, 0, 0, 7, 122⟩) ∧
    decodeWord 0x08501F8903800426 = .ok (.amov ⟨0, 0x3F, 0x12, 0x07, 0x00, 0, 0, 8, 38⟩) ∧
    decodeWord 0x08699F89039601D8 = .ok (.cas ⟨19, 0x3F, 0x12, 0x07, 0x2C, 0, 0, 3, 88⟩) ∧
    decodeWord 0x087280000000001D = .ok (.fence ⟨5, 0x00, 0x00, 0x00, 0x00, 0, 0, 0, 29⟩) ∧
    decodeWord 0x088FBE8903B28001 = .ok (.cpy ⟨31, 0x7D, 0x12, 0x07, 0x65, 0, 0, 0, 1⟩) ∧
    decodeWord 0x08901FB983800000 = .ok (.chwait ⟨0, 0x3F, 0x73, 0x07, 0x00, 0, 0, 0, 0⟩) ∧
    decodeWord 0x08999FB983800001 = .ok (.chwaitRows ⟨19, 0x3F, 0x73, 0x07, 0x00, 0, 0, 0, 1⟩) ∧
    decodeWord 0x08A2BE8937960000 = .ok (.secfg ⟨5, 0x7D, 0x12, 0x6F, 0x2C, 0, 0, 0, 0⟩) ∧
    decodeWord 0x08BFBE8000000000 = .ok (.sego ⟨31, 0x7D, 0x00, 0x00, 0x00, 0, 0, 0, 0⟩) ∧
    decodeWord 0x08C03E8000000000 = .ok (.sestop ⟨0, 0x7D, 0x00, 0x00, 0x00, 0, 0, 0, 0⟩) ∧
    decodeWord 0x08D9800903800001 = .ok (.pref ⟨19, 0x00, 0x12, 0x07, 0x00, 0, 0, 0, 1⟩) := by decide

/-- Words laid out field by field from R16, R17 and the opcode map. -/
theorem test_words_scalar_immediate_1 :
    decodeWord 0x20029F897FFFFFF8 = .ok (.addi ⟨5, 0x3F, 0x12, 0x7FFFFFF8⟩) ∧
    decodeWord 0x201F9F8912345678 = .ok (.muli ⟨31, 0x3F, 0x12, 0x12345678⟩) ∧
    decodeWord 0x20201F890F0F0F0F = .ok (.andi ⟨0, 0x3F, 0x12, 0xF0F0F0F⟩) ∧
    decodeWord 0x20399F8955555555 = .ok (.ori ⟨19, 0x3F, 0x12, 0x55555555⟩) ∧
    decodeWord 0x20429F892AAAAAAA = .ok (.xori ⟨5, 0x3F, 0x12, 0x2AAAAAAA⟩) ∧
    decodeWord 0x205F9F890000003F = .ok (.shli ⟨31, 0x3F, 0x12, 0x3F⟩) ∧
    decodeWord 0x20601F8900000020 = .ok (.shri ⟨0, 0x3F, 0x12, 0x20⟩) ∧
    decodeWord 0x20799F8900000011 = .ok (.srai ⟨19, 0x3F, 0x12, 0x11⟩) ∧
    decodeWord 0x20829F8940000000 = .ok (.cmpeqi ⟨5, 0x3F, 0x12, 0x40000000⟩) ∧
    decodeWord 0x209F9F8900000001 = .ok (.cmplti ⟨31, 0x3F, 0x12, 0x1⟩) ∧
    decodeWord 0x20A01F897FFFFFFF = .ok (.cmpltui ⟨0, 0x3F, 0x12, 0x7FFFFFFF⟩) ∧
    decodeWord 0x20B99F8000000040 = .ok (.li ⟨19, 0x3F, 0x00, 0x40⟩) ∧
    decodeWord 0x20C29F890003B200 = .ok (.lih ⟨5, 0x3F, 0x12, 0x3B200⟩) ∧
    decodeWord 0x240F80007FFFFFF0 = .ok (.br ⟨31, 0x00, 0x00, 0x7FFFFFF0⟩) ∧
    decodeWord 0x2410000900000008 = .ok (.brz ⟨0, 0x00, 0x12, 0x8⟩) ∧
    decodeWord 0x242980097FFFFFFE = .ok (.brnz ⟨19, 0x00, 0x12, 0x7FFFFFFE⟩) ∧
    decodeWord 0x24329F8000000100 = .ok (.call ⟨5, 0x3F, 0x00, 0x100⟩) ∧
    decodeWord 0x244F800000000003 = .ok (.brd ⟨31, 0x00, 0x00, 0x3⟩) := by decide

/-- Words laid out field by field from R16, R17 and the opcode map. -/
theorem test_words_scalar_immediate_2 :
    decodeWord 0x2450002780000005 = .ok (.brany ⟨0, 0x00, 0x4F, 0x5⟩) ∧
    decodeWord 0x2469802780000006 = .ok (.brall ⟨19, 0x00, 0x4F, 0x6⟩) ∧
    decodeWord 0x2470000000000005 = .ok (.markR ⟨0, 0x00, 0x00, 0x5⟩) ∧
    decodeWord 0x280F9F8900001237 = .ok (.ldo ⟨31, 0x3F, 0x12, 0x1237⟩) ∧
    decodeWord 0x28101F897FFFFF8C = .ok (.sto ⟨0, 0x3F, 0x12, 0x7FFFFF8C⟩) ∧
    decodeWord 0x28299F800000001F = .ok (.getsr ⟨19, 0x3F, 0x00, 0x1F⟩) ∧
    decodeWord 0x2832800900003023 = .ok (.setsr ⟨5, 0x00, 0x12, 0x3023⟩) := by decide

/-- Words laid out field by field from R16, R17 and the opcode map. -/
theorem test_words_vector_and_matrix_1 :
    decodeWord 0x400FFF1A0132BE40 = .ok (.vadd ⟨31, 0xFE, 0x34, 0x02, 0x65, 3, 1, 12, 64⟩) ∧
    decodeWord 0x40107F3981000590 = .ok (.vsub ⟨0, 0xFE, 0x73, 0x02, 0x00, 0, 0, 11, 16⟩) ∧
    decodeWord 0x4029BE9A01004520 = .ok (.vmul ⟨19, 0x7D, 0x34, 0x02, 0x00, 4, 0, 10, 32⟩) ∧
    decodeWord 0x4032FF1A01328240 = .ok (.vfma ⟨5, 0xFE, 0x34, 0x02, 0x65, 0, 0, 4, 64⟩) ∧
    decodeWord 0x404FFF3981000190 = .ok (.vfms ⟨31, 0xFE, 0x73, 0x02, 0x00, 0, 0, 3, 16⟩) ∧
    decodeWord 0x40507F1A01000080 = .ok (.vfnma ⟨0, 0xFE, 0x34, 0x02, 0x00, 0, 0, 1, 0⟩) ∧
    decodeWord 0x4069FF1A01000580 = .ok (.vdiv ⟨19, 0xFE, 0x34, 0x02, 0x00, 0, 0, 11, 0⟩) ∧
    decodeWord 0x4072FF1A00001C80 = .ok (.vsqrt ⟨5, 0xFE, 0x34, 0x00, 0x00, 1, 1, 9, 0⟩) ∧
    decodeWord 0x408FFF1A01000700 = .ok (.vmin ⟨31, 0xFE, 0x34, 0x02, 0x00, 0, 0, 14, 0⟩) ∧
    decodeWord 0x40907F1A01000680 = .ok (.vmax ⟨0, 0xFE, 0x34, 0x02, 0x00, 0, 0, 13, 0⟩) ∧
    decodeWord 0x40A9FF1A00000880 = .ok (.vabs ⟨19, 0xFE, 0x34, 0x00, 0x00, 0, 1, 1, 0⟩) ∧
    decodeWord 0x40B2FF1A00000C00 = .ok (.vneg ⟨5, 0xFE, 0x34, 0x00, 0x00, 0, 1, 8, 0⟩) ∧
    decodeWord 0x40CFFF1A01328040 = .ok (.vand ⟨31, 0xFE, 0x34, 0x02, 0x65, 0, 0, 0, 64⟩) ∧
    decodeWord 0x40D03E9A01000020 = .ok (.vor ⟨0, 0x7D, 0x34, 0x02, 0x00, 0, 0, 0, 32⟩) ∧
    decodeWord 0x40E9FF3981000010 = .ok (.vxor ⟨19, 0xFE, 0x73, 0x02, 0x00, 0, 0, 0, 16⟩) ∧
    decodeWord 0x40F2FF1A00000000 = .ok (.vnot ⟨5, 0xFE, 0x34, 0x00, 0x00, 0, 0, 0, 0⟩) ∧
    decodeWord 0x410FFF1A01000100 = .ok (.vshl ⟨31, 0xFE, 0x34, 0x02, 0x00, 0, 0, 2, 0⟩) ∧
    decodeWord 0x41107F1A01000300 = .ok (.vshr ⟨0, 0xFE, 0x34, 0x02, 0x00, 0, 0, 6, 0⟩) := by decide

/-- Words laid out field by field from R16, R17 and the opcode map. -/
theorem test_words_vector_and_matrix_2 :
    decodeWord 0x4129FF1A01000200 = .ok (.vsra ⟨19, 0xFE, 0x34, 0x02, 0x00, 0, 0, 4, 0⟩) ∧
    decodeWord 0x4132A19A01000585 = .ok (.vcmp ⟨5, 0x43, 0x34, 0x02, 0x00, 0, 0, 11, 5⟩) ∧
    decodeWord 0x414FFF1A01220000 = .ok (.vsel ⟨31, 0xFE, 0x34, 0x02, 0x44, 0, 0, 0, 0⟩) ∧
    decodeWord 0x41507F1A004D1E80 = .ok (.vcvt ⟨0, 0xFE, 0x34, 0x00, 0x9A, 1, 1, 13, 0⟩) ∧
    decodeWord 0x4169FF1A004D0701 = .ok (.vmov ⟨19, 0xFE, 0x34, 0x00, 0x9A, 0, 0, 14, 1⟩) ∧
    decodeWord 0x4172FF0900000480 = .ok (.vbcast ⟨5, 0xFE, 0x12, 0x00, 0x00, 0, 0, 9, 0⟩) ∧
    decodeWord 0x418F9F9A03800280 = .ok (.vext ⟨31, 0x3F, 0x34, 0x07, 0x00, 0, 0, 5, 0⟩) ∧
    decodeWord 0x41901F9A00001D82 = .ok (.vred ⟨0, 0x3F, 0x34, 0x00, 0x00, 1, 1, 11, 2⟩) ∧
    decodeWord 0x41A9FF1A0000098D = .ok (.vscan ⟨19, 0xFE, 0x34, 0x00, 0x00, 0, 1, 3, 13⟩) ∧
    decodeWord 0x41B29FA7A0800003 = .ok (.vvote ⟨5, 0x3F, 0x4F, 0x41, 0x00, 0, 0, 0, 3⟩) ∧
    decodeWord 0x41CFFF1A01000000 = .ok (.vshuf ⟨31, 0xFE, 0x34, 0x02, 0x00, 0, 0, 0, 0⟩) ∧
    decodeWord 0x41D07F1A00002D87 = .ok (.vsfu ⟨0, 0xFE, 0x34, 0x00, 0x00, 2, 1, 11, 7⟩) ∧
    decodeWord 0x41E9FF0903AB1D00 = .ok (.vgumbel ⟨19, 0xFE, 0x12, 0x07, 0x56, 1, 1, 10, 0⟩) ∧
    decodeWord 0x41F2FF0900000000 = .ok (.vidx ⟨5, 0xFE, 0x12, 0x00, 0x00, 0, 0, 0, 0⟩) ∧
    decodeWord 0x420FFF1A01000380 = .ok (.vmulh ⟨31, 0xFE, 0x34, 0x02, 0x00, 0, 0, 7, 0⟩) ∧
    decodeWord 0x42107F1A01000280 = .ok (.vclamp ⟨0, 0xFE, 0x34, 0x02, 0x00, 0, 0, 5, 0⟩) ∧
    decodeWord 0x4229FF1A014D4E80 = .ok (.vpack ⟨19, 0xFE, 0x34, 0x02, 0x9A, 4, 1, 13, 0⟩) ∧
    decodeWord 0x4232FF1A00002301 = .ok (.vunpk ⟨5, 0xFE, 0x34, 0x00, 0x00, 2, 0, 6, 1⟩) := by decide

/-- Words laid out field by field from R16, R17 and the opcode map. -/
theorem test_words_vector_and_matrix_3 :
    decodeWord 0x424FFF1A00000280 = .ok (.vpopc ⟨31, 0xFE, 0x34, 0x00, 0x00, 0, 0, 5, 0⟩) ∧
    decodeWord 0x42507F1A00000080 = .ok (.vclz ⟨0, 0xFE, 0x34, 0x00, 0x00, 0, 0, 1, 0⟩) ∧
    decodeWord 0x4269FF1A01003D00 = .ok (.vdot ⟨19, 0xFE, 0x34, 0x02, 0x00, 3, 1, 10, 0⟩) ∧
    decodeWord 0x4272FF1A01000580 = .ok (.vcopysgn ⟨5, 0xFE, 0x34, 0x02, 0x00, 0, 0, 11, 0⟩) ∧
    decodeWord 0x440FFF0903B283C0 = .ok (.vld ⟨31, 0xFE, 0x12, 0x07, 0x65, 0, 0, 7, 64⟩) ∧
    decodeWord 0x44107F0903B28040 = .ok (.vst ⟨0, 0xFE, 0x12, 0x07, 0x65, 0, 0, 0, 64⟩) ∧
    decodeWord 0x4429FF0901000400 = .ok (.vgath ⟨19, 0xFE, 0x12, 0x02, 0x00, 0, 0, 8, 0⟩) ∧
    decodeWord 0x4432FF0901000000 = .ok (.vscat ⟨5, 0xFE, 0x12, 0x02, 0x00, 0, 0, 0, 0⟩) ∧
    decodeWord 0x444FFF09012B000E = .ok (.vamo ⟨31, 0xFE, 0x12, 0x02, 0x56, 0, 0, 0, 14⟩) ∧
    decodeWord 0x44507F09012B0001 = .ok (.vmaxvi ⟨0, 0xFE, 0x12, 0x02, 0x56, 0, 0, 0, 1⟩) ∧
    decodeWord 0x4469FF3980000000 = .ok (.vpop ⟨19, 0xFE, 0x73, 0x00, 0x00, 0, 0, 0, 0⟩) ∧
    decodeWord 0x4472BE9A00000000 = .ok (.vpush ⟨5, 0x7D, 0x34, 0x00, 0x00, 0, 0, 0, 0⟩) ∧
    decodeWord 0x480FA950E1960080 = .ok (.mma ⟨31, 0x52, 0xA1, 0xC3, 0x2C, 0, 0, 1, 0⟩) ∧
    decodeWord 0x48102950E1960680 = .ok (.mmaz ⟨0, 0x52, 0xA1, 0xC3, 0x2C, 0, 0, 13, 0⟩) ∧
    decodeWord 0x4829A90000000600 = .ok (.accz ⟨19, 0x52, 0x00, 0x00, 0x00, 0, 0, 12, 0⟩) ∧
    decodeWord 0x4832BEA8004D2E81 = .ok (.drain ⟨5, 0x7D, 0x50, 0x00, 0x9A, 2, 1, 13, 1⟩) ∧
    decodeWord 0x484F805080000000 = .ok (.scaleA ⟨31, 0x00, 0xA1, 0x00, 0x00, 0, 0, 0, 0⟩) ∧
    decodeWord 0x4840005080000001 = .ok (.scaleB ⟨0, 0x00, 0xA1, 0x00, 0x00, 0, 0, 0, 1⟩) := by decide

/-- Words laid out field by field from R16, R17 and the opcode map. -/
theorem test_words_vector_and_matrix_4 :
    decodeWord 0x4849800000000002 = .ok (.scaleNoa ⟨19, 0x00, 0x00, 0x00, 0x00, 0, 0, 0, 2⟩) ∧
    decodeWord 0x4842800000000003 = .ok (.scaleNob ⟨5, 0x00, 0x00, 0x00, 0x00, 0, 0, 0, 3⟩) ∧
    decodeWord 0x485FEF0903BF8020 = .ok (.tld ⟨31, 0xDE, 0x12, 0x07, 0x7F, 0, 0, 0, 32⟩) ∧
    decodeWord 0x48506F00038006D5 = .ok (.tldBind ⟨0, 0xDE, 0x00, 0x07, 0x00, 0, 0, 13, 85⟩) ∧
    decodeWord 0x4869EF09003F8001 = .ok (.tst ⟨19, 0xDE, 0x12, 0x00, 0x7F, 0, 0, 0, 1⟩) ∧
    decodeWord 0x4872EF0000000000 = .ok (.trelEmpty ⟨5, 0xDE, 0x00, 0x00, 0x00, 0, 0, 0, 0⟩) ∧
    decodeWord 0x487FEF0000000001 = .ok (.trelFull ⟨31, 0xDE, 0x00, 0x00, 0x00, 0, 0, 0, 1⟩) ∧
    decodeWord 0x4880000000000000 = .ok (.batonTake ⟨0, 0x00, 0x00, 0x00, 0x00, 0, 0, 0, 0⟩) ∧
    decodeWord 0x4889800900000001 = .ok (.batonPass ⟨19, 0x00, 0x12, 0x00, 0x00, 0, 0, 0, 1⟩) ∧
    decodeWord 0x4882800000000002 = .ok (.batonDrop ⟨5, 0x00, 0x00, 0x00, 0x00, 0, 0, 0, 2⟩) ∧
    decodeWord 0x489F9F8900000000 = .ok (.leaveReq ⟨31, 0x3F, 0x12, 0x00, 0x00, 0, 0, 0, 0⟩) ∧
    decodeWord 0x48901F8000000001 = .ok (.leaveRet ⟨0, 0x3F, 0x00, 0x00, 0x00, 0, 0, 0, 1⟩) := by decide

/-- Words laid out field by field from R16, R17 and the opcode map. -/
theorem test_words_vector_immediate_1 :
    decodeWord 0x6009FF1A40000001 = .ok (.vaddi ⟨19, 0xFE, 0x34, 0x40000001⟩) ∧
    decodeWord 0x6012FF1A0000001F = .ok (.vshli ⟨5, 0xFE, 0x34, 0x1F⟩) ∧
    decodeWord 0x602FFF1A00000010 = .ok (.vshri ⟨31, 0xFE, 0x34, 0x10⟩) ∧
    decodeWord 0x60307F1A0000003F = .ok (.vsrai ⟨0, 0xFE, 0x34, 0x3F⟩) ∧
    decodeWord 0x6049FF1A00001CFC = .ok (.vshufi ⟨19, 0xFE, 0x34, 0x1CFC⟩) ∧
    decodeWord 0x6052FF007FFFFFFF = .ok (.vli ⟨5, 0xFE, 0x00, 0x7FFFFFFF⟩) ∧
    decodeWord 0x606FFF0900000040 = .ok (.vldo ⟨31, 0xFE, 0x12, 0x40⟩) ∧
    decodeWord 0x60707F097FFFFFC0 = .ok (.vsto ⟨0, 0xFE, 0x12, 0x7FFFFFC0⟩) := by decide

/-- Words laid out field by field from R16, R17 and the opcode map. -/
theorem test_words_x_register_1 :
    decodeWord 0xC0099F8903800002 = .ok (.board ⟨19, 0x3F, 0x12, 0x07, 0x00, 0, 0, 0, 2⟩) ∧
    decodeWord 0xC0029F890396000D = .ok (.boardNew ⟨5, 0x3F, 0x12, 0x07, 0x2C, 0, 0, 0, 13⟩) ∧
    decodeWord 0xC01F9F890000000D = .ok (.bget ⟨31, 0x3F, 0x12, 0x00, 0x00, 0, 0, 0, 13⟩) ∧
    decodeWord 0xC02000090380000B = .ok (.bset ⟨0, 0x00, 0x12, 0x07, 0x00, 0, 0, 0, 11⟩) ∧
    decodeWord 0xC039800900000000 = .ok (.cancel ⟨19, 0x00, 0x12, 0x00, 0x00, 0, 0, 0, 0⟩) ∧
    decodeWord 0xC032800903960001 = .ok (.cancelKv ⟨5, 0x00, 0x12, 0x07, 0x2C, 0, 0, 0, 1⟩) ∧
    decodeWord 0xC04F9F8903800005 = .ok (.fire ⟨31, 0x3F, 0x12, 0x07, 0x00, 0, 0, 0, 5⟩) ∧
    decodeWord 0xC0501FB983800000 = .ok (.rangeR ⟨0, 0x3F, 0x73, 0x07, 0x00, 0, 0, 0, 0⟩) ∧
    decodeWord 0xC069800900000000 = .ok (.retire ⟨19, 0x00, 0x12, 0x00, 0x00, 0, 0, 0, 0⟩) ∧
    decodeWord 0xC0729F8900000000 = .ok (.lockq ⟨5, 0x3F, 0x12, 0x00, 0x00, 0, 0, 0, 0⟩) ∧
    decodeWord 0xC08F9F8900000000 = .ok (.nstate ⟨31, 0x3F, 0x12, 0x00, 0x00, 0, 0, 0, 0⟩) ∧
    decodeWord 0xC4001F8903960000 = .ok (.jadd ⟨0, 0x3F, 0x12, 0x07, 0x2C, 0, 0, 0, 0⟩) ∧
    decodeWord 0xC419800903800000 = .ok (.killpt ⟨19, 0x00, 0x12, 0x07, 0x00, 0, 0, 0, 0⟩) ∧
    decodeWord 0xC4229F8903800000 = .ok (.warrive ⟨5, 0x3F, 0x12, 0x07, 0x00, 0, 0, 0, 0⟩) ∧
    decodeWord 0xC80F9F8903800002 = .ok (.bar ⟨31, 0x3F, 0x12, 0x07, 0x00, 0, 0, 0, 2⟩) ∧
    decodeWord 0xC8101F8903800000 = .ok (.xbar ⟨0, 0x3F, 0x12, 0x07, 0x00, 0, 0, 0, 0⟩) ∧
    decodeWord 0xC8299F8903800000 = .ok (.phase ⟨19, 0x3F, 0x12, 0x07, 0x00, 0, 0, 0, 0⟩) ∧
    decodeWord 0xCC02800900000000 = .ok (.trap ⟨5, 0x00, 0x12, 0x00, 0x00, 0, 0, 0, 0⟩) := by decide

/-- Words laid out field by field from R16, R17 and the opcode map. -/
theorem test_words_x_register_2 :
    decodeWord 0xCC1F800000000000 = .ok (.exitR ⟨31, 0x00, 0x00, 0x00, 0x00, 0, 0, 0, 0⟩) ∧
    decodeWord 0xCC20000900000000 = .ok (.rmark ⟨0, 0x00, 0x12, 0x00, 0x00, 0, 0, 0, 0⟩) ∧
    decodeWord 0xCC39800903800001 = .ok (.dmark ⟨19, 0x00, 0x12, 0x07, 0x00, 0, 0, 0, 1⟩) ∧
    decodeWord 0xCC42800000000000 = .ok (.brk ⟨5, 0x00, 0x00, 0x00, 0x00, 0, 0, 0, 0⟩) := by decide

/-- Words laid out field by field from R16, R17 and the opcode map. -/
theorem test_words_x_immediate_1 :
    decodeWord 0xE00F9F890000FFFF = .ok (.boardi ⟨31, 0x3F, 0x12, 0xFFFF⟩) ∧
    decodeWord 0xE01000090000007F = .ok (.firei ⟨0, 0x00, 0x12, 0x7F⟩) ∧
    decodeWord 0xE0299F80000001A5 = .ok (.bgeti ⟨19, 0x3F, 0x00, 0x1A5⟩) ∧
    decodeWord 0xE032800900000167 = .ok (.bseti ⟨5, 0x00, 0x12, 0x167⟩) ∧
    decodeWord 0xE04F800000001234 = .ok (.trapi ⟨31, 0x00, 0x00, 0x1234⟩) := by decide
/-! ## States for the tests -/

/-- A crew of four lanes on the first berth of die 0, with its entry at address 0. -/
def crew : Crew := Crew.start 0 CrewRef.first [] 0 4

/-- The same, with every vector register holding 1, 2, 3, 4 under a tag. -/
def vcrew (tag : BitVec 8) : Crew := { crew with vregs := Vector.replicate 256 { words := [1, 2, 3, 4], tag := tag, marks := 0 } }

/-- One page of 64 KiB that maps addresses to themselves, with every permission. -/
def page : TlbEntry := { va := 0, size := 65536, pa := 0, r := true, w := true, x := true, key := 0 }

/-- That page as a place on it remembers it. -/
def here : Option VPage := some { va := 0, size := 65536 }

/-- A crew on the first berth of the reset package, with that page in its core's TLB. -/
def running (c : Crew) : State := (State.reset.putCrew c).onCore 0 0 fun k => { k with tlb := [page] }

theorem crewAt_running (c : Crew) (h : c.place = CrewRef.first) : (running c).crewAt (running c).cur = some c := by
  cases c; cases h; rfl

theorem issues_running (c : Crew) (g : BitVec 5) (h : c.place = CrewRef.first) (hg : guardFalse g c = false) :
    Issues (running c) c g := ⟨crewAt_running c h, hg⟩

theorem vcrew_marks (tag : BitVec 8) (q : Nat) : ((vcrew tag).vreg q).marks = 0 := by
  simp only [Crew.vreg, vcrew, Vector.getElem?_replicate]
  split <;> rfl

theorem vcrew_unmarked (tag : BitVec 8) (E : Mask) (r : Nat) (pair : Bool) : Unmarked (vcrew tag) E r pair := by
  intro q l _ _ _
  simp [vcrew_marks]

/-- No recorder works in a package whose five do not. -/
theorem noLog_of_five (s : State) (five : ∀ d, d < 5 → (s.recorderOf d).mode = 0) : s.NoLog := by
  intro d
  rcases Nat.lt_or_ge d 5 with h | h
  · exact five d h
  · have out : s.dies[d]? = none := by simp; omega
    simp [State.recorderOf, State.die, Nat.ne_of_gt h, out, Die.reset, Recorder.reset]

theorem noLog_running (c : Crew) (h : c.place = CrewRef.first) : (running c).NoLog := by
  cases c; cases h
  refine noLog_of_five _ fun d h => ?_
  interval_cases d <;> rfl

/-! ## What the words do, one step each -/

/-- ADD wraps at 64 bits, and s0 discards its result (R86, R87). -/
theorem test_add_wraps :
    (match exec (.add ⟨0, 3, 1, 2, 0, 0, 0, 0, 0⟩) (running ((crew.setS 1 0xFFFFFFFFFFFFFFFF).setS 2 2)) with
     | .next t => (t.crewAt CrewRef.first).map fun c => (c.sreg 3, c.sreg 0, c.pc)
     | _ => none) = some (1, 0, 8) := by decide

/-- The smallest value by -1 is itself, and a division by zero gives -1 (R88). -/
theorem test_div_corners :
    (match exec (.div ⟨0, 3, 1, 2, 0, 0, 0, 0, 0⟩) (running ((crew.setS 1 0x8000000000000000).setS 2 0xFFFFFFFFFFFFFFFF)) with
     | .next t => (t.crewAt CrewRef.first).map fun c => c.sreg 3
     | _ => none) = some 0x8000000000000000 ∧
    (match exec (.div ⟨0, 3, 1, 2, 0, 0, 0, 0, 0⟩) (running (crew.setS 1 7)) with
     | .next t => (t.crewAt CrewRef.first).map fun c => c.sreg 3
     | _ => none) = some 0xFFFFFFFFFFFFFFFF := by decide
/-! ## States that meet the statements' hypotheses, statement by statement -/

/-- The scalar words' hypotheses: a crew, a type of each kind, and a guard that runs, plain or with a mask. -/
theorem meets_scalar_words :
    Issues (running crew) crew 0 ∧ Issues (running crew) crew 0x10 = Issues (running crew) crew 16 ∧
    (∀ p, p ∈ [(0, 64, true), (1, 8, true), (8, 64, false)] → p ∈ integerTypes) ∧
    Issues (running (crew.setM 0x45 3)) (crew.setM 0x45 3) 5 ∧ guardSet 5 (crew.setM 0x45 3) = 3 ∧
    Issues (running crew) crew 0b10101 ∧ guardSet 0b10101 crew = 15 :=
  ⟨issues_running _ _ rfl (by decide +kernel), rfl, by decide +kernel, issues_running _ _ rfl (by decide +kernel), by decide +kernel,
    issues_running _ _ rfl (by decide +kernel), by decide +kernel⟩

/-- Scalar floats: each format, and a pair of types for each row of R72's table. -/
theorem meets_ScalarFloatResults :
    ((11 : BitVec 4).toNat, Fmt.f32) ∈ [(9, Fmt.f16), (10, Fmt.bf16), (11, Fmt.f32), (12, Fmt.f64)] ∧
    Issues (running crew) crew 0 ∧
    (∃ src dst, etyType (BitVec.setWidth 4 (11 : BitVec 7)) 0 = some src ∧ etyType 3 0 = some dst) ∧
    (∃ src dst, etyType (BitVec.setWidth 4 (1 : BitVec 7)) 0 = some src ∧ etyType 12 0 = some dst) ∧
    (∃ src dst, etyType (BitVec.setWidth 4 (12 : BitVec 7)) 0 = some src ∧ etyType 1 0 = some dst) :=
  ⟨by decide +kernel, issues_running _ _ rfl (by decide +kernel), ⟨_, _, rfl, rfl⟩, ⟨_, _, rfl, rfl⟩, ⟨_, _, rfl, rfl⟩⟩

/-- Register jumps to an aligned and to a misaligned target, and mask destinations at both ends of their range. -/
theorem meets_BranchesAndMasks :
    Issues (running (crew.setS 1 64)) (crew.setS 1 64) 0 ∧ ((crew.setS 1 64).sreg 1).toNat % 8 = 0 ∧
    Issues (running (crew.setS 1 65)) (crew.setS 1 65) 0 ∧ ((crew.setS 1 65).sreg 1).toNat % 8 ≠ 0 ∧
    0x41 ≤ (0x41 : BitVec 8).toNat ∧ (0x4F : BitVec 8).toNat ≤ 0x4F :=
  ⟨issues_running _ _ rfl (by decide +kernel), by decide +kernel, issues_running _ _ rfl (by decide +kernel), by decide +kernel, by decide +kernel, by decide +kernel⟩

/-- A crew whose rejoin stack is full. -/
def fullStack : Crew := { crew with stack := List.replicate 16 { kind := .mark, mask := 15, addr := 0 } }

/-- MARK on an empty and on a full stack; BRD for no lane, for all lanes, and for two of four on both stacks. -/
theorem meets_MarkAndDivergentBranch :
    (running crew).crewAt (running crew).cur = some crew ∧ guardFalse 0 crew = false ∧ crew.stack.length ≠ 16 ∧
    (running fullStack).crewAt (running fullStack).cur = some fullStack ∧ fullStack.stack.length = 16 ∧
    guardSet 5 crew = 0 ∧ guardSet 0 crew ≠ 0 ∧ guardSet 0 crew = crew.cur ∧
    guardSet 5 (crew.setM 0x45 3) ≠ 0 ∧ guardSet 5 (crew.setM 0x45 3) ≠ (crew.setM 0x45 3).cur ∧
    guardSet 5 (fullStack.setM 0x45 3) ≠ 0 ∧ guardSet 5 (fullStack.setM 0x45 3) ≠ (fullStack.setM 0x45 3).cur := by
  refine ⟨crewAt_running _ rfl, by decide +kernel, by decide +kernel, crewAt_running _ rfl, ?_⟩
  decide +kernel

/-- A crew at the join address of its MARK entry, below a path entry without a live lane. -/
def atJoin : Crew :=
  { crew with stack := [{ kind := .path, mask := 0, addr := 32 }, { kind := .mark, mask := 15, addr := 0 }] }

/-- JOIN on an empty stack, elsewhere, at its address with a live entry, and with none. -/
theorem meets_JoinFollowsTheStack :
    Issues (running crew) crew 0 ∧ crew.stack = [] ∧
    (let c := { atJoin with pc := 8 }
     Issues (running c) c 0 ∧ c.stack ≠ [] ∧ ((c.stack.find? fun e => e.kind = .mark).map fun e => e.addr) ≠ some c.pc) ∧
    (Issues (running atJoin) atJoin 0 ∧
      atJoin.stack = [⟨.path, 0, 32⟩] ++ ⟨.mark, 15, 0⟩ :: [] ∧
      ((atJoin.stack.find? fun e => e.kind = .mark).map fun e => e.addr) = some atJoin.pc ∧
      (15 : Mask) &&& atJoin.live ≠ 0) ∧
    (let c := { atJoin with live := 0 }
     Issues (running c) c 0 ∧ c.stack ≠ [] ∧ ((c.stack.find? fun e => e.kind = .mark).map fun e => e.addr) = some c.pc ∧
       ∀ p, p ∈ c.stack → p.mask &&& c.live = 0) := by
  refine ⟨issues_running _ _ rfl (by decide +kernel), rfl, ⟨issues_running _ _ rfl (by decide +kernel), by decide +kernel⟩,
    ⟨issues_running _ _ rfl (by decide +kernel), rfl, by decide +kernel⟩, issues_running _ _ rfl (by decide +kernel), by decide +kernel, by decide +kernel, ?_⟩
  intro p _
  exact BitVec.and_zero

/-- EXIT of two lanes of four, of all lanes with an empty stack, and of the current ones above a live entry. -/
theorem meets_ExitRemovesLanes :
    (let c := crew.setM 0x42 3
     Issues (running c) c 2 ∧ c.cur &&& ~~~(guardSet 2 c) ≠ 0) ∧
    (Issues (running crew) crew 0 ∧ crew.cur &&& ~~~(guardSet 0 crew) = 0 ∧ crew.stack = []) ∧
    (let c := { crew with cur := 3, stack := [{ kind := .path, mask := 12, addr := 32 }] }
     Issues (running c) c 0 ∧ c.cur &&& ~~~(guardSet 0 c) = 0 ∧ c.stack = [] ++ ⟨.path, 12, 32⟩ :: [] ∧
       (12 : Mask) &&& ~~~(guardSet 0 c) &&& c.live ≠ 0) :=
  ⟨⟨issues_running _ _ rfl (by decide +kernel), by decide +kernel⟩, ⟨issues_running _ _ rfl (by decide +kernel), by decide +kernel, rfl⟩,
    issues_running _ _ rfl (by decide +kernel), by decide +kernel, rfl, by decide +kernel⟩

/-- A crew with one load and one store under way. -/
def waiting : Crew := (crew.queued .wl).queued .ws

/-- WAIT while a selected counter is above s[a], and when none is; each special register at a value SETSR takes or refuses. -/
theorem meets_WaitAndSpecialRegisters :
    Issues (running waiting) waiting 0 ∧ (1 : BitVec 7).getLsbD Counter.wl.bit = true ∧
    (waiting.sreg 1).toNat < waiting.count .wl ∧ ¬(4 : BitVec 7).getLsbD Counter.wl.bit = true ∧
    (∀ n, n ∈ [0x000, 0x001, 0x002, 0x003, 0x004, 0x005, 0x006, 0x007, 0x008, 0x010, 0x01F, 0x020, 0x02F, 0x040] →
      (Instr.getsr ⟨0, 1, 0, BitVec.ofNat 31 n⟩).wf = true) ∧
    ((crew.setS 1 63).sreg 1).toNat < 2 ^ 6 ∧ 2 ^ 6 ≤ ((crew.setS 1 64).sreg 1).toNat ∧
    ((crew.setS 1 3).sreg 1).toNat < 2 ^ 2 ∧ 2 ^ 2 ≤ ((crew.setS 1 4).sreg 1).toNat ∧
    ((0x20 : W64) &&& ~~~0x1FF1F#64 ≠ 0) ∧
    (0x10000 : W64) &&& ~~~0x1FF1F#64 = 0 ∧ fmInvalid 0x10000 = false ∧ fmInvalid 0x1FF1F = false ∧
    (0x1000F : W64) &&& ~~~0x1FF1F#64 = 0 ∧ fmInvalid 0x1000F = true := by
  refine ⟨issues_running _ _ rfl (by decide +kernel), ?_⟩
  decide +kernel

/-- A scalar word, a matrix word and an X-form word under a guard that names no lane. -/
theorem meets_FalseGuardsSkip :
    (running crew).crewAt (running crew).cur = some crew ∧
    (∀ i, i ∈ [Instr.add ⟨5, 1, 2, 3, 0, 0, 0, 0, 0⟩, .accz ⟨5, 0x50, 0, 0, 0, 0, 0, 0, 0⟩, .retire ⟨5, 0, 1, 0, 0, 0, 0, 0, 0⟩] →
      i.wf = true ∧ ∃ x, encode i = some x ∧ x.extractLsb' 47 5 ≠ 0 ∧ guardSet (x.extractLsb' 47 5) crew = 0 ∧
        (formOf x = 0 ∨ formOf x = 3 ∨ (formOf x = 1 ∧ 0x080 ≤ (opcodeOf x).toNat ∧ (opcodeOf x).toNat ≤ 0x089))) := by
  refine ⟨crewAt_running _ rfl, ?_⟩
  simp only [List.forall_mem_cons, List.not_mem_nil, false_implies, implies_true, and_true]
  refine ⟨⟨rfl, _, rfl, ?_⟩, ⟨rfl, _, rfl, ?_⟩, rfl, _, rfl, ?_⟩ <;> decide +kernel

/-- A well-formed instruction with a word, and a word that decodes. -/
theorem meets_DecodeInvertsEncode :
    (Instr.add ⟨0, 5, 6, 7, 0, 0, 0, 0, 0⟩).wf = true ∧
    encode (.add ⟨0, 5, 6, 7, 0, 0, 0, 0, 0⟩) = some 0x0000028303800000 ∧
    encode (.boardi ⟨0, 0, 5, 0x1253⟩) = some 0xE000000280001253 := by decide +kernel
/-- The crew's word stands in mapped memory, decodes, and meets no hazard; an illegal word; and a fetch that is refused. -/
theorem meets_StepRunsTheDecodedWord :
    (running crew).agenda = [] ∧ (running crew).crewAt (running crew).cur = some crew ∧ (running crew).heldBack crew = false ∧
    crew.poison = none ∧ crew.exitPending = false ∧ ((running crew).core 0 0).slot ≤ 0 ∧ topByte crew.pc = 0 ∧
    (running crew).translate 0 0 crew.pc.toNat = some page ∧ page.x = true ∧
    (∀ k, k < 8 → (0 : W64).extractLsb' (8 * k) 8 = (running crew).l1Byte 0 page.key (page.pa + (crew.pc.toNat - page.va) + k)) ∧
    decodeWord 0 = .ok (.add ⟨0, 0, 0, 0, 0, 0, 0, 0, 0⟩) ∧ crew.hazard (.add ⟨0, 0, 0, 0, 0, 0, 0, 0, 0⟩) = false ∧
    (running { crew with pc := 65536 }).fetchWord { crew with pc := 65536 } = .error 2 := by
  refine ⟨rfl, crewAt_running _ rfl, rfl, rfl, rfl, ?_⟩
  decide +kernel

/-- A region with one core, and with a shape of two points, a register apart. -/
def shaped : RegionCfg :=
  { addr := 0, num := 0, version := 0, coreCount := 1, layer := none, codeBase := 0, privPool := 0, handlers := [], locks := []
    fmts := [], shapes := [{ ty := 0, ext := [2, 1, 1, 1], stride := [1, 0, 0, 0] }] }

/-- A state in which a region is resident on core 0 of die 0, and the only one of the die's partition. -/
def resident (cfg : RegionCfg) (s : State) : State :=
  (s.onDie 0 fun x =>
    { x with regions := [{ cfg := cfg, cores := [0], barriers := [], phase := .running, lastStart := 0 }]
             part := some { addr := 0, regions := [cfg], nodes := [], sources := [], adapters := [] } }).onCore 0 0
    fun k => { k with region := some cfg.num }

/-- A word placed where the next step fetches runs: ADDI of 7 to s0 into s5. -/
theorem test_step_runs_placed_word :
    (match step (State.reset.withFetchWord 64 0x2000028000000007) with
     | .next t => (t.crewAt CrewRef.first).map fun c => (c.sreg 5, c.pc)
     | _ => none) = some (7, 8) := by decide +kernel

/-- Agendas that begin with an event, with a cycle and with an issue slot; a crew that is held back, one whose core has had its slot,
and one with poison. -/
theorem meets_TurnsOfAStep :
    (∃ s : State, s.agenda = .event (.lockArrival 0) :: []) ∧ (∃ s : State, s.agenda = .cycle :: []) ∧
    (∃ s : State, s.agenda = .issue CrewRef.first :: []) ∧
    (let c := { crew with wait := some { wait := .core 0 0, dest := 1 } }
     (running c).crewAt (running c).cur = some c ∧ (running c).heldBack c = true) ∧
    (let s := (running crew).onCore 0 0 fun k => { k with slot := 1 }
     s.crewAt s.cur = some crew ∧ s.cur.berth < (s.core s.cur.die s.cur.core).slot) ∧
    (let c := { crew with poison := some (1, 64, 9) }
     (running c).crewAt (running c).cur = some c ∧ (running c).heldBack c = false ∧ c.poison = some (1, 64, 9)) :=
  ⟨⟨{ State.reset with agenda := [.event (.lockArrival 0)] }, rfl⟩, ⟨{ State.reset with agenda := [.cycle] }, rfl⟩,
    ⟨{ State.reset with agenda := [.issue CrewRef.first] }, rfl⟩, ⟨crewAt_running _ rfl, rfl⟩, ⟨rfl, by decide +kernel⟩,
    crewAt_running _ rfl, rfl, rfl⟩

/-- A next state of a state whose memory is in its canonical form. -/
theorem meets_StepsKeepMemoryCanonical : Memory.wf State.reset.mem = true ∧ ∃ t, step State.reset = .next t := ⟨rfl, _, rfl⟩

/-- An illegal word, the three refused fetches, and a trap. -/
theorem meets_WordsThatAlwaysKill :
    (running crew).crewAt (running crew).cur = some crew ∧ decodeWord 0xFFFFFFFFFFFFFFFF = .error 1 ∧
    (let c := { crew with pc := 0x0100000000000000 }
     (running c).crewAt (running c).cur = some c ∧ topByte c.pc ≠ 0) ∧
    (let c := { crew with pc := 65536 }
     (running c).crewAt (running c).cur = some c ∧ topByte c.pc = 0 ∧ (running c).translate 0 0 c.pc.toNat = none ∧
       (running c).fetchWord c = .error 2) ∧
    (let s := (running crew).onCore 0 0 fun k => { k with tlb := [{ page with x := false }] }
     s.crewAt s.cur = some crew ∧ s.translate 0 0 crew.pc.toNat = some { page with x := false }) ∧
    Issues (running crew) crew 0 :=
  ⟨crewAt_running _ rfl, by decide +kernel, ⟨crewAt_running _ rfl, by decide +kernel⟩,
    ⟨crewAt_running _ rfl, by decide +kernel, by decide +kernel, by decide +kernel⟩, ⟨rfl, by decide +kernel⟩,
    issues_running _ _ rfl (by decide +kernel)⟩

/-- A barge of a request, as BOARD.NEW would make it. -/
def barge : Barge :=
  { req := 1, pos := 0, seq := 0, sgroup := 0, parent := 0, payload := 0, hdr := 0, origin := 0, adapt := 0, route := 0, flags := 0
    kind := 0, gen := 0, depth := 0, marked := false, landing := none, poisonSeq := 0 }

/-- A crew that holds record 5 in row 0. -/
def holder : Crew := { crew with held := [some 5] }

/-- That crew running, with the record in the die's store and a poison ring of 4,096 entries or of none. -/
def holding (ring : BitVec 16) : State :=
  ((running holder).putBarge 0 5 barge).onDie 0 fun x => { x with regs := { x.regs with poisonSize := ring } }

/-- A killing fault of a crew that holds a barge, with a poison ring and without, before and after a fatal record. -/
theorem meets_KillingFaultIsTaken :
    (holding 1).crewAt holder.place = some holder ∧ ((holding 1).die 0).recorder.mode = 0 ∧ (holding 1).flight.cancels = [] ∧
    ((holding 1).die 0).faults.fatal = none ∧ some 5 ∈ holder.held ∧ (holding 1).barge 0 5 = some barge ∧
    ((holding 1).die 0).regs.poisonSize ≠ 0 ∧ ((holding 0).die 0).regs.poisonSize = 0 ∧ some 6 ∉ holder.held ∧
    ∃ s : State, s.crewAt crew.place = some crew ∧ (s.die 0).recorder.mode = 0 ∧ (s.die 0).faults.fatal ≠ none := by
  refine ⟨rfl, rfl, rfl, rfl, by decide, rfl, by decide +kernel, rfl, by decide, (running crew).onDie 0 fun x =>
    { x with faults := { x.faults with fatal := some ⟨0, true, false, 0, [], 0, 0⟩ } }, rfl, rfl, by decide +kernel⟩

/-- An illegal word leaves a record of cause 1 with its reason and the word, and no crew on the berth (R37, R348, R349). -/
theorem test_illegal_word_kills :
    (match exec (.illegalWord 0xFFFFFFFFFFFFFFFF) (running crew) with
     | .next t => ((t.crewAt CrewRef.first).isNone, (t.die 0).faults.entries.map fun r => (r.origin, r.infos))
     | _ => (false, [])) = (true, [(0x0000000002200000, [0xFFFFFFFFFFFFFFFF])]) := by decide +kernel

/-- Places that a crew may load from, store to and update, on the page and in its die's basin; misaligned and unmapped
addresses; and a full counter. -/
theorem meets_accesses :
    Issues (running crew) crew 0 ∧ (running crew).InTheClear ∧ Memory.wf (running crew).mem = true ∧ crew.weir = none ∧
    ((12 : BitVec 4).toNat, 8, false) ∈ memoryTypes ∧ ((1 : BitVec 31).toNat % 16, 1, true) ∈ memoryTypes ∧
    (running crew).check crew.accessor .load 64 8 8 = .ok (.pa 64 0 here) ∧
    (running crew).check crew.accessor .store 64 8 8 = .ok (.pa 64 0 here) ∧
    (running crew).check crew.accessor .atomic 64 8 8 = .ok (.pa 64 0 here) ∧
    (running crew).check crew.accessor .load 68 8 8 = .error 1 ∧
    (running crew).check crew.accessor .store 65536 1 1 = .error 4 ∧
    crew.count .wl < 255 ∧ crew.count .ws < 255 ∧ crew.count .wg < 255 ∧
    255 ≤ Crew.count { crew with ops := List.replicate 255 ⟨.wl, 0, false, false⟩ } .wl ∧
    ((running crew).die 0).dirty = [] ∧ (running crew).io.remote = [] ∧ (running crew).remoteWindow 64 = none ∧
    (running crew).clockHeld 0 = false ∧ (∀ k, (running crew).provisional crew k = none) := by
  refine ⟨issues_running _ _ rfl (by decide +kernel), ⟨rfl, rfl⟩, ?_⟩
  simp only [← and_assoc]
  exact ⟨by decide +kernel, fun _ => rfl⟩

theorem meets_accesses_noLog : (running crew).NoLog := noLog_running crew rfl

/-- A weir record's window of 128 bytes, and a crew bound to the weir: a byte in the window and one behind it. -/
theorem meets_bound_stores :
    (let c := { crew with weir := some { record := 0xB000000000000100, home := 0xB000000000000100, slot := 1, notice := false } }
     let s := ((running c).setSys64 0 0xB000000000000118 0xB000000000002000).setSys64 0 0xB000000000000120 128
     s.crewAt s.cur = some c ∧ s.provisional c 0xB00000000000207F = c.weir ∧ s.provisional c 0xB000000000002080 = none ∧
       s.check c.accessor .store 0xB000000000002078 8 8 = .ok (.chip 0xB000000000002078)) ∧
    (let s := (running crew).onIo fun io => { io with remote := [
       { op := { uid := crew.uid, ticket := 0 }, place := CrewRef.first, ctr := .wl, dest := none, ety := 8, addr := 0, peer := 5, tdie := 1
         pseq := 0, xbar := false, oldTie := none, fold := none, origin := 0 }] }
     ∃ r, r ∈ s.io.remote ∧ r.op.uid = crew.uid) := by
  refine ⟨⟨rfl, by decide +kernel⟩, _, List.mem_singleton.mpr rfl, rfl⟩

/-- A die with a dirty line of its own identity, a released one of another and one that stays; bytes stamped by another die, by the
reader and without an image; a crew before and after its first spill block, which has no room in the share. -/
theorem meets_ReleasesWriteBack :
    (let l : DirtyLine :=
       { line := 2, key := 0, bytes := [(256, 1), (258, 2)], marks := [], released := false, uids := [7], regions := [0]
         pages := [{ va := 0, size := 65536 }], owner := CrewRef.first, uid := 7, region := 0, version := 0, handler := 0, poff := 0 }
     let s := (running crew).onDie 0 fun x => { x with
       dirty := [l, { l with line := 3, bytes := [(384, 5)], uids := [8], released := true }, { l with line := 4, uids := [8] }] }
     s.InTheClear ∧ Memory.wf s.mem = true ∧ ((s.die 0).dirty.map fun l => l.goesWith 7) = [true, true, false]) ∧
    (let im : Image := { clock := Vector.replicate 5 3, evseq := 9 }
     ∀ g, g ∈ [(⟨64, 8, 1, some im⟩ : Stamp), ⟨64, 8, 0, some im⟩, ⟨64, 8, 4, none⟩] →
       ({ running crew with stamps := [g] } : State).stamps.find? (fun g => g.meets 64 1) = some g) ∧
    (let c := { crew with lanes := 1024 }
     let d := { c with spillBlocks := [5] }
     c.spillBlocks = [] ∧ d.spillBlocks ≠ [] ∧ d.lanes ≤ 1024 ∧ (∀ b, b ∈ d.spillBlocks → b < 32) ∧
       16384 / (32 * d.lanes) ≤ 0 ∧ d.spillBlocks.reverse[0]? = some (40 / 8)) := by
  refine ⟨⟨⟨rfl, rfl⟩, rfl, by decide +kernel⟩, ?_⟩
  decide +kernel

/-- Addresses of every top byte that AccessChecksInOrder names, well formed and not, of this die and core and of others, and at both
ends of a range. -/
theorem meets_AccessChecksInOrder :
    (0x0500000000000000 : W64).toNat / 2 ^ 56 ∉ [0, 0xB0, 0xB1, 0xB2, 0xB3, 0xC0, 0xD0, 0xE0, 0xF0] ∧
    (0xE000000000000000 : W64).toNat / 2 ^ 56 = 0xE0 ∧
    (running crew).remoteWindow 0 = none ∧ (running crew).translate 0 0 0 = some page ∧ (running crew).translate 0 0 65536 = none ∧
    (0xB000000006000000 - 8 : W64).toNat % 2 ^ 27 + 8 ≤ 96 * 2 ^ 20 ∧
    ¬((0xB000000006000000 : W64).toNat % 2 ^ 27 + 8 ≤ 96 * 2 ^ 20) ∧
    (0xB000000008000000 : W64).toNat / 2 ^ 27 % 2 ^ 29 ≠ 0 ∧
    ((0xC000000000000000 : W64).toNat / 2 ^ 46 % 64 = 0 ∧ (0xC040000000000000 : W64).toNat / 2 ^ 52 % 16 = 4 ∧
      ((resident shaped (running crew)).core 0 0).region = some crew.region ∧ ((running crew).core 0 0).region ≠ some crew.region ∧
      (0xC0000000003FFFF8 : W64).toNat % 2 ^ 22 + 8 = 2 ^ 22) ∧
    ((0xD0F0000000000000 : W64).toNat / 2 ^ 52 % 16 = 15 ∧ (0xD010000000000040 : W64).toNat / 2 ^ 52 % 16 = 1) ∧
    ((0xE000000000000001 : W64).toNat % 8 ≠ 0 ∧ (0xE060000000000000 : W64).toNat / 2 ^ 52 % 16 = 6 ∧
      (0xE00C000000000000 : W64).toNat / 2 ^ 50 % 4 = 3 ∧ (0xE008040000000008 : W64).toNat / 2 ^ 42 % 4 = 1) ∧
    ((0xF000000100000000 : W64).toNat / 2 ^ 32 % 2 ^ 24 ≠ 0 ∧ (0xF000000000000038 : W64).toNat % 2 ^ 32 + 8 ≤ 64) := by decide +kernel

/-- A store is read back by the load of the same place, little-endian (R142, R144). -/
theorem test_store_then_load :
    (match exec (.st ⟨0, 2, 1, 0, 0, 0, 0, 7, 0⟩) (running ((crew.setS 1 64).setS 2 0x11223344AABBCCDD)) with
     | .next t => match exec (.ld ⟨0, 3, 1, 0, 0, 0, 0, 2, 0⟩) t with
       | .next u => (u.crewAt CrewRef.first).map fun c => c.sreg 3
       | _ => none
     | _ => none) = some 0xFFFFFFFFFFFFCCDD := by decide +kernel
/-- The same crew, with another value in one register. -/
def mcrew (tag : BitVec 8) (r : Nat) (v : VReg) : Crew := { vcrew tag with vregs := (vcrew tag).vregs.setIfInBounds r v }

theorem mcrew_unmarked (tag : BitVec 8) (r : Nat) (v : VReg) (hv : v.marks = 0) (E : Mask) (q : Nat) (pair : Bool) :
    Unmarked (mcrew tag r v) E q pair := by
  intro x l _ _ _
  have h : ((mcrew tag r v).vreg x).marks = 0 := by
    have hx := vcrew_marks tag x
    simp only [Crew.vreg] at hx
    simp only [Crew.vreg, mcrew, Vector.getElem?_setIfInBounds]
    split
    · split
      · exact hv
      · rfl
    · exact hx
  simp [h]

theorem vcrew_vreg (tag : BitVec 8) (r : Nat) (h : r < 256) : (vcrew tag).vreg r = { words := [1, 2, 3, 4], tag := tag, marks := 0 } := by
  simp [Crew.vreg, vcrew, h]

/-- An elementwise word with no steps of its own, whose registers all hold a tag that its ety accepts. -/
theorem elementwise_vcrew (w : RegForm) (tag : BitVec 8) (t : ElemTy) (useB useD : Bool)
    (flags : fnQA w = false ∧ fnQD w = false ∧ fnT w = false)
    (even : t.is64 = true → w.d.toNat % 2 = 0 ∧ w.a.toNat % 2 = 0 ∧ w.b.toNat % 2 = 0)
    (first : firstType crew.fmts w.ety acceptAny 1 tag = .ok t)
    (other : checkTyped crew.fmts w.ety t 2 tag = .ok () ∧ checkTyped crew.fmts w.ety t 0 tag = .ok ()) :
    Elementwise w (running (vcrew tag)) (vcrew tag) t [0] useB useD := by
  have at0 : ∀ f : BitVec 8, stepAt f 0 = f.toNat := fun f => by simp [stepAt]
  refine ⟨crewAt_running _ rfl, ⟨flags.1, flags.2.1⟩, by simp [State.stepOffsets, flags.2.2], ?_, ?_, ?_, by simp⟩
  · intro o ho f hf
    simp only [List.mem_singleton] at ho
    subst ho
    refine ⟨by simp, by have := f.isLt; simp; omega, fun h => ?_⟩
    rw [at0]
    rcases hf with rfl | rfl | ⟨rfl, -⟩
    exacts [(even h).1, (even h).2.1, (even h).2.2]
  · intro o ho
    simp only [List.mem_singleton] at ho
    subst ho
    simp only [at0]
    rw [vcrew_vreg _ _ w.a.isLt, vcrew_vreg _ _ w.b.isLt, vcrew_vreg _ _ w.d.isLt]
    exact ⟨first, fun _ => other.1, fun _ => other.2⟩
  · intro o _
    exact ⟨vcrew_unmarked _ _ _ _, fun _ => vcrew_unmarked _ _ _ _, fun _ => vcrew_unmarked _ _ _ _⟩

/-- Integer elements of 32 and of 64 bits, in words that read one, two and three registers. -/
theorem meets_VectorIntegerElements :
    (∀ useB useD, Elementwise ⟨0, 4, 6, 8, 0, 0, 0, 3, 0⟩ (running (vcrew 0x12)) (vcrew 0x12) (.sint 32) [0] useB useD) ∧
    (∀ useB useD, Elementwise ⟨0b10011, 4, 6, 8, 0, 0, 1, 0, 0⟩ (running (vcrew 0x23)) (vcrew 0x23) (.uint 64) [0] useB useD) ∧
    (ElemTy.sint 32).isInt = true ∧ (ElemTy.uint 64).isInt = true :=
  ⟨fun _ _ => elementwise_vcrew _ _ _ _ _ ⟨rfl, rfl, rfl⟩ (by decide) rfl ⟨rfl, rfl⟩,
    fun _ _ => elementwise_vcrew _ _ _ _ _ ⟨rfl, rfl, rfl⟩ (by decide) rfl ⟨rfl, rfl⟩, rfl, rfl⟩

/-- Float elements: F32, F64 and the narrow type of format register 0. -/
theorem meets_VectorFloatElements :
    (∀ useB useD, Elementwise ⟨0, 4, 6, 8, 0, 0, 0, 11, 0⟩ (running (vcrew 0x32)) (vcrew 0x32) (.ieee 2) [0] useB useD) ∧
    (∀ useB useD, Elementwise ⟨0, 4, 6, 8, 0, 0, 0, 12, 0⟩ (running (vcrew 0x33)) (vcrew 0x33) (.ieee 3) [0] useB useD) ∧
    (∀ useB useD, Elementwise ⟨0, 4, 6, 8, 0, 0, 0, 14, 0⟩ (running (vcrew 0x50)) (vcrew 0x50) (.narrow4 0) [0] useB useD) ∧
    (ElemTy.ieee 2).fmt crew.fmts = some Fmt.f32 ∧ (ElemTy.ieee 3).narrowIndex = none ∧
    (ElemTy.narrow4 0).fmt crew.fmts = some (fmFmt 0x10000) :=
  ⟨fun _ _ => elementwise_vcrew _ _ _ _ _ ⟨rfl, rfl, rfl⟩ (by decide) rfl ⟨rfl, rfl⟩,
    fun _ _ => elementwise_vcrew _ _ _ _ _ ⟨rfl, rfl, rfl⟩ (by decide) rfl ⟨rfl, rfl⟩,
    fun _ _ => elementwise_vcrew _ _ _ _ _ ⟨rfl, rfl, rfl⟩ (by decide) rfl ⟨rfl, rfl⟩, rfl, rfl, rfl⟩

/-- The two steps of a shaped word (R118). -/
theorem meets_steps : (resident shaped (running crew)).stepOffsets crew true 0x60 = .ok [0, 1] := rfl

/-- VSFU and VGUMBEL: an F32 argument of each kind that the table names, and an index register of N32. -/
theorem meets_VectorSpecialFunctions :
    Elementwise ⟨0, 4, 6, 0, 0, 0, 0, 11, 7⟩ (running (vcrew 0x32)) (vcrew 0x32) (.ieee 2) [0] false false ∧
    (∃ n d e, Fmt.f32.decode 0x80000000 = .num true n d e ∧ n = 0) ∧
    (∃ n d e, Fmt.f32.decode 0xC0000000 = .num true n d e ∧ n ≠ 0) ∧
    (let c := mcrew 0x22 4 ⟨[1], 0x32, 0⟩
     (running c).crewAt (running c).cur = some c ∧ Unmarked c 15 4 false ∧ Unmarked c 15 5 false ∧
       firstType c.fmts 11 acceptAny 0 (c.vreg 4).tag = .ok (.ieee 2) ∧ (c.vreg 5).tag = 0x22) ∧
    (fnOP ⟨0, 4, 6, 0, 0, 0, 0, 11, 7⟩).toNat < 8 ∧ Fmt.f32.decode 0x7FC00000 = .nan ∧ Fmt.f32.decode 0xFF800000 = .inf true := by
  have unmarked := mcrew_unmarked 0x22 4 ⟨[1], 0x32, 0⟩ rfl 15
  refine ⟨elementwise_vcrew _ _ _ _ _ ⟨rfl, rfl, rfl⟩ (by decide) rfl ⟨rfl, rfl⟩, ⟨_, _, _, rfl, rfl⟩, ⟨_, _, _, rfl, by decide⟩,
    ⟨crewAt_running _ rfl, unmarked 4 false, unmarked 5 false, by decide +kernel⟩, by decide +kernel⟩

/-- A reserved tag, a scaled one, one of another type, and tag 0x00 under ety 0, first and second. -/
theorem meets_TagChecksRefuse :
    (let w : RegForm := ⟨0, 4, 6, 8, 0, 0, 0, 0, 0⟩
     fnQA w = false ∧ fnQD w = false ∧ fnT w = false ∧ w.ety.toNat ≤ 12) ∧
    (∀ tag, tag ∈ [(0x14 : BitVec 8), 0x70, 0x90, 0x00, 0x32, 0x12] →
      (running (vcrew tag)).crewAt (running (vcrew tag)).cur = some (vcrew tag) ∧ ((vcrew tag).vreg 6).tag = tag) ∧
    (0x14 : BitVec 8).toNat % 16 ≥ 4 ∧ 6 ≤ (0x70 : BitVec 8).toNat / 16 % 8 ∧ 128 ≤ (0x90 : BitVec 8).toNat ∧
    (0x32 : BitVec 8).toNat % 128 ≠ ((3 : BitVec 4).toNat - 1) % 4 + 16 * (((3 : BitVec 4).toNat - 1) / 4 + 1) ∧
    (0x12 : BitVec 8).toNat % 128 = ((3 : BitVec 4).toNat - 1) % 4 + 16 * (((3 : BitVec 4).toNat - 1) / 4 + 1) := by
  refine ⟨by decide, fun tag _ => ⟨crewAt_running _ rfl, ?_⟩, by decide⟩
  rw [vcrew_vreg _ _ (by decide)]

/-- Sources of bitwise words and moves, of one register and of a pair. -/
theorem meets_VectorMovesAndLogic :
    (∀ tag, tag ∈ [(0x12 : BitVec 8), 0x23, 0x00] → tagReserved false tag = false ∧
      (running (vcrew tag)).crewAt (running (vcrew tag)).cur = some (vcrew tag) ∧
      (running (vcrew tag)).stepOffsets (vcrew tag) false 0 = .ok [0] ∧ ∀ E r p, Unmarked (vcrew tag) E r p) ∧
    tagIs64 0x23 = true ∧ tagIs64 0x12 = false ∧ etyType 13 2 = some (.narrow8 2) ∧ etyType 8 0 = some (.uint 64) ∧
    Typed (vcrew 0x12) 6 (.sint 32) ∧ Typed (vcrew 0x23) 6 (.uint 64) := by
  refine ⟨fun tag h => ⟨?_, crewAt_running _ rfl, rfl, fun _ _ _ => vcrew_unmarked _ _ _ _⟩, rfl, rfl, rfl, rfl, ?_, ?_⟩
  · revert tag
    decide
  all_goals
    unfold Typed
    rw [vcrew_vreg _ _ (by decide)]
    decide +kernel

/-- Conversions between types of equal, half and double width; comparisons at both ends of the mask registers' range. -/
theorem meets_VectorConversionsAndComparisons :
    Typed (vcrew 0x32) 6 (.ieee 2) ∧ Typed (vcrew 0x11) 6 (.sint 16) ∧ (∀ E r p, Unmarked (vcrew 0x32) E r p) ∧
    etyType 3 0 = some (.sint 32) ∧ etyType 9 0 = some (.ieee 0) ∧ 2 * (ElemTy.ieee 0).width = (ElemTy.ieee 2).width ∧
    (ElemTy.sint 32).width = 2 * (ElemTy.sint 16).width ∧ (ElemTy.sint 32).widMismatch crew.fmts = false ∧
    firstType (vcrew 0x32).fmts 11 acceptAny 1 0x32 = .ok (.ieee 2) ∧ checkTyped (vcrew 0x32).fmts 11 (.ieee 2) 2 0x32 = .ok () ∧
    ((vcrew 0x32).vreg 6).tag = 0x32 ∧ (vcrew 0x32).lanes ≤ 1024 := by
  refine ⟨?_, ?_, fun _ _ _ => vcrew_unmarked _ _ _ _, by decide +kernel⟩
  all_goals
    unfold Typed
    rw [vcrew_vreg _ _ (by decide)]
    decide +kernel

/-- Reductions and scans over integers and floats, with a guard that counts no lane; dot products of each source type. -/
theorem meets_VectorReductionsScansAndDots :
    (running (vcrew 0x12)).crewAt (running (vcrew 0x12)).cur = some (vcrew 0x12) ∧
    firstType (vcrew 0x12).fmts 0 acceptAny 1 0x12 = .ok (.sint 32) ∧ firstType (vcrew 0x32).fmts 11 acceptAny 1 0x32 = .ok (.ieee 2) ∧
    (ElemTy.sint 32).narrowIndex = none ∧ guardSet 5 (vcrew 0x12) = 0 ∧ guardSet 0 (vcrew 0x12) ≠ 0 ∧
    (let c := mcrew 0x10 4 ⟨[7], 0x12, 0⟩
     (running c).crewAt (running c).cur = some c ∧ firstType c.fmts 1 acceptAny 1 (c.vreg 5).tag = .ok (.sint 8) ∧
       (c.vreg 6).tag = (ElemTy.sint 8).tag ∧ (c.vreg 4).tag = 0x12) ∧
    (let c := mcrew 0x50 4 ⟨[7], 0x32, 0⟩
     (running c).crewAt (running c).cur = some c ∧ firstType c.fmts 14 acceptAny 1 (c.vreg 5).tag = .ok (.narrow4 0) ∧
       (c.vreg 6).tag = (ElemTy.narrow4 0).tag ∧ (c.vreg 4).tag = 0x32) :=
  ⟨crewAt_running _ rfl, rfl, rfl, rfl, by decide +kernel, by decide +kernel, ⟨crewAt_running _ rfl, by decide +kernel⟩,
    crewAt_running _ rfl, by decide +kernel⟩

/-- A vote, and shuffles by register and by each mode of the immediate. -/
theorem meets_VotesAndShuffles :
    (running (vcrew 0x22)).crewAt (running (vcrew 0x22)).cur = some (vcrew 0x22) ∧ (vcrew 0x22).lanes ≤ 1024 ∧
    ((vcrew 0x22).vreg 6).tag = 0x22 ∧ (∀ E r p, Unmarked (vcrew 0x22) E r p) ∧ tagReserved false 0x22 = false ∧
    Typed (vcrew 0x22) 6 (.uint 32) ∧ (∀ m, m < 5 → (Instr.vshufi ⟨0, 4, 6, BitVec.ofNat 31 (8 * 1023 + m)⟩).wf = true) := by
  refine ⟨crewAt_running _ rfl, by decide +kernel, rfl, fun _ _ _ => vcrew_unmarked _ _ _ _, rfl, ?_, by decide +kernel⟩
  unfold Typed
  rw [vcrew_vreg _ _ (by decide)]
  decide +kernel

/-- Vector loads and stores: the four lanes' addresses all pass, or one is misaligned and the lanes before it pass. -/
theorem meets_VectorLoadsAndStores :
    (let c := (vcrew 0x22).setS 1 4
     (running c).crewAt (running c).cur = some c ∧ c.count .wl < 255 ∧ c.count .ws < 255 ∧ c.lanes ≤ 1024 ∧
       (running c).stepOffsets c false 0 = .ok [0] ∧
       ∀ l, l < 4 → (running c).check c.accessor .load (BitVec.ofNat 64 l * c.sreg 1) 4 4 = .ok (.pa (4 * l) 0 here) ∧
         (running c).check c.accessor .store (BitVec.ofNat 64 l * c.sreg 1) 4 4 = .ok (.pa (4 * l) 0 here)) ∧
    (let c := (vcrew 0x22).setS 1 6
     (running c).check c.accessor .load (BitVec.ofNat 64 0 * c.sreg 1) 4 4 = .ok (.pa 0 0 here) ∧
       (running c).check c.accessor .load (BitVec.ofNat 64 1 * c.sreg 1) 4 4 = .error 1) ∧
    (let s := (running (vcrew 0x22)).onIo fun io => { io with cacheEn := true }
     s.crewAt s.cur = some (vcrew 0x22) ∧ s.io.cacheEn = true ∧ s.InTheClear ∧ Memory.wf s.mem = true) ∧
    ((7 : BitVec 4).toNat, 4, (0x22 : BitVec 8)) ∈ vectorLoadTypes ∧
    LaneOffsets (vcrew 0x22) 15 6 (fun l => (((vcrew 0x22).vreg 6).word l).setWidth 64) ∧
    LaneOffsets (vcrew 0x12) 15 6 (fun l => (((vcrew 0x12).vreg 6).word l).signExtend 64) := by
  have clear : ((running (vcrew 0x22)).onIo fun io => { io with cacheEn := true }).InTheClear := ⟨rfl, rfl⟩
  refine ⟨⟨crewAt_running _ rfl, by decide +kernel⟩, by decide +kernel, ⟨rfl, rfl, clear, rfl⟩, by decide +kernel,
    ⟨vcrew_unmarked _ _ _ _, Or.inr ⟨rfl, fun _ => rfl⟩⟩, vcrew_unmarked _ _ _ _, Or.inl ⟨rfl, fun _ => rfl⟩⟩

/-- Vector atomics: places for four words, 4 bytes apart, and for four pairs, and no marked word. -/
theorem meets_VectorAtomics :
    (running (vcrew 0x22)).memMarks = [] ∧ ((running (vcrew 0x22)).die 0).dirty = [] ∧
    (∀ l, l < 4 → (running (vcrew 0x22)).check (vcrew 0x22).accessor .atomic (BitVec.ofNat 64 (4 * l)) 4 4 = .ok (.pa (4 * l) 0 here)) ∧
    (∀ l, l < 4 → (running (vcrew 0x22)).check (vcrew 0x22).accessor .atomic 64 8 8 = .ok (.pa 64 0 here)) ∧
    (Place.pa 64 0 here).home % 8 = 0 ∧ ((vcrew 0x22).vreg 255).tag = 0x22 := by
  decide +kernel

/-- VADD of 1, 2, 3, 4 and itself, with lanes outside E kept (R113). -/
theorem test_vadd :
    (match exec (.vadd ⟨5, 4, 6, 8, 0, 0, 0, 3, 0⟩) (running ((vcrew 0x12).setM 0x45 5)) with
     | .next t => (t.crewAt CrewRef.first).map fun c => ((c.vreg 4).words.take 4, c.pc)
     | _ => none) = some ([2, 2, 6, 4], 8) := by decide +kernel
/-- P words: scalar pairs, vector pairs of two types, logic, a move, a conversion, and a load or a store beside PNOP. -/
theorem meets_PairWords :
    (running (vcrew 0x12)).crewAt (running (vcrew 0x12)).cur = some (vcrew 0x12) ∧
    (∀ f : BitVec 8, f = 4 ∨ f = 5 →
      firstType (vcrew 0x12).fmts 3 acceptAny 1 ((vcrew 0x12).vreg f.toNat).tag = .ok (.sint 32) ∧
        checkTyped (vcrew 0x12).fmts 3 (.sint 32) 2 ((vcrew 0x12).vreg f.toNat).tag = .ok () ∧
        Unmarked (vcrew 0x12) (vcrew 0x12).cur f.toNat false) ∧
    (∀ f : BitVec 8, f = 6 ∨ f = 7 →
      firstType (vcrew 0x12).fmts 0 acceptAny 1 ((vcrew 0x12).vreg f.toNat).tag = .ok (.sint 32) ∧
        checkTyped (vcrew 0x12).fmts 0 (.sint 32) 2 ((vcrew 0x12).vreg f.toNat).tag = .ok () ∧
        Unmarked (vcrew 0x12) (vcrew 0x12).cur f.toNat false) ∧
    Typed (vcrew 0x12) 5 (.sint 32) ∧ tagReserved false 0x12 = false ∧ tagIs64 0x12 = false ∧ etyType 11 0 = some (.ieee 2) ∧
    (Slot.sop ⟨1, 5, 6, 0, 0, 3⟩).toNat ≤ 16 ∧ (Slot.sop ⟨16, 5, 6, 0, 0, 11⟩).toNat ≤ 16 ∧ ((3 : BitVec 4).toNat, 32, true) ∈ integerTypes ∧
    ((8 : BitVec 4).toNat, 8, false) ∈ memoryTypes ∧
    (Instr.pWord ⟨0x11, 5, 6, 0, 0, 8⟩ ⟨0, 0, 0, 0, 0, 0⟩).wf = true ∧ (Instr.pWord ⟨0x12, 5, 6, 0, 0, 8⟩ ⟨0, 0, 0, 0, 0, 0⟩).wf = true := by
  refine ⟨crewAt_running _ rfl, ?_, ?_, ?_, by decide⟩
  · rintro f (rfl | rfl) <;> exact ⟨rfl, rfl, vcrew_unmarked _ _ _ _⟩
  · rintro f (rfl | rfl) <;> exact ⟨rfl, rfl, vcrew_unmarked _ _ _ _⟩
  · unfold Typed
    rw [vcrew_vreg _ _ (by decide)]
    decide +kernel

/-- A row of four lanes with a void one. -/
def row (tag : BitVec 8) (claimed : Option Nat) : Row :=
  { width := 4, words := [5, 6, 7, 8], void := 8, marks := 0, tag := tag, de := 0, berthTag := 0, claimed := claimed }

/-- A crew whose channels 0 and 1 hold the given rows and endpoints. -/
def queues (c : Crew) (rows0 : List Row) (end1 : Endpoint) (rows1 : List Row) : State :=
  ((running c).onChan 0 0 0 fun x => { x with rows := rows0 }).onChan 0 0 1 fun x => { x with endpoint := end1, rows := rows1 }

/-- A row that no crew has claimed behind a claimed one, the crew's own, rows of another width and of a 64-bit tag, queues
that hold nothing for the crew, a full queue, and endpoints that do not serve the word. -/
theorem meets_RowsOfChannels :
    (queues (vcrew 0x12) [row 0x12 (some 9), row 0x12 none] .rowQueue []).crewAt CrewRef.first = some (vcrew 0x12) ∧
    (let s := queues (vcrew 0x12) [row 0x12 (some 9), row 0x12 none] .rowQueue []
     (s.chan 0 0 0).endpoint = .rowQueue ∧ (s.chan 0 0 0).rows = [row 0x12 (some 9)] ++ row 0x12 none :: [] ∧
       (row 0x12 none).width = (vcrew 0x12).lanes ∧ (∀ q, q ∈ [row 0x12 (some 9)] → q.claimed ≠ none ∧ q.claimed ≠ some 0)) ∧
    (let s := queues (vcrew 0x12) [row 0x12 none, row 0x13 (some 0)] .drainPort []
     (s.chan 0 0 0).rows = [row 0x12 none] ++ row 0x13 (some 0) :: [] ∧ (row 0x13 (some 0)).claimed = some (vcrew 0x12).uid ∧
       tagReserved false 0x13 = false ∧ tagIs64 0x13 = true ∧ (s.chan 0 0 1).endpoint = .drainPort) ∧
    (let s := queues (vcrew 0x12) [{ row 0x12 none with width := 5 }] (.lockOut 3) []
     (s.chan 0 0 0).rows = [] ++ { row 0x12 none with width := 5 } :: [] ∧ { row 0x12 none with width := 5 }.width ≠ (vcrew 0x12).lanes ∧
       (s.chan 0 0 1).endpoint = .lockOut 3) ∧
    (let s := queues (vcrew 0x12) [row 0x12 (some 9)] .rowQueue (List.replicate 8 (row 0x12 none))
     (∀ q, q ∈ (s.chan 0 0 0).rows → q.claimed ≠ none ∧ q.claimed ≠ some (vcrew 0x12).uid) ∧
       (s.chan 0 0 1).endpoint = .rowQueue ∧ 8 ≤ (s.chan 0 0 1).rows.length) ∧
    tagReserved false 0x12 = false ∧ tagIs64 0x12 = false := by
  refine ⟨rfl, ?_⟩
  decide +kernel

/-- An elementwise word with a row as a, with a channel as d, and with both. -/
theorem meets_RowOperands :
    (let s := queues (vcrew 0x12) [row 0x12 none] .rowQueue []
     s.crewAt s.cur = some (vcrew 0x12) ∧ (s.chan 0 0 0).endpoint = .rowQueue ∧ (s.chan 0 0 0).rows = row 0x12 none :: [] ∧
       (row 0x12 none).width = (vcrew 0x12).lanes ∧ (row 0x12 none).claimed = none ∧ (s.chan 0 0 1).endpoint = .rowQueue ∧
       (s.chan 0 0 1).rows.length < 8) ∧
    fnQA ⟨0, 4, 0x70, 6, 0, 0, 0, 0, 0x10⟩ = true ∧ fnQD ⟨0, 0x71, 5, 6, 0, 0, 0, 0, 0x20⟩ = true ∧
    firstType (vcrew 0x12).fmts 0 acceptAny 1 (row 0x12 none).tag = .ok (.sint 32) ∧
    checkTyped (vcrew 0x12).fmts 0 (.sint 32) 2 ((vcrew 0x12).vreg 6).tag = .ok () ∧ Unmarked (vcrew 0x12) 7 6 false ∧
    (∀ l, l < 4 → (row 0x12 none).marks.getLsbD l = false) ∧ (ElemTy.sint 32).isInt = true ∧ (ElemTy.sint 32).is64 = false :=
  ⟨⟨rfl, by decide +kernel⟩, rfl, rfl, rfl, rfl, vcrew_unmarked _ _ _ _, by decide +kernel, rfl, rfl⟩

/-- A linear copy of 64 bytes from address 64 to 128. -/
def job : CopyJob :=
  { kind := .linear, dst := 128, src := 64, len := 64, off := 0, bad := false, op := some { uid := 0, ticket := 0 }
    agent := Agent.reset, after := [], chunk := none }

/-- CPY with room, without, with a length of 2^40 or more, and from an unmapped address; a channel's write pointer that has
been reached, that has not, and one that stands stopped; each endpoint; engines in each state. -/
theorem meets_CopiesAndStreams :
    Issues (running crew) crew 0 ∧ crew.count .wc < 255 ∧ ((running crew).chan 0 0 0).jobs.length < 8 ∧
    (running crew).chunkPlaces job 0 64 = .ok ([(.pa 64 0 here, 64)], [(.pa 128 0 here, 64)]) ∧
    (running crew).chunkPlaces { job with src := 65536 } 0 64 = .error (4, 65536) ∧ 2 ^ 40 ≤ ((crew.setS 1 (2 ^ 40)).sreg 1).toNat ∧
    255 ≤ Crew.count { crew with ops := List.replicate 255 ⟨.wc, 0, false, false⟩ } .wc ∧
    crew.sreg 1 ≤ ((running crew).chan 0 0 3).wp ∧ ((running crew).chan 0 0 3).wp < (crew.setS 1 5).sreg 1 ∧
    ((running crew).chan 0 0 3).halted = false ∧
    (let s := (running crew).onChan 0 0 3 fun x => { x with halted := true }
     (s.chan 0 0 3).halted = true) ∧
    (let s := ((running crew).onChan 0 0 1 fun x => { x with endpoint := .stream 2 }).onStream 0 0 2 fun x =>
       { x with state := .running, ctl := 8, rows := [row 0x12 none] }
     (s.chan 0 0 1).endpoint = .stream 2 ∧ (s.stream 0 0 2).state = .running ∧ (s.stream 0 0 2).isWrite = true ∧
       (s.stream 0 0 2).rows ≠ []) ∧
    ((running crew).stream 0 0 2).state = .idle ∧ ((running crew).chan 0 0 1).endpoint = .rowQueue ∧
    etyType Shape.unit.ty 0 = none ∧
    etyType (4 : BitVec 4) 0 = some (.sint 64) ∧ tagReserved false (BitVec.ofNat 8 (0x128 / 16)) = false ∧ 0x128 < 4096 := by
  refine ⟨issues_running _ _ rfl (by decide +kernel), ?_⟩
  decide +kernel

/-- A chunk that ends its copy, one that does not, one that fails its checks, and a copy into a tile buffer. -/
theorem meets_EngineSteps_copies :
    (let s := (running crew).onChan 0 0 3 fun x => { x with jobs := [job] }
     s.InTheClear ∧ Memory.wf s.mem = true ∧ s.memMarks = [] ∧ (s.die 0).dirty = [] ∧ s.coreStopped 0 0 = false ∧
       (s.chan 0 0 3).jobs = job :: [] ∧ job.bad = false ∧ s.copyWindow job.agent = none ∧
       s.chunkPlaces job job.off 64 = .ok ([(.pa 64 0 here, 64)], [(.pa 128 0 here, 64)]) ∧
       (s.spanBytes 0 [(.pa 64 0 here, 64)]).length = 64 ∧ 64 = min 4096 (job.len - job.off) ∧ job.len ≤ job.off + 64) ∧
    (let j := { job with len := 5000 }
     let s := (running crew).onChan 0 0 3 fun x => { x with jobs := [j] }
     (s.chan 0 0 3).jobs = j :: [] ∧ s.chunkPlaces j 0 4096 = .ok ([(.pa 64 0 here, 4096)], [(.pa 128 0 here, 4096)]) ∧
       4096 = min 4096 (j.len - j.off) ∧ ¬(j.len ≤ j.off + 4096)) ∧
    (let j := { job with src := 65536 }
     let s := (running crew).onChan 0 0 3 fun x => { x with jobs := [j] }
     s.coreStopped 0 0 = false ∧ (s.chan 0 0 3).jobs = j :: [] ∧ j.kind = .linear ∧
       s.chunkPlaces j j.off (min 4096 (j.len - j.off)) = .error (4, 65536)) ∧
    (let j := { job with kind := .tld 3, dst := bufferAddr 0 0 3, len := 16384 }
     let s := resident shaped ((running crew).onChan 0 0 3 fun x => { x with jobs := [j] })
     (s.chan 0 0 3).jobs = j :: [] ∧ j.after = [] ∧
       s.chunkPlaces j 0 4096 = .ok ([(.pa 64 0 here, 4096)], [(.chip (bufferAddr 0 0 3).toNat, 4096)])) := by
  refine ⟨⟨⟨rfl, rfl⟩, ?_⟩, ?_⟩
  · decide +kernel
  · decide +kernel

/-- A read stream that runs over four points, a write stream with one row, and an operation that has been performed. -/
theorem meets_EngineSteps_streams :
    (let x : Stream := { Stream.reset with state := .running, base := 64, shape := { ty := 3, ext := [4, 1, 1, 1], stride := [1, 0, 0, 0] }
                                           ctl := 0x120, width := 4 }
     let s := (running crew).onStream 0 0 2 fun _ => x
     s.stream 0 0 2 = x ∧ x.isWrite = false ∧ x.rows.length < 4 ∧ s.coreStopped 0 0 = false ∧
       s.pointPlaces x .read [0, 1, 2, 3] = .ok [.pa 64 0 here, .pa 68 0 here, .pa 72 0 here, .pa 76 0 here] ∧
       ((List.range x.width).filterMap fun l => if x.next + l < x.shape.points then some (x.next + l) else none) = [0, 1, 2, 3]) ∧
    (let x : Stream := { Stream.reset with state := .done, base := 64, shape := { ty := 3, ext := [4, 1, 1, 1], stride := [1, 0, 0, 0] }
                                           ctl := 0x128, width := 4, rows := [{ row 0x12 none with void := 0 }] }
     let s := (running crew).onStream 0 0 2 fun _ => x
     s.stream 0 0 2 = x ∧ x.isWrite = true ∧ x.rows = [{ row 0x12 none with void := 0 }] ∧ x.tails = [] ∧
       s.pointPlaces x .write [0, 1, 2, 3] = .ok [.pa 64 0 here, .pa 68 0 here, .pa 72 0 here, .pa 76 0 here]) ∧
    (let c : Crew := { crew with ops := [⟨.ws, 1, false, false⟩, ⟨.wl, 2, true, true⟩, ⟨.wl, 3, true, false⟩] }
     c.ops = [⟨.ws, 1, false, false⟩] ++ ⟨.wl, 2, true, true⟩ :: [⟨.wl, 3, true, false⟩] ∧
       (running c).findCrew c.uid = some c) := by
  refine ⟨?_, ?_, rfl, rfl⟩
  · decide +kernel
  · decide +kernel
/-- A crew whose tile handles are bound to buffer 3 under a tag. -/
def tcrew (tag : BitVec 8) : Crew := { crew with tiles := Vector.replicate 64 { bound := true, buf := 3, tag := tag } }

/-- A crew on a core of a resident region, whose matrix engine stands as given. -/
def engine (c : Crew) (f : Matrix → Matrix) : State :=
  (resident shaped (running c)).onCore 0 0 fun k => { k with matrix := f k.matrix }

/-- A command as a queue holds it. -/
def entry (cmd : MatCmd) : MatEntry := { cmd := cmd, op := { uid := 0, ticket := 0 }, agent := Agent.reset, stores := [], loads := [], bad := false, begun := false }

/-- Matrix words with and without room, baton and bound handles; I8 and F64 tiles at both ends of K; both modes of a pair; a
channel that DRAIN can bind. -/
theorem meets_MatrixCommands :
    Issues (engine (tcrew 0x10) fun x => { x with baton := some 0 }) (tcrew 0x10) 0 ∧
    (tcrew 0x10).count .wm < 255 ∧ ((engine (tcrew 0x10) id).core 0 0).matrix.queue.length < 8 ∧
    ¬(((engine (tcrew 0x10) fun x => { x with queue := List.replicate 8 (entry (.trel 0 true)) }).core 0 0).matrix.queue.length < 8) ∧
    ((engine (tcrew 0x10) id).core 0 0).matrix.baton ≠ some 0 ∧ ((tcrew 0x10).tile 0xA4).bound = true ∧
    (crew.tile 0xA4).bound = false ∧
    (tagReserved true 0x10 = false ∧ (ElemTy.sint 8).width = 8 ∧ tagClass 0x10 ≠ 0 ∧ tagType 0x10 = some (.sint 8) ∧
      (ElemTy.sint 8).widMismatch crew.fmts = false ∧ tagScaled 0x10 = (tcrew 0x10).sca.isSome) ∧
    (tagReserved true 0x33 = false ∧ (ElemTy.ieee 3).isInt = false ∧ tagType 0x33 = some (.ieee 3) ∧ tagScaled 0x33 = false) ∧
    (1 ≤ 1 ∧ 256 * (ElemTy.sint 8).width ≤ 2048 ∧ 32 * (ElemTy.ieee 3).width ≤ 2048 ∧ 8128 % 64 = 0 ∧ 8128 + 64 ≤ 8192) ∧
    (((engine (tcrew 0x10) id).core 0 0).matrix.f64Modes[0]?).getD false = false ∧
    (((engine (tcrew 0x10) fun x => { x with f64Modes := Vector.replicate 2 true }).core 0 0).matrix.f64Modes[1]?).getD false = true ∧
    etyType 11 0 = some (.ieee 2) ∧ etyType 13 2 = some (.narrow8 2) ∧
    ((engine (tcrew 0x10) id).chan 0 0 6).endpoint = .rowQueue ∧ ((engine (tcrew 0x10) id).chan 0 0 6).rows = [] ∧
    ((engine (tcrew 0x10) id).core 0 0).matrix.drainChan = none := by
  refine ⟨⟨rfl, by decide +kernel⟩, ?_⟩
  decide +kernel

/-- Handles of scale tiles, a buffer of the region and one of none, places for 4,096 bytes, and every state of the baton. -/
theorem meets_TilesBatonAndLeave :
    Issues (engine (tcrew 0x60) fun x => { x with baton := some 0 }) (tcrew 0x60) 0 ∧ ((tcrew 0x60).tile 0xA0).tag = 0x60 ∧
    (engine { crew with buffers := [5] } id).holdsBuffer 0 0 0 5 = true ∧ (engine { crew with region := 9 } id).holdsBuffer 0 0 9 5 = false ∧
    256 ≤ ((crew.setS 1 256).sreg 1).toNat ∧ crew.count .wc < 255 ∧ ((engine crew id).chan 0 0 2).jobs.length < 8 ∧
    (engine crew id).spanPlaces crew.accessor .read 4096 4096 = .ok [(.pa 4096 0 here, 4096)] ∧
    (engine crew id).spanPlaces crew.accessor .write 4096 4096 = .ok [(.pa 4096 0 here, 4096)] ∧
    ((engine crew fun x => { x with baton := some 2 }).core 0 0).matrix.baton = some 2 ∧
    ((engine crew fun x => { x with batonNext := some none }).core 0 0).matrix.batonNext = some none ∧
    ((engine crew fun x => { x with batonNext := some (some 3) }).core 0 0).matrix.batonNext = some (some 3) ∧
    ((engine crew id).core 0 0).matrix.baton = none ∧ (4 ≤ ((crew.setS 1 4).sreg 1).toNat) ∧
    2 ^ 24 < ((crew.setS 1 (2 ^ 24 + 1)).sreg 1).toNat ∧ ((crew.setS 1 (2 ^ 24)).sreg 1).toNat ≤ 2 ^ 24 ∧
    ((engine crew id).die 0).gov.queue = [] ∧ etyType 13 5 = some (.narrow8 5) := by
  refine ⟨⟨rfl, by decide +kernel⟩, ?_⟩
  decide +kernel

/-- An MMA of 16 columns of I8 tiles in buffers 3 and 4. -/
def mma : MmaCmd :=
  { acc := 1, f64 := false, aBuf := 3, bBuf := 4, aTag := 0x10, bTag := 0x10, aFmt := 0, bFmt := 0, sca := none, scb := none
    k := 16, k0 := 0, zero := true, clears := false, chunk := 0 }

/-- That MMA in flight after some groups. -/
def inFlight (group : Nat) : MmaRun :=
  { entry := entry (.mma mma), group := group, shadow := [], shadowHi := [], rerun := false, poisoned := false, half := false }

/-- A drain of accumulator 1 as F32 rows of four lanes. -/
def drain : DrainCmd :=
  { acc := 1, f64 := false, chan := 6, ety := 11, fmtIndex := 0, fmt := 0, rnd := 0, sat := false, z := false, width := 4, row := 0
    berthTag := 0 }

/-- Each command at the head of a free engine's queue; a group to run with full buffers, and at the end of its burst; a chunk whose
groups have run, as the last one and not; a drain at work; a governor that grants and one that does not. -/
theorem meets_MatrixEngineSteps :
    (engine crew id).coreStopped 0 0 = false ∧
    (∀ cmd, cmd ∈ [MatCmd.mma mma, .accz 1 false false, .trel 3 true, .drain drain] →
      ((engine crew fun x => { x with queue := [entry cmd] }).core 0 0).matrix.queue = entry cmd :: []) ∧
    (let s := (engine crew fun x => { x with running := some (inFlight 0) }).onCore 0 0 fun k => { k with full := 24 }
     (s.core 0 0).matrix.running = some (inFlight 0) ∧ tagType mma.aTag = some (.sint 8) ∧
       (inFlight 0).group < (min 256 (mma.k - 256 * mma.chunk) + 15) / 16 ∧ s.isFull 0 0 3 = true ∧ s.isFull 0 0 4 = true ∧
       (inFlight 0).entry.loads = [] ∧ s.memMarks = [] ∧ (s.core 0 0).matrix.burst < 2048 ∧ s.coreStopped 0 0 = false) ∧
    (2048 ≤ ((engine crew fun x => { x with running := some (inFlight 0), burst := 2048 }).core 0 0).matrix.burst) ∧
    (mma.groups ≤ (inFlight 1).group ∧ mma.k ≤ 256 * (mma.chunk + 1) ∧ 256 * (mma.chunk + 1) < { mma with k := 257 }.k ∧
      ((engine crew fun x => { x with running := some (inFlight 1) }).core 0 0).matrix.running = some (inFlight 1)) ∧
    (let m := ((engine crew fun x => { x with drainActive := some (entry (.drain drain)) }).core 0 0).matrix
     m.drainActive = some (entry (.drain drain)) ∧ m.running = none ∧ m.drainRows.length < 8 ∧ etyType drain.ety drain.fmtIndex = some (.ieee 2) ∧
       (m.acc 1).poison = false) ∧
    ((engine crew id).die 0).gov.queue = [] ∧
    (let s := (engine crew id).onDie 0 fun x => { x with gov := { x.gov with depth := 20000, bucket := 512 * 16384
                                                                             queue := [⟨.engine 0, 16384, 0⟩] } }
     (s.die 0).gov.queue = [{ who := .engine 0, amount := 16384, since := 0 }] ∧
       512 * 16384 ≤ min (512 * (s.die 0).gov.depth.toNat) ((s.die 0).gov.bucket + 0 + 512 * (s.die 0).gov.returned)) ∧
    (let g := { Governor.reset with queue := [⟨.carousel, 5, 0⟩] }
     g.queue = ⟨.carousel, 5, 0⟩ :: [] ∧ g.bucket < 512 * 5 ∧ ∀ a, a ∈ g.queue → a.who = .carousel) := by
  decide +kernel

/-- References to a held barge by row and by record, to a record of another die, to none, and to an empty row; each writable
field, with a value that it refuses; a declared lock and an undeclared one. -/
theorem meets_BargeWords :
    (let c := holder.setS 1 0x8000000000000000
     HoldsBarge c (c.sreg 1) 0 5) ∧
    (let c := holder.setS 1 0x4000000000000005
     HoldsBarge c (c.sreg 1) 0 5) ∧
    FieldWrite barge 2 0xFFFFFFFF { barge with pos := 0xFFFFFFFF } ∧ FieldWrite { barge with kind := 2 } 3 1 { barge with kind := 1 } ∧
    FieldWrite barge 10 0xC000000000000080 { barge with payload := 0xC000000000000080 } ∧ (¬∃ b', FieldWrite barge 9 256 b') ∧
    Issues (holding 1) holder 0 ∧
    (holding 1).barge 0 5 = some barge ∧ (holding 1).barge 3 65535 = none ∧ barge.marked = false ∧
    holder.sreg 1 = 0 ∧ holder.held[31]? = none ∧ holder.held[(0x160 : BitVec 31).toNat % 32]? = some (some 5) ∧
    ((holding 1).die 0).lock 3 2 = none ∧ ((holding 1).die 0).lockDir = [] ∧ 2 ^ 32 ≤ ((holder.setS 1 (2 ^ 32)).sreg 1).toNat ∧
    (holding 1).check holder.accessor .atomic 64 8 8 = .ok (.pa 64 0 here) ∧ holder.count .wg < 255 := by
  refine ⟨⟨rfl, Or.inl ⟨by decide, by decide +kernel⟩⟩, ⟨rfl, Or.inr ⟨by decide, by decide, by decide +kernel, by omega⟩⟩, ?_, ?_, ?_, ?_,
    ⟨rfl, by decide +kernel⟩, by decide +kernel⟩
  · exact Or.inl ⟨rfl, by decide, by decide +kernel⟩
  · exact Or.inr (Or.inl ⟨rfl, rfl, rfl, rfl⟩)
  · exact Or.inr (Or.inr (Or.inr (Or.inr (Or.inr (Or.inl ⟨rfl, by decide, by decide +kernel, rfl⟩)))))
  · rintro ⟨b', h⟩
    simp [FieldWrite] at h

/-- A lock record's configuration as a region loads it, with a canal of 1,024 entries. -/
def lock : Lock :=
  { index := 2, recordAddr := 0x1000, fill := 4, timeout := 0, phen := false, pseg := 0, outq := 0, pgen := false, pgid := 0
    pgph := false, canalBase := 0x8000, canalSize := 65536, head := 0, tail := 0, canal := 0, slots := [], fires := 0, nextTag := 0
    pendPh := false, fillF := 0, toF := 0, phF := 0, phDrop := 0, blocked := 0, poisoned := 0, phaseEvent := false, discarding := none }

/-- The region with that lock, as it stands. -/
def locked (x : Lock) : RegionCfg := { shaped with locks := [x] }

/-- A lock of this die with room, one with a full canal, a lock of another die, and an undeclared one. -/
theorem meets_BoardingWords :
    (let s := resident (locked lock) (holding 1)
     (s.die 0).lock 0 2 = some lock ∧ ((s.die 0).declaredLock 0 2).isSome = true ∧ lock.canal = 0 ∧ lock.slots.length < 1024 ∧
       s.barge 0 5 = some barge ∧ barge.adapt = 0 ∧ (s.die 0).freeRecord = some 0 ∧ barge.gen ≠ 15 ∧
       (s.die 0).declaredLock 0 0 = none) ∧
    Issues (resident (locked lock) (holding 1)) holder 0 ∧
    (let x := { lock with canal := 1024 }
     ((resident (locked x) (holding 1)).die 0).lock 0 2 = some x ∧ x.discarding = none ∧ x.canalSize / 64 ≤ x.canal ∧ x.canal ≠ 0) ∧
    (let s := (holding 1).onDie 3 fun x => { x with
       regions := [⟨locked lock, [0], [], .running, 0⟩], part := some ⟨0, [locked lock], [], [], []⟩ }
     (s.die 3).lock 0 2 = some lock ∧ ((s.die 3).declaredLock 0 2).isSome = true ∧ (s.die 0).dirty = [] ∧ (s.die 0).sent = []) ∧
    (holder.setS 2 (3 * 2 ^ 12 + 2)).sreg 2 = BitVec.ofNat 64 (3 * 2 ^ 12 + 0 * 2 ^ 4 + 2) ∧
    (0x8000000000000000 : W64).toNat % 128 = 0 := by
  refine ⟨?_, ⟨rfl, by decide +kernel⟩, ?_⟩
  · decide +kernel
  · decide +kernel
theorem noLog_resident (cfg : RegionCfg) (c : Crew) (h : c.place = CrewRef.first) : (resident cfg (running c)).NoLog := by
  cases c; cases h
  refine noLog_of_five _ fun d h => ?_
  interval_cases d <;> rfl

/-- FIRE of 0, 1 and 65,536 tokens to places that pass and that fail; NSTATE with and without messages in flight; RANGE of a
source and of none, with an engine bound; KILLPT by crews without a weir, with this one, notified, and with another. -/
theorem meets_GraphAndWeirWords :
    Issues (running crew) crew 0 ∧ crew.count .wg < 255 ∧ ((running crew).die 0).dirty = [] ∧ (running crew).io.remote = [] ∧
    (running crew).remoteWindow 128 = none ∧ ((crew.setS 1 65536).sreg 1).toNat = 65535 + 1 ∧
    (running crew).check crew.accessor .atomic 128 8 128 = .ok (.pa 128 0 here) ∧
    (running crew).check crew.accessor .atomic 64 8 128 = .error 1 ∧ (running crew).check crew.accessor .load 128 8 128 = .ok (.pa 128 0 here) ∧
    BitVec.ofInt 64 ((crew.sreg 0).toInt + 128 * (1 : BitVec 31).toInt) = 128 ∧
    (running crew).flight.posts = [] ∧ (running crew).flight.weirs ++ (running crew).flight.arrived = [] ∧
    ((running crew).core 0 0).weirCopies = [] ∧ ((running crew).die 0).part = none ∧
    (let src : RangeSource := { addr := 0, first := 0, limit := 10, grain := 4, next := 8, base := 0, bstep := 64 }
     let s := (((resident shaped (running crew)).onDie 0 fun x => { x with part := some ⟨0, [], [], [src], []⟩ }).onChan 0 0 1 fun x =>
       { x with endpoint := .stream 2 }).onStream 0 0 2 fun x => { x with chan := some 1, ctl := 0x122, shape := { Shape.unit with ty := 3 } }
     ((s.die 0).part.map Partition.sources) = some [src] ∧ min src.grain (src.limit - src.next) = 2 ∧
       (s.chan 0 0 1).endpoint = .stream 2 ∧ (s.stream 0 0 2).state ≠ .running ∧ (s.stream 0 0 2).chan = some 1 ∧
       (s.stream 0 0 2).ctl.toNat % 8 = 2 ∧ etyType (s.stream 0 0 2).shape.ty 0 = some (.sint 32)) ∧
    crew.weir = none ∧
    (let b : WeirBinding := { record := 128, home := 128, slot := 3, notice := true }
     { crew with weir := some b }.weir = some { record := (128 : W64), home := 128, slot := (3 : W64).toNat, notice := true } ∧
       ¬(b.record = 256 ∧ b.slot = 3)) := by
  refine ⟨issues_running _ _ rfl (by decide +kernel), ?_⟩
  decide +kernel

/-- BAR with its counts at their limits, as the first and as the last of its generation, for a core and for a region; XBAR on a
place that passes and one that fails; PHASE at both ends of its count; a recording with room; a traced region with and without
room; BRK in a region that stops and in one that runs. -/
theorem meets_BarriersAndMarkers :
    Issues (resident shaped (running crew)) crew 0 ∧ 15 < ((crew.setS 1 16).sreg 1).toNat ∧
    ((resident shaped (running crew)).core 0 0).barriers[15]? = some { expected := 0, arrived := 0, gen := 0 } ∧
    (let s := (resident shaped (running crew)).onCore 0 0 fun k =>
       { k with barriers := k.barriers.setIfInBounds 3 { expected := 4, arrived := 3, gen := 9 } }
     (s.core 0 0).barriers[3]? = some { expected := 4, arrived := 3, gen := 9 } ∧ 3 + 1 = 4) ∧
    (let s := (resident shaped (running crew)).onRegion 0 0 fun r => { r with barriers := List.replicate 16 { expected := 256, arrived := 255, gen := 0 } }
     ((s.die 0).region 0).bind (fun r => r.barriers[15]?) = some { expected := 256, arrived := 255, gen := 0 }) ∧
    (running crew).check crew.accessor .atomic 256 256 256 = .ok (.pa 256 0 here) ∧
    (running crew).check crew.accessor .atomic 128 256 256 = .error 1 ∧
    ((crew.setS 1 (1024 * 2 ^ 16 + 1)).sreg 1).toNat / 2 ^ 16 = 1024 ∧ ((crew.setS 1 (1025 * 2 ^ 16)).sreg 1).toNat / 2 ^ 16 = 1025 ∧
    ((running crew).recorderOf 0).mode = 0 ∧
    (let s := (running crew).onDie 0 fun x => { x with recorder := { x.recorder with mode := 1, logSize := 16, logBase := 4096 } }
     (s.die 0).recorder.mode = 1 ∧ (s.die 0).recorder.stall = false ∧ (s.die 0).recorder.ended = false ∧
       ((s.die 0).recorder.logTail.toNat + 2) % (s.die 0).recorder.logSize.toNat ≠ (s.die 0).recorder.logHead.toNat ∧
       Memory.wf s.mem = true ∧ s.InTheClear) ∧
    ((running crew).die 0).traces 0 = false ∧
    (∀ head, head ∈ [0, 1] →
      let s := (resident shaped (running crew)).onDie 0 fun x =>
        { x with dbg := { x.dbg with traceEn := true, traceMap := 1, traceSize := 16, traceHead := BitVec.ofNat 16 head } }
      (s.die 0).traces 0 = true ∧ s.regionKey 0 0 = 0 ∧ (((s.die 0).dbg.traceTail.toNat + 1) % (s.die 0).dbg.traceSize.toNat =
        (s.die 0).dbg.traceHead.toNat ↔ head = 1)) ∧
    ((running crew).die 0).dbg.stopMap.getLsbD 0 = false ∧
    (let s := (resident shaped (running crew)).onDie 0 fun x => { x with dbg := { x.dbg with stopMap := 1 } }
     ((s.die 0).region 0).map Region.phase = some .running ∧ (s.die 0).dbg.stopMap.getLsbD 0 = true ∧ s.confidential 0 shaped = false ∧
       (s.die 0).collector = none ∧ (s.die 0).collectQueue = []) := by
  refine ⟨⟨rfl, by decide +kernel⟩, ?_⟩
  unfold State.InTheClear
  decide +kernel

/-- An arrival at lock 2 of region 0, of the barge in a record or of one without. -/
def arrival (record : Option Nat) : Arrival :=
  { die := 0, region := 0, lock := 2, record := record, barge := barge, op := none, fromRegion := none, sender := .core 0 0
    cid := 0, credit := none, answer := none, redirected := true, by_ := 0, waiting := false }

/-- Such arrivals at a lock that stands as given. -/
def arriving (x : Lock) (as_ : List Arrival) : State :=
  (resident (locked x) (holding 1)).onFlight fun f => { f with arrivals := as_ }

/-- A lock whose canal stands in the die's basin. -/
def canalLock : Lock := { lock with canalBase := 0xB000000000008000, canal := 1 }

/-- Arrivals with and without a record, behind another of the same sender, at a lock with a slot, with a sibling in it, with a
canal entry, with a full canal, one that discards, one of an absent region; and refills. -/
theorem meets_LocksTakeArrivals :
    (arriving lock [arrival (some 5)]).flight.arrivals[0]? = some (arrival (some 5)) ∧
    ((arriving lock [arrival (some 5)]).die 0).lock 0 2 = some lock ∧ lock.discarding = none ∧ lock.canal = 0 ∧
    ((arriving lock [arrival none]).die 0).freeRecord = some 0 ∧
    ((arriving lock [arrival (some 5), arrival none]).flight.arrivals[1]?.map Arrival.sender) =
      ((arriving lock [arrival (some 5), arrival none]).flight.arrivals[0]?.map Arrival.sender) ∧
    (let x := { lock with slots := [{ record := 4, entry := 7, by_ := 0 }] }
     let s := (arriving x [arrival (some 5)]).putBarge 0 4 { barge with sgroup := 6 }
     s.barge 0 4 = some { barge with sgroup := 6 } ∧ (s.die 0).lock 0 2 = some x ∧ x.slots = [] ++ ⟨4, 7, 0⟩ :: []) ∧
    ((arriving canalLock [arrival (some 5)]).die 0).lock 0 2 = some canalLock ∧ canalLock.canal < canalLock.canalSize / 64 ∧
    (arriving canalLock []).sysPlace ((arriving canalLock []).die 0).regs.latchedRoot false
      (canalLock.canalBase + BitVec.ofNat 64 (64 * canalLock.tail)) = .ok (.chip 0xB000000000008000) ∧
    ((arriving { canalLock with canal := 1024 } []).die 0).lock 0 2 = some { canalLock with canal := 1024 } ∧
    ((arriving { lock with discarding := some 2 } []).die 0).lock 0 2 = some { lock with discarding := some 2 } ∧
    (let s := (holding 1).onDie 0 fun x => { x with lockDir := [(0, 2, 0xB000000000001000)] }
     (s.die 0).recordOf 0 2 = some 0xB000000000001000 ∧ (s.die 0).lock 0 2 = none ∧ (s.die 0).discarding = []) ∧
    (arriving canalLock []).homeMarked (.chip 0xB000000000008000) 64 = false ∧ canalLock.slots.length < 1024 ∧
    ((arriving canalLock []).die 0).dirty = [] ∧ Memory.wf (arriving canalLock []).mem = true ∧
    ((arriving lock []).die 0).regs.swapping = false ∧ ((arriving lock []).die 0).faults.fatal = none := by
  decide +kernel

/-- A lock with slots filled, and what it may fire by. -/
def filled (n fill timeout : Nat) (phase : Bool) : Lock :=
  { lock with slots := (List.range n).map fun i => { record := i, entry := 0, by_ := 0 }, fill := fill, timeout := timeout, phen := true
              pendPh := phase }

/-- A lock without a cause to fire; one with each of the three causes; one whose buffer is held; a tile of a readable payload, a
tile that would cut a sample group, and a poisoned and an unreadable barge alone. -/
theorem meets_LocksFireTiles :
    (∀ x, x ∈ [filled 0 4 0 true, filled 2 4 0 false, filled 4 4 0 false, filled 2 4 0 true, filled 2 4 1 false] →
      let s := arriving x []
      (s.die 0).lock 0 2 = some x ∧ ((s.die 0).region 0).map Region.phase = some .running ∧ (s.die 0).traces 0 = false) ∧
    (filled 4 4 0 false).fill ≤ (filled 4 4 0 false).slots.length ∧ (filled 2 4 0 true).pendPh = true ∧
    (filled 2 4 1 false).timeout ≤ 5 - (((filled 2 4 1 false).slots.head?.map LockSlot.entry).getD 0) ∧
    (let c := { holder with lockBuf := some (255 - 4 * 2 - 0) }
     ((resident (locked (filled 4 4 0 false)) (running c)).core 0 0).crews.map Crew.lockBuf = [some 247]) ∧
    (let s := ((((arriving (filled 4 3 0 false) []).putBarge 0 0 barge).putBarge 0 1 { barge with sgroup := 6 }).putBarge 0 2
       { barge with sgroup := 6 }).putBarge 0 3 { barge with sgroup := 6 }
     s.barge 0 0 = some barge ∧ s.payloadFault 0 0 0 barge.payload = none ∧ barge.flags.getLsbD 0 = false ∧
       s.barge 0 2 = some { barge with sgroup := 6 } ∧ s.barge 0 3 = some { barge with sgroup := 6 } ∧
       ((filled 4 3 0 false).slots.take 3).length = 3) ∧
    (arriving (filled 1 1 0 false) []).payloadFault 0 0 0 1 = some 1 ∧ (arriving (filled 1 1 0 false) []).payloadFault 0 0 0 65536 = some 2 ∧
    ((arriving (filled 1 1 0 false) []).die 0).regs.poisonSize ≠ 0 := by
  decide +kernel

/-- A handler of 32 lanes that any tag starts from channel 1. -/
def handler : Handler :=
  { index := 0, entry := 0x100, enable := true, tag := none, chan := 1, lanes := 32, regs := 4, tiles := 2, priv := 64, preds := [] }

/-- A region with that handler on core 0, with a token at the handler's channel. -/
def startable (ts : List Token) : State :=
  (resident { shaped with handlers := [handler], privPool := 4096 } State.reset).onChan 0 0 1 fun x => { x with tokens := ts }

/-- A core that may start a firing and a launch; one with no head to start; a row at the head; a poison ring with and without room. -/
theorem meets_HandlersStart :
    (∀ t, t ∈ [Token.firing 2 3 1 [5, 6] 64 247, .start 1 { node := 0xB000000000000080, queue := 0, advance := 0 }] →
      let s := startable [t]
      (s.core 0 0).region = some 0 ∧ ((s.die 0).region 0).map Region.phase = some .running ∧ (s.chan 0 0 1).tokens = t :: [] ∧
        (s.core 0 0).crew (Head.tag (.token t)) = none ∧ Head.tag (.token t) < 4 ∧
        ((s.die 0).region 0).bind (fun r => s.footprint 0 0 r handler) = some ([0, 1], 0)) ∧
    (startable []).headOf 0 0 1 = none ∧
    (let s := (startable []).onChan 0 0 1 fun x => { x with rows := [{ row 0x12 none with width := 32 }] }
     (s.rowsOf 0 0 1)[0]? = some { row 0x12 none with width := 32 } ∧ (s.chan 0 0 1).tokens = [] ∧ (row 0x12 none).berthTag < 4) ∧
    (let s := (holding 4).onDie 0 fun x => { x with handedOn := [{ record := 5, seq := 0, lockRef := 0 }] }
     (s.die 0).handedOn = { record := 5, seq := 0, lockRef := 0 } :: [] ∧ s.barge 0 5 = some barge ∧ barge.landing = none ∧
       ((s.die 0).regs.poisonTail.toNat + 1) % (s.die 0).regs.poisonSize.toNat ≠ (s.die 0).regs.poisonHead.toNat) ∧
    (((holding 1).die 0).regs.poisonTail.toNat + 1) % ((holding 1).die 0).regs.poisonSize.toNat =
      ((holding 1).die 0).regs.poisonHead.toNat := by
  decide +kernel
/-- A packet for lock 2 of region 0 of die 0, and the credit that it holds. -/
def packet (src : Nat) : Packet :=
  { dst := 0, target := 2, srcDie := src, pseq := 1, barge := barge, op := none, cid := 0, clock := Vector.replicate 5 0, evseq := 7 }

/-- A packet that waits behind one of its path and one that does not, to a declared lock, to an undeclared one, and to a die
that has written a fatal record; a credit that its sender holds and one that it does not. -/
theorem meets_PacketsWithinThePackage :
    (let s := (arriving lock []).onFlight fun f => { f with packets := [packet 1, packet 1, packet 2] }
     s.flight.packets[0]? = some (packet 1) ∧ s.flight.packets[1]? = some (packet 1) ∧ s.flight.packets[2]? = some (packet 2) ∧
       ((s.die 0).declaredLock ((packet 1).target.toNat / 16 % 256) ((packet 1).target.toNat % 16)).isSome = true ∧
       (s.die 0).faults.fatal = none) ∧
    (let s := (holding 1).onFlight fun f => { f with packets := [packet 1] }
     (s.die 0).declaredLock 0 2 = none ∧ (s.die 0).freeRecord = some 0 ∧ (s.die 0).regs.poisonSize ≠ 0) ∧
    (let c : CreditMsg := { sender := 0, target := 3, pseq := 1 }
     let e : SentBarge := { pkg := none, die := 3, region := 0, op := { uid := 0, ticket := 0 }, pseq := 1 }
     let s := ((running crew).onFlight fun f => { f with credits := [c] }).onDie 0 fun x => { x with sent := [e] }
     s.flight.credits[0]? = some c ∧ (s.die 0).sent.find? (fun x => decide (x.pkg = none ∧ x.die = 3 ∧ x.pseq = 1)) = some e ∧
       ((running crew).die 0).sent = []) := by decide +kernel

/-- A state with the root of a page table at PA 0 that maps the first 512 MiB to themselves (R311). -/
def mapped (c : Crew) : State :=
  ({ running c with mem := [(0, 0x01), (2, 0x01), (0x10000, 0x1F)] }).onDie 0 fun x => { x with regs := { x.regs with latchedRoot := 1 } }

/-- A frame of a type from die 1 of package 5 to die 0 of package 0, the next on its path. -/
def frame (type : Nat) (body : List W64) : Frame :=
  { head := [BitVec.ofNat 64 (type * 2 ^ 12 + 1 * 2 ^ 8 + 0 * 2 ^ 4 + 5 * 2 ^ 16 + 0 * 2 ^ 32 + 0 * 2 ^ 48), 0, 0, 0, 0, 0], body := body, port := 0 }

/-- A state whose port 0 is up. -/
def linked (s : State) : State := s.onPort 0 fun p => { p with up := true }

theorem frame_arrives (s : State) (type : Nat) (body : List W64) (h : 1 ≤ type ∧ type ≤ 5) (hp : s.io.pkgId = 0)
    (hu : (s.port 0).up = true) (hn : pairGet (s.die 0).pseqIn (5, 1) = none) : FrameArrives s (frame type body) type 1 0 5 where
  first := ⟨0, by omega, by simp [frame, hp]⟩
  fields := ⟨h.1, h.2, by omega, by omega, by omega⟩
  last := ⟨0, rfl, by decide⟩
  up := hu
  next := by rw [hn]; rfl

/-- Frames of each type with a body that its clause asks for, a misdirected one, and ports up and down. -/
theorem meets_FramesFromPeers :
    FrameArrives (linked (arriving lock [])) (frame 1 ([BitVec.ofNat 64 (2 * 2 ^ 48 + 2), 9] ++ List.replicate 72 0)) 1 1 0 5 ∧
    FrameArrives (linked (arriving lock [])) (frame 2 [0xB000000000000008, BitVec.ofNat 64 (16 + 32 * 8), 0, 1]) 2 1 0 5 ∧
    FrameArrives (linked (arriving lock [])) (frame 3 [4, 0, 77]) 3 1 0 5 ∧ FrameArrives (linked (mapped crew)) (frame 4 [0x20000, 1, 0]) 4 1 0 5 ∧
    FrameArrives (linked (arriving lock [])) (frame 5 [1, 0]) 5 1 0 5 ∧
    (linked (arriving lock [])).NoLog ∧ ((linked (arriving lock [])).port 0).up = true ∧ ((arriving lock []).port 0).up = false ∧
    ((linked (arriving lock [])).die 0).landing = [] ∧ ((linked (arriving lock [])).onIo fun io => { io with pkgId := 9 }).io.pkgId = 9 ∧
    Memory.wf (mapped crew).mem = true := by
  refine ⟨frame_arrives _ _ _ (by decide) rfl rfl rfl, frame_arrives _ _ _ (by decide) rfl rfl rfl, frame_arrives _ _ _ (by decide) rfl rfl rfl,
    frame_arrives _ _ _ (by decide) rfl rfl rfl, frame_arrives _ _ _ (by decide) rfl rfl rfl, ?_, rfl, rfl, rfl, rfl, by decide +kernel⟩
  refine noLog_of_five _ fun d h => ?_
  interval_cases d <;> rfl

/-- A node record in die 0's basin with the given word 0, and with word 1. -/
def node (w w1 : W64) : State := ((resident shaped State.reset).setSys64 0 0xB000000000000080 w).setSys64 0 0xB000000000000088 w1

/-- A token for that node. -/
def token : TokenPost :=
  { agent := none, writer := 0, node := 0xB000000000000080, die := 0, count := 1, op := none, dest := none, pred := 0, answer := none }

/-- Word 0 of a node: its kind, its state and its threshold. -/
def word0 (kind st thresh : Nat) : W64 := BitVec.ofNat 64 (kind * 2 ^ 60 + st * 2 ^ 57 + thresh * 2 ^ 32)

/-- Tokens at a record of every kind and state, below its threshold and at it. -/
theorem meets_NodesAndLaunches_tokens :
    (∀ k, k ∈ [0, 1, 2, 3, 4, 5] → ∀ st, st ∈ [0, 1, 2, 3, 4, 5, 6, 7] →
      let s := (node (word0 k st 1) 0).onFlight fun f => { f with posts := [token] }
      s.flight.posts[0]? = some token ∧ s.nodeHome token.node token.die = 0 ∧ nodeKind (s.sys64 0 token.node) = k ∧
        nodeState (s.sys64 0 token.node) = st) ∧
    token.node.toNat % 128 = 0 ∧ min 65535 (nodeCount (word0 1 0 1) + token.count) = max 1 ((word0 1 0 1).toNat / 2 ^ 32 % 2 ^ 16) ∧
    min 65535 (nodeCount (word0 1 0 2) + token.count) < max 1 ((word0 1 0 2).toNat / 2 ^ 32 % 2 ^ 16) := by decide +kernel

/-- A queue with a launch of a resident node, disabled, empty, in debt and in credit, visited afresh and again. -/
theorem meets_NodesAndLaunches_arbiter :
    (let x : LaunchQueue := { en := true, advance := 1, quantum := 8, deficit := 3, pend := [{ node := 0xB000000000000080 }] }
     let s := ((node (word0 1 2 1) 0).onDie 0 fun y => { y with part := some ⟨0, [shaped], [0xB000000000000080], [], []⟩ }).onIo fun io =>
       { io with queues := io.queues.setIfInBounds 0 x }
     s.io.queues[s.io.arbiter]? = some x ∧ s.io.visiting = false ∧ x.en = true ∧ s.placeable 0xB000000000000080 = true ∧
       s.nodeDie 0xB000000000000080 = some 0 ∧ ((s.die 0).region (nodeRegion (s.sys64 0 0xB000000000000088))).isSome = true ∧
       nodeKind (s.sys64 0 0xB000000000000080) ≠ 2 ∧ 0 < x.deficit + x.quantum.toNat ∧ 0 < x.deficit) ∧
    (let x : LaunchQueue := { en := true, advance := 1, quantum := 8, deficit := -8, pend := [] }
     x.deficit + x.quantum.toNat ≤ 0 ∧ x.deficit ≤ 0 ∧ x.pend = []) ∧
    (node (word0 1 2 1) 0).placeable 0xB000000000000080 = false ∧
    (node (word0 1 2 1) 0).makeRoom 0xB000000000000080 = node (word0 1 2 1) 0 := by
  refine ⟨by decide +kernel, by decide +kernel, by decide +kernel, rfl⟩

/-- A cone walk that is at its end, at a record already visited, and at one of each kind. -/
theorem meets_NodesAndLaunches_walks :
    (let w (todo : List W64) : ConeWalk := { todo := todo, visited := [0xB000000000000100], origin := 1, pol := 1 }
     ∀ todo, todo ∈ [[], [(0xB000000000000100 : W64)], [0xB000000000000080, 0xB000000000000100]] →
       let s := (node (word0 2 4 1) 0).onDie 0 fun x => { x with walks := [w todo] }
       (s.die 0).walks = w todo :: [] ∧ (0xB000000000000100 : W64) ∈ (w todo).visited ∧ (0xB000000000000080 : W64) ∉ (w todo).visited ∧
         nodeKind (s.sys64 0 0xB000000000000080) = 2 ∧ nodeState (s.sys64 0 0xB000000000000080) = 4) := by decide +kernel

/-- A weir record of two slots of 128 bytes at a basin address, in a state with given ARRIVED and BNDMASK, and a quorum of one half. -/
def weir (s : State) (st arrived : Nat) (bnd : W64) : State :=
  (((s.setSys64 0 0xB000000000000100 (BitVec.ofNat 64 (3 * 2 ^ 60 + st * 2 ^ 57 + 2 * 2 ^ 42 + arrived * 2 ^ 36))).setSys64 0 0xB000000000000108
    (BitVec.ofNat 64 (128 * 2 ^ 48 + 1 * 2 ^ 16 + 2))).setSys64 0 0xB000000000000110 0xB000000000001000).setSys64 0 0xB000000000000130 bnd

/-- A crew that is bound to slot 1 of it. -/
def bound : Crew := { crew with weir := some { record := 0xB000000000000100, home := 0xB000000000000100, slot := 1, notice := false } }

/-- Its binding or its arrival on the way. -/
def binding (kind : WeirKind) : WeirMsg :=
  { kind := kind, agent := bound.agent, record := 0xB000000000000100, home := 0xB000000000000100, slot := 1, op := some { uid := 0, ticket := 0 }, dest := 5 }

/-- A well-formed record in every state and one that is not; a first binding, an arrival, a provisional write and a notice of a
bound crew; a copy of the copy unit. -/
theorem meets_WeirMessages :
    (∀ st, st ∈ [0, 1, 2, 3, 4, 5, 6, 7] →
      let s := (weir (running bound) st 0 0).onFlight fun f => { f with weirs := [binding .killpt], arrived := [binding .warrive] }
      let w := s.weirAt 0 0xB000000000000100
      weirOk w = true ∧ weirState w = st ∧ weirExpected w = 2 ∧ weirHas w 1 = false ∧ (s.bank 0 0xB000000000000100).bound = [] ∧
        s.flight.weirs[0]? = some (binding .killpt) ∧ s.flight.arrived[0]? = some (binding .warrive)) ∧
    (let w := (weir (running bound) 1 1 0).weirAt 0 0xB000000000000100
     weirQnum w * weirExpected w ≤ weirArrived w * weirQden w) ∧
    (let w := (weir (running bound) 1 0 (2 ^ 33)).weirAt 0 0xB000000000000100
     ¬(weirQnum w * weirExpected w ≤ weirArrived w * weirQden w) ∧ weirHas w 1 = true) ∧
    weirOk ((running bound).weirAt 0 0xB000000000000100) = false ∧
    (running bound).spanPlaces bound.accessor .read 64 128 = .ok [(.pa 64 0 here, 128)] ∧
    (running bound).spanPlaces bound.accessor .read 65536 128 = .error (4, 65536) ∧ bound.agent.uid = some bound.uid := by decide +kernel

theorem meets_WeirMessages_crew : (weir (running bound) 1 0 0).anyCrew 0 = some bound ∧ (weir (running bound) 1 0 0).findCrew 0 = some bound ∧
    bound.weir = some { record := (binding .killpt).record, home := (binding .killpt).home, slot := (binding .killpt).slot, notice := false } := ⟨rfl, rfl, rfl⟩

/-- An XBAR record at PA 0x20000: two members, and the given counts. -/
def xbarHome : HomeAddr := { pa := 0x20000, key := 0 }
def xbarAt (members arrived absent timeout : Nat) : State :=
  ((mapped crew).setHomeWord none xbarHome 0 (BitVec.ofNat 64 (members * 2 ^ 15 + arrived * 2 ^ 26 + absent * 2 ^ 37))).setHomeWord none xbarHome 1
    (BitVec.ofNat 64 timeout)

/-- A first and a last arrival, one at a malformed record, one of a member that has arrived; a time-out due and not due; replies to
a crew and to a peer; phase arrivals; tokens out of range and in it. -/
theorem meets_BarrierMessages :
    (∀ p, p ∈ [(2, 0), (2, 1), (0, 0)] →
      let m : XbarMsg := { record := 0x20000, home := xbarHome, member := 1, party := .crew 0 }
      let s := (xbarAt p.1 p.2 0 9).onFlight fun f => { f with xbars := [m] }
      s.flight.xbars[0]? = some m ∧ (s.homeWord xbarHome 0).toNat / 2 ^ 15 % 2 ^ 11 = p.1 ∧
        (s.homeWord xbarHome 0).toNat / 2 ^ 26 % 2 ^ 11 = p.2 ∧ (s.homeWord xbarHome 1).toNat < 2 ^ 32 ∧
        (∀ i, i < 14 → s.homeWord xbarHome (2 + i) = 0) ∧ (s.homeWord xbarHome 16).getLsbD 1 = false) ∧
    (∀ n, n ∈ [8, 9] →
      let x : XbarTimer := { home := xbarHome, record := 0x20000, waiting := [.crew 0], count := n }
      let s := { xbarAt 2 1 0 9 with xtimers := [x] }
      s.xtimers[0]? = some x ∧ (s.homeWord x.home 1).toNat % 2 ^ 32 = 9) ∧
    (∀ m, m ∈ [(⟨.crew 0, 0x20000, .inl 1, true, some (State.reset.imageOf 1)⟩ : XbarReplyMsg), ⟨.crew 0, 0x20000, .inr 4, false, none⟩,
        ⟨.peer 0 5 1 3, 0x20000, .inl 1, true, none⟩] →
      ((running crew).onFlight fun f => { f with xreplies := [m] }).flight.xreplies[0]? = some m) ∧
    (∀ p, p ∈ [(⟨false, 2, 1, 0⟩ : PhaseBarrier), ⟨false, 2, 0, 0⟩, ⟨true, 3, 0, 0⟩] →
      let m : PhaseMsg := { uid := 0, image := State.reset.imageOf 0, place := CrewRef.first, id := 4, leaving := false, count := 2 }
      let s := ((running crew).onFlight fun f => { f with phases := [m] }).onIo fun io => { io with phases := io.phases.setIfInBounds 4 p }
      s.flight.phases[0]? = some m ∧ s.io.phases[4]? = some p) ∧
    (∀ n, n ∈ [0, 2] →
      let m : ProxyMsg := { record := 0x20000, home := xbarHome, die := 0 }
      let s := (xbarAt 2 0 n 0).onFlight fun f => { f with absences := [m], presences := [m] }
      s.flight.absences[0]? = some m ∧ s.flight.presences[0]? = some m ∧ (s.homeWord xbarHome 0).toNat / 2 ^ 37 % 2 ^ 11 = n) := by
  decide +kernel

/-- The carousel at entry 0 of a table at PA 0x4000 that names one slice at PA 0x100000 for layer 7, with a given entry word 0. -/
def turning (f : Carousel → Carousel) (w0 : Byte) (s : State) : State :=
  { s with mem := [(0x4002, w0), (0x400A, 0x20), (0x400E, 7)] }.onIo fun io => { io with carousel := f { io.carousel with
    base := 0x4000, count := 2, run := true } }

/-- A streamer of stack 0 with one slice left for core 0 of region 0 of die 0. -/
def streamer (ready : Nat) : Streamer :=
  { order := 0, src := 0x100000, slices := 2, next := 1, ready := ready, targets := [(0, 0, [0])], held := [] }

/-- A carousel that is stopped, has no entries, waits for leave, meets a valid entry, one that is not, and one whose streamer is
busy; a slice to an empty buffer, to a full one, and before its time; leave that is due with and without a bound region. -/
theorem meets_CarouselRotation :
    (State.reset.io.carousel.run = false ∧ ∀ x, x ∈ State.reset.dies.toList → x.regions = []) ∧
    (∀ w, w ∈ [(0x10, true), (0x18, false)] →
      let s := turning (fun c => { c with granted := true }) w.1 State.reset
      let w0 := (s.home64 0x4000).toNat
      let w1 := (s.home64 0x4008).toNat
      w1 / 2 ^ 21 % 2 ^ 7 = 1 ∧ w1 % 2 ^ 21 = 0 ∧ w1 / 2 ^ 48 = 7 ∧ w0 < 0x8000000000 ∧ (w0 % 2 ^ 20 = 0 ↔ w.2 = true) ∧ w0 / 2 ^ 36 = 0 ∧
        s.io.carousel.streamers[0]? = some none ∧ s.io.carousel.granted = true ∧ s.io.carousel.next = 0 ∧ s.io.carousel.count ≠ 0) ∧
    (let s := turning (fun c => { c with streamers := c.streamers.setIfInBounds 0 (some (streamer 0)) }) 0x10 State.reset
     s.io.carousel.streamers[0]? = some (some (streamer 0)) ∧ (streamer 0).next < (streamer 0).slices ∧ (streamer 0).ready ≤ s.now ∧
       s.now < (streamer 1).ready ∧ (s.core 0 0).full.getLsbD (176 + (s.core 0 0).ring % 16) = false ∧ s.memMarks = [] ∧
       Memory.wf s.mem = true ∧ ((s.onCore 0 0 fun k => { k with full := 1#256 <<< 176 }).core 0 0).full.getLsbD 176 = true ∧
       s.io.carousel.run = true ∧ s.io.carousel.granted = false ∧ s.io.carousel.asked = none ∧
       ∀ q, q < 7 → s.io.carousel.streamers[q + 1]? = some none) ∧
    (let s := resident { shaped with layer := some 7 } (turning id 0x10 (running crew))
     s.io.carousel.run = true ∧ s.io.carousel.count ≠ 0 ∧ (s.die 0).regions.map (fun r => (r.cfg.layer, r.phase)) = [(some 7, .running)]) := by
  refine ⟨?_, ?_, ?_, ?_⟩ <;> decide +kernel

/-- A dirty line of core 0 with two bytes. -/
def dirtyLine : DirtyLine :=
  { line := 2, key := 0, bytes := [(256, 1), (258, 2)], marks := [], released := false, uids := [0], regions := [0]
    pages := [{ va := 0, size := 65536 }], owner := CrewRef.first, uid := 0, region := 0
    version := 0, handler := 0, poff := 0 }

/-- A fault record. -/
def report (fatal : Bool) : FaultRecord :=
  { origin := 0, fatal := fatal, notConsumed := false, seq := 3, infos := [1], merged := 0, lastSeq := 3 }

/-- An evicted line; units of each kind that an error marks, a barge poisoned before and not; fatal records sent and unsent; records
to take and to send, with room and without; a sample due, with a crew of a traced region past the last one and before it; an order
gate with and without an entry for its point. -/
theorem meets_ErrorsAndReports :
    (let s := (running crew).onDie 0 fun x => { x with dirty := [dirtyLine] }
     (s.die 0).dirty[0]? = some dirtyLine ∧ s.InTheClear ∧ Memory.wf s.mem = true ∧ (dirtyLine.bytes.map Prod.fst).Nodup) ∧
    (running crew).keyOk 64 = true ∧ (running crew).keyOk (0xC0 * 2 ^ 56 + 8) = true ∧ (running crew).findCrew 0 = some crew ∧
    (holding 1).barge 0 5 = some barge ∧ barge.flags.getLsbD 0 = false ∧ { barge with flags := 1 }.flags.getLsbD 0 = true ∧
    (∀ b, b ∈ [true, false] →
      let s := State.reset.onDie 2 fun x => { x with faults := { x.faults with fatal := some (report true), fatalSent := b } }
      (s.faultsOf 2).fatal = some (report true) ∧ (s.faultsOf 2).fatalSent = b) ∧
    (let s := State.reset.onIo fun io => { io with events := [(1, report false), (2, report false)], evqWin := 4 }
     s.io.events = [report false].map (fun r => (1, r)) ++ [(2, report false)] ∧ s.io.evqAck + s.io.evqWin.toNat - s.io.sent = 4 ∧
       s.io.events.length + 5 ≤ 512 ∧ (∀ e, e < 5 → (s.faultsOf e).fatal = none) ∧
       ((s.onIo fun io => { io with sent := 4 }).io.evqAck + 4 - 4 = 0)) ∧
    (let s := (running crew).onDie 0 fun x => { x with dbg := { x.dbg with traceEn := true, sample := 5, traceMap := 1 } }
     (s.die 0).crews.filter (fun c => (s.die 0).traces c.region) = [crew] ∧ (s.die 0).dbg.sampled = none ∧
       (s.die 0).dbg.lastSample + 5 ≤ { s with now := 5 }.now ∧ ¬((s.die 0).dbg.lastSample + 5 ≤ s.now)) ∧
    (let c : Chunk := { kind := .bank, point := 3, src := 0, cid := 4, run := 1, seq := 9 }
     let e : LogEntry := { kind := 2, seq := 1, cid := 4, a := 0, b := 0, c := 0 }
     let s := State.reset.onRecorder 0 fun x => { x with mode := 2, chunks := [c], entries := [e], starts := [(0, 0)] }
     (s.die 0).recorder.mode = 2 ∧ (s.die 0).recorder.chunks = [] ++ c :: [] ∧ (s.recorderOf 0).hasStarted c.cid = true ∧
       s.cidActive 0 c.cid = false) := by
  refine ⟨⟨rfl, ⟨rfl, rfl⟩, by decide +kernel, by decide +kernel⟩, ?_⟩
  decide +kernel

/-- Die 0 without crews, with a swap requested from a base, under the table of `mapped`. -/
def swapping (base : W64) (mem : List (Nat × Byte)) : State :=
  { State.reset with mem := [(0, 0x01), (2, 0x01), (0x10000, 0x1F)] ++ mem }.onDie 0 fun x =>
    { x with regs := { x.regs with ptRoot := 1, partBase := base, swapping := true } }

/-- A partition whose tables pass, one with a source that does not, one whose address has no leaf, is on another path, or is marked;
a die that is not at a boundary. -/
theorem meets_PartitionSwaps :
    (∃ p, (swapping 0x20000 []).readPartition 0 1 0x20000 = .ok p ∧ p.adapters = [] ∧ p.part.sources = []) ∧
    (swapping 0x20000 [(0x20004, 1)]).readPartition 0 1 0x20000 = .error (3, none) ∧
    ((swapping 0x20000000 []).sysPlace 1 false 0x20000000 = .error 4 ∧ topByte 0x20000000 = 0) ∧ topByte 0xB000000000000000 ≠ 0 ∧
    (let s := (swapping 0x20000 []).setMark 0x20000
     s.sysPlace 1 false 0x20000 = .ok (.pa 0x20000 0 (some { va := 0, size := 2 ^ 29 })) ∧ s.homeMarked (.pa 0x20000 0 none) 8 = true) ∧
    (let x := (swapping 0x20000 []).die 0
     x.regs.swapping = true ∧ x.crews = [] ∧ (∀ p, p ∈ x.cores → p.2.drained = true) ∧ x.collector = none ∧ x.collectQueue = [] ∧
       x.part = none ∧ x.regions = []) ∧
    ((running crew).die 0).crews ≠ [] := by
  refine ⟨⟨_, rfl, rfl, rfl⟩, ?_⟩
  decide +kernel

/-- The resident region with a request to the collector. -/
def collecting (kind : CollectKind) (s : State) : State :=
  (resident shaped s).onDie 0 fun x => { x with collector := some { region := 0, kind := kind, since := 0, fromWalk := false } }

/-- Die 0 with that region saved from core 0, its header in the area as given, and its partition declared. -/
def saved (stopped : Bool) (head : Byte) : State :=
  ({ State.reset with mem := [(3, head)] }).onDie 0 fun x =>
    { x with part := some { addr := 0, regions := [shaped], nodes := [], sources := [], adapters := [] }
             saved := [{ region := { cfg := shaped, cores := [0], barriers := [], phase := .preempting, lastStart := 0 }, seq := 0
                         cores := [((running crew).core 0 0).saved], stopped := stopped }] }

theorem noLog_saved (stopped : Bool) (head : Byte) : (saved stopped head).NoLog := by
  refine noLog_of_five _ fun d h => ?_
  interval_cases d <;> rfl

theorem noLog_collecting (kind : CollectKind) : (collecting kind (running crew)).NoLog := by
  refine noLog_of_five _ fun d h => ?_
  interval_cases d <;> rfl

/-- A resident region whose save fits and one whose save does not; a collector at work, with every acknowledgement and without the
matrix engine's; a saved region with a header that fits and with one that does not. -/
theorem meets_PreemptionAndRestore :
    (resident shaped (running crew)).NoLog ∧ (∀ k, (collecting k (running crew)).NoLog) ∧ (∀ b h, (saved b h).NoLog) ∧
    (let s := resident shaped (running crew)
     (s.die 0).collector = none ∧ (s.die 0).collectQueue = [] ∧ ((s.die 0).region 0).map Region.phase = some .running ∧
       ((s.die 0).region 9) = none ∧ (s.die 0).regs.saveStride.toNat < 2 ^ 21 + 2 ^ 24 ∧
       ((s.onDie 0 fun x => { x with regs := { x.regs with saveStride := 2 ^ 25 } }).die 0).regs.saveStride.toNat = 2 ^ 25 ∧
       crew.tie = none) ∧
    (∀ q, q ∈ [CollectKind.preempt, .flush 2] → ∃ r, ((collecting q (running crew)).die 0).collector = some r ∧ r.kind.isStop = false) ∧
    (let s := collecting .preempt (running crew)
     (s.die 0).savedRegion 0 = none ∧ (s.matrix 0 0).running = none ∧ shaped.layer = none ∧
       ((s.die 0).region 0).map (s.banksQuiet 0) = some true) ∧
    (((collecting .preempt (engine crew fun x => { x with running := some (inFlight 1) })).matrix 0 0).running = some (inFlight 1)) ∧
    (∀ h, h ∈ [(1 : Byte), 2] →
      let s := saved false h
      (((s.die 0).savedRegion 0).map fun y => (y.stopped, y.region.cores)) = some (false, [0]) ∧
        (s.die 0).declaredRegion 0 = some shaped ∧ 1 ≤ (s.die 0).freeCores.length ∧ (s.die 0).regs.swapping = false ∧
        (s.die 0).collector = none ∧ s.memMarks = [] ∧ (s.die 0).region 0 = none ∧
        (s.home64 ((s.die 0).regs.saveBase.toNat)).toNat = h.toNat * 2 ^ 24) ∧ shaped.coreCount = 1 := by
  refine ⟨noLog_resident _ _ rfl, noLog_collecting, noLog_saved, ?_⟩
  decide +kernel

/-- A region to flush that is resident, one that is neither resident nor saved; a flush whose region has a crew and one whose region is
empty; a discarding region that no partition lists, and one with a fired operator node. -/
theorem meets_FlushesAndDiscarding :
    (let s := resident (locked lock) (running crew)
     (s.die 0).collector = none ∧ (s.die 0).region 9 = none ∧ (s.die 0).savedRegion 9 = none ∧ s.nodesOf 0 0 = [] ∧
       ((s.die 0).region 0).map Region.phase = some .running) ∧
    (resident (locked lock) (running crew)).crewAt crew.place = some crew ∧
    (((collecting (.flush 2) (running crew)).core 0 0).crews ≠ []) ∧
    (let s := collecting (.flush 2) State.reset
     (s.core 0 0).crews = [] ∧ (s.core 0 0).drained = true ∧ (s.matrix 0 0).drainRows = [] ∧
       (∀ n, n < 16 → (s.chan 0 0 n).tokens = [] ∧ (s.chan 0 0 n).rows = []) ∧ (∀ n, n < 8 → (s.stream 0 0 n).rows = []) ∧
       (s.die 0).sent = [] ∧ shaped.locks = [] ∧ (s.die 0).collectQueue = []) ∧
    (State.reset.die 0).declaredRegion 0 = none ∧
    (let s := (node (word0 1 2 1) 0).onDie 0 fun x =>
       { x with part := some ⟨0, [shaped], [0xB000000000000080], [], []⟩, discarding := [(0, 2)] }
     (s.die 0).declaredRegion 0 = some shaped ∧ s.nodesOf 0 0 = [0xB000000000000080] ∧
       (s.sys64 0 0xB000000000000080).toNat / 2 ^ 57 % 8 = 2) := by
  refine ⟨by decide +kernel, rfl, ?_⟩
  decide +kernel

/-- `mapped` with the leaf under key 5. -/
def keyed (c : Crew) : State := { mapped c with mem := [(0, 0x01), (2, 0x01), (0x10000, 0x1F), (0x10006, 0x50)] }.onIo fun io =>
  { io with sec := { io.sec with keys := [(5, 0, true)] } }

/-- Whom the record of a stop's request names. -/
def named : Naming := { region := 0, version := 0, handler := 0, poff := 0 }

theorem noLog_stopping : (collecting (.stop 2 named) State.reset).NoLog := by
  refine noLog_of_five _ fun d h => ?_
  interval_cases d <;> rfl

/-- STOP and RESUME values that are written and that are not; a resident region that is confidential and one that is not; a stopped
region whose header fits and one whose does not; a stop whose crews are held, one whose crew runs, and a LIMIT passed. -/
theorem meets_DebugStops :
    ((1 : W64) &&& 0xFFFF000000FFFFE0 = 0 ∧ (1 : W64).getLsbD 0 = true ∧ (1 : W64).getLsbD 1 = false) ∧
    ((0x12 : W64) &&& 0xFFFF000000FFFFE0 = 0 ∧ (0x12 : W64).getLsbD 0 = false ∧ (0x12 : W64).getLsbD 1 = true) ∧
    (2 : W64) &&& 0xFFFF000000FFFFE0 = 0 ∧ (0x20 : W64) &&& 0xFFFF000000FFFFE0 ≠ 0 ∧ (3 : W64).getLsbD 0 = (3 : W64).getLsbD 1 ∧
    (resident shaped (keyed crew)).confidential 0 shaped = true ∧ (resident shaped (running crew)).confidential 0 shaped = false ∧
    (∀ h, h ∈ [(1 : Byte), 2] →
      let s := saved true h
      (((s.die 0).savedRegion 0).map fun y => (y.stopped, y.region.cores)) = some (true, [0]) ∧
        (s.die 0).declaredRegion 0 = some shaped ∧ s.memMarks = [] ∧ (s.die 0).region 0 = none ∧ (s.die 0).collector = none ∧
        (s.home64 ((s.die 0).regs.saveBase.toNat)).toNat = h.toNat * 2 ^ 24) ∧
    ((((collecting (.stop 2 named) State.reset).die 0).region 0).map ((collecting (.stop 2 named) State.reset).regionHeld 0)) = some true ∧
    ((((collecting (.stop 2 named) (running waiting)).die 0).region 0).map ((collecting (.stop 2 named) (running waiting)).regionHeld 0)) = some false ∧
    ((collecting (.stop 2 named) State.reset).die 0).dbg.stopLimit = 0 ∧
    (let s := { collecting (.stop 2 named) State.reset with now := 1024 }.onDie 0 fun x => { x with dbg := { x.dbg with stopLimit := 1 } }
     (s.die 0).dbg.stopLimit ≠ 0 ∧ 0 + 1024 * (s.die 0).dbg.stopLimit ≤ s.now ∧ (s.die 0).collectQueue = []) := by decide +kernel

/-- Values that a mask admits and that it does not, with each register's own rule on both sides; a berth record of a stopped region,
of another core, and one that is kept. -/
theorem meets_RegisterWrites :
    (∀ m : Nat, m ∈ [0xFFFFFF00FFFFFFFC, 0x7E, 0xFFFF000000000000, 0xFFFEFFFF00000000] →
      (0 : W64) &&& BitVec.ofNat 64 m = 0 ∧ (0xFFFFFFFFFFFFFFFF : W64) &&& BitVec.ofNat 64 m ≠ 0) ∧
    (State.reset.die 0).recorder.mode = 0 ∧ ((State.reset.onRecorder 0 fun x => { x with mode := 1 }).die 0).recorder.mode ≠ 0 ∧
    (State.reset.die 0).regions = [] ∧ ((resident shaped State.reset).die 0).regions ≠ [] ∧ (State.reset.die 0).gov.depth = 0 ∧
    (State.reset.die 0).savedRegion (State.reset.die 0).dbg.stopRegion = none ∧
    (let s := saved true 1
     (((s.die 0).savedRegion (s.die 0).dbg.stopRegion).map fun y => (y.stopped, y.region.cores)) = some (true, [] ++ 0 :: []) ∧
       Memory.wf s.mem = true) ∧ (saved true 1).InTheClear ∧
    State.reset.io.carousel.run = false ∧ (turning id 0x10 State.reset).io.carousel.run = true ∧ State.reset.io.cacheEn = false ∧
    ((State.reset.onIo fun io => { io with cacheEn := true }).io.cacheEn = true) ∧
    (∀ i, i < 8 → (0x10 : W64).getLsbD (5 * i + 4) = true ∨ (0x10 : W64).toNat / 2 ^ (5 * i) % 2 ^ 4 = 0) ∧
    (∀ p, p ∈ State.reset.io.ports.toList → p.held = []) := by
  unfold State.InTheClear
  decide +kernel

/-- A TLBINV of a page and of all, refused and not, with no dirty line, a line under another page, and a line whose page has no leaf, a
leaf that admits no write, and one that does; a SERVICE that hits a held retry; RECCTL and LOGRING values; a log of one entry. -/
theorem meets_InvalidationsServiceAndRecording :
    ((0x1000000 : W64) &&& 0xFFFFFC = 0 ∧ (2 : W64) &&& 0xFFFFFC = 0) ∧ (0x1000000 : W64).getLsbD 1 = false ∧ (2 : W64).getLsbD 1 = true ∧
    (4 : W64) &&& 0xFFFFFC ≠ 0 ∧ ((running crew).die 0).regs.tlbBusy = false ∧ ((running crew).die 0).dirty = [] ∧ (∀ p, p ∈ dirtyLine.pages → ¬(p.va ≤ 65536 * 1 ∧ 65536 * 1 < p.va + p.size)) ∧
    (let s := (running crew).onDie 0 fun x => { x with dirty := [dirtyLine] }
     (s.die 0).dirty = [dirtyLine] ∧ s.walk 0 256 = none ∧ 0 + 128 * dirtyLine.line % 65536 = 256 ∧ dirtyLine.pages = [] ++ { va := 0, size := 65536 } :: []) ∧
    ((mapped crew).walk 0 256).map TlbEntry.w = some true ∧
    (({ mapped crew with mem := [(0, 0x01), (2, 0x01), (0x10000, 0x17)] }.walk 0 256).map TlbEntry.w) = some false ∧
    (mapped crew).InTheClear ∧ Memory.wf (mapped crew).mem = true ∧ (dirtyLine.bytes.map Prod.fst).Nodup ∧
    (∀ b, b ∈ dirtyLine.bytes → b.1 / 128 = dirtyLine.line) ∧
    (let h : HeldRetry := { node := 0xB000000000000080, queue := 3, seqs := [7] }
     let s := State.reset.onDie 0 fun x => { x with heldRetries := [h] }
     (s.die 0).heldRetries = [h] ∧ BitVec.ofNat 48 (7 : W64).toNat ∈ h.seqs) ∧
    ((5 : W64).toNat < 8 ∧ (5 : W64).toNat % 4 = 1 ∧ (2 : W64).toNat % 4 = 2 ∧ (4 : W64).toNat % 4 = 0) ∧
    (State.reset.die 0).recorder.mode = 0 ∧ (State.reset.die 0).recorder.logHead = (State.reset.die 0).recorder.logTail ∧
    (State.reset.die 0).recorder.open_ = [] ∧ (State.reset.die 0).recorder.pending = [] ∧
    ((resident shaped (keyed crew)).die 0).regions.any (fun g => (resident shaped (keyed crew)).confidential 0 g.cfg) = true ∧
    (let s := State.reset.onRecorder 0 fun x => { x with logSize := 4, logTail := 1 }
     let r := (s.die 0).recorder
     0 < (r.logTail.toNat + r.logSize.toNat - r.logHead.toNat) % r.logSize.toNat ∧ r.logHead.toNat < r.logSize.toNat ∧
       (s.home64 (r.logBase.toNat + 32 * ((r.logHead.toNat + 0) % r.logSize.toNat))).toNat / 2 ^ 56 % 2 ^ 4 = 0) ∧
    (0x4 * 2 ^ 40 : W64).toNat / 2 ^ 40 = 4 := by
  unfold State.InTheClear
  decide +kernel

/-- A message of a type, with its other fields. -/
def message (type : Nat) (low : W64) (addr arg : W64) (payload : List W64) : HostMsg :=
  { head := BitVec.ofNat 64 (type * 2 ^ 60 + payload.length) ||| low, addr := addr, arg := arg, last := 0, payload := payload }

/-- A package in a state of its bring-up. -/
def stood (b : BootState) (s : State) : State := s.onIo fun io => { io with sec := { io.sec with state := b } }

theorem asks_message (s : State) (m : HostMsg) (type : Nat) (h : m.head.toNat / 2 ^ 60 = type ∧ m.head.getLsbD 59 = false)
    (ha : s.flight.arrivals = []) (hp : s.flight.posts = []) : Asks s m type := by
  unfold Asks
  rw [ha, hp]
  exact ⟨h.1, h.2, List.forall_mem_nil _, List.forall_mem_nil _⟩

/-- Requests to write and to read: of the boot range before READY, of a boot register, of memory, of an address that no leaf maps, of one
under a key, of a basin, of a barge store, of no path, and at a bad alignment; reserved types and kinds. -/
theorem meets_HostMemoryMessages :
    (∀ b, b ∈ [BootState.load, .failed, .ready] → Asks (stood b (mapped crew)) (message 1 (2 ^ 51) 64 0 [7]) 1) ∧
    Asks (stood .ready (mapped crew)) (message 2 0 0x20000 8 []) 2 ∧ (mapped crew).NoLog ∧
    HeaderHolds (message 1 (2 ^ 51) 64 0 [7]) ∧ (message 1 (2 ^ 51) 64 0 [7]).head.getLsbD 51 = true ∧ 64 + 8 * 1 ≤ 0x1000000 ∧
    HeaderHolds (message 2 0 0x20000 8 []) ∧
    (message 2 0 0x20000 8 []).head.getLsbD 51 = false ∧ (0x20000 : W64).toNat % 4096 + 8 ≤ 4096 ∧
    ((mapped crew).walk 0 0x20000).map TlbEntry.key = some 0 ∧ (mapped crew).walk 0 0x20000000 = none ∧
    ((keyed crew).walk 0 0x20000).map TlbEntry.key = some 5 ∧
    ((keyed crew).io.sec.keys.find? fun k => k.1 = 5).map (fun k => k.2) = some (0, true) ∧
    (let s := (keyed crew).onIo fun io => { io with sec := { io.sec with keys := [(5, 0, false)] } }
     (s.walk 0 0x20000).map TlbEntry.key = some 5 ∧ (s.io.sec.keys.find? fun k => k.1 = 5).map (fun k => k.2.2) = some false) ∧
    (mapped crew).InTheClear ∧ (mapped crew).memMarks = [] ∧ Memory.wf (mapped crew).mem = true ∧
    0xB000000000000008 / 2 ^ 27 % 2 ^ 29 = 0 ∧ 0xB000000000000008 / 2 ^ 56 = 0xB0 ∧ 0xD000000000000040 / 2 ^ 56 = 0xD0 ∧
    (0xA0 * 2 ^ 56 : Nat) / 2 ^ 56 = 0xA0 ∧ (65 : W64).toNat % 8 ≠ 0 ∧
    ((message 0 0 0 0 []).head.toNat / 2 ^ 60 = 0 ∧ (message 15 0 0 0 []).head.toNat / 2 ^ 60 = 15 ∧ (5 : W64).toNat % 2 ^ 8 = 5) := by
  refine ⟨fun b _ => asks_message _ _ _ (by decide) rfl rfl, asks_message _ _ _ (by decide) rfl rfl, noLog_of_five _ (by decide +kernel), ?_⟩
  unfold HeaderHolds State.InTheClear
  decide +kernel

/-- A signal for lock 2 of region 0 of die 0. -/
def signal : HostMsg := message 4 0 0 1 [0, 0, 0, 0, 0, 0, 0, 0, 2]

/-- A post of tokens to an aligned node, to a misaligned and to an unmapped one; a signal to a declared lock with room, to an undeclared
one, and with a bad payload address; each kind of attestation in the states that admit it, with a session and without, and with an
index in range and out of it. -/
theorem meets_TokensSignalsAndAttestation :
    (let m := message 3 0 0x20000 1 []
     Asks (stood .ready (mapped crew)) m 3 ∧ HeaderHolds m ∧ 1 ≤ m.arg.toNat ∧ m.arg.toNat ≤ 65535 ∧ m.head.getLsbD 51 = false ∧
       m.addr.toNat % 128 = 0 ∧ (message 3 0 0x20008 1 []).addr.toNat % 128 = 8 ∧ m.head.toNat / 2 ^ 52 % 2 ^ 4 = 0) ∧
    ((mapped crew).walk 0 0x20000).map TlbEntry.key = some 0 ∧ (mapped crew).walk 0 0x20000000 = none ∧
    (let s := resident (locked lock) (stood .ready (running crew))
     Asks s signal 4 ∧ HeaderHolds signal ∧ s.NoLog ∧ ((s.die 0).declaredLock 0 2).isSome = true ∧ (s.die 0).declaredLock 0 3 = none ∧
       s.lockRoom 0 0 2 = true ∧ (s.die 0).freeRecord = some 0) ∧
    (∀ b, b ∈ [BootState.load, .init, .ready] → Asks (stood b State.reset) (message 6 0 0 1 [0, 0, 0, 0]) 6) ∧
    signal.payload.length = 9 ∧ (wordAt signal.payload 8).toNat < 2 ^ 32 ∧ bytesAt (payloadBytes signal) 24 8 = 0 ∧
    bytesAt (payloadBytes signal) 54 10 = 0 ∧
    (resident (locked { lock with canalSize := 0, slots := List.replicate 1024 { record := 0, entry := 0, by_ := 0 } })
      (running crew)).lockRoom 0 0 2 = false ∧
    (∀ k, k ∈ [(1, 4), (2, 8), (3, 10), (4, 0)] →
      let m := message 6 0 0 (BitVec.ofNat 64 k.1) (List.replicate k.2 0)
      HeaderHolds m ∧ m.arg.toNat % 2 ^ 8 = k.1 ∧ m.payload.length = k.2 ∧ m.head.toNat / 2 ^ 60 = 6) ∧
    (let m := message 6 0 0 3 [0x20005, 0, 0, 0, 0, 0, 0, 0, 0, 0]
     let bs := payloadBytes m
     bytesAt bs 0 2 = 5 ∧ bytesAt bs 2 1 / 2 = 1 ∧ bytesAt bs 2 1 / 4 = 0 ∧ bytesAt bs 3 13 = 0 ∧ bytesAt bs 76 4 = 0) ∧
    State.reset.io.sec.session = none ∧ (∀ d, d < 4 → (State.reset.die d).dirty = []) := by
  refine ⟨⟨asks_message _ _ _ (by decide) rfl rfl, by unfold HeaderHolds; decide +kernel⟩, by decide +kernel, by decide +kernel,
    ⟨asks_message _ _ _ (by decide) rfl rfl, by unfold HeaderHolds; decide +kernel, ?_, by decide +kernel⟩,
    fun b _ => asks_message _ _ _ (by decide) rfl rfl, by unfold HeaderHolds; decide +kernel⟩
  refine noLog_of_five _ fun d h => ?_
  interval_cases d <;> rfl

theorem meets_AttestationReport :
    Asks (stood .ready State.reset) (message 6 0 0 1 [1, 2, 3, 4]) 6 ∧ HeaderHolds (message 6 0 0 1 [1, 2, 3, 4]) ∧
    (message 6 0 0 1 [1, 2, 3, 4]).arg.toNat % 2 ^ 8 = 1 ∧ (stood .init State.reset).io.sec.state = .init :=
  ⟨asks_message _ _ _ (by decide) rfl rfl, by unfold HeaderHolds; decide +kernel, by decide, rfl⟩

/-- Each state of the bring-up, and an image whose length and entry pass and one whose do not. The ROM's digests and signatures are
uninterpreted, so no state can be shown to pass them. -/
theorem meets_BringUp :
    (∀ b, b ∈ [BootState.rom, .load, .verify, .init, .ready, .failed] → (stood b State.reset).io.sec.state = b) ∧
    (let s := { stood .verify State.reset with mem := [(8, 16), (16, 8)] }
     s.home64 8 = 16 ∧ s.home64 16 = 8) ∧ State.reset.home64 8 = 0 := by decide +kernel

/-! ## More states: the clauses of one statement, each by itself -/


/-- What each kind of slot gives: nothing, integer and float scalars, integer and float elements, a conversion, logic and a move. -/
theorem meets_SlotMeans :
    SlotMeans ⟨0, 0, 0, 0, 0, 0⟩ crew .nothing ∧ (∃ v, SlotMeans ⟨1, 5, 6, 0, 1, 3⟩ crew (.scalar v)) ∧
    (∃ v, SlotMeans ⟨4, 5, 6, 0, 0, 0⟩ crew (.scalar v)) ∧ (∃ v, SlotMeans ⟨16, 5, 6, 0, 0, 12⟩ crew (.scalar v)) ∧
    (∀ op, op ∈ [(0x41 : BitVec 7), 0x43, 0x47, 0x49, 0x4B] → ∃ f, SlotMeans ⟨op, 4, 5, 0, 0, 3⟩ (vcrew 0x12) (.elements (.sint 32) f)) ∧
    (∀ op, op ∈ [(0x41 : BitVec 7), 0x42, 0x43] → ∃ f, SlotMeans ⟨op, 4, 5, 1, 1, 11⟩ (vcrew 0x32) (.elements (.ieee 2) f)) ∧
    (∃ f, SlotMeans ⟨0x4B, 4, 5, 0, 0, 14⟩ (vcrew 0x50) (.elements (.narrow4 0) f)) ∧
    (∃ f, SlotMeans ⟨0x4D, 4, 5, 2, 0, 11⟩ (vcrew 0x12) (.elements (.ieee 2) f)) ∧
    (∃ f, SlotMeans ⟨0x46, 4, 5, 0, 0, 0⟩ (vcrew 0x12) (.words false 0x12 f)) ∧
    (∃ f, SlotMeans ⟨0x44, 4, 6, 0, 0, 0⟩ (vcrew 0x23) (.words true 0x23 f)) ∧
    (∃ f, SlotMeans ⟨0x4C, 4, 6, 0, 0, 12⟩ (vcrew 0x12) (.words true 0x33 f)) := by
  have tag : ∀ t (f : BitVec 8), ((vcrew t).vreg f.toNat).tag = t := fun t f => by rw [vcrew_vreg _ _ f.isLt]
  have clean : ∀ t r p, Unmarked (vcrew t) (vcrew t).cur r p := fun t r p => vcrew_unmarked t _ r p
  refine ⟨rfl, ⟨_, .inl ⟨by decide, 32, true, by decide, rfl⟩⟩, ⟨_, .inr ⟨by decide, by decide, rfl⟩⟩,
    ⟨_, .inr ⟨by decide, by decide, rfl⟩⟩, fun op h => ⟨_, .inl ⟨?_, rfl, ?_, fun _ _ => rfl⟩⟩,
    fun op h => ⟨_, .inr (.inl ⟨?_, by decide, .inr ?_, _, rfl, fun _ _ => rfl⟩)⟩,
    ⟨_, .inr (.inl ⟨?_, by decide, .inl (by decide), _, rfl, fun _ _ => rfl⟩)⟩,
    ⟨_, .inr (.inr ⟨rfl, by decide, rfl, by decide, .sint 32, ?_, by decide, clean _ _ _, fun _ _ => rfl⟩)⟩,
    ⟨_, .inl ⟨by decide, rfl, ?_, ?_, ?_, ?_, by decide, clean _ _ _, clean _ _ _, fun _ => rfl⟩⟩,
    ⟨_, .inl ⟨by decide, rfl, ?_, ?_, ?_, ?_, by decide, clean _ _ _, clean _ _ _, fun _ => rfl⟩⟩,
    ⟨_, .inr ⟨rfl, ?_, by decide, clean _ _ _, .inr ⟨by decide, .ieee 3, rfl, rfl, rfl⟩, fun _ => rfl⟩⟩⟩
  all_goals try unfold Typed
  all_goals simp only [tag]
  · exact ⟨rfl, rfl, by decide, clean _ _ _, clean _ _ _⟩
  · revert op; decide
  · exact ⟨rfl, rfl, by decide, clean _ _ _, clean _ _ _⟩
  · exact ⟨by revert op; decide, rfl⟩
  · exact ⟨rfl, rfl, by decide, clean _ _ _, clean _ _ _⟩
  all_goals decide +kernel

/-- A memory slot: a full counter, a fault of the check, places that pass it, and registers in the crew's granules. -/
theorem meets_PairsWithMemory :
    (running (vcrew 0x12)).NoLog ∧ (running (vcrew 0x12)).crewAt (running (vcrew 0x12)).cur = some (vcrew 0x12) ∧
    255 ≤ Crew.count { crew with ops := List.replicate 255 ⟨.ws, 0, false, false⟩ } .ws ∧
    ((8 : BitVec 4).toNat, 8, false) ∈ memoryTypes ∧
    (running (vcrew 0x12)).check (vcrew 0x12).accessor .load 4 8 8 = .error 1 ∧
    (∀ kind, kind ∈ [Kind.load, .store] → (running (vcrew 0x12)).check (vcrew 0x12).accessor kind 64 8 8 = .ok (.pa 64 0 here)) ∧
    (∀ n, n ∈ [254, 255, 4, 5] → n < (vcrew 0x12).declared ∧ n / 8 ∉ (vcrew 0x12).spillBlocks) ∧
    (∀ z : Slot, SlotGives.nothing.inGranules z crew) := by
  refine ⟨noLog_running _ rfl, crewAt_running _ rfl, by decide +kernel, by decide, by decide +kernel, by decide +kernel, by decide +kernel, ?_⟩
  exact fun _ h => absurd rfl h


/-- A stream engine over four words from address 64, as a read stream or, with bit 3 of its control word, as a write stream. -/
def engineOver (state : StreamState) (ctl : W64) (rows : List Row) : Stream :=
  { Stream.reset with state := state, base := 64, shape := { ty := 3, ext := [4, 1, 1, 1], stride := [1, 0, 0, 0] }
                      ctl := ctl, width := 4, rows := rows }

/-- A crew whose channel 1 is bound to stream engine 2. -/
def streaming (c : Crew) (x : Stream) : State :=
  ((running c).onChan 0 0 1 fun y => { y with endpoint := .stream 2 }).onStream 0 0 2 fun _ => x

/-- The rows that a stream engine still stores after its SESTOP. -/
def tail (rows : List Row) : StreamTail :=
  { base := 64, shape := { ty := 3, ext := [4, 1, 1, 1], stride := [1, 0, 0, 0] }, ctl := 0x128, width := 4, next := 0, rows := rows
    agent := Agent.reset, stops := [{ uid := 0, ticket := 7 }] }

/-- Channels bound to engines: a read stream gives its rows, holds a pop back while it runs and faults it once it is done; a write
stream takes rows, is full with those of an ended one, and refuses them when it does not run or has another width. -/
theorem meets_RowsOfStreams :
    (let s := streaming (vcrew 0x12) (engineOver .running 0x120 [row 0x12 none])
     s.crewAt s.cur = some (vcrew 0x12) ∧ s.givesRows 0 0 1 ∧ s.rowsOf 0 0 1 = [row 0x12 none] ∧ (row 0x12 none).claimed = none ∧
       s.refusesRow (vcrew 0x12) 1) ∧
    (∀ state, state ∈ [StreamState.ready, .running, .done, .faulted] →
      let s := streaming crew (engineOver state 0x120 [])
      s.givesRows 0 0 1 ∧ s.rowsOf 0 0 1 = [] ∧ (s.stream 0 0 2).isWrite = false ∧ (s.stream 0 0 2).state = state) ∧
    (let s := streaming crew (engineOver .running 0x128 (List.replicate 3 (row 0x12 none)))
     ¬s.givesRows 0 0 1 ∧ ¬s.refusesRow crew 1 ∧ s.hasRoom crew 1) ∧
    (let s := streaming crew { engineOver .running 0x128 (List.replicate 3 (row 0x12 none)) with tails := [tail [row 0x12 none]] }
     ¬s.refusesRow crew 1 ∧ ¬s.hasRoom crew 1) ∧
    (streaming crew (engineOver .done 0x128 [])).refusesRow crew 1 ∧
    (streaming crew { engineOver .running 0x128 [] with width := 5 }).refusesRow crew 1 ∧
    (let s := queues crew [] .drainPort []
     s.givesRows 0 0 0 ∧ s.hasRoom crew 0 ∧ ¬s.refusesRow crew 0 ∧ s.givesRows 0 0 1 ∧ s.refusesRow crew 1) ∧
    (let s := queues crew [] (.lockOut 3) []
     ¬s.givesRows 0 0 1 ∧ s.refusesRow crew 1) ∧
    ¬(queues crew (List.replicate 8 (row 0x12 none)) .drainPort []).hasRoom crew 0 := by
  have gives : ∀ x : Stream, (streaming crew x).givesRows 0 0 1 = (x.isWrite = false) := fun _ => rfl
  have refuses : ∀ x : Stream, (streaming crew x).refusesRow crew 1 = (x.isWrite = false ∨ x.state ≠ .running ∨ x.width ≠ 4) := fun _ => rfl
  have room : ∀ x : Stream, (streaming crew x).hasRoom crew 1 = (x.waiting < 4) := fun _ => rfl
  refine ⟨⟨rfl, rfl, rfl, rfl, .inl rfl⟩, fun state _ => ⟨(by decide : (0x120 : W64).getLsbD 3 = false), rfl, (by decide : (0x120 : W64).getLsbD 3 = false), rfl⟩, ?_, ?_, ?_, ?_,
    ⟨trivial, (by decide : (0 : Nat) < 8), id, trivial, trivial⟩, ⟨id, trivial⟩, (by decide : ¬(8 : Nat) < 8)⟩
  all_goals
    simp only [gives, refuses, room]
    decide

/-- An elementwise word that takes the row of a read stream and gives one to a write stream. -/
theorem meets_RowOperands_streams :
    (let s := streaming (vcrew 0x12) (engineOver .running 0x120 [row 0x12 none])
     s.rowsOf 0 0 1 = row 0x12 none :: [] ∧ (row 0x12 none).width = (vcrew 0x12).lanes) ∧
    (let s := streaming (vcrew 0x12) (engineOver .running 0x128 [])
     ¬s.refusesRow (vcrew 0x12) 1 ∧ s.hasRoom (vcrew 0x12) 1) := by
  refine ⟨⟨rfl, rfl⟩, ?_, (by decide : (0 : Nat) < 4)⟩
  change ¬((engineOver .running 0x128 []).isWrite = false ∨ StreamState.running ≠ .running ∨ 4 ≠ 4)
  decide

/-- SESTOP on engines that have stored all, that stand idle, that still have rows, and that have ended ones to store. -/
theorem meets_SESTOP :
    (let s := streaming crew { engineOver .done 0x128 [] with tails := [tail [row 0x12 none]] }
     crew.count .wc < 255 ∧ (s.chan 0 0 1).endpoint = .stream 2 ∧ (s.stream 0 0 2).isWrite = true ∧
       (s.stream 0 0 2).tails = [] ++ [tail [row 0x12 none]]) ∧
    (∀ x, x ∈ [engineOver .idle 0x128 [], engineOver .running 0x120 [], engineOver .running 0x128 [row 0x12 none], engineOver .faulted 0x128 []] →
      ((streaming crew x).stream 0 0 2).tails = []) := by
  refine ⟨by decide +kernel, fun x h => ?_⟩
  revert x
  decide +kernel

/-- A chunk that has been read, with one piece to land and with two; and its marked piece left out. -/
theorem meets_EngineSteps_pieces :
    (∀ n, n ∈ [64, 200] →
      let j := { job with len := n, chunk := some { dst := [(.pa 128 0 here, n)], bytes := List.replicate n 5, marks := List.replicate n false, old := false } }
      let s := (running crew).onChan 0 0 3 fun x => { x with jobs := [j] }
      (s.chan 0 0 3).jobs = j :: [] ∧ (∃ x, j.chunk = some x ∧ x.dst = [(.pa 128 0 here, x.bytes.length)] ∧ x.bytes ≠ [] ∧
        (∀ m, m ∈ x.marks → m = false) ∧ (x.bytes.length ≤ 128 ↔ n = 64)) ∧
        s.InTheClear ∧ Memory.wf s.mem = true ∧ s.copyWindow j.agent = none) ∧
    (∀ b, b ∈ [(0 : Nat), 1] → ∃ j : CopyJob, j.kind = .gather [] b ∧ j.chunk = none ∧ j.bad = false) := by
  refine ⟨fun n h => ⟨rfl, ⟨_, rfl, ?_⟩, ⟨rfl, rfl⟩, rfl, rfl⟩, fun b _ => ⟨{ job with kind := .gather [] b }, rfl, rfl, rfl⟩⟩
  revert n
  decide +kernel

/-- A write engine whose row is stored at four places of its own, and one with rows of an ended stream to store. -/
theorem meets_EngineSteps_tails :
    (let x := { engineOver .ready 0x128 [] with tails := [tail [{ row 0x12 none with void := 0 }]] }
     let s := streaming crew x
     let z : Stream := { x with base := 64, ctl := 0x128, width := 4, next := 0, agent := Agent.reset }
     s.stream 0 0 2 = x ∧ x.tails = tail [{ row 0x12 none with void := 0 }] :: [] ∧
       (tail [{ row 0x12 none with void := 0 }]).rows = [{ row 0x12 none with void := 0 }] ∧
       ((List.range z.width).filterMap fun l => if z.next + l < z.shape.points then some (z.next + l) else none) = [0, 1, 2, 3] ∧
       s.pointPlaces z .write [0, 1, 2, 3] = .ok [.pa 64 0 here, .pa 68 0 here, .pa 72 0 here, .pa 76 0 here] ∧
       Memory.wf s.mem = true ∧ s.memMarks = [] ∧ (s.die 0).dirty = [] ∧ s.flight.cancels = [] ∧ (row 0x12 none).marks = 0) ∧
    (∀ l m, l < m → m < 4 → ∃ p q, [Place.pa 64 0 here, .pa 68 0 here, .pa 72 0 here, .pa 76 0 here][l]? = some p ∧
      [Place.pa 64 0 here, .pa 68 0 here, .pa 72 0 here, .pa 76 0 here][m]? = some q ∧ p.home + 4 ≤ q.home) := by
  refine ⟨by decide +kernel, fun l m h k => ?_⟩
  have : (l = 0 ∨ l = 1 ∨ l = 2) ∧ (m = 1 ∨ m = 2 ∨ m = 3) := by omega
  obtain ⟨rfl | rfl | rfl, rfl | rfl | rfl⟩ := this <;> first | omega | exact ⟨_, _, rfl, rfl, by decide⟩

/-- A queue of seven commands beside the one that runs, which leaves no room, and a queue of six, which does. -/
theorem meets_MatrixCommands_room :
    ∀ n, n ∈ [6, 7] →
      let m := ((engine (tcrew 0x10) fun x => { x with queue := List.replicate n (entry (.trel 0 true)), running := some (inFlight 0) }).core 0 0).matrix
      (m.queue.length + m.running.toList.length < 8 ↔ n = 6) := by
  decide +kernel


/-- A package in which a packet of die 0 is on its way, stamped 2^30 increments of the die's entry ago. -/
def lagging (s : State) : State :=
  (s.onFlight fun f => { f with packets := [{ dst := 1, target := 2, srcDie := 0, pseq := 1, barge := barge, op := none, cid := 0
                                              clock := Vector.replicate 5 0, evseq := 7 }] }).onDie 0 fun x =>
    { x with clock := x.clock.setIfInBounds 0 (2 ^ 30) }

/-- A release waits while a stamped write is that old; without one, and without dirty lines near the address, it does not. -/
theorem meets_releases :
    (lagging (holding 1)).clockHeld 0 = true ∧ (holding 1).clockHeld 0 = false ∧
    (lagging (holding 1)).crewAt holder.place = some holder ∧ (lagging (holding 1)).barge 0 5 = some barge ∧
    OffLines (Place.pa 64 0 here).home 8 128 ∧ ¬OffLines (Place.pa 64 0 here).home 8 0 := by
  unfold OffLines
  decide +kernel

/-- The first half of a group of an F64 pair; a queue whose MMA has begun, and one whose MMA has not; a burst at each end. -/
theorem meets_MatrixEngineSteps_halves :
    (let x : MmaCmd := { mma with acc := 2, f64 := true, aTag := 0x33, bTag := 0x33 }
     let r : MmaRun := { inFlight 0 with entry := entry (.mma x) }
     let s := (engine crew fun y => { y with running := some r }).onCore 0 0 fun k => { k with full := 24 }
     (s.core 0 0).matrix.running = some r ∧ r.half = false ∧ r.group < x.groups ∧ s.isFull 0 0 3 = true ∧ s.isFull 0 0 4 = true ∧
       r.entry.loads = [] ∧ (s.core 0 0).matrix.idle < 512 ∧ (s.core 0 0).matrix.burst < 2048) ∧
    (∀ q, q ∈ [entry (.mma mma), entry (.trel 0 true)] → q.begun = false) ∧
    (engine crew fun y => { y with running := some (inFlight 0), idle := 512, burst := 4096 }).crewAt crew.place = some crew ∧
    (let m := ((engine crew fun y => { y with queue := [entry (.drain drain)], drainActive := some (entry (.drain drain)) }).core 0 0).matrix
     m.drainPending = none ∧ m.drainActive.isSome = true) := by
  decide +kernel

/-- A CANCEL that is still to complete, with nothing before it. -/
theorem meets_BargeWords_completion :
    let c := { holder with held := [none], ops := [⟨.wg, 3, true, false⟩] }
    let s := (((running c).putBarge 0 5 { barge with flags := 2 }).onFlight fun f =>
      { f with cancels := [{ op := { uid := c.uid, ticket := 3 }, die := 0, record := 5 }] })
    s.findCrew c.uid = some c ∧ s.barge 0 5 = some { barge with flags := 2 } ∧ c.ops = ⟨.wg, 3, true, false⟩ :: [] ∧
      s.flight.cancels = [{ op := { uid := c.uid, ticket := 3 }, die := 0, record := 5 }] := by
  exact ⟨rfl, rfl, rfl, rfl⟩

/-- Dies that have and have not sent as many barges as they may, and hold a release back or not. -/
theorem meets_BoardingWords_sending :
    (((holding 1).die 0).sent.filter fun y => y.pkg = none && y.die = 3).length < 32 ∧ (lagging (holding 1)).clockHeld 0 = true ∧
    holder.count .wg < 255 ∧ (∀ n, n ∈ [0, 3] → ((holding 1).die n).declaredLock 0 0 = none) ∧ (16 : BitVec 8).toNat < 256 := by
  decide +kernel

/-- The home of a record in the basin, and of one that no page table of the die maps; a binding to a weir's slot, and not to another
weir or slot; a crew with an access to a peer outstanding. -/
theorem meets_GraphAndWeirWords_homes :
    ((running crew).recordHome 0 0xB000000000000080 = some 0xB000000000000080 ∧ (running crew).recordHome 0 65664 = none ∧
      (running crew).check crew.accessor .atomic 0xB000000000000080 8 128 = .ok (.chip 0xB000000000000080)) ∧
    (let b : WeirBinding := { record := 0xB000000000000080, home := 0xB000000000000080, slot := 3, notice := true }
     (b.home = 0xB000000000000080 ∧ b.slot = 3) ∧ ¬(b.home = 0xB000000000000100 ∧ b.slot = 3) ∧ ¬(b.home = 0xB000000000000080 ∧ b.slot = 4)) ∧
    (let s := (running crew).onIo fun io => { io with remote := [
       { op := { uid := crew.uid, ticket := 0 }, place := CrewRef.first, ctr := .wl, dest := none, ety := 8, addr := 512, peer := 5, tdie := 1
         pseq := 0, xbar := false, oldTie := none, fold := none, origin := 0 }] }
     (∀ r, r ∈ s.io.remote → ¬(r.op.uid = crew.uid ∧ r.addr = 128)) ∧ ∃ r, r ∈ s.io.remote ∧ r.op.uid = crew.uid) := by
  refine ⟨by decide +kernel, by decide, ?_, _, List.mem_singleton.mpr rfl, rfl⟩
  intro r h
  cases List.mem_singleton.mp h
  decide

/-- BRK in a region that stops, in one whose save area fits, and in one whose area does not. -/
theorem meets_BarriersAndMarkers_stops :
    (let s := (resident shaped (running crew)).onDie 0 fun x =>
       { x with dbg := { x.dbg with stopMap := 1 }, regs := { x.regs with saveStride := BitVec.ofNat _ (2 ^ 25) } }
     ((s.die 0).region 0).map Region.saveBytes = some (2 ^ 21 + blockBytes 0) ∧ 2 ^ 21 + blockBytes 0 ≤ (s.die 0).regs.saveStride.toNat) ∧
    ((resident shaped (running crew)).die 0).regs.saveStride.toNat < 2 ^ 21 + blockBytes 0 ∧
    (let s := (resident shaped (running crew)).onRegion 0 0 fun r => { r with phase := .stopping }
     ((s.die 0).region 0).map Region.phase = some .stopping) := by
  decide +kernel


/-- What a lock keeps beside the canal entry at its head; dies with a free landing row and with none, with the row of a credit;
dirty lines off a canal entry. -/
theorem meets_LocksTakeArrivals_records :
    (let q : CanalNote := { region := 0, lock := 2, entry := 0, seq := 9, by_ := 5 }
     let s := (arriving canalLock []).onDie 0 fun x => { x with canalNotes := [q] }
     (s.die 0).canalNotes.find? (fun q => decide (q.region = 0 ∧ q.lock = 2 ∧ q.entry = canalLock.head)) = some q ∧ q.by_ = 5) ∧
    (let s := (arriving lock []).onDie 0 fun x => { x with landing := [0], promised := [{ pkg := 5, die := 1, row := 1 }] }
     2 ∉ (s.die 0).landing ∧ (∀ x, x ∈ (s.die 0).promised → x.row ≠ 2) ∧
       ∀ j, j < 2 → ¬(j ∉ (s.die 0).landing ∧ ∀ x, x ∈ (s.die 0).promised → x.row ≠ j)) ∧
    (∃ rows : List Nat, ∀ j, j < 2048 → j ∈ rows) ∧
    OffLines (Place.chip 0xB000000000008000).home 64 (128 * 2) ∧
    (let a := { arrival none with credit := some { pkg := some 5, die := 1, pseq := 3 } }
     a.answer = none ∧ a.op = none ∧ { a with waiting := true }.waiting = true) := by
  refine ⟨by decide +kernel, by decide +kernel, ⟨List.range 2048, fun j h => List.mem_range.mpr h⟩, ?_, rfl, rfl, rfl⟩
  unfold OffLines
  decide +kernel

/-- What a crew of this cycle held: a lock buffer, and the buffers, granules and window of a footprint. -/
def left : Returned := { buffers := [247, 0], granules := 4, privBase := 0, privSize := 64 }

/-- Locks whose next buffer, and handlers whose buffers, a crew has left in this very cycle. -/
theorem meets_returned_footprints :
    (let s := (arriving (filled 4 4 0 false) []).onCore 0 0 fun k => { k with returning := [left] }
     ∃ y, y ∈ (s.core 0 0).returning ∧ 255 - 4 * 2 - (filled 4 4 0 false).nextTag ∈ y.buffers) ∧
    (let s := (startable [.firing 2 3 1 [5, 6] 64 247]).onCore 0 0 fun k => { k with returning := [left] }
     (s.core 0 0).crew 3 = none ∧ ((s.die 0).region 0).bind (fun r => s.footprint 0 0 r handler) = some ([1, 2], 64)) := by
  refine ⟨⟨left, List.mem_singleton.mpr rfl, by decide⟩, ?_⟩
  decide +kernel

/-- A row of void lanes alone, which starts a crew that ends at once. -/
theorem meets_HandlersStart_void :
    let q : Row := { row 0x12 none with width := 32, void := Mask.below 32 }
    let s := (startable []).onChan 0 0 1 fun x => { x with rows := [q] }
    (s.rowsOf 0 0 1)[0]? = some q ∧ q.claimed = none ∧ Mask.below handler.lanes &&& ~~~q.void = 0 := by
  decide +kernel

/-- Ports with frames that leave, that have failed eight times, and that wait for a response; and the tables that a peer's access
and a barrier token are translated through; the rows of credits that this die promised. -/
theorem meets_FramesFromPeers_queues :
    (∀ n, n ∈ [0, 7, 8] →
      let q : QueuedFrame := { frame := frame 5 [1, 0], after := [], tries := n }
      let s := (linked (running crew)).onPort 0 fun p => { p with held := [q] }
      (s.port 0).up = true ∧ (s.port 0).held = q :: []) ∧
    (let u := (linked (mapped crew)).acceptFrame (frame 4 [0x20000, 1, 0])
     u.tablePlace (u.die 0).regs.latchedRoot true 0x20000 = .ok (.pa 0x20000 0 (some { va := 0, size := 2 ^ 29 }))) ∧
    (let u := (linked (arriving lock [])).acceptFrame (frame 2 [0xB000000000000008, BitVec.ofNat 64 (16 + 32 * 8), 0, 1])
     u.tablePlace (u.die 0).regs.latchedRoot true 0xB000000000000008 = .ok (.chip 0xB000000000000008) ∧
       u.tablePlace (u.die 0).regs.latchedRoot true 0x20000 = .error 4 ∧ u.homeMarked (.chip 0xB000000000000008) 8 = false) ∧
    (let s := (arriving lock []).onDie 0 fun x => { x with promised := [{ pkg := 5, die := 1, row := 7 }] }
     ((s.die 0).promised.find? fun x => decide (x.pkg = 5 ∧ x.die = 1)).map Promise.row = some 7) ∧
    (let w := BitVec.ofNat 64 (5 * 2 ^ 12 + 2 * 2 ^ 48 + 2)
     (w : W64).toNat / 2 ^ 12 % 16 ∈ [5, 6, 7]) := by
  decide +kernel

/-- A walk under each policy at a running node, whose policy the die keeps. -/
theorem meets_NodesAndLaunches_cancelling :
    ∀ pol, pol ∈ [0, 1] → ∀ kind, kind ∈ [1, 2] →
      let w : ConeWalk := { todo := [0xB000000000000080], visited := [], origin := 1, pol := pol }
      let s := (node (word0 kind 2 1) 0).onDie 0 fun x => { x with walks := [w] }
      (s.die 0).walks = w :: [] ∧ nodeKind (s.sys64 0 0xB000000000000080) = kind ∧ nodeState (s.sys64 0 0xB000000000000080) = 2 ∧
        (s.die 0).cancelling = [] := by
  decide +kernel

/-- A release with a line of its result to write and one with none; a write to the window of a crew's slot behind another of the crew
and alone; a copy to a slot; and an arrival that no write holds. -/
theorem meets_WeirMessages_turns :
    (∀ off, off ∈ [0, 128] →
      let x : WeirRelease := { die := 0, record := 0xB000000000000100, home := 0xB000000000000100, previous := [], result := List.replicate 128 1, marks := List.replicate 128 false, off := off }
      let s := (weir (running bound) 2 1 0).onFlight fun f => { f with releases := [x] }
      s.flight.releases = [x] ∧ (off < x.result.length ↔ off = 0)) ∧
    (let p : ProvWrite := { uid := 0, record := 0xB000000000000100, home := 0xB000000000000100, slot := 1, key := 0xB000000000001080
                            bytes := [1, 2], marks := [] }
     let s := (weir (running bound) 1 0 0).onFlight fun f => { f with provs := [p, p] }
     s.flight.provs[0]? = some p ∧ s.flight.provs[1]? = some p ∧ s.flight.weirs = [] ∧ s.flight.arrived = [] ∧
       weirState (s.weirAt 0 p.record) = 1 ∧ weirHas (s.weirAt 0 p.record) p.slot = false) ∧
    (let j : WeirCopy := { op := { uid := 0, ticket := 0 }, agent := bound.agent, record := 0xB000000000000100, home := 0xB000000000000100
                           slot := 1, dest := 5, src := 64, dst := 0xB000000000001080, len := 128, off := 0 }
     let s := (weir (running bound) 1 0 0).onCore 0 0 fun k => { k with weirCopies := [j] }
     (s.core 0 0).weirCopies = j :: [] ∧ s.coreStopped 0 0 = false ∧ j.len ≤ j.off + 128) ∧
    (∀ home, home ∈ [0xB000000000000100, 0xB000000000000200] →
      let m : KillNotice := { uid := 0, home := home, slot := 1 }
      let s := (weir (running bound) 2 1 0).onFlight fun f => { f with notices := [m] }
      s.flight.notices[0]? = some m ∧ s.findCrew 0 = some bound ∧ (bound.weir.map WeirBinding.home = some home ↔ home = 0xB000000000000100)) := by
  refine ⟨by decide +kernel, by decide +kernel, ⟨rfl, rfl, by decide⟩, fun home h => ⟨rfl, rfl, ?_⟩⟩
  revert home
  decide +kernel


/-- A streamer whose slice is the oldest, in a package whose stacks hold nothing behind their slices; a region that stops with its crews
held, and one that is pre-empted. -/
theorem meets_CarouselRotation_stops :
    (let s := turning (fun c => { c with streamers := c.streamers.setIfInBounds 0 (some (streamer 0)) }) 0x10 State.reset
     s.stack = [] ∧ (streamer 0).held = [] ∧ (streamer 0).targets = [(0, 0, [0])]) ∧
    (∀ p, p ∈ [RegionPhase.preempting, .stopping] →
      let s := (resident { shaped with layer := some 7 } State.reset).onRegion 0 0 fun r => { r with phase := p }
      ((s.die 0).region 0).map (fun r => (r.phase, r.cores)) = some (p, [0]) ∧ (s.core 0 0).crews = []) ∧
    (State.reset.io.carousel.streamers[0]? = some none) := by
  decide +kernel

/-- Marked words of an evicted line, and a word that a die's line holds and one that it does not. -/
theorem meets_ErrorsAndReports_lines :
    (let l := { dirtyLine with marks := [32] }
     let s := (running crew).onDie 0 fun x => { x with dirty := [l] }
     (s.die 0).dirty[0]? = some l ∧ (s.die 0).dirty[1]? = none ∧ (l.bytes.any fun p => p.1 / 8 = 256 / 8) = true ∧
       (l.bytes.any fun p => p.1 / 8 = 64 / 8) = false ∧ s.keyOk 256 = true) := by
  decide +kernel

/-- A partition with a node whose record names die 1, at a die that is at a boundary; one whose record names die 5. -/
theorem meets_PartitionSwaps_nodes :
    (∀ n, n ∈ [1, 8] → (BitVec.ofNat 64 n : W64).toNat % 16 < 5 ∨ 7 < (BitVec.ofNat 64 n : W64).toNat % 16) ∧ ¬((5 : W64).toNat % 16 < 5 ∨ 7 < (5 : W64).toNat % 16) ∧
    ((swapping 0x20000 []).die 0).discarding = [] ∧ ((swapping 0x20000 []).die 0).part = none := by
  decide +kernel

/-- An access that an order point holds for a crew that stands saved; a crew inside an access; a copy inside a chunk; a save area that
fits. -/
theorem meets_PreemptionAndRestore_held :
    (let c : Crew := { crew with begun := .access 0 .bank 0 }
     let w : Crew := { crew with uid := 4, cid := 9 }
     let h : Chunk := { kind := .bank, point := 0, src := 0, cid := 9, run := 1, seq := 0 }
     let s := ((saved false 1).putCrew c).onRecorder 0 fun r => { r with mode := 2, chunks := [h] }
     c.begun.isAccess = true ∧ (s.recorderOf 0).current .bank 0 = some h ∧ w.cid = h.cid) ∧
    crew.begun.isAccess = false ∧ { shaped with privPool := 0 } = shaped ∧
    2 ^ 21 + 1 * (2 ^ 24 + 0) ≤ (((resident shaped (running crew)).onDie 0 fun x =>
      { x with regs := { x.regs with saveStride := 2 ^ 25 } }).die 0).regs.saveStride.toNat ∧
    (let j := { job with chunk := some { dst := [(.pa 128 0 here, 64)], bytes := List.replicate 64 5, marks := [], old := true } }
     j.chunk ≠ none) := by
  decide +kernel

/-- A region to flush with a copy inside a chunk, and a core that is still. -/
theorem meets_FlushesAndDiscarding_chunks :
    (let j := { job with chunk := some { dst := [(.pa 128 0 here, 64)], bytes := List.replicate 64 5, marks := [], old := false } }
     let s := resident (locked lock) ((running crew).onChan 0 0 3 fun x => { x with jobs := [j, job] })
     (s.chan 0 0 3).jobs = [j, job] ∧ s.nodesOf 0 0 = [] ∧ ((s.die 0).region 0).map Region.phase = some .running) ∧
    ((collecting (.flush 2) State.reset).core 0 0).still = true := by
  decide +kernel

/-- A stop of a region whose save area fits, and of one whose area does not; a step of a saved one. -/
theorem meets_DebugStops_areas :
    (∀ stride, stride ∈ [20, 25] →
      let s := (resident shaped (running crew)).onDie 0 fun x => { x with regs := { x.regs with saveStride := BitVec.ofNat 64 (2 ^ stride) } }
      ((s.die 0).region 0).map Region.phase = some .running ∧ (s.die 0).collector = none ∧ (s.die 0).collectQueue = [] ∧
        ((s.die 0).regs.saveStride.toNat < 2 ^ 21 + 1 * (2 ^ 24 + 0) ↔ stride = 20)) ∧
    (let v : W64 := 0x12
     v.getLsbD 4 = true ∧ v &&& 0xFFFF000000FFFFE0 = 0 ∧ v.toNat / 2 ^ 40 % 2 ^ 8 = 0) ∧
    (CollectKind.stop 0 named).isStop = true := by
  decide +kernel

/-- A saved format word with its reserved bits zero and with one set; a package whose ports hold frames. -/
theorem meets_RegisterWrites_formats :
    (0x0000001F0000001F : W64) &&& 0xFFFE00E0FFFE00E0 = 0 ∧ (0x20 : W64) &&& 0xFFFE00E0FFFE00E0 ≠ 0 := by
  decide +kernel

/-- A TLBINV whose chunk was translated before it, and one whose chunk was not; a recording with STALL 1 whose HEAD may move. -/
theorem meets_InvalidationsServiceAndRecording_waits :
    (∀ b, b ∈ [true, false] →
      let j := { job with chunk := some { dst := [(.pa 128 0 here, 64)], bytes := List.replicate 64 5, marks := [], old := b } }
      let s := (running crew).onChan 0 0 3 fun x => { x with jobs := [j] }
      ((s.die 0).cores.any fun k => k.2.chans.toList.any fun n => n.jobs.any fun j => (j.chunk.map fun h => h.old) = some true) = b) ∧
    (let s := State.reset.onRecorder 0 fun r => { r with mode := 1, stall := true, logSize := 4, logTail := 1 }
     let v : W64 := BitVec.ofNat 64 (4 * 2 ^ 40 + 3 * 2 ^ 20 + 1)
     (s.die 0).recorder.mode = 1 ∧ (s.die 0).recorder.stall = true ∧ BitVec.ofNat 20 (v.toNat / 2 ^ 40) = (s.die 0).recorder.logSize ∧
       BitVec.ofNat 20 v.toNat = (s.die 0).recorder.logTail ∧ (s.die 0).recorder.pending = []) := by
  decide +kernel

/-- An address in a remote window, and one that no window holds; and a package without stamps. -/
theorem meets_HostMemoryMessages_windows :
    (let s := (stood .ready (mapped crew)).onIo fun io => { io with rwin := io.rwin.setIfInBounds 0 0x8000000000000000 }
     (stood .ready (mapped crew)).remoteWindow 0x20000 = none ∧ (s.remoteWindow 0x20000).isSome = true) ∧
    (mapped crew).stamps = [] ∧ (stood .ready (mapped crew)).io.sec.state = .ready := by
  decide +kernel


theorem firstFree_taken (b : Barge) (m : Nat) : ∀ k, firstFree k ((List.range' k m).map fun i => (i, b)) = k + m := by
  induction m with
  | zero => intro k; rfl
  | succ m ih =>
    intro k
    simp only [List.range'_succ, List.map_cons, firstFree, if_true, ih]
    omega

/-- A die with a free record, and one whose 65,536 records are all taken. -/
theorem meets_records :
    ((holding 1).die 0).freeRecord = some 0 ∧
    ({ (holding 1).die 0 with barges := (List.range' 0 65536).map fun i => (i, barge) } : Die).freeRecord = none := by
  refine ⟨rfl, ?_⟩
  simp only [Die.freeRecord]
  rw [firstFree_taken]
  rfl

end Sys2Proof.Tests
end

section
/-! LEMMAS. The fields of a 64-bit word as numbers: how the statements write them, beside how the model does. -/

namespace Sys2Proof.Machine

theorem toNat_field (a : W64) (lo n : Nat) : (a.extractLsb' lo n).toNat = a.toNat / 2 ^ lo % 2 ^ n := by
  rw [BitVec.extractLsb'_toNat, Nat.shiftRight_eq_div_pow]

theorem field_eq_ofNat (a : W64) (lo n : Nat) : a.extractLsb' lo n = BitVec.ofNat n (a.toNat / 2 ^ lo % 2 ^ n) :=
  BitVec.eq_of_toNat_eq (by rw [toNat_field, BitVec.toNat_ofNat, Nat.mod_mod])

theorem field_eq_zero_iff (a : W64) (lo n : Nat) : a.extractLsb' lo n = 0#n ↔ a.toNat / 2 ^ lo % 2 ^ n = 0 := by
  rw [← toNat_field, ← BitVec.toNat_inj, BitVec.toNat_ofNat, Nat.zero_mod]

theorem topByte_eq_div (a : W64) : topByte a = a.toNat / 2 ^ 56 := by
  rw [topByte, BitVec.toNat_ushiftRight, Nat.shiftRight_eq_div_pow]

end Sys2Proof.Machine
end

section
/-! LEMMAS. The checks of an access, path by path (R8, R141, R142, R299, R307, R308). -/

namespace Sys2Proof.Machine

/-! ## The form of a register address (R8, R308) -/

theorem dieReserved_iff (d : Nat) : dieReserved d = true ↔ 5 ≤ d ∧ d ≤ 7 := by
  simp only [dieReserved, Bool.and_eq_true, decide_eq_true_eq]

/-- The zero bits of a register address, as numbers (R308). -/
theorem regZeros_iff (a : W64) :
    regZeros a = true ↔ a.toNat / 2 ^ 16 % 2 ^ 26 = 0 ∧ a.toNat % 8 = 0 ∧ a.toNat / 2 ^ 50 % 4 ≠ 3 ∧
      (a.toNat / 2 ^ 50 % 4 = 0 → a.toNat / 2 ^ 44 % 64 = 0) ∧ (a.toNat / 2 ^ 50 % 4 = 2 ∨ a.toNat / 2 ^ 42 % 4 = 0) := by
  simp only [regZeros, Bool.and_eq_true, Bool.or_eq_true, beq_iff_eq, bne_iff_ne, decide_eq_true_eq, BitVec.ofNat_eq_ofNat,
    field_eq_zero_iff, toNat_field, pow_zero, Nat.div_one, Nat.reducePow, ne_eq, and_assoc, Decidable.imp_iff_not_or]

/-! ## What the first checks leave to the others (R142) -/

section Checks
variable {s : State} {w : Accessor} {k : Kind} {a : W64} {size align : Nat}

theorem check_of_malformed (h : topOk a = false) : s.check w k a size align = .error 3 := by
  simp only [State.check, h, Bool.not_false, if_true]

theorem check_of_barred_path (ht : topOk a = true) (hp : s.pathOk w.die w.region k a = false) :
    s.check w k a size align = .error 2 := by
  simp only [State.check, ht, hp, Bool.not_true, Bool.not_false, if_true, Bool.false_eq_true, if_false]

/-- Alignment, range and place are what is left of the checks for an address whose path allows the access. -/
theorem check_of_path (ht : topOk a = true) (hp : s.pathOk w.die w.region k a = true) :
    s.check w k a size align = if a.toNat % align ≠ 0 then .error 1
      else if rangeOk w.privSize a size = true then s.placeOf w k a else .error 3 := by
  simp only [State.check, ht, hp, Bool.not_true, Bool.false_eq_true, if_false, bne_iff_ne, Bool.not_eq_true']
  cases rangeOk w.privSize a size <;> rfl

/-- An access ends with detail 1 when misaligned, with detail 3 out of its range, and names the place p else. -/
def Reaches (s : State) (w : Accessor) (k : Kind) (a : W64) (size align : Nat) (inside : Prop) (p : Place) : Prop :=
  (a.toNat % align ≠ 0 → s.check w k a size align = .error 1) ∧
  (a.toNat % align = 0 → ¬inside → s.check w k a size align = .error 3) ∧
  (a.toNat % align = 0 → inside → s.check w k a size align = .ok p)

theorem reaches_of_path {inside : Prop} {p : Place} (ht : topOk a = true) (hp : s.pathOk w.die w.region k a = true)
    (hr : rangeOk w.privSize a size = true ↔ inside) (hplace : s.placeOf w k a = .ok p) :
    Reaches s w k a size align inside p := by
  simp only [Reaches, check_of_path ht hp, hplace]
  exact ⟨fun h => if_pos h, fun h hi => by rw [if_neg (not_not.2 h), if_neg (mt hr.1 hi)],
    fun h hi => by rw [if_neg (not_not.2 h), if_pos (hr.2 hi)]⟩

/-! ## Path by path (R299) -/

theorem check_of_no_path (h : topByte a ∉ [0, 0xB0, 0xB1, 0xB2, 0xB3, 0xC0, 0xD0, 0xE0, 0xF0]) :
    s.check w k a size align = .error 3 := by
  refine check_of_malformed ?_
  simp only [List.mem_cons, List.not_mem_nil, or_false, not_or] at h
  obtain ⟨h0, hb0, hb1, hb2, hb3, hc, hd, he, hf⟩ := h
  have hb : ¬(0xB0 ≤ topByte a ∧ topByte a ≤ 0xB3) := by omega
  simp [topOk, h0, hb, hc, hd, he, hf]

theorem check_generic_remote (h : topByte a = 0) (hw : (s.remoteWindow a).isSome) : s.check w k a size align = .error 2 :=
  check_of_barred_path (by simp [topOk, h]) (by simp [State.pathOk, h, hw])

/-- A generic address that no remote window claims is checked for alignment and then translated. -/
theorem check_generic_local (h : topByte a = 0) (hw : s.remoteWindow a = none) :
    s.check w k a size align = if a.toNat % align ≠ 0 then .error 1 else
      match s.translate w.die w.core a.toNat with
      | none => .error 4
      | some e => if (if k.writes then e.w else e.r) then .ok (e.place a.toNat) else .error 5 := by
  rw [check_of_path (by simp [topOk, h]) (by simp [State.pathOk, h, hw])]
  have hr : rangeOk w.privSize a size = true := by simp [rangeOk, h]
  simp only [hr, if_true, State.placeOf, h]
  split
  · rfl
  · cases s.translate w.die w.core a.toNat with
    | none => rfl
    | some e => cases k.writes <;> simp <;> cases e.r <;> cases e.w <;> rfl

theorem check_basin_malformed (h : 0xB0 ≤ topByte a ∧ topByte a ≤ 0xB3) (hz : a.toNat / 2 ^ 27 % 2 ^ 29 ≠ 0) :
    s.check w k a size align = .error 3 := by
  have h0 : topByte a ≠ 0 := by omega
  refine check_of_malformed ?_
  simpa [topOk, h0, h, field_eq_zero_iff] using hz

theorem check_basin (h : 0xB0 ≤ topByte a ∧ topByte a ≤ 0xB3) (hz : a.toNat / 2 ^ 27 % 2 ^ 29 = 0) :
    Reaches s w k a size align (a.toNat % 2 ^ 27 + size ≤ 96 * 2 ^ 20) (.chip a.toNat) := by
  have h0 : topByte a ≠ 0 := by omega
  have hd : topByte a ≠ 0xD0 := by omega
  have hf : topByte a ≠ 0xF0 := by omega
  refine reaches_of_path ?_ ?_ ?_ ?_
  · simpa [topOk, h0, h, field_eq_zero_iff] using hz
  · simp [State.pathOk, h0, h]
  · simp [rangeOk, h]
  · simp [State.placeOf, h0, hd, hf]

/-- The zero bits and the die of a tile-store address (R299). -/
theorem topOk_tile_iff (h : topByte a = 0xC0) :
    topOk a = true ↔ a.toNat / 2 ^ 52 % 16 ≤ 3 ∧ a.toNat / 2 ^ 22 % 2 ^ 24 = 0 := by
  simp [topOk, h, Nat.shiftRight_eq_div_pow, field_eq_zero_iff]

/-- A tile store answers the region of its core on its own die, and no atomic (R141, R307). -/
theorem pathOk_tile_iff (h : topByte a = 0xC0) (d region : Nat) :
    s.pathOk d region k a = true ↔
      k ≠ .atomic ∧ a.toNat / 2 ^ 52 % 16 = d ∧ (s.core d (a.toNat / 2 ^ 46 % 64)).region = some region := by
  simp [State.pathOk, h, tileDie, tileCore, Nat.shiftRight_eq_div_pow, and_assoc]

theorem check_tile (ht : topByte a = 0xC0) (hform : topOk a = true) (hp : s.pathOk w.die w.region k a = true) :
    Reaches s w k a size align (a.toNat % 2 ^ 22 + size ≤ 2 ^ 22) (.chip a.toNat) := by
  refine reaches_of_path hform hp ?_ ?_
  · simp [rangeOk, ht]
  · simp [State.placeOf, ht]

theorem topOk_barge_iff (h : topByte a = 0xD0) :
    topOk a = true ↔ a.toNat / 2 ^ 52 % 16 ≤ 3 ∧ a.toNat / 2 ^ 22 % 2 ^ 30 = 0 := by
  simp [topOk, h, Nat.shiftRight_eq_div_pow, field_eq_zero_iff]

/-- Barge stores are read only (R141). -/
theorem pathOk_barge_iff (h : topByte a = 0xD0) (d region : Nat) :
    s.pathOk d region k a = true ↔ k = .load ∨ k = .read := by
  simp [State.pathOk, h]

theorem check_barge (ht : topByte a = 0xD0) (hform : topOk a = true) (hp : s.pathOk w.die w.region k a = true) :
    Reaches s w k a size align (a.toNat % 2 ^ 22 + size ≤ 2 ^ 22) (.barge (a.toNat / 2 ^ 52 % 16) (a.toNat % 2 ^ 22)) := by
  refine reaches_of_path hform hp ?_ ?_
  · simp [rangeOk, ht]
  · simp [State.placeOf, ht, tileDie, Nat.shiftRight_eq_div_pow]

/-- The form of a register address: the zero bits, and no die that R8 reserves (R308). -/
theorem topOk_register_iff (h : topByte a = 0xE0) :
    topOk a = true ↔ regZeros a = true ∧ ¬(5 ≤ a.toNat / 2 ^ 52 % 16 ∧ a.toNat / 2 ^ 52 % 16 ≤ 7) := by
  simp [topOk, h, Nat.shiftRight_eq_div_pow, ← dieReserved_iff]

/-- No access of a crew or an engine goes to the registers (R141). -/
theorem pathOk_register (h : topByte a = 0xE0) (d region : Nat) : s.pathOk d region k a = false := by
  simp [State.pathOk, h]

theorem topOk_window_iff (h : topByte a = 0xF0) : topOk a = true ↔ a.toNat / 2 ^ 32 % 2 ^ 24 = 0 := by
  simp [topOk, h, field_eq_zero_iff]

/-- The window of a crew's own run on path 0xF0 takes no atomic (R141). -/
theorem pathOk_window_iff (h : topByte a = 0xF0) (d region : Nat) : s.pathOk d region k a = true ↔ k ≠ .atomic := by
  simp [State.pathOk, h]

theorem check_window (ht : topByte a = 0xF0) (hform : topOk a = true) (hp : s.pathOk w.die w.region k a = true) :
    Reaches s w k a size align (a.toNat % 2 ^ 32 + size ≤ w.privSize)
      (.pa (s.poolBase w.die w.core + w.privBase + a.toNat % 2 ^ 32) 0 none) := by
  refine reaches_of_path hform hp ?_ ?_
  · simp [rangeOk, ht]
  · simp [State.placeOf, ht]

end Checks

/-- Settles O19, path by path of the address map. -/
theorem accessChecksInOrder : Obligations.AccessChecksInOrder := by
  intro s w k a size align _
  simp only [← topByte_eq_div]
  refine ⟨check_of_no_path, check_generic_remote, fun h0 hw => ?_, fun hlo hhi => ?_, fun hc => ?_, fun hd => ?_, fun he => ?_,
    fun hf => ?_⟩
  · rw [check_generic_local h0 hw]
    refine ⟨fun ha => if_pos ha, fun ha ht => ?_, fun e ha ht => ?_⟩
    · rw [if_neg (not_not.2 ha), ht]
    · rw [if_neg (not_not.2 ha), ht]
      rfl
  · exact ⟨check_basin_malformed ⟨hlo, hhi⟩, check_basin ⟨hlo, hhi⟩⟩
  · rw [← topOk_tile_iff hc, ← pathOk_tile_iff hc]
    exact ⟨fun hform => check_of_malformed (Bool.eq_false_iff.2 hform),
      fun hform hmine => check_of_barred_path hform (Bool.eq_false_iff.2 hmine), fun hform hmine => check_tile hc hform hmine⟩
  · rw [← topOk_barge_iff hd, ← pathOk_barge_iff hd]
    exact ⟨fun hform => check_of_malformed (Bool.eq_false_iff.2 hform),
      fun hform hreads => check_of_barred_path hform (Bool.eq_false_iff.2 hreads), fun hform hreads => check_barge hd hform hreads⟩
  · have hform := topOk_register_iff he
    rw [regZeros_iff, and_assoc, and_assoc, and_assoc, and_assoc] at hform
    rw [← hform]
    exact ⟨fun hbad => check_of_malformed (Bool.eq_false_iff.2 hbad), fun hok => check_of_barred_path hok (pathOk_register he _ _)⟩
  · rw [ne_eq, ← topOk_window_iff hf]
    refine ⟨fun hform => check_of_malformed (Bool.eq_false_iff.2 hform), fun hform hk => ?_, fun hform hk => ?_⟩
    · exact check_of_barred_path hform (Bool.eq_false_iff.2 fun hp => (pathOk_window_iff hf _ _).1 hp hk)
    · exact check_window hf hform ((pathOk_window_iff hf _ _).2 hk)

end Sys2Proof.Machine
end

section
/-! LEMMAS. Results of checked reads: what a sequence of them that ends without an error says of each (R278). -/

namespace Sys2Proof.Machine

variable {ε α β : Type}

theorem bind_eq_ok_iff {x : Except ε α} {f : α → Except ε β} {y : β} :
    (x >>= f) = .ok y ↔ ∃ a, x = .ok a ∧ f a = .ok y := by
  cases x <;> simp [bind, Except.bind]

/-- A list that is mapped without an error gives each of its elements its own result. -/
theorem forall₂_of_mapM_ok {f : α → Except ε β} {xs : List α} {ys : List β} (h : xs.mapM f = .ok ys) :
    List.Forall₂ (fun x y => f x = .ok y) xs ys := by
  induction xs generalizing ys with
  | nil =>
    rw [List.mapM_nil] at h
    cases h
    exact .nil
  | cons x xs ih =>
    rw [List.mapM_cons, bind_eq_ok_iff] at h
    obtain ⟨y, hy, h⟩ := h
    rw [bind_eq_ok_iff] at h
    obtain ⟨ys', hys, h⟩ := h
    cases h
    exact .cons hy (ih hys)

theorem length_of_mapM_ok {f : α → Except ε β} {xs : List α} {ys : List β} (h : xs.mapM f = .ok ys) : ys.length = xs.length :=
  (forall₂_of_mapM_ok h).length_eq.symm

theorem exists_of_mapM_ok {f : α → Except ε β} {xs : List α} {ys : List β} (h : xs.mapM f = .ok ys) {x : α}
    (hx : x ∈ xs) :
    ∃ y, f x = .ok y := by
  have hall := forall₂_of_mapM_ok h
  clear h
  induction hall with
  | nil => cases hx
  | cons hxy _ ih =>
    cases hx with
    | head => exact ⟨_, hxy⟩
    | tail _ hx => exact ih hx

theorem reading_eq_ok_iff {x : Except ReadFault α} {y : α} : reading x = .ok y ↔ x = .ok y := by
  cases x <;> simp [reading]

theorem mustHold_eq_ok_iff {n : Nat} {b : Bool} {u : Unit} : mustHold n b = .ok u ↔ b = true := by
  cases b <;> simp [mustHold, refuse]

end Sys2Proof.Machine
end

section
/-! LEMMAS. What a partition that passes its checks is like, and the swap at a reconfiguration boundary (R8, R252, R277, R278). -/

namespace Sys2Proof.Machine

/-! ## Words of tables (R278) -/

section Reads
variable {s : State} {root a : W64}

theorem readWord_of_other_path (h : topByte a ≠ 0) : s.readWord root a = .error ⟨6, 4, a⟩ := by
  simp [State.readWord, h]

theorem readWord_of_untranslated {e : Nat} (h0 : topByte a = 0) (h : s.sysPlace root false a = .error e) :
    s.readWord root a = .error ⟨6, e, a⟩ := by
  simp [State.readWord, h0, h]

theorem readWord_of_marked {p : Place} (h0 : topByte a = 0) (h : s.sysPlace root false a = .ok p)
    (hm : s.homeMarked p 8 = true) : s.readWord root a = .error ⟨15, 2, a⟩ := by
  simp [State.readWord, h0, h, hm]

/-- A read of several words ends in the error of its first. -/
theorem readWords_of_first_error {f : ReadFault} (h : s.readWord root a = .error f) (n : Nat) :
    s.readWords root a (n + 1) = .error f := by
  rw [State.readWords, List.range_succ_eq_map, List.mapM_cons, Nat.mul_zero, BitVec.add_zero, h]
  rfl

theorem length_readWords {n : Nat} {ws : List W64} (h : s.readWords root a n = .ok ws) : ws.length = n := by
  rw [length_of_mapM_ok h, List.length_range]

/-- A partition whose own descriptor cannot be read is refused with reason 5 (R278). -/
theorem readPartition_of_first_error {f : ReadFault} (h : s.readWord root a = .error f) (d : Nat) :
    s.readPartition d root a = .error (5, some f) := by
  rw [State.readPartition, readWords_of_first_error h 7]
  rfl

end Reads

/-! ## A partition that passes its checks (R274, R278) -/

/-- What the checks of a swap have established of a partition that they pass, of whose descriptor `ws` are the words. -/
structure Accepted (s : State) (d : Nat) (root a : W64) (p : PartitionRead) (ws : List W64) : Prop where
  read : s.readWords root a 8 = .ok ws
  addr : p.part.addr = a
  regions : p.part.regions.length = ((wordAt ws 0).extractLsb' 40 8).toNat
  nodes : p.part.nodes.length = ((wordAt ws 0).extractLsb' 48 16).toNat
  sources : p.part.sources.length = ((wordAt ws 0).extractLsb' 32 8).toNat
  nodesOk : ∀ n, n ∈ p.part.nodes → ∃ x, s.readWords root n 16 = .ok x ∧ nodeWordsOk x = true
  distinct : distinctRegions p.part.regions = true
  apart : ((List.range 4).any fun e => e != d &&
    (((s.die e).part.map Partition.nodes).getD []).any fun n => p.part.nodes.contains n) = false

theorem accepted_of_readPartition {s : State} {d : Nat} {root a : W64} {p : PartitionRead}
    (h : s.readPartition d root a = .ok p) : ∃ ws, Accepted s d root a p ws := by
  simp only [State.readPartition, State.readTable, bind_eq_ok_iff, reading_eq_ok_iff, mustHold_eq_ok_iff] at h
  obtain ⟨ws, hws, regs, hregs, cfgs, hcfgs, nodes, hnodes, _, hrecords, sources, hsources, _, hdistinct, _, _, _, hapart, hp⟩ := h
  cases hp
  refine ⟨ws, { read := hws, addr := rfl, regions := ?_, nodes := length_readWords hnodes, sources := ?_, nodesOk := ?_
                distinct := hdistinct, apart := by simpa using hapart }⟩
  · rw [length_of_mapM_ok hcfgs, length_readWords hregs]
  · rw [length_of_mapM_ok hsources, List.length_range]
  · intro n hn
    obtain ⟨_, hread⟩ := exists_of_mapM_ok hrecords hn
    simpa only [bind_eq_ok_iff, reading_eq_ok_iff, mustHold_eq_ok_iff] using hread

/-- A node record that passes is of one of the four kinds; but for a weir's, its DIE is none of those that R8 reserves. -/
theorem nodeWordsOk_kind {ws : List W64} (h : nodeWordsOk ws = true) :
    nodeKind (wordAt ws 0) ≠ 0 ∧ nodeKind (wordAt ws 0) < 5 ∧
      (nodeKind (wordAt ws 0) ≠ 3 → (wordAt ws 4).toNat % 16 < 5 ∨ 7 < (wordAt ws 4).toNat % 16) := by
  by_cases hw : nodeKind (wordAt ws 0) = 3
  · omega
  · simp only [nodeWordsOk, if_neg hw, Bool.and_eq_true, Bool.or_eq_true, decide_eq_true_eq, Bool.not_eq_true'] at h
    obtain ⟨⟨⟨⟨⟨⟨⟨⟨⟨hkind, -⟩, -⟩, -⟩, -⟩, -⟩, -⟩, -⟩, hdie⟩, -⟩ := h
    rw [← Bool.not_eq_true, dieReserved_iff, toNat_field] at hdie
    omega

theorem pairwise_of_distinctRegions {cfgs : List RegionCfg} (h : distinctRegions cfgs = true) :
    cfgs.Pairwise fun g h => g.num ≠ h.num := by
  have hone : ∀ g, g ∈ cfgs → (cfgs.map RegionCfg.num).count g.num = 1 := by
    intro g hg
    rw [List.count, List.countP_map]
    simpa [Function.comp_def, beq_eq_decide] using List.all_eq_true.1 h g hg
  rw [← List.pairwise_map (f := RegionCfg.num) (R := (· ≠ ·))]
  refine List.nodup_iff_count_le_one.2 fun n => ?_
  by_cases hn : n ∈ cfgs.map RegionCfg.num
  · obtain ⟨g, hg, rfl⟩ := List.mem_map.1 hn
    exact (hone g hg).le
  · rw [List.count_eq_zero_of_not_mem hn]
    exact Nat.zero_le 1

/-- No partition of another die lists a node of a partition that passes. -/
theorem Accepted.not_elsewhere {s : State} {d e : Nat} {root a n : W64} {p : PartitionRead} {ws : List W64} {q : Partition}
    (h : Accepted s d root a p ws) (he : e < 4) (hne : e ≠ d) (hq : (s.die e).part = some q) (hn : n ∈ q.nodes) :
    n ∉ p.part.nodes := by
  intro hmem
  have hbad : ((List.range 4).any fun e => e != d &&
      (((s.die e).part.map Partition.nodes).getD []).any fun n => p.part.nodes.contains n) = true := by
    refine List.any_eq_true.2 ⟨e, List.mem_range.2 he, ?_⟩
    simp only [hq, Option.map_some, Option.getD_some, Bool.and_eq_true, bne_iff_ne]
    exact ⟨hne, List.any_eq_true.2 ⟨n, hn, List.contains_iff_mem.2 hmem⟩⟩
  exact Bool.false_ne_true (h.apart.symm.trans hbad)

/-! ## The swap (R252, R277) -/

section Swap
variable {s : State} {d : Nat}

theorem atBoundary_iff : s.atBoundary d = true ↔ (s.die d).crews = [] ∧ (∀ p, p ∈ (s.die d).cores → p.2.drained = true) ∧
    (s.die d).collector = none ∧ (s.die d).collectQueue = [] := by
  simp [State.atBoundary, and_assoc]

theorem exec_partitionSwap_waits (h : (s.die d).regs.swapping = false ∨ s.atBoundary d = false) :
    exec (.partitionSwap d) s = .next s := by
  show execPartitionSwap d s = .next s
  rcases h with h | h <;> simp [execPartitionSwap, h]

theorem exec_partitionSwap_refuses {e : Nat × Option ReadFault} (hs : (s.die d).regs.swapping = true)
    (hb : s.atBoundary d = true) (h : s.readPartition d (s.die d).regs.ptRoot (s.die d).regs.partBase = .error e) :
    exec (.partitionSwap d) s = .next (s.refusePartition d e) := by
  show execPartitionSwap d s = _
  simp [execPartitionSwap, hs, hb, h]

theorem exec_partitionSwap_accepts {p : PartitionRead} (hs : (s.die d).regs.swapping = true) (hb : s.atBoundary d = true)
    (h : s.readPartition d (s.die d).regs.ptRoot (s.die d).regs.partBase = .ok p) :
    exec (.partitionSwap d) s = .next (s.swapIn d p) := by
  show execPartitionSwap d s = _
  simp [execPartitionSwap, hs, hb, h]

/-- When every resident region stays, and neither partition has adapters or sources, the swap is the installation alone. -/
theorem swapIn_of_staying {p : PartitionRead} (hstay : ∀ r, r ∈ (s.die d).regions → r.stays p.part = true)
    (hadapters : p.adapters = []) (hold : ∀ q, (s.die d).part = some q → q.sources = []) :
    s.swapIn d p = s.installPartition d p.part := by
  have hgone : ((s.die d).regions.filter fun r => !r.stays p.part) = [] := by simpa using hstay
  have hsaved : s.saveSources d = s := by
    cases hq : (s.die d).part with
    | none => simp [State.saveSources, hq]
    | some q => simp [State.saveSources, hq, hold q hq]
  simp only [State.swapIn, hgone, hadapters, List.foldl_nil, hsaved]

theorem die_installPartition (hd : d < 4) {p : Partition} (hp : p.sources = []) :
    (s.installPartition d p).die d = { s.die d with
      part := some p
      lockDir := ((s.die d).lockDir.filter fun e => !((lockEntries p).any fun f => f.1 = e.1 && f.2.1 = e.2.1)) ++ lockEntries p
      discarding := (s.die d).discarding.filter fun e => p.regions.any fun g => g.num = e.1
      cores := if (s.die d).regs.latchedRoot != (s.die d).regs.ptRoot then (s.die d).cores.map fun c => (c.1, { c.2 with tlb := [] })
               else (s.die d).cores
      regs := { (s.die d).regs with latchedRoot := (s.die d).regs.ptRoot, swapping := false, refused := false, partReason := 0 } } := by
  simp only [State.installPartition, State.die_onDie, hd, and_self, if_true, Option.map_some, hp, List.map_nil]
  cases p
  subst hp
  rfl

theorem die_installPartition_ne {e : Nat} (he : e ≠ d) (p : Partition) : (s.installPartition d p).die e = s.die e := by
  simp only [State.installPartition, State.die_onDie, he, false_and, if_false]

theorem stays_of_listed {r : Region} {p : Partition}
    (h : ∃ g, g ∈ p.regions ∧ g.num = r.cfg.num ∧ g.addr = r.cfg.addr ∧ g.version = r.cfg.version) : r.stays p = true := by
  obtain ⟨g, hg, hnum, haddr, hversion⟩ := h
  exact List.any_eq_true.2 ⟨g, hg, by simp [hnum, haddr, hversion]⟩

end Swap

/-- Settles O50: the swap as installation of an accepted partition, and what its acceptance says. -/
theorem partitionSwaps : Obligations.PartitionSwaps := by
  intro s d hd
  simp only [← atBoundary_iff, Bool.not_eq_true]
  refine ⟨exec_partitionSwap_waits, fun hs hb => ⟨?_, ?_, ?_⟩, fun root a h => ?_, fun root a e h0 h => ?_,
    fun root a p h0 h hm => ?_, ?_, ?_⟩
  · exact fun n h => exec_partitionSwap_refuses hs hb h
  · exact fun n f h => exec_partitionSwap_refuses hs hb h
  · intro p h hadapters hsources hold hlisted
    have hswap := swapIn_of_staying (fun r hr => stays_of_listed (hlisted r hr)) hadapters hold
    refine ⟨_, (exec_partitionSwap_accepts hs hb h).trans (congrArg _ hswap), ?_⟩
    rw [die_installPartition hd hsources]
    refine ⟨rfl, rfl, rfl, fun g k => ?_, rfl, rfl, fun e he => die_installPartition_ne he p.part⟩
    simp
  · exact readPartition_of_first_error (readWord_of_other_path h) d
  · exact readPartition_of_first_error (readWord_of_untranslated h0 h) d
  · exact readPartition_of_first_error (readWord_of_marked h0 h hm) d
  · intro root a p n h hn
    obtain ⟨ws, hacc⟩ := accepted_of_readPartition h
    obtain ⟨x, hx, hok⟩ := hacc.nodesOk n hn
    exact ⟨x, hx, nodeWordsOk_kind hok⟩
  · intro root a p h
    obtain ⟨ws, hacc⟩ := accepted_of_readPartition h
    refine ⟨ws, hacc.read, hacc.addr, hacc.regions.trans (toNat_field _ _ _), ?_, hacc.sources.trans (toNat_field _ _ _),
      pairwise_of_distinctRegions hacc.distinct, fun e q n he hne hq hn => hacc.not_elsewhere he hne hq hn⟩
    rw [hacc.nodes, toNat_field]
    omega

end Sys2Proof.Machine
end

section
/-! LEMMAS. Words that the package itself writes at their home slices while nothing is encrypted (R301, R320, R351, R403). -/

namespace Sys2Proof.Machine

theorem State.keepOld_eq (s : State) (pa : Nat) : s.keepOld pa = { s with stack := (s.keepOld pa).stack } := by
  unfold State.keepOld
  split <;> rfl

/-- Consecutive bytes written at their home slices in the clear: memory takes them, and stacks keep what they held. -/
theorem State.setHomeBytes_spec (bs : List Byte) (pa : Nat) {s : State} (hc : s.InTheClear) :
    let t := bs.zipIdx.foldl (fun t x => t.setHomeByte 0 (pa + x.2) x.1) s
    t = { s with mem := t.mem, stack := t.stack } ∧ t.mem = (bs.zipIdx.foldl (fun t x => t.setCell (pa + x.2) x.1) s).mem := by
  induction bs using List.reverseRecOn with
  | nil => exact ⟨rfl, rfl⟩
  | append_singleton front b ih =>
    obtain ⟨hframe, hmem⟩ := ih
    simp only [List.zipIdx_append, List.foldl_append, List.zipIdx_cons, List.zipIdx_nil, List.foldl_cons, List.foldl_nil,
      Nat.zero_add]
    have hclear : State.InTheClear (front.zipIdx.foldl (fun t x => t.setHomeByte 0 (pa + x.2) x.1) s) := by
      rw [hframe]
      exact hc
    rw [State.setHomeByte_clear hclear]
    constructor
    · rw [State.keepOld_eq, hframe]
      rfl
    · simp only [State.setCell, State.keepOld_mem, hmem]

/-- A word that a die writes at its home slice in the clear. -/
theorem State.writePa_word {s : State} (hc : s.InTheClear) (h : Memory.wf s.mem = true) (die pa : Nat) (v : W64) :
    WritesCells s (s.writePa die pa (wordBytes v)) pa 8 v.toNat := by
  obtain ⟨hframe, hmem⟩ := State.setHomeBytes_spec (wordBytes v) pa hc
  obtain ⟨-, -, hcells⟩ := State.setCells_spec (wordBytes v) pa h
  have hlen : (wordBytes v).length = 8 := bytesOfNat_length 8 _
  have hbytes : ∀ i, i < 8 → (wordBytes v)[i]? = some (BitVec.ofNat 8 (v.toNat / 256 ^ i)) := bytesOfNat_get 8 v.toNat
  rw [State.writePa]
  simp only [hlen] at hcells ⊢
  generalize wordBytes v = bs at *
  generalize (bs.zipIdx.foldl (fun t x => t.setHomeByte 0 (pa + x.2) x.1) s) = t at *
  refine ⟨fun j => ?_, ?_, fun x => ?_⟩
  · show cellRead t.mem j = _
    rw [hmem]
    refine (hcells j).trans ?_
    split
    · rw [hbytes _ (by omega), Option.getD_some]
    · rfl
  · rw [hframe]
    rfl
  · rw [hframe]
    simp only [State.putStamp, State.clearMarks, List.mem_filter, Bool.not_eq_true', Bool.and_eq_false_iff, decide_eq_false_iff_not,
      not_and_or]

end Sys2Proof.Machine
end

section
/-! LEMMAS. Register addresses, and what a write of a register leads to: not performed with a reserved bit set (R10, R308, R365). -/

namespace Sys2Proof.Machine

/-! ## Addresses (R308) -/

/-- The address of a register by the fields of R308. -/
def regOf (die block core berth off : Nat) : W64 :=
  BitVec.ofNat 64 (0xE0 * 2 ^ 56 + die * 2 ^ 52 + block * 2 ^ 50 + core * 2 ^ 44 + berth * 2 ^ 42 + off)

theorem dieReg_eq (d off : Nat) : dieReg d off = regOf d 0 0 0 off := by
  unfold dieReg regOf
  exact congrArg _ (by omega)

/-- The fields of an address lie apart, so that each is read back. -/
theorem regAddr_regOf {die block core berth off : Nat} (hd : die < 16) (hb : block < 3) (hk : core < 64) (hr : berth < 4)
    (ho : off < 2 ^ 16) (h8 : off % 8 = 0) (hcore : block = 0 → core = 0) (hberth : block = 2 ∨ berth = 0) :
    regAddr (regOf die block core berth off) = some ⟨die, block, core, berth, off⟩ := by
  have hn : (regOf die block core berth off).toNat =
      0xE0 * 2 ^ 56 + die * 2 ^ 52 + block * 2 ^ 50 + core * 2 ^ 44 + berth * 2 ^ 42 + off := by
    rw [regOf, BitVec.toNat_ofNat, Nat.mod_eq_of_lt (by omega)]
  have hz : regZeros (regOf die block core berth off) = true := by
    rw [regZeros_iff, hn]
    omega
  simp only [regAddr, hz, if_true, toNat_field, hn, Option.some.injEq, RegAddr.mk.injEq]
  omega

theorem regAddr_dieReg {d off : Nat} (hd : d < 16) (ho : off < 2 ^ 16) (h8 : off % 8 = 0) :
    regAddr (dieReg d off) = some ⟨d, 0, 0, 0, off⟩ := by
  rw [dieReg_eq]
  exact regAddr_regOf hd (by omega) (by omega) (by omega) ho h8 (fun _ => rfl) (.inr rfl)

end Sys2Proof.Machine
end

section
/-! LEMMAS. The writes of the registers of the 0xE0 path, block by block (R10, R308, R365, R372). -/

namespace Sys2Proof.Machine

/-! ## Reserved bits and refusals (R10) -/

/-- A write is not performed with a reserved bit set, and leads to t else. -/
def Leads (i : Instr) (s : State) (v mask : W64) (t : State) : Prop :=
  (v &&& mask ≠ 0 → exec i s = .next s) ∧ (v &&& mask = 0 → exec i s = .next t)

section Writes
variable {i : Instr} {s t : State} {v mask : W64} {d off : Nat}

theorem reserved_of_zero (h : v &&& mask = 0) (o : Option State) : reserved mask v o = o := if_neg (by simp [h])

theorem reserved_of_ne_zero (h : v &&& mask ≠ 0) (o : Option State) : reserved mask v o = none :=
  if_pos (bne_iff_ne.2 h)

theorem reserved_none_mask (v : W64) (o : Option State) : reserved 0 v o = o := reserved_of_zero BitVec.and_zero o

theorem leads_of_reserved {o : Option State} (h : exec i s = .next ((reserved mask v o).getD s)) (ht : o.getD s = t) :
    Leads i s v mask t :=
  ⟨fun hv => by rw [h, reserved_of_ne_zero hv]; rfl, fun hv => by rw [h, reserved_of_zero hv, ht]⟩

/-- A write that a register's own rule forbids leads nowhere, whatever its reserved bits. -/
theorem leads_of_forbidden {c : Prop} [Decidable c]
    (h : exec i s = .next ((if c then none else reserved mask v (some t)).getD s)) : Leads i s v mask (if c then s else t) := by
  by_cases hc : c
  · rw [if_pos hc] at h ⊢
    exact ⟨fun _ => h, fun _ => h⟩
  · rw [if_neg hc] at h ⊢
    exact leads_of_reserved h rfl

/-! ## Die blocks -/

theorem writeReg_die (hd : d < 4) (ho : off < 2 ^ 16) (h8 : off % 8 = 0) :
    s.writeReg (dieReg d off) v = (s.writeDie d off v).elim (.error 1) .ok := by
  rw [State.writeReg, regAddr_dieReg (by omega) ho h8]
  simp only [hd]
  cases s.writeDie d off v <;> rfl

theorem writeReg_io (ho : off < 2 ^ 16) (h8 : off % 8 = 0) :
    s.writeReg (dieReg 4 off) v = (s.writeIo off v).elim (.error 1) .ok := by
  rw [State.writeReg, regAddr_dieReg (by omega) ho h8]
  dsimp only
  cases s.writeIo off v <;> rfl

theorem ownRow_die (hd : d < 4) (ho : off < 2 ^ 16) (h8 : off % 8 = 0) :
    ownRow (dieReg d off) = decide (off ∈ [0x00, 0x20, 0x60, 0x90, 0x100, 0x108, 0x118]) := by
  rw [ownRow, regAddr_dieReg (by omega) ho h8]
  simp [hd, Bool.or_assoc]

theorem ownRow_io (ho : off < 2 ^ 16) (h8 : off % 8 = 0) :
    ownRow (dieReg 4 off) = decide (off ∈ [0x08, 0x10, 0x40, 0x108, 0x118, 0x178, 0x188, 0x198, 0x1A0]) := by
  rw [ownRow, regAddr_dieReg (by omega) ho h8]
  simp [Bool.or_assoc]

theorem exec_sysregWrite_ownRow {a : W64} (h : ownRow a = true) : exec (.sysregWrite a v) s = .next s := by
  show execSysregWrite a v s = _
  rw [execSysregWrite, if_pos h]

theorem exec_sysregWrite_attempt {a : W64} {o : Option State} (h : ownRow a = false)
    (hw : s.writeReg a v = o.elim (.error 1) .ok) : exec (.sysregWrite a v) s = .next (o.getD s) := by
  show execSysregWrite a v s = _
  rw [execSysregWrite, h, hw]
  cases o <;> rfl

/-- A register of a compute die's block that has no row of its own is written as `writeDie` says. -/
theorem exec_write_die (hd : d < 4) (ho : off < 2 ^ 16) (h8 : off % 8 = 0)
    (hown : off ∉ [0x00, 0x20, 0x60, 0x90, 0x100, 0x108, 0x118]) :
    exec (.sysregWrite (dieReg d off) v) s = .next ((s.writeDie d off v).getD s) :=
  exec_sysregWrite_attempt (by rw [ownRow_die hd ho h8, decide_eq_false hown]) (writeReg_die hd ho h8)

theorem exec_write_io (ho : off < 2 ^ 16) (h8 : off % 8 = 0)
    (hown : off ∉ [0x08, 0x10, 0x40, 0x108, 0x118, 0x178, 0x188, 0x198, 0x1A0]) :
    exec (.sysregWrite (dieReg 4 off) v) s = .next ((s.writeIo off v).getD s) :=
  exec_sysregWrite_attempt (by rw [ownRow_io ho h8, decide_eq_false hown]) (writeReg_io ho h8)

/-- A register of a compute die's block whose write is held to its reserved bits. -/
theorem leads_die (hd : d < 4) (hoff : off < 2 ^ 16 ∧ off % 8 = 0 ∧ off ∉ [0x00, 0x20, 0x60, 0x90, 0x100, 0x108, 0x118])
    (hw : s.writeDie d off v = reserved mask v (some t)) : Leads (.sysregWrite (dieReg d off) v) s v mask t := by
  obtain ⟨hlt, h8, hown⟩ := hoff
  exact leads_of_reserved ((exec_write_die hd hlt h8 hown).trans (by rw [hw])) rfl

/-- The same where the register has a rule of its own beside them, under which the write is performed. -/
theorem leads_die_if (hd : d < 4) (hoff : off < 2 ^ 16 ∧ off % 8 = 0 ∧ off ∉ [0x00, 0x20, 0x60, 0x90, 0x100, 0x108, 0x118])
    {c : Prop} [Decidable c] (hw : s.writeDie d off v = reserved mask v (if c then some t else none)) :
    Leads (.sysregWrite (dieReg d off) v) s v mask (if c then t else s) := by
  obtain ⟨hlt, h8, hown⟩ := hoff
  exact leads_of_reserved ((exec_write_die hd hlt h8 hown).trans (by rw [hw])) (by split <;> rfl)

theorem leads_die_unless (hd : d < 4)
    (hoff : off < 2 ^ 16 ∧ off % 8 = 0 ∧ off ∉ [0x00, 0x20, 0x60, 0x90, 0x100, 0x108, 0x118])
    {c : Prop} [Decidable c] (hw : s.writeDie d off v = reserved mask v (if c then none else some t)) :
    Leads (.sysregWrite (dieReg d off) v) s v mask (if c then s else t) := by
  obtain ⟨hlt, h8, hown⟩ := hoff
  exact leads_of_reserved ((exec_write_die hd hlt h8 hown).trans (by rw [hw])) (by split <;> rfl)

theorem leads_io (hoff : off < 2 ^ 16 ∧ off % 8 = 0 ∧ off ∉ [0x08, 0x10, 0x40, 0x108, 0x118, 0x178, 0x188, 0x198, 0x1A0])
    (hw : s.writeIo off v = reserved mask v (some t)) : Leads (.sysregWrite (dieReg 4 off) v) s v mask t := by
  obtain ⟨hlt, h8, hown⟩ := hoff
  exact leads_of_reserved ((exec_write_io hlt h8 hown).trans (by rw [hw])) rfl

theorem leads_io_forbidden (hoff : off < 2 ^ 16 ∧ off % 8 = 0 ∧
      off ∉ [0x08, 0x10, 0x40, 0x108, 0x118, 0x178, 0x188, 0x198, 0x1A0]) {c : Prop} [Decidable c]
    (hw : s.writeIo off v = if c then none else reserved mask v (some t)) :
    Leads (.sysregWrite (dieReg 4 off) v) s v mask (if c then s else t) := by
  obtain ⟨hlt, h8, hown⟩ := hoff
  exact leads_of_forbidden ((exec_write_io hlt h8 hown).trans (by rw [hw]))

theorem leads_io_unless (hoff : off < 2 ^ 16 ∧ off % 8 = 0 ∧
      off ∉ [0x08, 0x10, 0x40, 0x108, 0x118, 0x178, 0x188, 0x198, 0x1A0]) {c : Prop} [Decidable c]
    (hw : s.writeIo off v = reserved mask v (if c then none else some t)) :
    Leads (.sysregWrite (dieReg 4 off) v) s v mask (if c then s else t) := by
  obtain ⟨hlt, h8, hown⟩ := hoff
  exact leads_of_reserved ((exec_write_io hlt h8 hown).trans (by rw [hw])) (by split <;> rfl)

/-- A register that has a row of its own, or that takes no write, is not written by the common row. -/
theorem exec_write_die_none (hd : d < 4) (h : off ∈ [0x00, 0x20, 0x60, 0x90, 0x100, 0x108, 0x118, 0x48, 0x50, 0x58]) :
    exec (.sysregWrite (dieReg d off) v) s = .next s := by
  have hlt : off < 2 ^ 16 ∧ off % 8 = 0 :=
    (by decide : ∀ o ∈ [0x00, 0x20, 0x60, 0x90, 0x100, 0x108, 0x118, 0x48, 0x50, 0x58], o < 2 ^ 16 ∧ o % 8 = 0) off h
  by_cases hown : off ∈ [0x00, 0x20, 0x60, 0x90, 0x100, 0x108, 0x118]
  · exact exec_sysregWrite_ownRow (by rw [ownRow_die hd hlt.1 hlt.2, decide_eq_true hown])
  · have hclock : off = 0x48 ∨ off = 0x50 ∨ off = 0x58 := by
      simp only [List.mem_cons, List.not_mem_nil, or_false] at h hown
      omega
    rw [exec_write_die hd hlt.1 hlt.2 hown]
    rcases hclock with rfl | rfl | rfl <;> rfl

theorem exec_write_io_none
    (h : off ∈ [0x08, 0x10, 0x40, 0x108, 0x118, 0x178, 0x188, 0x198, 0x1A0, 0x48, 0x50, 0x58]) :
    exec (.sysregWrite (dieReg 4 off) v) s = .next s := by
  have hlt : off < 2 ^ 16 ∧ off % 8 = 0 :=
    (by decide : ∀ o ∈ [0x08, 0x10, 0x40, 0x108, 0x118, 0x178, 0x188, 0x198, 0x1A0, 0x48, 0x50, 0x58],
      o < 2 ^ 16 ∧ o % 8 = 0) off h
  by_cases hown : off ∈ [0x08, 0x10, 0x40, 0x108, 0x118, 0x178, 0x188, 0x198, 0x1A0]
  · exact exec_sysregWrite_ownRow (by rw [ownRow_io hlt.1 hlt.2, decide_eq_true hown])
  · have hclock : off = 0x48 ∨ off = 0x50 ∨ off = 0x58 := by
      simp only [List.mem_cons, List.not_mem_nil, or_false] at h hown
      omega
    rw [exec_write_io hlt.1 hlt.2 hown]
    rcases hclock with rfl | rfl | rfl <;> rfl

/-- Rows of a table of registers, each with its offset, its reserved bits and what a write leads to. -/
theorem forall_rows {P : Nat → W64 → State → Prop} {rows : List (Nat × W64 × State)} :
    (∀ off mask t, (off, mask, t) ∈ rows → P off mask t) ↔ ∀ r, r ∈ rows → P r.1 r.2.1 r.2.2 :=
  ⟨fun h r hr => h r.1 r.2.1 r.2.2 hr, fun h off mask t hr => h (off, mask, t) hr⟩

/-! ## Core and berth blocks (R365, R372) -/

/-- A counter of a core takes a write that changes nothing. -/
theorem exec_write_counter {k : Nat} (hd : d < 4) (hk : k < 64) (ho : off ∈ [0x00, 0x08, 0x10]) :
    exec (.sysregWrite (regOf d 1 k 0 off) v) s = .next s := by
  have hbound : off < 2 ^ 16 ∧ off % 8 = 0 := by
    simp only [List.mem_cons, List.not_mem_nil, or_false] at ho
    omega
  have hr : regAddr (regOf d 1 k 0 off) = some ⟨d, 1, k, 0, off⟩ :=
    regAddr_regOf (by omega) (by omega) hk (by omega) hbound.1 hbound.2 (by omega) (.inr rfl)
  obtain ⟨w, hw⟩ : ∃ w, (s.core d k).counter off = some w := by
    simp only [List.mem_cons, List.not_mem_nil, or_false] at ho
    rcases ho with rfl | rfl | rfl <;> exact ⟨_, rfl⟩
  refine exec_sysregWrite_attempt (o := some s) ?_ ?_
  · rw [ownRow, hr]
    rfl
  · rw [State.writeReg, hr]
    simp [hd, hw]

section Berths
variable {k b : Nat} (hd : d < 4) (hk : k < 64) (hb : b < 4) (ho : off < 2 ^ 16) (h8 : off % 8 = 0)
include hd hk hb ho h8

theorem regAddr_berth : regAddr (regOf d 2 k b off) = some ⟨d, 2, k, b, off⟩ :=
  regAddr_regOf (by omega) (by omega) hk hb ho h8 (by omega) (.inl rfl)

theorem ownRow_berth : ownRow (regOf d 2 k b off) = false := by
  rw [ownRow, regAddr_berth hd hk hb ho h8]
  rfl

/-- While no stopped region owns the berth, its block answers BUSY (R372). -/
theorem writeReg_berth_busy (h : s.berthPa ⟨d, 2, k, b, off⟩ = none) : s.writeReg (regOf d 2 k b off) v = .error 2 := by
  rw [State.writeReg, regAddr_berth hd hk hb ho h8]
  simp [hd, h]

theorem readReg_berth_busy (h : s.berthPa ⟨d, 2, k, b, off⟩ = none) : s.readReg (regOf d 2 k b off) = .error 2 := by
  rw [State.readReg, regAddr_berth hd hk hb ho h8]
  simp [hd, h]

theorem writeReg_berth_owned {pa : Nat} (h : s.berthPa ⟨d, 2, k, b, off⟩ = some pa) :
    s.writeReg (regOf d 2 k b off) v =
      if off < 0x2000 ∧ berthWriteOk off v = true then .ok (s.writePa 4 pa (wordBytes v)) else .error 1 := by
  rw [State.writeReg, regAddr_berth hd hk hb ho h8]
  simp [hd, h]

theorem exec_write_berth_error {e : Nat} (h : s.writeReg (regOf d 2 k b off) v = .error e) :
    exec (.sysregWrite (regOf d 2 k b off) v) s = .next s := by
  show execSysregWrite _ v s = _
  rw [execSysregWrite, ownRow_berth hd hk hb ho h8, h]
  rfl

theorem exec_write_berth_ok (h : s.writeReg (regOf d 2 k b off) v = .ok t) :
    exec (.sysregWrite (regOf d 2 k b off) v) s = .next t := by
  show execSysregWrite _ v s = _
  rw [execSysregWrite, ownRow_berth hd hk hb ho h8, h]
  rfl

/-- No word lies above a berth's record (R372). -/
theorem exec_write_berth_above (h : 0x2000 ≤ off) : exec (.sysregWrite (regOf d 2 k b off) v) s = .next s := by
  cases hpa : s.berthPa ⟨d, 2, k, b, off⟩ with
  | none => exact exec_write_berth_error hd hk hb ho h8 (writeReg_berth_busy hd hk hb ho h8 hpa)
  | some pa =>
    refine exec_write_berth_error hd hk hb ho h8 (e := 1) ?_
    rw [writeReg_berth_owned hd hk hb ho h8 hpa, if_neg (by omega)]

/-- The saved record of a berth keeps a word that takes no write. -/
theorem exec_write_berth_kept {pa : Nat} (h : s.berthPa ⟨d, 2, k, b, off⟩ = some pa) (hbad : berthWriteOk off v = false) :
    exec (.sysregWrite (regOf d 2 k b off) v) s = .next s := by
  refine exec_write_berth_error hd hk hb ho h8 ((writeReg_berth_owned hd hk hb ho h8 h).trans (if_neg ?_))
  rw [hbad]
  simp

theorem exec_write_berth_saved {pa : Nat} (h : s.berthPa ⟨d, 2, k, b, off⟩ = some pa) (hin : off < 0x2000)
    (hok : berthWriteOk off v = true) :
    exec (.sysregWrite (regOf d 2 k b off) v) s = .next (s.writePa 4 pa (wordBytes v)) :=
  exec_write_berth_ok hd hk hb ho h8 ((writeReg_berth_owned hd hk hb ho h8 h).trans (if_pos ⟨hin, hok⟩))

end Berths

/-- No stopped region holds the core. -/
theorem berthPa_eq_none {k b : Nat} (h : ∀ y, (s.die d).savedRegion (s.die d).dbg.stopRegion = some y →
    y.stopped = false ∨ k ∉ y.region.cores) : s.berthPa ⟨d, 2, k, b, off⟩ = none := by
  rw [State.berthPa, Die.stoppedRegion]
  cases hy : (s.die d).savedRegion (s.die d).dbg.stopRegion with
  | none => rfl
  | some y =>
    rw [Option.filter_some]
    rcases h y hy with hstop | hcore
    · rw [hstop]
      rfl
    · have hi : (y.region.cores.findIdx? fun c => decide (c = k)) = none := by
        rw [List.findIdx?_eq_none_iff]
        exact fun c hc => decide_eq_false fun hck => hcore (hck ▸ hc)
      cases y.stopped
      · rfl
      · simp [hi]

/-- The record of a berth of a stopped region lies in the block of its core in the region's save area (R356, R372). -/
theorem berthPa_eq_some {k b : Nat} {y : SavedRegion} {pre post : List Nat}
    (hy : (s.die d).savedRegion (s.die d).dbg.stopRegion = some y) (hs : y.stopped = true)
    (hcores : y.region.cores = pre ++ k :: post) (hpre : k ∉ pre) :
    s.berthPa ⟨d, 2, k, b, off⟩ =
      some (berthRecord (y.region.block (s.saveArea d y.region.cfg.num) pre.length) b + off) := by
  have hi : (y.region.cores.findIdx? fun c => decide (c = k)) = some pre.length := by
    have hnone : (pre.findIdx? fun c => decide (c = k)) = none := by
      rw [List.findIdx?_eq_none_iff]
      exact fun c hc => decide_eq_false fun hck => hpre (hck ▸ hc)
    rw [hcores, List.findIdx?_append, hnone, List.findIdx?_cons]
    simp
  rw [State.berthPa, Die.stoppedRegion, hy, Option.filter_some, hs]
  simp [hi]

/-- The place of a berth's record, counted from the die's save area (R356). -/
theorem berthRecord_block (r : Region) (n b : Nat) : berthRecord (r.block (s.saveArea d r.cfg.num) n) b =
    (s.die d).regs.saveBase.toNat + r.cfg.num * (s.die d).regs.saveStride.toNat + 2 ^ 21 +
      (2 ^ 24 + (r.cfg.privPool + 2 ^ 20 - 1) / 2 ^ 20 * 2 ^ 20) * n + 0x600000 + 2 ^ 21 * b := by
  rw [berthRecord, Region.block, State.saveArea, blockBytes, Nat.add_sub_assoc Nat.one_le_two_pow]

/-- The words of a saved berth record that take no write: its first 256 bytes but for the pc, whose low bits are zero, the
words that R372 keeps, and a format register with a reserved bit. -/
theorem berthWriteOk_eq_false_iff (h8 : off % 8 = 0) :
    berthWriteOk off v = false ↔ off = 0 ∨ (off = 8 ∧ v.toNat % 8 ≠ 0) ∨ (8 < off ∧ off < 0x100) ∨
      (0x1C00 ≤ off ∧ off < 0x1D00) ∨ (0x1900 ≤ off ∧ off < 0x1940 ∧ v &&& 0xFFFE00E0FFFE00E0 ≠ 0) := by
  unfold berthWriteOk
  split_ifs with hpc hfmt
  · simp [hpc, field_eq_zero_iff]
  · rw [Bool.and_eq_true, decide_eq_true_eq, decide_eq_true_eq] at hfmt
    rw [beq_eq_false_iff_ne]
    refine ⟨fun h => .inr (.inr (.inr (.inr ⟨hfmt.1, hfmt.2, h⟩))), ?_⟩
    rintro (h | ⟨h, -⟩ | ⟨-, h⟩ | ⟨h, -⟩ | ⟨-, -, h⟩)
    · omega
    · omega
    · omega
    · omega
    · exact h
  · simp only [Bool.and_eq_true, decide_eq_true_eq, not_and] at hfmt
    simp only [Bool.and_eq_false_iff, Bool.not_eq_false', Bool.and_eq_true, decide_eq_true_eq, decide_eq_false_iff_not]
    omega

end Writes
end Sys2Proof.Machine
end

section
/-! LEMMAS. Registers one by one, and the writes that RegisterWrites speaks of (R10, R247, R305, R365, R388). -/

namespace Sys2Proof.Machine

section Registers
variable {s : State} {v : W64} {d : Nat}

/-! ## Registers of a compute die -/

theorem recorderOf_die (hd : d < 4) : s.recorderOf d = (s.die d).recorder := if_neg (by omega)

theorem onRecorder_die (hd : d < 4) (f : Recorder → Recorder) :
    s.onRecorder d f = s.onDie d fun y => { y with recorder := f y.recorder } := if_neg (by omega)

theorem writeDie_traceMap {k : Nat} (hk : k < 4) :
    s.writeDie d (0xC0 + 8 * k) v = some (s.onDbg d fun g => { g with traceMap := setMapWord g.traceMap k v }) := by
  obtain rfl | rfl | rfl | rfl : k = 0 ∨ k = 1 ∨ k = 2 ∨ k = 3 := by omega
  all_goals rfl

theorem writeDie_stopMap {k : Nat} (hk : k < 4) :
    s.writeDie d (0xE0 + 8 * k) v = some (s.onDbg d fun g => { g with stopMap := setMapWord g.stopMap k v }) := by
  obtain rfl | rfl | rfl | rfl : k = 0 ∨ k = 1 ∨ k = 2 ∨ k = 3 := by omega
  all_goals rfl

theorem exec_write_traceMap (hd : d < 4) {k : Nat} (hk : k < 4) : exec (.sysregWrite (dieReg d (0xC0 + 8 * k)) v) s =
    .next (s.onDie d fun y => { y with dbg := { y.dbg with traceMap := setMapWord y.dbg.traceMap k v } }) := by
  rw [exec_write_die hd (by omega) (by omega), writeDie_traceMap hk]
  · rfl
  · simp only [List.mem_cons, List.not_mem_nil, or_false]
    omega

theorem exec_write_stopMap (hd : d < 4) {k : Nat} (hk : k < 4) : exec (.sysregWrite (dieReg d (0xE0 + 8 * k)) v) s =
    .next (s.onDie d fun y => { y with dbg := { y.dbg with stopMap := setMapWord y.dbg.stopMap k v } }) := by
  rw [exec_write_die hd (by omega) (by omega), writeDie_stopMap hk]
  · rfl
  · simp only [List.mem_cons, List.not_mem_nil, or_false]
    omega

/-- A map's word k is replaced, and the other words stand. -/
theorem getLsbD_setMapWord (m : BitVec 256) {k b : Nat} (hb : b < 256) :
    (setMapWord m k v).getLsbD b = if b / 64 = k then v.getLsbD (b % 64) else m.getLsbD b := by
  simp only [setMapWord, BitVec.getLsbD_or, BitVec.getLsbD_and, BitVec.getLsbD_not, BitVec.getLsbD_shiftLeft,
    BitVec.getLsbD_setWidth, BitVec.getLsbD_allOnes, hb, decide_true, Bool.true_and]
  rcases Nat.lt_trichotomy (b / 64) k with h | h | h
  · have hlt : b < 64 * k := by omega
    simp [hlt, h.ne]
  · have hlt : ¬b < 64 * k := by omega
    have hmod : b - 64 * k = b % 64 := by omega
    have hin : b % 64 < 64 := by omega
    have hin' : b % 64 < 256 := by omega
    simp [hlt, h, hmod, hin, hin']
  · have hlt : ¬b < 64 * k := by omega
    have hout : 64 ≤ b - 64 * k := by omega
    simp [hlt, h.ne', hout]

/-! ## Registers of the I/O die whose offset carries a number -/

theorem not_own_of_numbered {off : Nat} (h : 0x1000 ≤ off) :
    off ∉ [0x08, 0x10, 0x40, 0x108, 0x118, 0x178, 0x188, 0x198, 0x1A0] := by
  simp only [List.mem_cons, List.not_mem_nil, or_false]
  omega

theorem writeIo_queueCfg {n : Nat} (hn : n < 64) :
    s.writeIo (0x1000 + 16 * n) v = reserved 0xFFFE000000000000 v (some (s.onQueue n fun q =>
      { q with en := v.getLsbD 48, advance := BitVec.ofNat 16 (v.toNat / 2 ^ 32 % 2 ^ 16)
               quantum := BitVec.ofNat 32 (v.toNat / 2 ^ 0 % 2 ^ 32) })) := by
  have hindex : (0x1000 + 16 * n - 0x1000) / 16 = n := by omega
  simp (disch := omega) only [State.writeIo, Bool.and_eq_true, decide_eq_true_eq, if_neg, if_pos, hindex, ← field_eq_ofNat]

theorem writeIo_queueStat {n : Nat} (hn : n < 64) : s.writeIo (0x1008 + 16 * n) v = reserved 0xFFFF0000 v (some s) := by
  simp (disch := omega) only [State.writeIo, Bool.and_eq_true, decide_eq_true_eq, if_neg, if_pos]

theorem writeIo_remoteWindow {n : Nat} (hn : n < 16) :
    s.writeIo (0x2000 + 8 * n) v =
      reserved 0x0000CFFFFFFF0000 v (some (s.onIo fun y => { y with rwin := y.rwin.setIfInBounds n v })) := by
  have hindex : (0x2000 + 8 * n - 0x2000) / 8 = n := by omega
  simp (disch := omega) only [State.writeIo, Bool.and_eq_true, decide_eq_true_eq, if_neg, if_pos, hindex]

theorem writeIo_port {n : Nat} (hn : n < 32) :
    s.writeIo (0x3000 + 8 * n) v = reserved 0xFFFF0000 v (some (s.onPort n fun p =>
      { p with retry := if v.toNat / 2 ^ 32 % 2 ^ 16 = 0 then p.retry else 0
               discard := if v.toNat / 2 ^ 0 % 2 ^ 16 = 0 then p.discard else 0 })) := by
  have hindex : (0x3000 + 8 * n - 0x3000) / 8 = n := by omega
  simp (disch := omega) only [State.writeIo, Bool.and_eq_true, decide_eq_true_eq, if_neg, if_pos, hindex,
    BitVec.ofNat_eq_ofNat, field_eq_zero_iff]

/-! ## SLICEHASH and the route table (R305, R388, R390) -/

theorem sliceHashOk_iff :
    sliceHashOk v = true ↔ ∀ i, i < 8 → v.getLsbD (5 * i + 4) = true ∨ v.toNat / 2 ^ (5 * i) % 2 ^ 4 = 0 := by
  simp [sliceHashOk, field_eq_zero_iff]

theorem mem_readRoutes {base p q : Nat} :
    (p, q) ∈ s.readRoutes base ↔ p < 32768 ∧ q < 32 ∧ (s.homeByte 0 (base + p)).toNat = q := by
  simp only [State.readRoutes, List.mem_filterMap, List.mem_range]
  constructor
  · rintro ⟨a, ha, h⟩
    split at h
    · cases h
      exact ⟨ha, ‹_›, rfl⟩
    · cases h
  · rintro ⟨hp, hq, rfl⟩
    exact ⟨p, hp, by rw [if_pos hq]⟩

/-- Where no port holds a frame, none moves. -/
theorem releaseFrames_of_no_frames (h : ∀ (n : Nat) (p : Port), s.io.ports[n]? = some p → p.held = []) :
    s.releaseFrames = s := by
  have hheld : ∀ p, p ∈ s.io.ports.toList → p.held = [] := by
    intro p hp
    obtain ⟨n, hn⟩ := List.getElem?_of_mem hp
    exact h n p (by simpa using hn)
  have hsame : mapVec (fun p : Port => if p.up then p else { p with held := [] }) s.io.ports = s.io.ports := by
    refine Vector.toList_inj.1 ?_
    show s.io.ports.toList.map _ = _
    refine (List.map_congr_left fun p hp => ?_).trans (List.map_id _)
    have := hheld p hp
    split
    · rfl
    · rw [← this]; rfl
  have hnone : (s.io.ports.toList.filter fun p => !p.up).flatMap Port.held = [] :=
    List.flatMap_eq_nil_iff.2 fun p hp => hheld p (List.mem_of_mem_filter hp)
  rw [State.releaseFrames]
  simp only [hnone, List.foldl_nil, State.onIo, hsame]

/-! ## Registers whose fields the statements number (R277, R365, R377, R394) -/

theorem writeDie_poisonRing : s.writeDie d 0x88 v = reserved 0x0000FFFF00000000 v (some (s.onDie d fun y => { y with
    regs := { y.regs with
      poisonSize := BitVec.ofNat 16 (v.toNat / 2 ^ 48 % 2 ^ 16), poisonHead := BitVec.ofNat 16 (v.toNat / 2 ^ 16 % 2 ^ 16) } })) := by
  simp only [← field_eq_ofNat]
  rfl

theorem writeDie_sample : s.writeDie d 0xA8 v = reserved 0xFFFE v (some (s.onDie d fun y => { y with dbg := { y.dbg with
    sample := BitVec.ofNat 32 (v.toNat / 2 ^ 32 % 2 ^ 32), cpPeriod := BitVec.ofNat 16 (v.toNat / 2 ^ 16 % 2 ^ 16)
    traceEn := v.getLsbD 0 } })) := by
  simp only [← field_eq_ofNat]
  exact Option.or_none

theorem writeDie_traceBase : s.writeDie d 0xB0 v =
    reserved 0xFFFF00000000007F v (some (s.onDie d fun y => { y with dbg := { y.dbg with traceBase := v } })) := Option.or_none

theorem writeDie_traceRing : s.writeDie d 0xB8 v = some (s.onDie d fun y => { y with dbg := { y.dbg with
    traceSize := BitVec.ofNat 16 (v.toNat / 2 ^ 48 % 2 ^ 16), dropped := BitVec.ofNat 16 (v.toNat / 2 ^ 32 % 2 ^ 16)
    traceHead := BitVec.ofNat 16 (v.toNat / 2 ^ 16 % 2 ^ 16) } }) := by
  simp only [← field_eq_ofNat]
  rfl

theorem clear_eq (b : FaultBuffer) : b.clear v = { b with
    overflow := if v.toNat / 2 ^ 32 % 2 ^ 16 = 0 then b.overflow else 0
    merged := if v.toNat / 2 ^ 16 % 2 ^ 16 = 0 then b.merged else 0 } := by
  simp only [← field_eq_zero_iff]
  rfl

theorem writeDie_faultStat : s.writeDie d 0x148 v = reserved 0x7FFF00000000FF80 v (some (s.onDie d fun y => { y with
    faults := { y.faults with
      overflow := if v.toNat / 2 ^ 32 % 2 ^ 16 = 0 then y.faults.overflow else 0
      merged := if v.toNat / 2 ^ 16 % 2 ^ 16 = 0 then y.faults.merged else 0 } })) := by
  simp only [← clear_eq]
  rfl

theorem writeDie_notReplay (hd : d < 4) : s.writeDie d 0x120 v = reserved 0x7FFF000000000000 v (some (s.onDie d fun y => { y with
    recorder := { y.recorder with notReplay := y.recorder.notReplay && !v.getLsbD 63 } })) := by
  show reserved _ v (some (s.onRecorder d _)) = _
  rw [onRecorder_die hd]

/-- A write of REPCOUNT clears the count, unless it writes zeros to it (R365). -/
theorem writeDie_repCount (hd : d < 4) : s.writeDie d 0x128 v = some (if v.toNat / 2 ^ 48 % 2 ^ 16 = 0 then s
    else s.onDie d fun y => { y with recorder := { y.recorder with repCount := 0, firstSeq := 0 } }) := by
  show some (if _ = 0#16 then s else s.onRecorder d _) = _
  simp only [onRecorder_die hd, field_eq_zero_iff]

/-- LOGBASE stands while the die records or replays (R365). -/
theorem writeDie_logBase (hd : d < 4) : s.writeDie d 0x110 v = if (s.die d).recorder.mode ≠ 0 then none
    else reserved 0xFFFF00000000001F v (some (s.onDie d fun y => { y with recorder := { y.recorder with logBase := v } })) := by
  show (if (_ != 0#2) = true then none else reserved _ v (some (s.onRecorder d _))) = _
  simp only [recorderOf_die hd, onRecorder_die hd, bne_iff_ne]
  rfl

theorem noRegion_iff : s.noRegion d = true ↔ (s.die d).regions = [] := List.isEmpty_iff

theorem writeDie_privBase : s.writeDie d 0x28 v = reserved 0xFFFF00000000FFFF v
    (if (s.die d).regions = [] then some (s.onDie d fun y => { y with regs := { y.regs with privBase := v } }) else none) := by
  simp only [← noRegion_iff]
  rfl

theorem writeDie_privStride : s.writeDie d 0x30 v = reserved 0xFFFFFF000000FFFF v
    (if (s.die d).regions = [] ∧ 2 ^ 22 ≤ v.toNat then
      some (s.onDie d fun y => { y with regs := { y.regs with privStride := v } }) else none) := by
  show reserved _ v (if (s.noRegion d && _) = true then _ else none) = _
  simp only [Bool.and_eq_true, noRegion_iff, decide_eq_true_eq]
  rfl

theorem writeDie_depth : s.writeDie d 0x150 v = reserved 0x80000000000000FF v
    (if v.toNat / 2 ^ 32 % 2 ^ 31 < 2 ^ 24 ∨ v.toNat / 2 ^ 32 % 2 ^ 31 < (s.die d).gov.carAmount.toNat then none
     else some (s.onDie d fun y => { y with gov := { y.gov with
       depth := BitVec.ofNat 31 (v.toNat / 2 ^ 32 % 2 ^ 31), rate := BitVec.ofNat 16 (v.toNat / 2 ^ 16 % 2 ^ 16)
       tthrot := BitVec.ofNat 8 (v.toNat / 2 ^ 8 % 2 ^ 8) } })) := by
  show reserved _ v (if (_ || _) = true then none else _) = _
  simp only [Bool.or_eq_true, decide_eq_true_eq, toNat_field, ← field_eq_ofNat]

theorem writeDie_carAmount : s.writeDie d 0x158 v = reserved 0xFFFFFFFF00000000 v
    (if (s.die d).gov.depth.toNat < v.toNat / 2 ^ 0 % 2 ^ 32 then none
     else some (s.onDie d fun y => { y with gov := { y.gov with carAmount := BitVec.ofNat 32 (v.toNat / 2 ^ 0 % 2 ^ 32) } })) := by
  show reserved _ v (if _ < _ then none else _) = _
  simp only [toNat_field, ← field_eq_ofNat]

/-! ## Registers of the I/O die -/

theorem setWidth_eq_ofNat (v : W64) (n : Nat) : v.setWidth n = BitVec.ofNat n (v.toNat / 2 ^ 0 % 2 ^ n) :=
  BitVec.eq_of_toNat_eq (by simp)

theorem writeIo_waits : s.writeIo 0x20 v = some (s.onIo fun y => { y with carousel := { y.carousel with
    leaveWait := BitVec.ofNat 32 (v.toNat / 2 ^ 32 % 2 ^ 32), bufWait := BitVec.ofNat 32 (v.toNat / 2 ^ 0 % 2 ^ 32) } }) := by
  simp only [← field_eq_ofNat]
  rfl

theorem writeIo_faultStat : s.writeIo 0x148 v = reserved 0x7FFF00000000FF80 v (some (s.onIo fun y => { y with
    faults := { y.faults with
      overflow := if v.toNat / 2 ^ 32 % 2 ^ 16 = 0 then y.faults.overflow else 0
      merged := if v.toNat / 2 ^ 16 % 2 ^ 16 = 0 then y.faults.merged else 0 } })) := by
  simp only [← clear_eq]
  rfl

theorem writeIo_eventWindow : s.writeIo 0x170 v = reserved 0xFFFFFFFFFFFF0000 v (if v = 0 then none else
    some (s.onIo fun y => { y with evqWin := BitVec.ofNat 16 (v.toNat / 2 ^ 0 % 2 ^ 16) })) := by
  simp only [← setWidth_eq_ofNat]
  rfl

theorem writeIo_packageId : s.writeIo 0x180 v = reserved 0xFFFFFFFFFFFF8000 v
    (some (s.onIo fun y => { y with pkgId := BitVec.ofNat 15 (v.toNat / 2 ^ 0 % 2 ^ 15) })) := by
  simp only [← setWidth_eq_ofNat]
  rfl

theorem writeIo_tierSize : s.writeIo 0x1A8 v =
    if s.io.cacheEn = true ∨ 2048 < v.toNat / 2 ^ 0 % 2 ^ 12 then none
    else reserved 0xFFFFFFFFFFFFF000 v
      (some (s.onIo fun y => { y with tierSize := BitVec.ofNat 12 (v.toNat / 2 ^ 0 % 2 ^ 12) })) := by
  show (if (_ || _) = true then none else _) = _
  simp only [Bool.or_eq_true, decide_eq_true_eq, toNat_field, ← field_eq_ofNat]

/-- A value that sets no bit of a mask of its bits from n up is below 2^n. -/
theorem toNat_lt_of_and_eq_zero {mask : W64} {n : Nat} (hmask : ∀ i, i < 64 → n ≤ i → mask.getLsbD i = true)
    (h : v &&& mask = 0) : v.toNat < 2 ^ n := by
  refine Nat.lt_pow_two_of_testBit _ fun i hi => ?_
  by_cases h64 : i < 64
  · have hbit : (v &&& mask).getLsbD i = v.getLsbD i := by rw [BitVec.getLsbD_and, hmask i h64 hi, Bool.and_true]
    rw [h] at hbit
    simpa [BitVec.getLsbD] using hbit.symm
  · exact BitVec.getLsbD_of_ge v i (by omega)

/-- CARCTL with RUN set starts the rotation, and at an empty table stops at once (R247, R248, R325). -/
theorem writeCarctl_set (h : v.getLsbD 0 = true) : s.writeCarctl v = reserved 0xFFFFFFFF0000FFFC v (some
    { (s.onIo fun y => { y with carousel := { y.carousel with
        lead := BitVec.ofNat 16 (v.toNat / 2 ^ 16 % 2 ^ 16), halted := s.io.carousel.halted && !v.getLsbD 1
        run := y.carousel.count != 0
        next := if s.io.carousel.run = false ∧ s.io.carousel.count.toNat ≤ s.io.carousel.next.toNat then 0
                else y.carousel.next } }) with
      stack := if s.io.carousel.run = false then [] else s.stack }) := by
  simp only [State.writeCarctl, h, Bool.true_and, ← field_eq_ofNat, State.onCarousel, State.onIo]
  cases s.io.carousel.run <;> simp

theorem exec_carctlRunSet (h : v.getLsbD 0 = true) : exec (.carctlRunSet v) s = .next ((s.writeCarctl v).getD s) := by
  show Host.Outcome.next (if v.getLsbD 0 = true then _ else s) = _
  rw [if_pos h]

theorem exec_carctlRunSet_of_clear (h : v.getLsbD 0 = false) : exec (.carctlRunSet v) s = .next s := by
  show Host.Outcome.next (if v.getLsbD 0 = true then _ else s) = _
  rw [h]
  rfl

theorem exec_carctlRunClear (h : v.getLsbD 0 = false) : exec (.carctlRunClear v) s = .next ((s.writeCarctl v).getD s) := by
  show Host.Outcome.next (if v.getLsbD 0 = true then s else _) = _
  rw [h]
  rfl

theorem exec_carctlRunClear_of_set (h : v.getLsbD 0 = true) : exec (.carctlRunClear v) s = .next s := by
  show Host.Outcome.next (if v.getLsbD 0 = true then s else _) = _
  rw [if_pos h]

/-- CARCTL with RUN clear stops the carousel (R247). -/
theorem writeCarctl_clear (h : v.getLsbD 0 = false) : s.writeCarctl v = reserved 0xFFFFFFFF0000FFFC v (some
    (s.onIo fun y => { y with carousel := { y.carousel with
      lead := BitVec.ofNat 16 (v.toNat / 2 ^ 16 % 2 ^ 16), halted := s.io.carousel.halted && !v.getLsbD 1, run := false } })) := by
  simp only [State.writeCarctl, h, Bool.false_and, ← field_eq_ofNat, Bool.false_eq_true, if_false]
  rfl

/-! ## Registers with rows of their own (R247, R305, R306, R384, R388) -/

theorem leads_carcnt : Leads (.carcntWrite v) s v 0xFFFFFFFFFFF00000 (if s.io.carousel.run = true then s else
    s.onIo fun y => { y with carousel := { y.carousel with count := BitVec.ofNat 20 (v.toNat / 2 ^ 0 % 2 ^ 20) } }) := by
  refine leads_of_forbidden ?_
  simp only [← field_eq_ofNat]
  rfl

theorem exec_slicehashWrite_refused (h : s.io.cacheEn = true ∨ sliceHashOk v ≠ true) : exec (.slicehashWrite v) s = .next s := by
  have hnone : s.writeSlicehash v = none := if_pos (by simpa using h)
  show Host.Outcome.next ((s.writeSlicehash v).getD s) = _
  rw [hnone]
  rfl

theorem leads_slicehash (hen : s.io.cacheEn = false) (hok : sliceHashOk v = true) :
    Leads (.slicehashWrite v) s v 0xFFFFFF0000000000 (s.onIo fun y => { y with sliceHash := v }) := by
  have hsome : s.writeSlicehash v = reserved 0xFFFFFF0000000000 v (some (s.onIo fun y => { y with sliceHash := v })) :=
    if_neg (by simp [hen, hok])
  exact leads_of_reserved (congrArg (fun o => Host.Outcome.next (Option.getD o s)) hsome) rfl

/-- EN of CACHECTL does not return to 0 (R306). -/
theorem leads_cachectl : Leads (.cachectlEnable v) s v 0xFFFFFFFFFFFFFFFE (if v = 0 ∧ s.io.cacheEn = true then s
    else s.onIo fun y => { y with cacheEn := v.getLsbD 0 }) := by
  have hexec : exec (.cachectlEnable v) s = .next ((reserved 0xFFFFFFFFFFFFFFFE v
      (if (s.io.cacheEn && !v.getLsbD 0) = true then none else some (s.onIo fun y => { y with cacheEn := v.getLsbD 0 }))).getD s) := rfl
  refine ⟨fun hv => (leads_of_reserved hexec rfl).1 hv, fun hv => ((leads_of_reserved hexec rfl).2 hv).trans ?_⟩
  have hlt : v.toNat < 2 ^ 1 := toNat_lt_of_and_eq_zero (by decide) hv
  have hzero : v.getLsbD 0 = false ↔ v = 0 := by
    rw [← BitVec.toNat_inj, BitVec.getLsbD, Nat.testBit_zero, decide_eq_false_iff_not]
    show _ ↔ v.toNat = 0
    omega
  simp only [Bool.and_eq_true, Bool.not_eq_true', hzero, and_comm (a := v = 0)]
  split <;> rfl

theorem leads_evqack : Leads (.evqackWrite v) s v 0xFFFFFFFFFFFF0000
    (s.onIo fun y => { y with evqAck := y.evqAck + v.toNat / 2 ^ 0 % 2 ^ 16 }) := by
  have hexec : exec (.evqackWrite v) s = .next ((reserved 0xFFFFFFFFFFFF0000 v
      (some (s.onIo fun y => { y with evqAck := y.evqAck + v.toNat }))).getD s) := rfl
  refine ⟨fun hv => (leads_of_reserved hexec rfl).1 hv, fun hv => ?_⟩
  have hlt : v.toNat < 2 ^ 16 := toNat_lt_of_and_eq_zero (by decide) hv
  rw [pow_zero, Nat.div_one, Nat.mod_eq_of_lt hlt]
  exact (leads_of_reserved hexec rfl).2 hv

theorem leads_routebase (h : ∀ (n : Nat) (p : Port), s.io.ports[n]? = some p → p.held = []) :
    Leads (.routebaseWrite v) s v 0xFFFF000000007FFF
      (s.onIo fun y => { y with routeBase := v, routes := s.readRoutes v.toNat }) :=
  leads_of_reserved (o := some _) rfl (releaseFrames_of_no_frames h)

end Registers

/-- The address of a counter of a core (R308). -/
theorem counterReg_eq (d k off : Nat) :
    BitVec.ofNat 64 (0xE0 * 2 ^ 56 + d * 2 ^ 52 + 2 ^ 50 + k * 2 ^ 44 + off) = regOf d 1 k 0 off := by
  unfold regOf
  exact congrArg _ (by omega)

/-- Settles O54: the register tables row by row, then the registers with rules of their own. -/
theorem registerWrites : Obligations.RegisterWrites := by
  intro s v put f
  refine ⟨fun d hd => ?_, ?_⟩
  · intro x regs dbg
    refine ⟨?_, fun off hoff => exec_write_die_none hd hoff, fun k hk => ?_, fun h => ?_, fun h => ?_, fun h => ?_, fun h => ?_,
      leads_die_if hd (by decide) writeDie_privBase, leads_die_if hd (by decide) writeDie_privStride,
      leads_die_unless hd (by decide) writeDie_depth, leads_die_unless hd (by decide) writeDie_carAmount,
      leads_of_reserved (o := some _) rfl rfl, fun k off hk hoff => ?_, fun k b off hk hb ho h8 => ?_, ?_⟩
    · refine forall_rows.2 ?_
      simp only [List.forall_mem_cons]
      exact ⟨leads_die hd (by decide) rfl, leads_die hd (by decide) rfl, leads_die hd (by decide) rfl,
        leads_die hd (by decide) rfl, leads_die hd (by decide) (reserved_none_mask v _).symm,
        leads_die hd (by decide) (reserved_none_mask v _).symm, leads_die hd (by decide) rfl, leads_die hd (by decide) rfl,
        leads_die hd (by decide) rfl, leads_die hd (by decide) rfl, leads_die hd (by decide) rfl, leads_die hd (by decide) rfl,
        leads_die hd (by decide) rfl, leads_die hd (by decide) rfl, leads_die hd (by decide) writeDie_poisonRing,
        leads_die hd (by decide) writeDie_sample, leads_die hd (by decide) writeDie_traceBase,
        leads_die hd (by decide) (writeDie_traceRing.trans (reserved_none_mask v _).symm),
        leads_die hd (by decide) (writeDie_notReplay hd), leads_die hd (by decide) writeDie_faultStat, fun _ h => nomatch h⟩
    · exact ⟨setMapWord x.dbg.traceMap k v, setMapWord x.dbg.stopMap k v, exec_write_traceMap hd hk, exec_write_stopMap hd hk,
        fun b hb => ⟨getLsbD_setMapWord _ hb, getLsbD_setMapWord _ hb⟩⟩
    · rw [exec_write_die hd (by decide) (by decide) (by decide), writeDie_repCount hd, Option.getD_some, if_neg h]
    · rw [exec_write_die hd (by decide) (by decide) (by decide), writeDie_repCount hd, Option.getD_some, if_pos h]
    · exact leads_die hd (by decide) ((writeDie_logBase hd).trans (if_neg (not_not.2 h)))
    · rw [exec_write_die hd (by decide) (by decide) (by decide), writeDie_logBase hd, if_pos h, Option.getD_none]
    · rw [counterReg_eq]
      exact exec_write_counter hd hk hoff
    · refine ⟨exec_write_berth_above hd hk hb ho h8, fun h => ?_⟩
      have hbusy := writeReg_berth_busy (v := v) hd hk hb ho h8 (berthPa_eq_none h)
      exact ⟨exec_write_berth_error hd hk hb ho h8 hbusy, readReg_berth_busy hd hk hb ho h8 (berthPa_eq_none h), hbusy⟩
    · intro k b off y pre post hk hb ho h8 hy hs hcores hpre berth kept block
      have hpa := berthPa_eq_some (off := off) (b := b) hy hs hcores hpre
      rw [berthRecord_block] at hpa
      have hlt : off < 2 ^ 16 := by omega
      have hkept : berthWriteOk off v = false ↔ kept := berthWriteOk_eq_false_iff h8
      refine ⟨fun h => exec_write_berth_kept hd hk hb hlt h8 hpa (hkept.2 h), fun h hclear hwf => ?_⟩
      have hok : berthWriteOk off v = true := by rwa [← Bool.not_eq_false, hkept]
      exact ⟨_, exec_write_berth_saved hd hk hb hlt h8 hpa ho hok, State.writePa_word hclear hwf 4 _ v⟩
  · intro io car
    refine ⟨?_, fun off hoff => exec_write_io_none hoff, fun n hn => ⟨?_, ?_⟩, fun n hn => ?_, fun n hn => ?_,
      ⟨fun h => ?_, fun h => ?_⟩, leads_carcnt, ⟨fun h => ?_, fun hen hagrees => ?_⟩, leads_cachectl, leads_evqack, fun h => ?_⟩
    · refine forall_rows.2 ?_
      simp only [List.forall_mem_cons]
      exact ⟨leads_io (by decide) rfl, leads_io (by decide) rfl, leads_io (by decide) rfl, leads_io (by decide) rfl,
        leads_io (by decide) (writeIo_waits.trans (reserved_none_mask v _).symm), leads_io_unless (by decide) writeIo_eventWindow,
        leads_io (by decide) writeIo_packageId, leads_io_forbidden (by decide) rfl,
        leads_io_forbidden (by decide) writeIo_tierSize, leads_io (by decide) writeIo_faultStat, fun _ h => nomatch h⟩
    · exact leads_io ⟨by omega, by omega, not_own_of_numbered (by omega)⟩ (writeIo_queueCfg hn)
    · exact leads_io ⟨by omega, by omega, not_own_of_numbered (by omega)⟩ (writeIo_queueStat hn)
    · exact leads_io ⟨by omega, by omega, not_own_of_numbered (by omega)⟩ (writeIo_remoteWindow hn)
    · exact leads_io ⟨by omega, by omega, not_own_of_numbered (by omega)⟩ (writeIo_port hn)
    · exact ⟨exec_carctlRunClear_of_set h, leads_of_reserved ((exec_carctlRunSet h).trans (by rw [writeCarctl_set h])) rfl⟩
    · exact ⟨exec_carctlRunSet_of_clear h, leads_of_reserved ((exec_carctlRunClear h).trans (by rw [writeCarctl_clear h])) rfl⟩
    · exact exec_slicehashWrite_refused (h.imp_right (mt sliceHashOk_iff.1))
    · exact leads_slicehash hen (sliceHashOk_iff.2 hagrees)
    · exact ⟨s.readRoutes v.toNat, fun p q => mem_readRoutes, leads_routebase h⟩

end Sys2Proof.Machine
end

section
/-! LEMMAS. The word of an instruction's fields, and the fields of a word (R16, R17, R26). -/

namespace Sys2Proof
open Machine

/-- Two bit strings put together, as a number. -/
theorem toNat_append_add {m n : Nat} (x : BitVec m) (y : BitVec n) : (x ++ y).toNat = x.toNat * 2 ^ n + y.toNat := by
  rw [BitVec.toNat_append, ← Nat.shiftLeft_add_eq_or_of_lt y.isLt, Nat.shiftLeft_eq]

theorem toNat_regWord (f : BitVec 2) (o : BitVec 10) (w : RegForm) :
    (regWord f o w).toNat = f.toNat * 2 ^ 62 + o.toNat * 2 ^ 52 + w.guard.toNat * 2 ^ 47 + w.d.toNat * 2 ^ 39 + w.a.toNat * 2 ^ 31 +
      w.b.toNat * 2 ^ 23 + w.c.toNat * 2 ^ 15 + w.rnd.toNat * 2 ^ 12 + w.sat.toNat * 2 ^ 11 + w.ety.toNat * 2 ^ 7 + w.fn.toNat := by
  simp only [regWord, toNat_append_add]
  ring

theorem toNat_immWord (f : BitVec 2) (o : BitVec 10) (w : ImmForm) :
    (immWord f o w).toNat = f.toNat * 2 ^ 62 + o.toNat * 2 ^ 52 + w.guard.toNat * 2 ^ 47 + w.d.toNat * 2 ^ 39 + w.a.toNat * 2 ^ 31 +
      w.imm.toNat := by
  simp only [immWord, toNat_append_add]
  ring

theorem toNat_slotBits (z : Slot) : (slotBits z).toNat =
    z.sop.toNat * 2 ^ 24 + z.d.toNat * 2 ^ 16 + z.s.toNat * 2 ^ 8 + z.rnd.toNat * 2 ^ 5 + z.sat.toNat * 2 ^ 4 + z.ety.toNat := by
  simp only [slotBits, toNat_append_add]
  ring

/-! ## Every word is the word of its fields -/

theorem regWord_regFields (x : W64) : regWord (formOf x) (opcodeOf x) (regFields x) = x := by
  simp only [regWord, formOf, opcodeOf, regFields, BitVec.extractLsb'_append_extractLsb'_eq_extractLsb']
  exact BitVec.extractLsb'_eq_self

theorem immWord_immFields (x : W64) : immWord (formOf x) (opcodeOf x) (immFields x) = x := by
  simp only [immWord, formOf, opcodeOf, immFields, BitVec.extractLsb'_append_extractLsb'_eq_extractLsb']
  exact BitVec.extractLsb'_eq_self

theorem slotBits_slotFields (x : BitVec 31) : slotBits (slotFields x) = x := by
  simp only [slotBits, slotFields, BitVec.extractLsb'_append_extractLsb'_eq_extractLsb']
  exact BitVec.extractLsb'_eq_self

/-- A P word is the word of its two slots (R26). -/
theorem slots_of_word (x : W64) (h : formOf x = 2) :
    (2 : BitVec 2) ++ slotBits (slotFields (x.extractLsb' 31 31)) ++ slotBits (slotFields (x.extractLsb' 0 31)) = x := by
  rw [slotBits_slotFields, slotBits_slotFields, ← h]
  simp only [formOf, BitVec.extractLsb'_append_extractLsb'_eq_extractLsb']
  exact BitVec.extractLsb'_eq_self

/-! ## Every field is read back from its word -/

theorem regFields_regWord (f : BitVec 2) (o : BitVec 10) (w : RegForm) :
    formOf (regWord f o w) = f ∧ opcodeOf (regWord f o w) = o ∧ regFields (regWord f o w) = w := by
  obtain ⟨guard, d, a, b, c, rnd, sat, ety, fn⟩ := w
  simp only [formOf, opcodeOf, regFields, RegForm.mk.injEq, ← BitVec.toNat_inj, toNat_field, toNat_regWord]
  have := f.isLt; have := o.isLt; have := guard.isLt; have := d.isLt; have := a.isLt; have := b.isLt; have := c.isLt
  have := rnd.isLt; have := sat.isLt; have := ety.isLt; have := fn.isLt
  omega

theorem immFields_immWord (f : BitVec 2) (o : BitVec 10) (w : ImmForm) :
    formOf (immWord f o w) = f ∧ opcodeOf (immWord f o w) = o ∧ immFields (immWord f o w) = w := by
  obtain ⟨guard, d, a, imm⟩ := w
  simp only [formOf, opcodeOf, immFields, ImmForm.mk.injEq, ← BitVec.toNat_inj, toNat_field, toNat_immWord]
  have := f.isLt; have := o.isLt; have := guard.isLt; have := d.isLt; have := a.isLt; have := imm.isLt
  omega

theorem slotFields_slotBits (z : Slot) : slotFields (slotBits z) = z := by
  obtain ⟨sop, d, s, rnd, sat, ety⟩ := z
  simp only [slotFields, Slot.mk.injEq, ← BitVec.toNat_inj, BitVec.extractLsb'_toNat, Nat.shiftRight_eq_div_pow, toNat_slotBits]
  have := sop.isLt; have := d.isLt; have := s.isLt; have := rnd.isLt; have := sat.isLt; have := ety.isLt
  omega

end Sys2Proof
end

section
/-! LEMMAS. Decoding and encoding read the same opcode map (R32 to R34, R36). -/

namespace Sys2Proof
open Machine

/-! ## The opcode map, read from the decoder (R32 to R34) -/

/-- The code of a word whose instruction has the code's opcode: an immediate form from opcode 0x200 on (R15, R17). -/
def codeOfWord (x : W64) : Coded :=
  if 0x200 ≤ (opcodeOf x).toNat then .imm (formOf x) (opcodeOf x) (immFields x) else .reg (formOf x) (opcodeOf x) (regFields x)

theorem word_codeOfWord (x : W64) : (codeOfWord x).word = x := by
  unfold codeOfWord
  split
  · exact immWord_immFields x
  · exact regWord_regFields x

theorem codeOf_decodeS {o : BitVec 10} {x : W64} {i : Instr} (h : decodeS o x = some i) :
    codeOf i = some (if 0x200 ≤ o.toNat then .imm 0 o (immFields x) else .reg 0 o (regFields x)) := by
  obtain ⟨n, hn⟩ := o
  simp only [decodeS, BitVec.toNat_ofFin] at h ⊢
  repeat' split at h
  all_goals cases h
  all_goals rfl
theorem codeOf_decodeV {o : BitVec 10} {x : W64} {i : Instr} (h : decodeV o x = some i) :
    codeOf i = some (if 0x200 ≤ o.toNat then .imm 1 o (immFields x) else .reg 1 o (regFields x)) := by
  obtain ⟨n, hn⟩ := o
  simp only [decodeV, BitVec.toNat_ofFin] at h ⊢
  repeat' split at h
  all_goals cases h
  all_goals rfl
theorem codeOf_decodeX {o : BitVec 10} {x : W64} {i : Instr} (h : decodeX o x = some i) :
    codeOf i = some (if 0x200 ≤ o.toNat then .imm 3 o (immFields x) else .reg 3 o (regFields x)) := by
  obtain ⟨n, hn⟩ := o
  simp only [decodeX, BitVec.toNat_ofFin] at h ⊢
  repeat' split at h
  all_goals cases h
  all_goals rfl


/-! ## The opcode map, read from the encoder -/

/-- A word holds a code: its form, its opcode and its fields are the code's. -/
def Coded.HeldBy (c : Coded) (x : W64) : Prop :=
  match c with
  | .reg f o w => formOf x = f ∧ opcodeOf x = o ∧ regFields x = w
  | .imm f o w => formOf x = f ∧ opcodeOf x = o ∧ immFields x = w

theorem heldBy_word (c : Coded) : c.HeldBy c.word := by
  cases c with
  | reg f o w => exact regFields_regWord f o w
  | imm f o w => exact immFields_immWord f o w

/-- The fn value of a legal register form is listed (R36). -/
theorem fnOk_of_legal {i : Instr} {w : RegForm} {g : Sig} (hg : regSig i = some (w, g)) (h : legalReason i = none) :
    g.fnOk = true := by
  simp only [legalReason, hg, reasonReg] at h
  cases hf : g.fnOk with
  | true => rfl
  | false => simp only [hf] at h; split at h <;> simp at h

/-! The opcodes that several instructions share, told apart by fn (R102, R158, R169, R182, R192). -/

theorem decodeS_chwait (x : W64) : decodeS 0x089#10 x =
    if (regFields x).fn == 1 then some (.chwaitRows (regFields x)) else some (.chwait (regFields x)) := rfl

theorem decodeV_scale (x : W64) : decodeV 0x084#10 x =
    if (regFields x).fn == 1 then some (.scaleB (regFields x))
    else if (regFields x).fn == 2 then some (.scaleNoa (regFields x))
    else if (regFields x).fn == 3 then some (.scaleNob (regFields x)) else some (.scaleA (regFields x)) := rfl

theorem decodeV_tld (x : W64) : decodeV 0x085#10 x =
    if (regFields x).fn.getLsbD 6 then some (.tldBind (regFields x)) else some (.tld (regFields x)) := rfl

theorem decodeV_trel (x : W64) : decodeV 0x087#10 x =
    if (regFields x).fn == 1 then some (.trelFull (regFields x)) else some (.trelEmpty (regFields x)) := rfl

theorem decodeV_baton (x : W64) : decodeV 0x088#10 x =
    if (regFields x).fn == 1 then some (.batonPass (regFields x))
    else if (regFields x).fn == 2 then some (.batonDrop (regFields x)) else some (.batonTake (regFields x)) := rfl

theorem decodeV_leave (x : W64) : decodeV 0x089#10 x =
    if (regFields x).fn == 1 then some (.leaveRet (regFields x)) else some (.leaveReq (regFields x)) := rfl

theorem decodeX_board (x : W64) : decodeX 0x000#10 x =
    if (regFields x).fn.getLsbD 0 then some (.boardNew (regFields x)) else some (.board (regFields x)) := rfl

theorem decodeX_cancel (x : W64) : decodeX 0x003#10 x =
    if (regFields x).fn == 1 then some (.cancelKv (regFields x)) else some (.cancel (regFields x)) := rfl

/-- A word that holds the code of a legal instruction decodes to it: its opcode names the instruction alone, or the listed fn value
tells it from the others of the opcode. -/
theorem decodeFields_of_heldBy {i : Instr} {c : Coded} {x : W64} (hc : codeOf i = some c) (hl : legalReason i = none)
    (hx : c.HeldBy x) : decodeFields x = some i := by
  cases i with
  | chwait | chwaitRows | scaleA | scaleB | scaleNoa | scaleNob | tld | tldBind | trelEmpty | trelFull | batonTake | batonPass
  | batonDrop | leaveReq | leaveRet | board | boardNew | cancel | cancelKv =>
    cases hc
    obtain ⟨hf, ho, rfl⟩ := hx
    have hfn := fnOk_of_legal rfl hl
    simp [Sig.plain] at hfn
    simp [decodeFields, hf, ho, decodeS_chwait, decodeV_scale, decodeV_tld, decodeV_trel, decodeV_baton, decodeV_leave,
      decodeX_board, decodeX_cancel, hfn]
  | _ =>
    cases hc <;> (obtain ⟨hf, ho, rfl⟩ := hx; rw [decodeFields, hf, ho]; rfl)

/-! ## Both directions together -/

theorem form_cases (f : BitVec 2) : f = 0 ∨ f = 1 ∨ f = 2 ∨ f = 3 := by decide +revert

theorem codeOf_decodeFields {x : W64} {i : Instr} (hf : formOf x ≠ 2) (h : decodeFields x = some i) :
    codeOf i = some (codeOfWord x) := by
  rw [codeOfWord]
  rcases form_cases (formOf x) with h0 | h1 | h2 | h3
  · rw [decodeFields, h0] at h; rw [h0]; exact codeOf_decodeS h
  · rw [decodeFields, h1] at h; rw [h1]; exact codeOf_decodeV h
  · exact absurd h2 hf
  · rw [decodeFields, h3] at h; rw [h3]; exact codeOf_decodeX h

/-- A word decodes to the legal instruction whose fields it holds (R36). -/
theorem decodeWord_ok_iff {x : W64} {i : Instr} : decodeWord x = .ok i ↔ decodeFields x = some i ∧ legalReason i = none := by
  unfold decodeWord
  cases decodeFields x with
  | none => simp
  | some j =>
    simp only [Option.some.injEq]
    cases h : legalReason j with
    | none => simp only [Except.ok.injEq]; exact ⟨fun e => ⟨e, e ▸ h⟩, fun e => e.1⟩
    | some r => simp only [reduceCtorEq, false_iff, not_and]; rintro rfl; simp [h]

theorem wf_iff_legal {i : Instr} (hi : ∀ w, i ≠ .illegalWord w) : i.wf = true ↔ legalReason i = none := by
  unfold Instr.wf
  split
  · rename_i w; exact absurd rfl (hi w)
  · exact Option.isNone_iff_eq_none

theorem encode_of_codeOf {i : Instr} {c : Coded} (h : codeOf i = some c) : encode i = some c.word := by
  unfold encode
  split
  · cases h
  · cases h
  · rw [h]; rfl

theorem decodeFields_pWord (x : W64) (h : formOf x = 2) :
    decodeFields x = some (.pWord (slotFields (x.extractLsb' 31 31)) (slotFields (x.extractLsb' 0 31))) := by
  rw [decodeFields, h]; rfl

theorem wordOfSlots_fields (a b : Slot) :
    let x : W64 := (2 : BitVec 2) ++ slotBits a ++ slotBits b
    formOf x = 2 ∧ slotFields (x.extractLsb' 31 31) = a ∧ slotFields (x.extractLsb' 0 31) = b := by
  refine ⟨?_, ?_, ?_⟩
  · exact (BitVec.extractLsb'_append_eq_of_le (by decide)).trans BitVec.extractLsb'_append_eq_left
  · rw [show BitVec.extractLsb' 31 31 _ = slotBits a from
      (BitVec.extractLsb'_append_eq_of_le (by decide)).trans BitVec.extractLsb'_append_eq_right, slotFields_slotBits]
  · rw [show BitVec.extractLsb' 0 31 _ = slotBits b from BitVec.extractLsb'_append_eq_right, slotFields_slotBits]

/-- The instruction whose fields a legal instruction's word holds is that instruction. -/
theorem decodeFields_of_encode {i : Instr} {x : W64} (hw : i.wf = true) (hx : encode i = some x) : decodeFields x = some i := by
  unfold encode at hx
  split at hx
  · rename_i a b
    cases hx
    obtain ⟨hf, ha, hb⟩ := wordOfSlots_fields a b
    rw [decodeFields_pWord _ hf, ha, hb]
  · cases hw
  · rename_i hi
    obtain ⟨c, hc, rfl⟩ := Option.map_eq_some_iff.1 hx
    exact decodeFields_of_heldBy hc ((wf_iff_legal hi).1 hw) (heldBy_word c)

/-- A word whose fields are an instruction's is the word of that instruction, which is no illegal word. -/
theorem encode_of_decodeFields {x : W64} {i : Instr} (h : decodeFields x = some i) :
    encode i = some x ∧ ∀ w, i ≠ .illegalWord w := by
  by_cases hf : formOf x = 2
  · rw [decodeFields_pWord x hf] at h
    cases h
    exact ⟨congrArg some (slots_of_word x hf), fun w => Instr.noConfusion⟩
  · have hc := codeOf_decodeFields hf h
    refine ⟨by rw [encode_of_codeOf hc, word_codeOfWord], ?_⟩
    rintro w rfl
    cases hc

/-- Settles O10: a legal instruction's word holds its fields, and every word is the word of its fields. -/
theorem decodeInvertsEncode : Obligations.DecodeInvertsEncode := by
  refine ⟨fun i x hw hx => ?_, fun x i h => ?_⟩
  · have h := decodeFields_of_encode hw hx
    exact decodeWord_ok_iff.2 ⟨h, (wf_iff_legal (encode_of_decodeFields h).2).1 hw⟩
  · obtain ⟨hd, hl⟩ := decodeWord_ok_iff.1 h
    obtain ⟨he, hi⟩ := encode_of_decodeFields hd
    exact ⟨(wf_iff_legal hi).2 hl, he⟩

end Sys2Proof
end

section
/-! LEMMAS. NOP, WAIT and the special registers: what a crew's status words hold, and what a word that acts on its crew alone leaves
(R35, R102 to R109). -/

namespace Sys2Proof.Machine

/-! ## Words that act on their crew alone -/

theorem crewResult_of_putCrew {i : Instr} {s : State} {c c' : Crew} (h : s.crewAt s.cur = some c)
    (he : exec i s = .next (s.putCrew c')) (hp : c'.place = c.place) : CrewResult i s c' :=
  ⟨_, he, crewOnly_putCrew h hp⟩

/-- A crew that stands on the current berth knows it. -/
theorem Issues.place {s : State} {c : Crew} {g : BitVec 5} (h : Issues s c g) : c.place = s.cur := (State.crewAt_some h.1).2.2

/-- A scalar register written, and the pc moved on. -/
theorem setsScalar_setS (c : Crew) (d : BitVec 8) (v : W64) : SetsScalar c (c.setS d v).advance d v (c.pc + 8) where
  reg f hf := c.sreg_setS d f v hf
  pc := by rw [Crew.advance_pc, Crew.setS_pc]
  rest := by rw [Crew.setS_eq]; rfl

/-! ## WAIT (R102) -/

theorem waits_iff (c : Crew) (fn : BitVec 7) (n : Nat) :
    c.waits fn n = true ↔ ∃ k : Counter, fn.getLsbD k.bit = true ∧ n < c.count k := by
  simp only [Crew.waits, waitSet, List.any_eq_true, List.mem_filter, decide_eq_true_eq, and_assoc]
  constructor
  · rintro ⟨k, -, h⟩; exact ⟨k, h⟩
  · rintro ⟨k, h⟩; exact ⟨k, by cases k <;> simp, h⟩

theorem waits_iff_counters (c : Crew) (fn : BitVec 7) (n : Nat) :
    let above (k : Counter) : Prop := fn.getLsbD k.bit = true ∧ n < c.count k
    c.waits fn n = true ↔ above .wl ∨ above .ws ∨ above .wm ∨ above .wc ∨ above .wg := by
  intro above
  rw [waits_iff]
  constructor
  · rintro ⟨k, h⟩; cases k <;> simp only [above, h, true_or, or_true, and_self]
  · rintro (h | h | h | h | h) <;> exact ⟨_, h⟩

theorem exec_wait {s : State} {c : Crew} (w : RegForm) (h : Issues s c w.guard) : exec (.wait w) s =
    .next (s.putCrew (if c.waits w.fn (c.sreg w.a).toNat then { c with begun := .wait } else c.endWaitWord w)) := by
  show crewInstr w.guard s (waitBody w) = _
  rw [crewInstr_run h]; rfl

theorem waitReportsAndClears : WaitReportsAndClears := by
  intro w s c h n above busy selected
  have hb : c.waits w.fn n = true ↔ busy := waits_iff_counters c w.fn n
  refine ⟨crewResult_of_putCrew h.1 (crewStep_run h id) rfl, fun hbusy => ?_, fun hfree => ?_⟩
  · exact crewResult_of_putCrew h.1 (by rw [exec_wait w h, if_pos (hb.2 hbusy)]) rfl
  · refine ⟨_, crewResult_of_putCrew h.1 ?_ ?_, setsScalar_setS c w.d _⟩
    · rw [exec_wait w h, if_neg (mt hb.1 hfree)]
      rfl
    · simp

/-! ## What GETSR reads (R105 to R109) -/

/-- The number of the bits of `p` below n, as `summaryOf` puts them together. -/
def bitsBelow (p : Nat → Bool) (n : Nat) : Nat := (List.range n).foldl (fun a w => if p w then a + 2 ^ w else a) 0

theorem bitsBelow_succ (p : Nat → Bool) (n : Nat) :
    bitsBelow p (n + 1) = if p n then bitsBelow p n + 2 ^ n else bitsBelow p n := by
  simp only [bitsBelow, List.range_succ, List.foldl_append, List.foldl_cons, List.foldl_nil]

theorem bitsBelow_lt (p : Nat → Bool) (n : Nat) : bitsBelow p n < 2 ^ n := by
  induction n with
  | zero => exact Nat.one_pos
  | succ n ih => rw [bitsBelow_succ, pow_succ]; split <;> omega

theorem testBit_bitsBelow (p : Nat → Bool) (n i : Nat) : (bitsBelow p n).testBit i = (decide (i < n) && p i) := by
  induction n with
  | zero => simp [bitsBelow]
  | succ n ih =>
    rw [bitsBelow_succ]
    cases hp : p n with
    | true =>
      have hor : bitsBelow p n + 2 ^ n = 2 ^ n ||| bitsBelow p n := by
        rw [Nat.add_comm, ← Nat.mul_one (2 ^ n), Nat.two_pow_add_eq_or_of_lt (bitsBelow_lt p n) 1]
      rw [if_pos rfl, hor, Nat.testBit_or, Nat.testBit_two_pow, ih]
      rcases Nat.lt_trichotomy i n with hi | rfl | hi
      · simp [hi, Nat.lt_succ_of_lt hi, hi.ne']
      · simp [hp]
      · simp [Nat.not_lt.2 hi.le, hi.ne, show ¬ i < n + 1 by omega]
    | false =>
      rw [if_neg Bool.false_ne_true, ih]
      by_cases hi : i = n
      · simp [hi, hp]
      · simp only [show i < n + 1 ↔ i < n by omega]

/-- Bit w of the summary is the OR of mask word w (R94). -/
theorem getLsbD_summaryOf (m : Mask) (i : Nat) :
    (summaryOf m).getLsbD i = (decide (i < 32) && (m.extractLsb' (32 * i) 32 != 0)) := by
  show (BitVec.ofNat 32 (bitsBelow (fun w => m.extractLsb' (32 * w) 32 != 0) 32)).getLsbD i = _
  rw [BitVec.getLsbD_ofNat, testBit_bitsBelow, ← Bool.and_assoc, Bool.and_self]

theorem srNumber_eq (w : ImmForm) : srNumber w = w.imm.toNat % 4096 := by
  simp [srNumber, BitVec.extractLsb'_toNat]

theorem crewReg_eq (c : Crew) : c.crewReg = BitVec.ofNat 64 (c.version.toNat * 2 ^ 24 + c.region % 2 ^ 8 * 2 ^ 16 +
    c.handler % 2 ^ 3 * 2 ^ 13 + c.place.berth % 4 * 2 ^ 11 + c.place.core % 64 * 2 ^ 5 + c.place.die % 16) := by
  refine BitVec.eq_of_toNat_eq ?_
  simp only [Crew.crewReg, toNat_append_add, BitVec.ofNat_eq_ofNat, BitVec.toNat_ofNat]
  have := c.version.isLt
  omega

theorem rdepth_eq (c : Crew) : c.rdepth =
    BitVec.ofNat 64 ((if (c.stack.head?.map fun e => e.kind) = some .path then 32 else 0) + c.stack.length) := by
  unfold Crew.rdepth
  cases c.stack with
  | nil => rfl
  | cons e rest => simp

theorem readSr_fmt (s : State) (c : Crew) {i : Nat} (hi : i < 16) : s.readSr c (0x010 + i) = (c.fmt i).setWidth 64 := by
  simp (disch := omega) only [State.readSr, Bool.and_eq_true, decide_eq_true_eq, if_neg, if_pos, Nat.add_sub_cancel_left]

theorem readSr_shared (s : State) (c : Crew) {i : Nat} (hi : i < 16) :
    s.readSr c (0x020 + i) = ((s.core c.place.die c.place.core).shared[i]?).getD 0 := by
  simp (disch := omega) only [State.readSr, Bool.and_eq_true, decide_eq_true_eq, if_neg, if_pos, Nat.add_sub_cancel_left]

/-- GETSR writes what it reads to d. -/
theorem getsr_reads {w : ImmForm} {s : State} {c : Crew} (h : Issues s c w.guard) {v : W64}
    (hv : s.readSr c (w.imm.toNat % 4096) = v) : ScalarResult (.getsr w) s c w.d v := by
  subst hv
  refine ⟨_, crewResult_of_putCrew h.1 ?_ ?_, setsScalar_setS c w.d _⟩
  · show crewInstr w.guard s _ = _
    rw [crewInstr_run h, srNumber_eq]; rfl
  · simp

theorem specialRegisterReads : SpecialRegisterReads := by
  intro w s c h n
  refine ⟨fun hn => getsr_reads h ?_, fun hn => getsr_reads h ?_, fun hn => getsr_reads h ?_,
    fun hn => ⟨_, getsr_reads h rfl, fun i hi => ?_⟩, fun hn => getsr_reads h ?_, fun hn => getsr_reads h ?_,
    fun hn => getsr_reads h ?_, fun hn => getsr_reads h ?_, fun hn => getsr_reads h ?_, fun i hi hn => getsr_reads h ?_,
    fun i hi hn => getsr_reads h ?_, fun hn => getsr_reads h ?_⟩
  all_goals rw [show w.imm.toNat % 4096 = _ from hn]
  · rfl
  · show c.crewReg = _
    rw [crewReg_eq, h.place]
  · rfl
  · show ((summaryOf c.cur).setWidth 64).getLsbD i = _
    rw [BitVec.getLsbD_setWidth, getLsbD_summaryOf, decide_eq_true hi, Bool.true_and]
  · show c.rdepth = _
    rw [rdepth_eq]
  · rfl
  · rfl
  · rfl
  · rfl
  · exact readSr_fmt s c hi
  · rw [readSr_shared s c hi, h.place]
  · rfl

/-! ## What SETSR writes (R64, R105, R106) -/

/-- The bits of a value from bit k on are those that the mask of the low k bits leaves out. -/
theorem and_not_low_eq_zero_iff (v : W64) (k : Nat) : v &&& ~~~BitVec.ofNat 64 (2 ^ k - 1) = 0 ↔ v.toNat < 2 ^ k := by
  constructor
  · intro h
    refine Nat.lt_pow_two_of_testBit _ fun i hi => ?_
    by_cases h64 : i < 64
    · have hb : (v &&& ~~~BitVec.ofNat 64 (2 ^ k - 1)).getLsbD i = false := by rw [h]; exact BitVec.getLsbD_zero
      rw [BitVec.getLsbD_and, BitVec.getLsbD_not, BitVec.getLsbD_ofNat, Nat.testBit_two_pow_sub_one,
        decide_eq_false (Nat.not_lt.2 hi), decide_eq_true h64] at hb
      rwa [Bool.and_false, Bool.not_false, Bool.and_true, Bool.and_true] at hb
    · exact BitVec.getLsbD_of_ge v i (Nat.le_of_not_lt h64)
  · intro h
    refine BitVec.eq_of_getLsbD_eq fun i hi => ?_
    by_cases hk : i < k
    · simp [BitVec.getLsbD_ofNat, Nat.testBit_two_pow_sub_one, hi, hk]
    · have hv : v.getLsbD i = false := Nat.testBit_lt_two_pow (lt_of_lt_of_le h (Nat.pow_le_pow_right Nat.two_pos (Nat.le_of_not_lt hk)))
      simp [hv]

section
variable {w : ImmForm} {s : State} {c : Crew} (h : Issues s c w.guard)
include h

theorem exec_setsr {n : Nat} (hn : w.imm.toNat % 4096 = n) : exec (.setsr w) s =
    runBody s c fun s c =>
      let v := c.sreg w.a
      if n = 0x040 then .ok (s.putCrew c.advance)
      else if 0x020 ≤ n && n ≤ 0x02F then
        .ok ((s.putCrew c.advance).queueShared c.place.die c.place.core
          { berth := c.place.berth, reg := n - 0x20, op := w.imm.extractLsb' 12 2, value := v })
      else if v &&& srReserved n != 0 then raise 8 1 [BitVec.ofNat 64 n, v]
      else if 0x010 ≤ n && n ≤ 0x01F && fmInvalid (v.setWidth 32) then raise 8 2 [BitVec.ofNat 64 n, v]
      else .ok (s.putCrew (c.writeSr n v).advance) := by
  subst hn
  show crewInstr w.guard s _ = _
  rw [crewInstr_run h, srNumber_eq]

/-- A nonzero reserved bit kills (R106). -/
theorem setsr_reserved {n : Nat} (hn : w.imm.toNat % 4096 = n) (hlow : n < 0x020) (hr : c.sreg w.a &&& srReserved n ≠ 0) :
    Kills (.setsr w) s c 8 1 [BitVec.ofNat 64 n, c.sreg w.a] := by
  rw [Kills, exec_setsr h hn]
  exact runBody_fault (by
    simp (disch := omega) only [Bool.and_eq_true, decide_eq_true_eq, if_neg, bne_iff_ne, if_pos hr, raise])

/-- An invalid format kills (R64). -/
theorem setsr_invalid {n : Nat} (hn : w.imm.toNat % 4096 = n) (hfmt : 0x010 ≤ n ∧ n ≤ 0x01F)
    (hr : c.sreg w.a &&& srReserved n = 0) (hv : fmInvalid ((c.sreg w.a).setWidth 32) = true) :
    Kills (.setsr w) s c 8 2 [BitVec.ofNat 64 n, c.sreg w.a] := by
  rw [Kills, exec_setsr h hn]
  exact runBody_fault (by
    simp (disch := omega) only [Bool.and_eq_true, decide_eq_true_eq, if_neg, bne_iff_ne, hr, ne_eq, not_true, if_false,
      hv, and_true, if_pos, raise])

/-- Any other value below the core-shared registers changes the fields that a crew may write. -/
theorem setsr_writes {n : Nat} (hn : w.imm.toNat % 4096 = n) (hlow : n < 0x020) (hr : c.sreg w.a &&& srReserved n = 0)
    (hv : ¬(0x010 ≤ n ∧ n ≤ 0x01F ∧ fmInvalid ((c.sreg w.a).setWidth 32) = true)) :
    CrewResult (.setsr w) s (c.writeSr n (c.sreg w.a)).advance := by
  refine crewResult_of_putCrew h.1 ?_ ?_
  · rw [exec_setsr h hn]
    exact runBody_ok (by
      simp (disch := omega) only [Bool.and_eq_true, decide_eq_true_eq, if_neg, bne_iff_ne, hr, ne_eq, not_true, if_false,
        and_assoc, hv])
  · unfold Crew.writeSr; split_ifs <;> rfl

/-- SETSR of a core-shared register queues its write for the end of the cycle (R104). -/
theorem setsr_shared {i : Nat} (hi : i < 16) (hn : w.imm.toNat % 4096 = 0x020 + i) : ∃ t, exec (.setsr w) s = .next t ∧
    t.crewAt s.cur = some { c with pc := c.pc + 8 } ∧
    (t.core s.cur.die s.cur.core).shared = (s.core s.cur.die s.cur.core).shared ∧
    (t.core s.cur.die s.cur.core).sharedWrites = (s.core s.cur.die s.cur.core).sharedWrites ++
      [{ berth := s.cur.berth, reg := i, op := w.imm.extractLsb' 12 2, value := c.sreg w.a }] := by
  obtain ⟨hd, -, -⟩ := State.crewAt_some h.1
  have hput := crewOnly_putCrew (c' := c.advance) h.1 rfl
  have hcore := State.core_onCore (s.putCrew c.advance) s.cur.die s.cur.core s.cur.die s.cur.core
  refine ⟨(s.putCrew c.advance).queueShared s.cur.die s.cur.core
    { berth := s.cur.berth, reg := i, op := w.imm.extractLsb' 12 2, value := c.sreg w.a }, ?_, ?_, ?_, ?_⟩
  · rw [exec_setsr h hn, ← h.place]
    exact runBody_ok (by
      simp (disch := omega) only [Bool.and_eq_true, decide_eq_true_eq, if_neg, if_pos, Nat.add_sub_cancel_left])
  · rw [State.crewAt, State.queueShared, hcore, if_pos ⟨rfl, rfl, hd⟩]
    exact hput.here
  · rw [State.queueShared, hcore, if_pos ⟨rfl, rfl, hd⟩, hput.cores]
  · rw [State.queueShared, hcore, if_pos ⟨rfl, rfl, hd⟩, hput.cores]

theorem setsr_slicehash (hn : w.imm.toNat % 4096 = 0x040) : JumpsTo (.setsr w) s c (c.pc + 8) :=
  crewResult_of_putCrew h.1 (by rw [exec_setsr h hn]; rfl) rfl

end

theorem srReserved_fmt {i : Nat} (hi : i < 16) : srReserved (0x010 + i) = ~~~0x1FF1F#64 := by
  simp (disch := omega) only [srReserved, Bool.and_eq_true, decide_eq_true_eq, if_neg, if_pos]

theorem writeSr_fmt (c : Crew) {i : Nat} (hi : i < 16) (v : W64) :
    c.writeSr (0x010 + i) v = { c with fmts := c.fmts.setIfInBounds i (v.setWidth 32) } := by
  simp (disch := omega) only [Crew.writeSr, Bool.and_eq_true, decide_eq_true_eq, if_neg, if_pos, Nat.add_sub_cancel_left]

theorem specialRegisterWrites : SpecialRegisterWrites := by
  intro w s c h n v
  refine ⟨setsr_slicehash h, fun i hi hn => setsr_shared h hi hn, fun hn hv => ?_, fun hn hv => ?_, fun hn hv => ?_, fun hn hv => ?_, ?_,
    fun i hi hn => ⟨fun hr => ?_, fun hr hv => ?_, fun hr hv => ?_⟩⟩
  · exact setsr_writes h hn (by decide) ((and_not_low_eq_zero_iff v 6).2 hv) (by simp)
  · exact setsr_reserved h hn (by decide) (mt (and_not_low_eq_zero_iff v 6).1 (Nat.not_lt.2 hv))
  · exact setsr_writes h hn (by decide) ((and_not_low_eq_zero_iff v 2).2 hv) (by simp)
  · exact setsr_reserved h hn (by decide) (mt (and_not_low_eq_zero_iff v 2).1 (Nat.not_lt.2 hv))
  · rintro (hn | hn)
    · exact setsr_writes h hn (by decide) BitVec.and_zero (by simp)
    · exact setsr_writes h hn (by decide) BitVec.and_zero (by simp)
  · rw [hn]; exact setsr_reserved h hn (by omega) (by rwa [srReserved_fmt hi])
  · rw [hn]; exact setsr_invalid h hn (by omega) (by rwa [srReserved_fmt hi]) hv
  · have := setsr_writes h hn (by omega) (by rwa [srReserved_fmt hi]) (fun e => by simp [v, hv] at e)
    rwa [writeSr_fmt c hi] at this

/-- Settles O8: NOP and WAIT, then the special registers by number, as GETSR reads and SETSR writes them. -/
theorem waitAndSpecialRegisters : Obligations.WaitAndSpecialRegisters :=
  ⟨waitReportsAndClears, specialRegisterReads, specialRegisterWrites⟩

end Sys2Proof.Machine
end

section
/-! LEMMAS. Crew-guarded words: which they are, and what a false guard leaves (R21, R22). -/

namespace Sys2Proof

/-- The guard of a full form (R16, R17). -/
def Coded.guard : Coded → BitVec 5
  | .reg _ _ w => w.guard
  | .imm _ _ w => w.guard

/-- The form and the opcode of a full form. -/
def Coded.form : Coded → BitVec 2
  | .reg f _ _ => f
  | .imm f _ _ => f

def Coded.opcode : Coded → BitVec 10
  | .reg _ o _ => o
  | .imm _ o _ => o

theorem fields_of_word (k : Coded) :
    formOf k.word = k.form ∧ opcodeOf k.word = k.opcode ∧ k.word.extractLsb' 47 5 = k.guard := by
  cases k with
  | reg f o w =>
    obtain ⟨hf, ho, hw⟩ := regFields_regWord f o w
    exact ⟨hf, ho, congrArg RegForm.guard hw⟩
  | imm f o w =>
    obtain ⟨hf, ho, hw⟩ := immFields_immWord f o w
    exact ⟨hf, ho, congrArg ImmForm.guard hw⟩

end Sys2Proof

namespace Sys2Proof.Machine

/-- The words with a crew-level guard, by form and opcode (R21). -/
def crewGuarded (form : BitVec 2) (opcode : BitVec 10) : Prop :=
  form = 0 ∨ form = 3 ∨ (form = 1 ∧ 0x080 ≤ opcode.toNat ∧ opcode.toNat ≤ 0x089)

/-- The instruction acts through a body of its own under the crew-level guard of its word. -/
def RunsGuarded (i : Instr) (k : Coded) : Prop := ∀ s, ∃ body, exec i s = crewInstr k.guard s body

theorem runsGuarded_of_codeS {i : Instr} {k : Coded} (h : codeS i = some k) : RunsGuarded i k := by
  intro s
  unfold codeS at h
  split at h <;> cases h <;> exact ⟨_, rfl⟩

theorem runsGuarded_of_codeX {i : Instr} {k : Coded} (h : codeX i = some k) : RunsGuarded i k := by
  intro s
  unfold codeX at h
  split at h <;> cases h <;> exact ⟨_, rfl⟩

/-- Of the words of form 01 those of the matrix engine have a crew-level guard (R21, R22). -/
theorem runsGuarded_of_codeV {i : Instr} {k : Coded} (h : codeV i = some k) (hk : crewGuarded k.form k.opcode) :
    RunsGuarded i k := by
  intro s
  cases i with
  | mma | mmaz | accz | drain | scaleA | scaleB | scaleNoa | scaleNob | tld | tldBind | tst | trelEmpty | trelFull | batonTake
  | batonPass | batonDrop | leaveReq | leaveRet => cases h; exact ⟨_, rfl⟩
  | _ => cases h <;> exact absurd hk (by simp [crewGuarded, Coded.form, Coded.opcode])

theorem runsGuarded_of_codeOf {i : Instr} {k : Coded} (h : codeOf i = some k) (hk : crewGuarded k.form k.opcode) :
    RunsGuarded i k := by
  rcases Option.or_eq_some_iff.1 h with hs | ⟨-, h⟩
  · exact runsGuarded_of_codeS hs
  · rcases Option.or_eq_some_iff.1 h with hv | ⟨-, hx⟩
    · exact runsGuarded_of_codeV hv hk
    · exact runsGuarded_of_codeX hx

/-- Every crew-guarded word has the code of a full form: the P word has a form of its own, and the illegal word is not legal. -/
theorem codeOf_of_crewGuarded {i : Instr} {x : W64} (hw : i.wf = true) (hx : encode i = some x)
    (hg : crewGuarded (formOf x) (opcodeOf x)) : ∃ k, codeOf i = some k ∧ k.word = x := by
  unfold encode at hx
  split at hx
  · rename_i a b
    cases hx
    rw [(wordOfSlots_fields a b).1] at hg
    exact absurd hg (by simp [crewGuarded])
  · cases hw
  · exact Option.map_eq_some_iff.1 hx

theorem guardFalse_iff {g : BitVec 5} {c : Crew} : guardFalse g c = true ↔ g ≠ 0 ∧ guardSet g c = 0 := by
  rw [guardFalse, Bool.and_eq_true, bne_iff_ne, beq_iff_eq]

/-- A false guard lets the pc move on and nothing else (R21). -/
theorem crewInstr_skip {s : State} {c : Crew} {g : BitVec 5} (h : s.crewAt s.cur = some c) (hg : guardFalse g c = true)
    (body : State → Crew → Eff State) : crewInstr g s body = .next (s.putCrew c.advance) := by
  simp only [crewInstr, h, hg, if_true]

/-- Settles O9: a crew-guarded word acts through a body under its guard, which a false guard skips. -/
theorem falseGuardsSkip : Obligations.FalseGuardsSkip := by
  intro i x s c hw hx hc hform hg0 hg
  obtain ⟨k, hk, rfl⟩ := codeOf_of_crewGuarded hw hx hform
  obtain ⟨hf, ho, hguard⟩ := fields_of_word k
  rw [hf, ho] at hform
  rw [hguard] at hg0 hg
  obtain ⟨body, he⟩ := runsGuarded_of_codeOf hk hform s
  have hskip : guardFalse k.guard c = true := guardFalse_iff.2 ⟨hg0, hg⟩
  exact crewResult_of_putCrew hc (he.trans (crewInstr_skip hc hskip body)) rfl

end Sys2Proof.Machine
end

section
/-! LEMMAS. Words written out from the encodings, and the word that a step fetches, decodes and executes (R13, R37). -/

namespace Sys2Proof

/-- Settles O11: each word holds its instruction's fields, and the last one has no opcode of the table. -/
theorem wordsDecodeAsTheSpecWritesThem : Obligations.WordsDecodeAsTheSpecWritesThem :=
  ⟨rfl, rfl, rfl, rfl, rfl, rfl, rfl, rfl⟩

/-! ## Little-endian words (R5, R13) -/

/-- Byte k of a number is byte k of its bytes in memory order. -/
theorem natOfBytes_bytes (n v : Nat) : natOfBytes ((List.range n).map fun k => BitVec.ofNat 8 (v / 256 ^ k)) = v % 256 ^ n := by
  induction n generalizing v with
  | zero => simp [natOfBytes, Nat.mod_one]
  | succ n ih =>
    rw [List.range_succ_eq_map, List.map_cons, List.map_map, natOfBytes, pow_zero, Nat.div_one, BitVec.toNat_ofNat]
    have hrest : ((fun k => BitVec.ofNat 8 (v / 256 ^ k)) ∘ Nat.succ) = fun k => BitVec.ofNat 8 (v / 256 / 256 ^ k) := by
      funext k
      rw [Function.comp_apply, Nat.pow_succ, Nat.mul_comm, Nat.div_div_eq_div_mul]
    rw [hrest, ih, pow_succ' 256 n, Nat.mod_mul]

/-- The word whose eight bytes are given. -/
theorem word_of_bytes {x : W64} {f : Nat → Byte} (h : ∀ k, k < 8 → x.extractLsb' (8 * k) 8 = f k) :
    BitVec.ofNat 64 (natOfBytes ((List.range 8).map f)) = x := by
  have hf : (List.range 8).map f = (List.range 8).map fun k => BitVec.ofNat 8 (x.toNat / 256 ^ k) := by
    refine List.map_congr_left fun k hk => ?_
    rw [← h k (List.mem_range.1 hk), Machine.field_eq_ofNat, pow_mul]
    exact BitVec.eq_of_toNat_eq (by simp)
  rw [hf, natOfBytes_bytes, show (256 : Nat) ^ 8 = 2 ^ 64 from rfl, Nat.mod_eq_of_lt x.isLt, BitVec.ofNat_toNat, BitVec.setWidth_eq]

end Sys2Proof

namespace Sys2Proof.Machine

theorem mapNext_mapNext (f g : State → State) (o : Host.Outcome State Fault Refusal) :
    mapNext f (mapNext g o) = mapNext (fun t => f (g t)) o := by cases o <;> rfl

/-- A crew that nothing keeps from issuing issues its next word, and the cycle of the default order ends. -/
theorem step_of_ready {s : State} {c : Crew} (ha : s.agenda = []) (hc : s.crewAt s.cur = some c) (hheld : s.heldBack c = false)
    (hpoison : c.poison = none) (hexit : c.exitPending = false) (hslot : (s.core s.cur.die s.cur.core).slot ≤ s.cur.berth)
    (hhazard : c.hazard (s.nextInstr c) = false) :
    step s = mapNext (fun t => t.afterIssue.turnOver) (exec (s.nextInstr c) (s.fetched c)) := by
  have hplace := (State.crewAt_some hc).2.2
  have hissue : issue s = mapNext State.afterIssue (exec (s.nextInstr c) (s.fetched c)) := by
    simp only [issue, hc, hheld, hplace, decide_eq_false (Nat.not_lt.2 hslot), Bool.or_self, Bool.false_eq_true, if_false, hpoison,
      hexit, hhazard]
  simp only [step, ha, hissue, mapNext_mapNext]

theorem nextInstr_of_fetchWord {s : State} {c : Crew} {x : W64} (h : s.fetchWord c = .ok x) : s.nextInstr c = decodeIssued x := by
  simp only [State.nextInstr, h]

theorem fetchWord_ok {s : State} {c : Crew} {p : Place} (h : s.fetchPlace c = .ok p) :
    s.fetchWord c = .ok (BitVec.ofNat 64 (natOfBytes (s.readBytes c.place.die p 8))) := by simp only [State.fetchWord, h]

theorem fetched_ok {s : State} {c : Crew} {p : Place} (h : s.fetchPlace c = .ok p) :
    s.fetched c = (s.takeSlot c).observe c.place.die p 8 := by simp only [State.fetched, h]

/-- The executable page that maps the pc names the place of the word (R13). -/
theorem fetchPlace_of_page {s : State} {c : Crew} {e : TlbEntry} (h0 : topByte c.pc = 0) (hw : s.remoteWindow c.pc = none)
    (he : s.translate c.place.die c.place.core c.pc.toNat = some e) (hx : e.x = true) : s.fetchPlace c = .ok (e.place c.pc.toNat) := by
  simp [State.fetchPlace, h0, hw, he, hx]

theorem fetchPlace_of_fetchWord {s : State} {c : Crew} {d : Nat} (h : s.fetchWord c = .error d) : s.fetchPlace c = .error d := by
  unfold State.fetchWord at h
  split at h
  · cases h
  · rename_i e he; cases h; exact he

/-- Settles O12: the issue of the word at the pc, by the page that maps it or by the refusal of its fetch. -/
theorem stepRunsTheDecodedWord : Obligations.StepRunsTheDecodedWord := by
  intro s c ha hc hheld hpoison hexit hslot took
  have hplace := (State.crewAt_some hc).2.2
  have htook : s.takeSlot c = took := by simp only [took, ← hplace]; rfl
  refine ⟨fun x e h0 hw he hx hbytes => ?_, fun d hd => ?_⟩
  · have hp : s.fetchPlace c = .ok (e.place c.pc.toNat) := fetchPlace_of_page h0 hw (by rwa [hplace]) hx
    have hword : s.fetchWord c = .ok x := by
      rw [fetchWord_ok hp, hplace]
      exact congrArg Except.ok (word_of_bytes hbytes)
    have hnext := nextInstr_of_fetchWord hword
    have hfetched := fetched_ok hp
    rw [htook, hplace] at hfetched
    refine ⟨fun i hi hh => ?_, fun r hr => ?_⟩
    · have hn : s.nextInstr c = i := by rw [hnext, decodeIssued, hi]
      rw [step_of_ready ha hc hheld hpoison hexit hslot (by rwa [hn]), hn, hfetched]; rfl
    · have hn : s.nextInstr c = .illegalWord x := by rw [hnext, decodeIssued, hr]
      rw [step_of_ready ha hc hheld hpoison hexit hslot (by rw [hn]; rfl), hn, hfetched]; rfl
  · have hn : s.nextInstr c = .fetchFault := by simp only [State.nextInstr, hd]
    have hf : s.fetched c = took := by simp only [State.fetched, fetchPlace_of_fetchWord hd, htook]
    rw [step_of_ready ha hc hheld hpoison hexit hslot (by rw [hn]; rfl), hn, hf]

end Sys2Proof.Machine
end

section
/-! LEMMAS. What stays of a die while a crew ends: its crews, its faults, its event count, its recorder and its barges (R349). -/

namespace Sys2Proof.Machine

/-! ## Two dies that a crew's end leaves alike -/

/-- The parts of a die that the end of a crew's context does not change once its held barges are poisoned. -/
structure SameDie (x y : Die) : Prop where
  cores : y.cores = x.cores
  faults : y.faults = x.faults
  evseq : y.evseq = x.evseq
  recorder : y.recorder = x.recorder
  barges : y.barges = x.barges
  handedOn : y.handedOn = x.handedOn
  regs : y.regs = x.regs

theorem SameDie.refl (x : Die) : SameDie x x := ⟨rfl, rfl, rfl, rfl, rfl, rfl, rfl⟩

theorem SameDie.trans {x y z : Die} (h : SameDie x y) (k : SameDie y z) : SameDie x z :=
  ⟨k.cores.trans h.cores, k.faults.trans h.faults, k.evseq.trans h.evseq, k.recorder.trans h.recorder, k.barges.trans h.barges,
    k.handedOn.trans h.handedOn, k.regs.trans h.regs⟩

/-- Every die is left so. -/
def SameDies (s t : State) : Prop := ∀ d, SameDie (s.die d) (t.die d)

theorem SameDies.refl (s : State) : SameDies s s := fun d => SameDie.refl (s.die d)

theorem SameDies.trans {s t u : State} (h : SameDies s t) (k : SameDies t u) : SameDies s u := fun d => (h d).trans (k d)

theorem sameDies_of_dies {s t : State} (h : t.dies = s.dies) : SameDies s t := fun d => by
  simp only [State.die, h]; exact SameDie.refl _

theorem sameDies_onDie (s : State) (d : Nat) {f : Die → Die} (hf : ∀ x, SameDie x (f x)) : SameDies s (s.onDie d f) := fun e => by
  rw [State.die_onDie]
  split
  · rename_i h; rw [h.1]; exact hf _
  · exact SameDie.refl _

theorem SameDies.crewAt {s t : State} (h : SameDies s t) (who : CrewRef) : t.crewAt who = s.crewAt who := by
  simp only [State.crewAt, State.core, Die.core, (h who.die).cores]

theorem SameDies.barge {s t : State} (h : SameDies s t) (d i : Nat) : t.barge d i = s.barge d i := by
  simp only [State.barge, Die.barge, (h d).barges]

theorem sameDies_foldl {α : Type} {f : State → α → State} (hf : ∀ s x, SameDies s (f s x)) (xs : List α) (s : State) :
    SameDies s (xs.foldl f s) := by
  induction xs generalizing s with
  | nil => exact SameDies.refl s
  | cons x rest ih => exact (hf s x).trans (ih (f s x))

/-! ## Writes of the hardware's own words (R301, R320) -/

theorem dies_foldl {α : Type} {f : State → α → State} (hf : ∀ s x, (f s x).dies = s.dies) (xs : List α) (s : State) :
    (xs.foldl f s).dies = s.dies := by
  induction xs generalizing s with
  | nil => rfl
  | cons x rest ih => exact (ih (f s x)).trans (hf s x)

@[simp] theorem State.rekeyLine_dies (s : State) (key line : Nat) : (s.rekeyLine key line).dies = s.dies := by
  show (if s.keyPair key = s.lineKey line then s else _).dies = s.dies
  split
  · rfl
  · rw [State.onIo_dies]
    exact dies_foldl (fun t p => State.setCell_dies t _ _) _ s

@[simp] theorem State.setHomeByte_dies (s : State) (key pa : Nat) (b : Byte) : (s.setHomeByte key pa b).dies = s.dies := by
  rw [State.setHomeByte, State.setCell_dies, State.keepOld_dies, State.rekeyLine_dies]

@[simp] theorem State.putStamp_dies (s : State) (lo n w : Nat) (g : Option Image) : (s.putStamp lo n w g).dies = s.dies := rfl

@[simp] theorem State.writeLine_dies (s : State) (die : Nat) (l : DirtyLine) : (s.writeLine die l).dies = s.dies := by
  unfold State.writeLine
  refine (dies_foldl (fun t r => State.putStamp_dies t _ _ _ _) _ _).trans ?_
  exact dies_foldl (fun t p => State.setHomeByte_dies t _ _ _) _ s

theorem sameDies_writeBack (s : State) (die : Nat) (pick : DirtyLine → Bool) : SameDies s (s.writeBack die pick) :=
  (sameDies_of_dies (dies_foldl (fun t l => t.writeLine_dies die l) _ s)).trans (sameDies_onDie _ die fun _ => by constructor <;> rfl)

theorem sameDies_engineAt (s : State) (die : Nat) (p : Place) (b : Byte) : SameDies s (s.engineAt die p b) := by
  cases p with
  | pa x key page => exact (sameDies_writeBack s die _).trans (sameDies_of_dies (State.setHomeByte_dies _ key x b))
  | chip k => exact sameDies_of_dies rfl
  | barge d off => exact SameDies.refl s

@[simp] theorem State.clearPlace_dies (s : State) (p : Place) (n : Nat) : (s.clearPlace p n).dies = s.dies := by cases p <;> rfl

@[simp] theorem State.stampPlace_dies (s : State) (die : Nat) (p : Place) (n : Nat) : (s.stampPlace die p n).dies = s.dies := by
  cases p <;> rfl

theorem sameDies_engineBytes (s : State) (die : Nat) (p : Place) (bs : List Byte) : SameDies s (s.engineBytes die p bs) := by
  unfold State.engineBytes
  refine SameDies.trans ?_ (sameDies_of_dies ((State.stampPlace_dies _ _ _ _).trans (State.clearPlace_dies _ _ _)))
  exact sameDies_foldl (fun t x => sameDies_engineAt t die _ _) _ s

theorem sameDies_setSysBy (s : State) (writer die : Nat) (a v : W64) : SameDies s (s.setSysBy writer die a v) := by
  unfold State.setSysBy
  split
  · exact sameDies_engineBytes s writer _ _
  · exact SameDies.refl s

theorem sameDies_setSys64 (s : State) (die : Nat) (a v : W64) : SameDies s (s.setSys64 die a v) := sameDies_setSysBy s die die a v

/-! ## The weir slot, the node and the charge of a crew that a fault kills (R209, R280, R284, R287) -/

theorem sameDies_unbindSlot (s : State) (die : Nat) (b : WeirBinding) (uid : Nat) : SameDies s (s.unbindSlot die b uid) := by
  unfold State.unbindSlot
  split
  · exact SameDies.refl s
  · split
    · exact (sameDies_onDie s _ fun _ => by constructor <;> rfl).trans (sameDies_setSysBy _ _ _ _ _)
    · exact SameDies.refl s

theorem sameDies_endCancelling (s : State) (die : Nat) (node : W64) : SameDies s (s.endCancelling die node) :=
  (sameDies_setSys64 s die node _).trans (sameDies_onDie _ die fun _ => by constructor <;> rfl)

theorem sameDies_retryLaunch (s : State) (die : Nat) (c : Crew) (node : W64) : SameDies s (s.retryLaunch die c node) := by
  unfold State.retryLaunch
  split
  · exact sameDies_of_dies rfl
  · exact sameDies_onDie s die fun _ => by constructor <;> rfl

theorem sameDies_addWalk (s : State) (owner die : Nat) (succ : List W64) (origin : W64) (pol : Nat) :
    SameDies s (s.addWalk owner die succ origin pol) := by
  rw [State.addWalk]
  generalize (if pol = 2 then succ.filter fun n => nodeKind (s.sys64 die n) = 3 else succ) = todo
  show SameDies s (if todo.isEmpty then s else _)
  split
  · exact SameDies.refl s
  · exact sameDies_onDie s owner fun _ => by constructor <;> rfl

theorem sameDies_poisonNode (s : State) (die : Nat) (node origin : W64) : SameDies s (s.poisonNode die node origin) :=
  ((sameDies_setSys64 s die node _).trans (sameDies_setSys64 _ die (node + 24) origin)).trans (sameDies_addWalk _ _ _ _ _ _)

theorem sameDies_endNode (s : State) (c : Crew) (origin : W64) (seq : BitVec 48) : SameDies s (s.endNode c (.killed origin seq)) := by
  unfold State.endNode
  split
  · exact SameDies.refl s
  · simp only
    split
    · exact (sameDies_setSys64 s _ _ _).trans (sameDies_endCancelling _ _ _)
    · split
      · exact sameDies_setSys64 s _ _ _
      · split
        · exact ((sameDies_setSys64 s _ _ _).trans (sameDies_setSys64 _ _ _ _)).trans (sameDies_retryLaunch _ _ _ _)
        · exact (sameDies_setSys64 s _ _ _).trans (sameDies_poisonNode _ _ _ _)

theorem sameDies_charge (s : State) (c : Crew) : SameDies s (s.charge c) := by
  unfold State.charge
  split
  · exact SameDies.refl s
  · exact sameDies_of_dies rfl

/-- A crew that has no CANCEL in flight has none to end. -/
theorem sameDies_endCancels {s : State} {uid : Nat} (h : ∀ k, k ∈ s.flight.cancels → k.op.uid ≠ uid) :
    SameDies s (s.endCancels uid) := by
  have hnone : (s.flight.cancels.filter fun k => k.op.uid = uid) = [] :=
    List.filter_eq_nil_iff.2 fun k hk => by simpa using h k hk
  rw [State.endCancels, hnone]
  exact sameDies_of_dies rfl

theorem sameDies_finalPrint {s : State} {d : Nat} (h : (s.recorderOf d).mode = 0) (cid : BitVec 16) (fp : W64) :
    SameDies s (s.finalPrint d cid fp) := by
  simp only [State.finalPrint, h]
  exact SameDies.refl s

end Sys2Proof.Machine
end

section
/-! LEMMAS. The held barges of a crew that a fault kills: poisoned and handed on, or freed with a poison ring of size 0 (R349, R350). -/

namespace Sys2Proof.Machine

/-! ## The barge store -/

theorem assocGet_assocDel {α : Type} (xs : List (Nat × α)) (k j : Nat) :
    assocGet (assocDel xs k) j = if j = k then none else assocGet xs j := by
  induction xs with
  | nil => simp [assocDel, assocGet]
  | cons x rest ih =>
    obtain ⟨i, y⟩ := x
    simp only [assocDel, List.filter_cons] at ih ⊢
    by_cases hi : i = k
    · simp only [hi, bne_self_eq_false, Bool.false_eq_true, if_false, ih, assocGet]
      by_cases hj : j = k
      · simp [hj]
      · simp [hj, Ne.symm hj]
    · simp only [bne_iff_ne.2 hi, if_true, assocGet, ih]
      by_cases hij : i = j
      · simp [← hij, hi]
      · simp [hij]

theorem State.barge_putBarge {d : Nat} (hd : d < 4) (s : State) (i j : Nat) (b : Barge) :
    (s.putBarge d i b).barge d j = if j = i then some b else s.barge d j := by
  simp only [State.barge, Die.barge, State.putBarge, State.die_onDie, hd, and_self, if_true, assocGet_assocSet]

theorem State.barge_freeRecord {d : Nat} (hd : d < 4) (s : State) (i j : Nat) :
    (s.freeRecord d i).barge d j = if j = i then none else s.barge d j := by
  simp only [State.barge, Die.barge, State.freeRecord, State.die_onDie, hd, and_self, if_true, assocGet_assocDel]

/-! ## What the end of a held barge leaves -/

/-- The parts of a die beside its barge store that a held barge's end does not change. -/
structure SameSide (x y : Die) : Prop where
  cores : y.cores = x.cores
  faults : y.faults = x.faults
  evseq : y.evseq = x.evseq
  recorder : y.recorder = x.recorder
  regs : y.regs = x.regs

theorem SameSide.refl (x : Die) : SameSide x x := ⟨rfl, rfl, rfl, rfl, rfl⟩

theorem SameSide.trans {x y z : Die} (h : SameSide x y) (k : SameSide y z) : SameSide x z :=
  ⟨k.cores.trans h.cores, k.faults.trans h.faults, k.evseq.trans h.evseq, k.recorder.trans h.recorder, k.regs.trans h.regs⟩

theorem SameDie.side {x y : Die} (h : SameDie x y) : SameSide x y := ⟨h.cores, h.faults, h.evseq, h.recorder, h.regs⟩

theorem sameSide_onDie (s : State) (d : Nat) {f : Die → Die} (hf : ∀ x, SameSide x (f x)) (e : Nat) :
    SameSide (s.die e) ((s.onDie d f).die e) := by
  rw [State.die_onDie]
  split
  · rename_i h; rw [h.1]; exact hf _
  · exact SameSide.refl _

/-- The barges of the listed records of a die have been poisoned and handed on, or freed when the poison ring has size 0. -/
structure HandsOn (s t : State) (d : Nat) (origin : W64) (seq : BitVec 48) (rs : List Nat) : Prop where
  flight : t.flight = s.flight
  side : ∀ e, SameSide (s.die e) (t.die e)
  others : ∀ i, i ∉ rs → t.barge d i = s.barge d i
  freed : (s.die d).regs.poisonSize = 0 → ∀ i, i ∈ rs → t.barge d i = none
  poisoned : (s.die d).regs.poisonSize ≠ 0 → ∀ i b, i ∈ rs → s.barge d i = some b → t.barge d i = some (b.poison origin seq) ∧
    { record := i, seq := seq, lockRef := 0 } ∈ (t.die d).handedOn
  waiting : ∀ x, x ∈ (s.die d).handedOn → x ∈ (t.die d).handedOn

theorem Barge.poison_poison (b : Barge) (origin : W64) (seq : BitVec 48) : (b.poison origin seq).poison origin seq = b.poison origin seq := by
  simp only [Barge.poison, BitVec.or_assoc, BitVec.or_self]

section
variable {s t u : State} {d : Nat} {origin : W64} {seq : BitVec 48}

theorem handsOn_nil : HandsOn s s d origin seq [] where
  flight := rfl
  side _ := SameSide.refl _
  others _ _ := rfl
  freed _ _ h := absurd h List.not_mem_nil
  poisoned _ _ _ h := absurd h List.not_mem_nil
  waiting _ h := h

theorem HandsOn.append {rs rs' : List Nat} (h : HandsOn s t d origin seq rs) (k : HandsOn t u d origin seq rs') :
    HandsOn s u d origin seq (rs ++ rs') where
  flight := k.flight.trans h.flight
  side e := (h.side e).trans (k.side e)
  others i hi := by
    rw [List.mem_append, not_or] at hi
    rw [k.others i hi.2, h.others i hi.1]
  freed h0 i hi := by
    by_cases hk : i ∈ rs'
    · exact k.freed (by rw [(h.side d).regs, h0]) i hk
    · rw [k.others i hk]
      exact h.freed h0 i ((List.mem_append.1 hi).resolve_right hk)
  poisoned h0 i b hi hb := by
    have h0' : (t.die d).regs.poisonSize ≠ 0 := by rwa [(h.side d).regs]
    by_cases hr : i ∈ rs
    · obtain ⟨ht, hw⟩ := h.poisoned h0 i b hr hb
      by_cases hk : i ∈ rs'
      · rw [← Barge.poison_poison]
        exact k.poisoned h0' i _ hk ht
      · exact ⟨(k.others i hk).trans ht, k.waiting _ hw⟩
    · exact k.poisoned h0' i b ((List.mem_append.1 hi).resolve_left hr) ((h.others i hr).trans hb)
  waiting x hx := k.waiting x (h.waiting x hx)

/-- The landing row of a barge that has ended changes nothing of these. -/
theorem sameDies_freeLanding (s : State) (b : Barge) : SameDies s (s.freeLanding b) := by
  unfold State.freeLanding
  split
  · exact sameDies_onDie s _ fun _ => by constructor <;> rfl
  · exact SameDies.refl s

@[simp] theorem State.freeLanding_flight (s : State) (b : Barge) : (s.freeLanding b).flight = s.flight := by
  unfold State.freeLanding; split <;> rfl

theorem sameSide_putBarge (s : State) (d i : Nat) (b : Barge) (e : Nat) : SameSide (s.die e) ((s.putBarge d i b).die e) :=
  sameSide_onDie s d (fun _ => by constructor <;> rfl) e

/-- A held barge under a poison ring of size 0: poisoned, then freed at once (R350). -/
theorem endBarge_freed {i : Nat} {b : Barge} (hb : s.barge d i = some b) (hd : d < 4) (h0 : (s.die d).regs.poisonSize = 0) :
    s.endBarge d (.killed origin seq) i =
      ((s.putBarge d i (b.poison origin seq)).freeRecord d i).freeLanding (b.poison origin seq) := by
  have hsize := (congrArg DieRegs.poisonSize (sameSide_putBarge s d i (b.poison origin seq) d).regs).trans h0
  simp only [State.endBarge, hb, State.handOn, hsize, if_true, State.freeBarge, State.barge_putBarge hd]

/-- A record joins those that wait for the poison ring (R350). -/
def Die.ringWaits (x : Die) (i : Nat) (seq : BitVec 48) : Die :=
  { x with handedOn := x.handedOn ++ [{ record := i, seq := seq, lockRef := 0 }] }

/-- A held barge under a poison ring: poisoned, and waiting in its record for the ring (R350). -/
theorem endBarge_waits {i : Nat} {b : Barge} (hb : s.barge d i = some b) (h0 : (s.die d).regs.poisonSize ≠ 0) :
    s.endBarge d (.killed origin seq) i = (s.putBarge d i (b.poison origin seq)).onDie d fun x => x.ringWaits i seq := by
  have hsize := (congrArg DieRegs.poisonSize (sameSide_putBarge s d i (b.poison origin seq) d).regs).trans_ne h0
  simp only [State.endBarge, hb, State.handOn, hsize, if_false, Die.ringWaits]

theorem handsOn_of_freed (hd : d < 4) {i : Nat} {b : Barge} (hb : s.barge d i = some b) (h0 : (s.die d).regs.poisonSize = 0) :
    HandsOn s (s.endBarge d (.killed origin seq) i) d origin seq [i] := by
  rw [endBarge_freed hb hd h0]
  have hland := sameDies_freeLanding ((s.putBarge d i (b.poison origin seq)).freeRecord d i) (b.poison origin seq)
  have hbarge : ∀ j, State.barge _ d j = if j = i then none else s.barge d j := fun j => by
    rw [hland.barge, State.barge_freeRecord hd, State.barge_putBarge hd]
    split <;> rfl
  have hrec : ∀ e, SameSide (s.die e) (((s.putBarge d i (b.poison origin seq)).freeRecord d i).die e) := fun e =>
    (sameSide_putBarge s d i _ e).trans (sameSide_onDie _ d (fun _ => by constructor <;> rfl) e)
  refine ⟨State.freeLanding_flight _ _, fun e => (hrec e).trans (hland e).side, fun j hj => ?_, fun _ j hj => ?_,
    fun h => absurd h0 h, fun x hx => ?_⟩
  · rw [hbarge, if_neg (fun h => hj (List.mem_singleton.2 h))]
  · rw [hbarge, if_pos (List.mem_singleton.1 hj)]
  · rw [(hland d).handedOn]
    simpa only [State.freeRecord, State.putBarge, State.die_onDie, hd, and_self, if_true] using hx

theorem handsOn_of_waits (hd : d < 4) {i : Nat} {b : Barge} (hb : s.barge d i = some b) (h0 : (s.die d).regs.poisonSize ≠ 0) :
    HandsOn s (s.endBarge d (.killed origin seq) i) d origin seq [i] := by
  rw [endBarge_waits hb h0]
  have hbarge : ∀ j, State.barge ((s.putBarge d i (b.poison origin seq)).onDie d fun x => x.ringWaits i seq) d j =
      if j = i then some (b.poison origin seq) else s.barge d j := fun j => by
    rw [← State.barge_putBarge hd]
    simp only [State.barge, Die.barge, State.die_onDie, hd, and_self, if_true, Die.ringWaits]
  have hon : (State.die ((s.putBarge d i (b.poison origin seq)).onDie d fun x => x.ringWaits i seq) d).handedOn =
      (s.die d).handedOn ++ [{ record := i, seq := seq, lockRef := 0 }] := by
    simp only [State.putBarge, State.die_onDie, hd, and_self, if_true, Die.ringWaits]
  refine ⟨rfl, fun e => (sameSide_putBarge s d i _ e).trans (sameSide_onDie _ d (fun _ => by constructor <;> rfl) e), fun j hj => ?_,
    fun h => absurd h h0, fun _ j b' hj hj' => ?_, fun x hx => ?_⟩
  · rw [hbarge, if_neg (fun h => hj (List.mem_singleton.2 h))]
  · obtain rfl := List.mem_singleton.1 hj
    rw [hb] at hj'
    cases hj'
    exact ⟨by rw [hbarge, if_pos rfl], by rw [hon]; exact List.mem_append_right _ (List.mem_singleton.2 rfl)⟩
  · rw [hon]; exact List.mem_append_left _ hx

theorem handsOn_endBarge (hd : d < 4) (s : State) (i : Nat) : HandsOn s (s.endBarge d (.killed origin seq) i) d origin seq [i] := by
  cases hb : s.barge d i with
  | none =>
    have hs : s.endBarge d (.killed origin seq) i = s := by simp only [State.endBarge, hb]
    rw [hs]
    refine ⟨rfl, fun _ => SameSide.refl _, fun _ _ => rfl, fun _ j hj => ?_, fun _ j b hj hjb => ?_, fun _ h => h⟩
    · rw [List.mem_singleton.1 hj, hb]
    · rw [List.mem_singleton.1 hj, hb] at hjb; cases hjb
  | some b =>
    by_cases h0 : (s.die d).regs.poisonSize = 0
    · exact handsOn_of_freed hd hb h0
    · exact handsOn_of_waits hd hb h0

theorem handsOn_endBarges (hd : d < 4) (rs : List Nat) (s : State) :
    HandsOn s (rs.foldl (fun t i => t.endBarge d (.killed origin seq) i) s) d origin seq rs := by
  induction rs generalizing s with
  | nil => exact handsOn_nil
  | cons i rest ih => exact (handsOn_endBarge hd s i).append (ih _)

end

/-! ## The end of the crew (R217, R349) -/

/-- What a killed crew's context leaves of the dies, once its held barges have been handed on. -/
theorem handsOn_endContext {s : State} {c : Crew} {origin : W64} {seq : BitVec 48} (hd : c.place.die < 4)
    (hmode : (s.die c.place.die).recorder.mode = 0) (hcancel : ∀ k, k ∈ s.flight.cancels → k.op.uid ≠ c.uid) :
    ∃ u, HandsOn s u c.place.die origin seq c.heldRecords ∧ SameDies u (s.endContext c (.killed origin seq)) := by
  have h := handsOn_endBarges (origin := origin) (seq := seq) hd c.heldRecords s
  refine ⟨_, h, ?_⟩
  unfold State.endContext
  generalize c.heldRecords.foldl (fun t i => t.endBarge c.place.die (.killed origin seq) i) s = u at h
  have h1 : SameDies u (u.endCancels c.uid) := sameDies_endCancels (by rwa [h.flight])
  have h2 : SameDies u (match c.weir with
                        | none => u.endCancels c.uid
                        | some b => (u.endCancels c.uid).unbindSlot c.place.die b c.uid) := by
    split
    · exact h1
    · exact h1.trans (sameDies_unbindSlot _ _ _ _)
  have hmode2 : ∀ v, SameDies u v → (v.recorderOf c.place.die).mode = 0 := fun v hv => by
    rw [State.recorderOf, if_neg (by omega), (hv c.place.die).recorder, (h.side c.place.die).recorder, hmode]
  exact ((h2.trans (sameDies_finalPrint (hmode2 _ h2) _ _)).trans (sameDies_endNode _ _ _ _)).trans (sameDies_charge _ _)

/-- The berth of a killed crew is empty, and nothing else that its context left has changed. -/
theorem endCrew_leaves {s : State} {c : Crew} (hd : c.place.die < 4) (hb : c.place.berth < 4) (how : Ending) :
    (∀ who, (s.endCrew c how).crewAt who = if who = c.place then none else (s.endContext c how).crewAt who) ∧
      ∀ e, (s.endCrew c how).die e = { (s.endContext c how).die e with cores := ((s.endCrew c how).die e).cores } := by
  unfold State.endCrew
  generalize s.endContext c how = u
  refine ⟨fun who => ?_, fun e => ?_⟩
  · rw [State.crewAt_setBerth]
    by_cases hw : who = c.place
    · rw [if_pos hw, if_pos ⟨hw, hd, hb⟩, Option.map_none]
    · rw [if_neg hw, if_neg fun h => hw h.1]
      simp only [State.crewAt, State.core_onCore]
      split
      · rename_i h; rw [h.1, h.2.1]; rfl
      · rfl
  · rw [State.die_setBerth_eq]
    simp only [State.onCore, State.setCore, State.die_onDie]
    split
    · rename_i h; rw [h.1]; rfl
    · rfl

/-! ## The fault record (R346 to R348, R386) -/

theorem poff_eq (c : Crew) : c.poff.toNat = (c.pc - c.entry).toNat / 8 % 2 ^ 21 := by
  rw [Crew.poff, BitVec.toNat_setWidth, BitVec.toNat_ushiftRight, Nat.shiftRight_eq_div_pow]

/-- The origin word as a number (R346). -/
theorem origin_eq (c : Crew) (hd : c.place.die < 4) (cause detail : Nat) : c.origin cause detail =
    BitVec.ofNat 64 (c.place.die * 2 ^ 60 + c.region % 2 ^ 8 * 2 ^ 52 + c.version.toNat * 2 ^ 36 + c.handler % 2 ^ 3 * 2 ^ 33 +
      c.place.berth % 4 * 2 ^ 31 + cause % 2 ^ 6 * 2 ^ 25 + detail % 2 ^ 4 * 2 ^ 21 + (c.pc - c.entry).toNat / 8 % 2 ^ 21) := by
  refine BitVec.eq_of_toNat_eq ?_
  simp only [Crew.origin, originWord, toNat_append_add, BitVec.toNat_ofNat, poff_eq]
  have := c.version.isLt
  have := hd
  omega

section
variable {s : State} {d : Nat} (hd : d < 4) (origin : W64) (infos : List W64)
include hd

theorem record_after_fatal (h : (s.die d).faults.fatal ≠ none) (fatal notConsumed : Bool) :
    s.record d origin fatal notConsumed infos = s := by
  have h4 : d ≠ 4 := by omega
  simp only [State.record, State.faultsOf, h4, if_false, Option.isSome_iff_ne_none.2 h, if_true]

/-- A record that is not fatal takes the die's next SEQ. -/
theorem record_enters (h : (s.die d).faults.fatal = none) : s.record d origin false false infos =
    (s.onDie d fun x => { x with evseq := x.evseq + 1 }).onDie d fun x =>
      { x with
        faults := x.faults.take { origin := origin, fatal := false, notConsumed := false, seq := (s.die d).evseq, infos := infos
                                  merged := 0, lastSeq := (s.die d).evseq }
        fatalLine := x.fatalLine || false } := by
  have h4 : d ≠ 4 := by omega
  simp only [State.record, State.faultsOf, State.evseqOf, State.bumpEvseq, h4, if_false, h, Option.isSome_none, Bool.false_eq_true]

theorem faults_record (h : (s.die d).faults.fatal = none) : ((s.record d origin false false infos).die d).faults =
    (s.die d).faults.take { origin := origin, fatal := false, notConsumed := false, seq := (s.die d).evseq, infos := infos
                            merged := 0, lastSeq := (s.die d).evseq } := by
  simp only [record_enters hd origin infos h, State.die_onDie, hd, and_self, if_true]

theorem evseq_record (h : (s.die d).faults.fatal = none) :
    ((s.record d origin false false infos).die d).evseq = (s.die d).evseq + 1 := by
  simp only [record_enters hd origin infos h, State.die_onDie, hd, and_self, if_true]

end

/-- What a record of a die leaves as it was. -/
structure Recorded (s t : State) : Prop where
  flight : t.flight = s.flight
  cores : ∀ e, (t.die e).cores = (s.die e).cores
  recorder : ∀ e, (t.die e).recorder = (s.die e).recorder
  barges : ∀ e, (t.die e).barges = (s.die e).barges
  regs : ∀ e, (t.die e).regs = (s.die e).regs

theorem recorded_record {s : State} {d : Nat} (hd : d < 4) (origin : W64) (infos : List W64) :
    Recorded s (s.record d origin false false infos) := by
  by_cases h : (s.die d).faults.fatal = none
  · rw [record_enters hd origin infos h]
    refine ⟨rfl, fun e => ?_, fun e => ?_, fun e => ?_, fun e => ?_⟩ <;>
    · simp only [State.die_onDie, hd, and_true]
      split
      · rename_i he; rw [he]; rfl
      · rfl
  · rw [record_after_fatal hd origin infos h]
    exact ⟨rfl, fun _ => rfl, fun _ => rfl, fun _ => rfl, fun _ => rfl⟩

theorem mem_heldRecords (c : Crew) (i : Nat) : i ∈ c.heldRecords ↔ some i ∈ c.held := by
  simp [Crew.heldRecords]

/-- Taking a killing fault in its three parts: the record, the held barges, and what else ends with the crew (R349). -/
theorem killCrew_leaves {s : State} {c : Crew} (f : CrewFault) (hd : c.place.die < 4) (hb : c.place.berth < 4)
    (hmode : (s.die c.place.die).recorder.mode = 0) (hcancel : ∀ k, k ∈ s.flight.cancels → k.op.uid ≠ c.uid) :
    let origin := c.origin f.cause f.detail
    let s1 := s.record c.place.die origin false false f.infos
    ∃ u v, HandsOn s1 u c.place.die origin (s.die c.place.die).evseq c.heldRecords ∧ SameDies u v ∧
      (∀ who, (s.killCrew c f).crewAt who = if who = c.place then none else v.crewAt who) ∧
      ∀ e, (s.killCrew c f).die e = { v.die e with cores := ((s.killCrew c f).die e).cores } := by
  intro origin s1
  have h1 : Recorded s s1 := recorded_record hd origin f.infos
  have hseq : s.evseqOf c.place.die = (s.die c.place.die).evseq := if_neg (by omega)
  unfold State.killCrew
  simp only [hseq]
  generalize hc1 : ({ c with live := 0, cur := 0, service := _ } : Crew) = c1
  have hplace : c1.place = c.place := by rw [← hc1]
  have huid : c1.uid = c.uid := by rw [← hc1]
  have hheld : c1.heldRecords = c.heldRecords := by rw [← hc1]; rfl
  obtain ⟨u, hu, hv⟩ := handsOn_endContext (s := s1) (c := c1) (origin := origin) (seq := (s.die c.place.die).evseq)
    (by rwa [hplace]) (by rw [hplace, h1.recorder, hmode]) (by rwa [huid, h1.flight])
  obtain ⟨hcrew, hdie⟩ := endCrew_leaves (s := s1) (c := c1) (by rwa [hplace]) (by rwa [hplace])
    (.killed origin (s.die c.place.die).evseq)
  rw [hplace, hheld] at hu
  rw [hplace] at hcrew
  exact ⟨u, _, hu, hv, hcrew, hdie⟩

theorem killingFaultIsTaken : KillingFaultIsTaken := by
  intro s c f hc hmode hcancel d poff origin seq t
  obtain ⟨hd, hb, -⟩ := State.crewAt_some hc
  have horigin : c.origin f.cause f.detail = origin := origin_eq c hd f.cause f.detail
  obtain ⟨u, v, hu, hv, hcrew, hdie⟩ := killCrew_leaves f hd hb hmode hcancel
  rw [horigin] at hu
  have h1 : Recorded s (s.record d origin false false f.infos) := recorded_record hd origin f.infos
  have hcores : ∀ e, (u.die e).cores = (s.die e).cores := fun e => (hu.side e).cores.trans (h1.cores e)
  have hfaults : (t.die d).faults = ((s.record d origin false false f.infos).die d).faults := by
    rw [hdie]; exact (hv d).faults.trans (hu.side d).faults
  have hevseq : (t.die d).evseq = ((s.record d origin false false f.infos).die d).evseq := by
    rw [hdie]; exact (hv d).evseq.trans (hu.side d).evseq
  have hbarge : ∀ i, t.barge d i = u.barge d i := fun i => by
    rw [← hv.barge, State.barge, hdie]; rfl
  have hbarge1 : ∀ i, (s.record d origin false false f.infos).barge d i = s.barge d i := fun i => by
    rw [State.barge, Die.barge, h1.barges]; rfl
  have hsize : ((s.record d origin false false f.infos).die d).regs.poisonSize = (s.die d).regs.poisonSize := by rw [h1.regs]
  refine ⟨by rw [hcrew, if_pos rfl], fun who hw => ?_, fun h => ⟨?_, ?_⟩, fun h => ⟨?_, ?_⟩, fun i b hi hib h0 => ⟨?_, ?_⟩,
    fun i hi h0 => ?_, fun i hi => ?_⟩
  · rw [hcrew, if_neg hw, hv.crewAt]
    simp only [State.crewAt, State.core, Die.core, hcores]
  · rw [hfaults]; exact faults_record hd origin f.infos h
  · rw [hevseq]; exact evseq_record hd origin f.infos h
  · rw [hfaults, record_after_fatal hd origin f.infos h]
  · rw [hevseq, record_after_fatal hd origin f.infos h]
  · rw [hbarge]
    exact (hu.poisoned (by rwa [hsize]) i b ((mem_heldRecords c i).2 hi) (by rwa [hbarge1])).1
  · rw [hdie]
    show _ ∈ (v.die d).handedOn
    rw [(hv d).handedOn]
    exact (hu.poisoned (by rwa [hsize]) i b ((mem_heldRecords c i).2 hi) (by rwa [hbarge1])).2
  · rw [hbarge]
    exact hu.freed (hsize.trans h0) i ((mem_heldRecords c i).2 hi)
  · rw [hbarge, hu.others i (mt (mem_heldRecords c i).1 hi), hbarge1]

/-! ## The words that always kill (R37, R218, R345) -/

/-- A word without a crew-level guard acts through its body. -/
theorem anyInstr_run {s : State} {c : Crew} (h : s.crewAt s.cur = some c) (body : State → Crew → Eff State) :
    anyInstr s body = runBody s c body := by
  simp only [anyInstr, h]

theorem illegalWord_kills {s : State} {c : Crew} (h : s.crewAt s.cur = some c) {x : W64} {r : Nat} (hr : decodeWord x = .error r) :
    Kills (.illegalWord x) s c 1 r [x] := by
  show execIllegalWord x s = _
  rw [execIllegalWord, anyInstr_run h]
  exact runBody_fault (by simp only [hr, raise])

theorem fetchFault_kills {s : State} {c : Crew} (h : s.crewAt s.cur = some c) {d : Nat} (hd : s.fetchWord c = .error d) :
    Kills .fetchFault s c 2 d [c.pc] := by
  show execFetchFault s = _
  rw [execFetchFault, anyInstr_run h]
  exact runBody_fault (by simp only [hd, raise])

theorem fetchWord_refused {s : State} {c : Crew} {d : Nat} (h : s.fetchPlace c = .error d) : s.fetchWord c = .error d := by
  simp only [State.fetchWord, h]

theorem and_low16 (v : W64) : v &&& 0xFFFF = BitVec.ofNat 64 (v.toNat % 2 ^ 16) := by
  refine BitVec.eq_of_toNat_eq ?_
  rw [BitVec.toNat_and, BitVec.toNat_ofNat, Nat.mod_eq_of_lt (by omega)]
  exact Nat.and_two_pow_sub_one_eq_mod v.toNat 16

theorem low16_imm (v : BitVec 31) : (v.extractLsb' 0 16).setWidth 64 = BitVec.ofNat 64 (v.toNat % 2 ^ 16) :=
  BitVec.eq_of_toNat_eq (by simp)

theorem wordsThatAlwaysKill : WordsThatAlwaysKill := by
  intro s c h
  have hplace := (State.crewAt_some h).2.2
  refine ⟨fun x r => illegalWord_kills h, fun d => fetchFault_kills h, fun h0 => fetchFault_kills h (fetchWord_refused ?_),
    fun h0 hw => fetchFault_kills h (fetchWord_refused ?_), fun e h0 hw he hx => fetchFault_kills h (fetchWord_refused ?_),
    fun w hi => ?_, fun w hi => ?_⟩
  · simp [State.fetchPlace, h0]
  · rcases hw with hw | ht
    · simp [State.fetchPlace, h0, hw]
    · cases hr : s.remoteWindow c.pc with
      | some r => simp [State.fetchPlace, h0, hr]
      | none => simp [State.fetchPlace, h0, hr, hplace, ht]
  · simp [State.fetchPlace, h0, hw, hplace, he, hx]
  · show crewInstr w.guard s _ = _
    rw [crewInstr_run hi]
    exact runBody_fault (by rw [and_low16]; rfl)
  · show crewInstr w.guard s _ = _
    rw [crewInstr_run hi]
    exact runBody_fault (by rw [low16_imm]; rfl)

/-- Settles O17: the words that kill at issue, and a killing fault in its three parts. -/
theorem killingFaults : Obligations.KillingFaults := ⟨wordsThatAlwaysKill, killingFaultIsTaken⟩

end Sys2Proof.Machine
end


section
/-! LEMMAS. The P word that fails the statement of pairs with a memory slot: a store that straddles two lines, over a cached line that
holds a byte of its neighbour (R28, R144, R306). -/

namespace Sys2Proof.Machine

/-- A crew whose 0xF0 window begins at the last byte of a line, with the address of that byte in s1. -/
def unalignedCrew : Crew :=
  { (Crew.start 0 CrewRef.first [] 0 4).setS 1 0xF000000000000000 with privBase := 127, privSize := 2 }

/-- A dirty line, under key index 1, of the second line of that window, which keeps a byte of the first. -/
def strayLine : DirtyLine :=
  { line := 32769, key := 1, bytes := [(4194431, 0xAA)], marks := [], released := false, uids := [], regions := [], pages := []
    owner := CrewRef.first, uid := 0, region := 0, version := 0, handler := 0, poff := 0 }

/-- The crew on the reset package, whose caches are off, with that line in the L1s of its die. -/
def strayState : State := (State.reset.putCrew unalignedCrew).onDie 0 fun x => { x with dirty := [strayLine] }

/-- A store of the two low bytes of s0 at s1, as a slot. -/
def storeSlot : Slot := ⟨0x12, 0, 1, 0, 0, 2⟩

/-- A slot that does nothing. -/
def idleSlot : Slot := ⟨0, 0, 0, 0, 0, 0⟩

/-- A byte at its home slice in the state that a word leaves. -/
def homeByteAfter (o : Host.Outcome State Fault Refusal) (key pa : Nat) : Byte :=
  match o with
  | .next t => t.homeByte key pa
  | _ => 0

theorem strayState_noLog : strayState.NoLog := by
  intro d
  rcases Nat.lt_or_ge d 5 with h | h
  · interval_cases d <;> rfl
  · have out : strayState.dies[d]? = none := by simp; omega
    simp [State.recorderOf, State.die, Nat.ne_of_gt h, out, Die.reset, Recorder.reset]

/-- The store's second byte sends the stray line home, over the store's first byte. -/
theorem stray_byte_stays : homeByteAfter (exec (.pWord storeSlot idleSlot) strayState) 0 4194431 = 0xAA := rfl

theorem check_storeSlot : strayState.check unalignedCrew.accessor .store (unalignedCrew.sreg 1) 2 2 = .ok (.pa 4194431 0 none) := rfl

/-- What a store of zeros leaves at its first byte while the caches are off (R301, R306). -/
theorem CrewStores.first_homeByte_zero {s t : State} {c' : Crew} {d pa key n : Nat} {page : Option VPage}
    (h : CrewStores s t c' d (.pa pa key page) n 0) (off : s.io.cacheEn = false) (hn : 0 < n) : t.homeByte key pa = 0 := by
  have bytes := h.bytes
  simp only [StoredAt, off] at bytes
  simpa [hn] using bytes.2 key pa (.inl rfl)

/-- The word meets every premise of the statement, and the byte that the statement has stored is not there. -/
theorem not_pairsWithMemory : ¬ PairsWithMemory := by
  intro h
  obtain ⟨-, -, performed⟩ := h storeSlot idleSlot storeSlot idleSlot strayState unalignedCrew .nothing 2 true strayState_noLog rfl
    (.inl ⟨rfl, rfl⟩) (.inr rfl) rfl (by decide)
  obtain ⟨-, stored⟩ := performed _ (by decide) check_storeSlot
  obtain ⟨inMemory, -⟩ := stored rfl rfl fun ne => absurd rfl ne
  obtain ⟨t, c', runs, stores, -⟩ := inMemory fun _ chip => nomatch chip
  have zero : t.homeByte 0 4194431 = 0 := stores.first_homeByte_zero rfl (by decide)
  have stray : t.homeByte 0 4194431 = 0xAA := by
    have h := stray_byte_stays
    rwa [runs] at h
  rw [zero] at stray
  exact absurd stray (by decide)

/-- Refutes O31: the store's clause takes every state, so also one in which the caches are off and a die still holds a dirty line,
which R306 excludes. A store of two bytes in an unaligned window of the 0xF0 path straddles two lines; its second byte sends home what the die
caches of the second line under another key index, and a stray byte there overwrites the store's first byte. A premise that a die
holds dirty lines only while the caches are on would exclude this state. -/
theorem not_pairWords : ¬ Obligations.PairWords := fun h => not_pairsWithMemory h.2

end Sys2Proof.Machine
end

section
/-! LEMMAS. The package after reset (R106, R228, R306, R310, R364, R396). -/

namespace Sys2Proof.Machine

theorem State.die_reset (d : Nat) : State.reset.die d = Die.reset := by
  by_cases h : d < 4
  · simp [State.die, State.reset, h]
  · exact State.die_out _ d h

theorem State.crewAt_reset (who : CrewRef) : State.reset.crewAt who = none := by
  simp only [State.crewAt, State.core, State.die_reset]
  exact congrArg (Option.map _) (Core.crew_reset who.berth)

/-- Settles O14: the reset values, one by one; every die is as reset leaves a die. -/
theorem resetState : Obligations.ResetState := by
  refine ⟨rfl, rfl, rfl, rfl, rfl, rfl, State.crewAt_reset, rfl, rfl, fun d => ?_⟩
  rw [State.die_reset]
  exact ⟨rfl, rfl, rfl, rfl, rfl, rfl, rfl⟩

end Sys2Proof.Machine
end

section
/-! LEMMAS. The results of the scalar integer words, by register and by immediate (R87 to R89). -/

namespace Sys2Proof.Machine

/-! ## Quotients and remainders (R88) -/

theorem divSigned_eq (x y : W64) :
    divSigned x y = if y = 0 then BitVec.ofInt 64 (-1) else BitVec.ofInt 64 (x.toInt.tdiv y.toInt) := by
  have hquotient : x.sdiv y = BitVec.ofInt 64 (x.toInt.tdiv y.toInt) :=
    BitVec.eq_of_toInt_eq (by rw [BitVec.toInt_sdiv, BitVec.toInt_ofInt])
  rw [divSigned, hquotient]
  rfl

theorem divUnsigned_eq (x y : W64) :
    divUnsigned x y = if y = 0 then BitVec.ofNat 64 (2 ^ 64 - 1) else BitVec.ofNat 64 (x.toNat / y.toNat) := by
  rw [divUnsigned, ← BitVec.toNat_udiv, BitVec.ofNat_toNat, BitVec.setWidth_eq]
  rfl

theorem remSigned_eq (x y : W64) : remSigned x y = if y = 0 then x else BitVec.ofInt 64 (x.toInt.tmod y.toInt) := by
  rw [remSigned, ← BitVec.toInt_srem, BitVec.ofInt_toInt]

theorem remUnsigned_eq (x y : W64) : remUnsigned x y = if y = 0 then x else BitVec.ofNat 64 (x.toNat % y.toNat) := by
  rw [remUnsigned, ← BitVec.toNat_umod, BitVec.ofNat_toNat, BitVec.setWidth_eq]

/-- Settles O2: each quotient and remainder is the truncated one of the values, with the divisor 0 apart. -/
theorem scalarDivisionNeverFaults : Obligations.ScalarDivisionNeverFaults := by
  intro w s c h x y
  exact ⟨scalarResult_of_step h rfl (divSigned_eq x y), scalarResult_of_step h rfl (divUnsigned_eq x y),
    scalarResult_of_step h rfl (remSigned_eq x y), scalarResult_of_step h rfl (remUnsigned_eq x y)⟩

/-! ## Integers of registers (R58, R60) -/

theorem intOf_signed (n x : Nat) : intOf true n x = (BitVec.ofNat n x).toInt := by
  simp only [intOf, Bool.true_and, decide_eq_true_eq, BitVec.toInt_eq_toNat_cond, BitVec.toNat_ofNat]
  push_cast
  split <;> split <;> omega

theorem intOf_unsigned (n x : Nat) : intOf false n x = (x % 2 ^ n : Nat) := rfl

/-- The high half of a product, as a quotient. -/
theorem extractLsb'_ofInt (v : Int) : (BitVec.ofInt 128 v).extractLsb' 64 64 = BitVec.ofInt 64 (v / 2 ^ 64) := by
  refine BitVec.eq_of_toNat_eq ?_
  rw [BitVec.extractLsb'_toNat, Nat.shiftRight_eq_div_pow, BitVec.toNat_ofInt, BitVec.toNat_ofInt]
  omega

theorem mulHigh_signed (x y : W64) :
    mulHigh true x y = (x.signExtend 128 * y.signExtend 128).extractLsb' 64 64 := by
  rw [mulHigh, intOf_signed, intOf_signed, BitVec.ofNat_toNat, BitVec.ofNat_toNat, BitVec.setWidth_eq, BitVec.setWidth_eq,
    BitVec.signExtend, BitVec.signExtend, ← BitVec.ofInt_mul, ← extractLsb'_ofInt]

theorem mulHigh_unsigned (x y : W64) :
    mulHigh false x y = (x.setWidth 128 * y.setWidth 128).extractLsb' 64 64 := by
  have hset : ∀ z : W64, z.setWidth 128 = BitVec.ofInt 128 (z.toNat : Int) := fun z => by
    rw [BitVec.ofInt_natCast, BitVec.ofNat_toNat]
  rw [mulHigh, intOf_unsigned, intOf_unsigned, Nat.mod_eq_of_lt x.isLt, Nat.mod_eq_of_lt y.isLt, hset, hset, ← BitVec.ofInt_mul,
    ← extractLsb'_ofInt]

/-! ## Shifts, minima and comparisons (R87) -/

theorem shiftBy_eq (y : W64) : shiftBy y = y.toNat % 64 := by
  rw [shiftBy, toNat_field, pow_zero, Nat.div_one]
  rfl

theorem rotateLeft_eq (x y : W64) : x.rotateLeft (shiftBy y) = x <<< (y.toNat % 64) ||| x >>> (64 - y.toNat % 64) := by
  rw [BitVec.rotateLeft_def, shiftBy_eq, Nat.mod_mod]

theorem flagWord_eq {b : Bool} {p : Prop} [Decidable p] (h : b = true ↔ p) : flagWord b = truthWord p := by
  simp only [flagWord, truthWord, h]

theorem min_signed (x y : W64) : (if x.sle y then x else y) = BitVec.ofInt 64 (min x.toInt y.toInt) := by
  rw [min_def, apply_ite (BitVec.ofInt 64), BitVec.ofInt_toInt, BitVec.ofInt_toInt]
  simp only [BitVec.sle_iff_toInt_le]

theorem max_signed (x y : W64) : (if x.sle y then y else x) = BitVec.ofInt 64 (max x.toInt y.toInt) := by
  rw [max_def, apply_ite (BitVec.ofInt 64), BitVec.ofInt_toInt, BitVec.ofInt_toInt]
  simp only [BitVec.sle_iff_toInt_le]

theorem min_unsigned (x y : W64) : (if x ≤ y then x else y) = BitVec.ofNat 64 (min x.toNat y.toNat) := by
  rw [min_def, apply_ite (BitVec.ofNat 64), BitVec.ofNat_toNat, BitVec.ofNat_toNat, BitVec.setWidth_eq, BitVec.setWidth_eq]
  rfl

theorem max_unsigned (x y : W64) : (if x ≤ y then y else x) = BitVec.ofNat 64 (max x.toNat y.toNat) := by
  rw [max_def, apply_ite (BitVec.ofNat 64), BitVec.ofNat_toNat, BitVec.ofNat_toNat, BitVec.setWidth_eq, BitVec.setWidth_eq]
  rfl

theorem scalarIntegerOperations : ScalarIntegerOperations := by
  intro w s c h x y n
  have hn : shiftBy y = n := shiftBy_eq y
  refine ⟨scalarResult_of_step h rfl (mulHigh_signed x y), scalarResult_of_step h rfl (mulHigh_unsigned x y),
    scalarResult_of_step h rfl rfl, scalarResult_of_step h rfl rfl, scalarResult_of_step h rfl rfl, scalarResult_of_step h rfl rfl,
    scalarResult_of_step h rfl (congrArg (x <<< ·) hn), scalarResult_of_step h rfl (congrArg (x >>> ·) hn),
    scalarResult_of_step h rfl (congrArg x.sshiftRight hn), scalarResult_of_step h rfl (rotateLeft_eq x y),
    scalarResult_of_step h rfl (min_signed x y), scalarResult_of_step h rfl (max_signed x y),
    scalarResult_of_step h rfl (min_unsigned x y), scalarResult_of_step h rfl (max_unsigned x y),
    scalarResult_of_step h rfl (by simp only [bne_iff_ne]; rfl),
    scalarResult_of_step h rfl (flagWord_eq beq_iff_eq), scalarResult_of_step h rfl (flagWord_eq bne_iff_ne),
    scalarResult_of_step h rfl (flagWord_eq BitVec.slt_iff_toInt_lt), scalarResult_of_step h rfl (flagWord_eq decide_eq_true_iff),
    scalarResult_of_step h rfl (flagWord_eq BitVec.sle_iff_toInt_le), scalarResult_of_step h rfl (flagWord_eq decide_eq_true_iff)⟩

/-! ## Counts of bits and extensions (R87) -/

theorem clzOf_le (n x : Nat) : clzOf n x ≤ n := by
  unfold clzOf; split <;> omega

/-- The leading bits that CLZ counts are zero, and the next one is set. -/
theorem clzOf_spec (x : W64) : (∀ i, i < 64 → 64 - clzOf 64 x.toNat ≤ i → x.getLsbD i = false) ∧
    (clzOf 64 x.toNat < 64 → x.getLsbD (63 - clzOf 64 x.toNat) = true) := by
  rw [clzOf, Nat.mod_eq_of_lt x.isLt]
  by_cases h0 : x.toNat = 0
  · have hx : x = 0 := BitVec.eq_of_toNat_eq h0
    simp [hx]
  · have hlog : x.toNat.log2 < 64 := (Nat.log2_lt h0).2 x.isLt
    rw [if_neg h0]
    refine ⟨fun i _ hi => ?_, fun _ => ?_⟩
    · exact Nat.testBit_lt_two_pow (lt_of_lt_of_le Nat.lt_log2_self (Nat.pow_le_pow_right Nat.two_pos (by omega)))
    · rw [show 63 - (64 - 1 - x.toNat.log2) = x.toNat.log2 by omega]
      exact Nat.testBit_log2 h0

theorem ctzOf_le (n x : Nat) : ctzOf n x ≤ n := by
  induction n generalizing x with
  | zero => exact Nat.le_refl 0
  | succ n ih =>
    have := ih (x / 2)
    unfold ctzOf; split <;> omega

/-- The trailing bits that CTZ counts are zero, and the next one is set. -/
theorem ctzOf_spec (n x : Nat) : (∀ i, i < ctzOf n x → x.testBit i = false) ∧ (ctzOf n x < n → x.testBit (ctzOf n x) = true) := by
  induction n generalizing x with
  | zero => exact ⟨fun i hi => absurd hi (Nat.not_lt_zero i), fun h => absurd h (Nat.lt_irrefl 0)⟩
  | succ n ih =>
    obtain ⟨hlow, hnext⟩ := ih (x / 2)
    by_cases hodd : x % 2 = 1
    · simp [ctzOf, hodd]
    · have hstep : ctzOf (n + 1) x = ctzOf n (x / 2) + 1 := by rw [ctzOf, if_neg hodd, Nat.add_comm]
      rw [hstep]
      refine ⟨fun i hi => ?_, fun h => ?_⟩
      · cases i with
        | zero => simpa using hodd
        | succ i => rw [Nat.testBit_succ]; exact hlow i (by omega)
      · rw [Nat.testBit_succ]; exact hnext (by omega)

theorem onesOf_eq (n x : Nat) : onesOf n x = ((List.range n).filter fun i => x.testBit i).length := by
  induction n generalizing x with
  | zero => rfl
  | succ n ih =>
    rw [onesOf, ih, List.range_succ_eq_map, List.filter_cons, List.filter_map, Nat.testBit_zero]
    have hshift : ((fun i => x.testBit i) ∘ Nat.succ) = fun i => (x / 2).testBit i := funext fun i => Nat.testBit_succ x i
    rw [hshift]
    rcases Nat.mod_two_eq_zero_or_one x with h | h <;> simp [h, Nat.add_comm]

theorem extend_signed (x : W64) (n : Nat) : extend true n x.toNat = (x.setWidth n).signExtend 64 := by
  rw [extend, intOf_signed, BitVec.ofNat_toNat]
  rfl

theorem extend_unsigned (x : W64) (n : Nat) : extend false n x.toNat = (x.setWidth n).setWidth 64 := by
  rw [extend, intOf_unsigned, BitVec.ofInt_natCast, ← BitVec.toNat_setWidth, BitVec.ofNat_toNat]

/-- A word of 8, 16 or 32 bits by the codes of its signed and of its unsigned ety (R20). -/
theorem scalarType_width {ety : BitVec 4} {n : Nat}
    (h : (ety.toNat, n) ∈ [(1, 8), (2, 16), (3, 32)] ∨ (ety.toNat, n) ∈ [(5, 8), (6, 16), (7, 32)]) : (scalarType ety).1 = n := by
  simp only [List.mem_cons, Prod.mk.injEq, List.not_mem_nil, or_false] at h
  have hzero : ety = 0 ↔ ety.toNat = 0 := BitVec.toNat_inj.symm
  simp only [scalarType, hzero]
  obtain (⟨h, rfl⟩ | ⟨h, rfl⟩ | ⟨h, rfl⟩) | (⟨h, rfl⟩ | ⟨h, rfl⟩ | ⟨h, rfl⟩) := h <;> rw [h] <;> rfl

theorem scalarBitCountsAndExtensions : ScalarBitCountsAndExtensions := by
  intro w s c h x
  obtain ⟨hclz, hclz'⟩ := clzOf_spec x
  obtain ⟨hctz, hctz'⟩ := ctzOf_spec 64 x.toNat
  refine ⟨⟨_, clzOf_le 64 x.toNat, scalarResult_of_step h rfl rfl, hclz, hclz'⟩,
    ⟨_, ctzOf_le 64 x.toNat, scalarResult_of_step h rfl rfl, hctz, hctz'⟩,
    scalarResult_of_step h rfl (congrArg (BitVec.ofNat 64) (onesOf_eq 64 x.toNat)), fun n hn => ?_, fun n hn => ?_⟩
  · refine scalarResult_of_step h rfl ?_
    rw [scalarType_width (.inl hn)]
    exact extend_signed x n
  · refine scalarResult_of_step h rfl ?_
    rw [scalarType_width (.inr hn)]
    exact extend_unsigned x n

/-! ## Immediate forms (R89) -/

theorem shiftBy_signExtend (i : BitVec 31) : shiftBy (i.signExtend 64) = i.toNat % 64 := by
  rw [shiftBy_eq, BitVec.signExtend, BitVec.toNat_ofInt, BitVec.toInt_eq_toNat_cond]
  have := i.isLt
  split <;> omega

theorem toInt_immediate (i : BitVec 31) : (i.signExtend 64).toInt = i.toInt := BitVec.toInt_signExtend_of_le (by decide)

/-- Bits 16p + 15 to 16p are the immediate's, the others the register's. -/
theorem getLsbD_lihWord (i : BitVec 31) (x : W64) {j : Nat} (hj : j < 64) : (lihWord i x).getLsbD j =
    if j / 16 = i.toNat / 2 ^ 16 % 4 then i.getLsbD (j % 16) else x.getLsbD j := by
  have hp : (i.extractLsb' 16 2).toNat = i.toNat / 2 ^ 16 % 4 := by
    rw [BitVec.extractLsb'_toNat, Nat.shiftRight_eq_div_pow]
  have hones : ∀ k, (0xFFFF#64).getLsbD k = decide (k < 16) := fun k => by
    rw [BitVec.getLsbD_ofNat, Nat.testBit_two_pow_sub_one 16 k]
    by_cases hk : k < 16
    · simp [hk]; omega
    · simp [hk]
  simp only [lihWord, hp]
  generalize i.toNat / 2 ^ 16 % 4 = p
  simp only [BitVec.getLsbD_or, BitVec.getLsbD_and, BitVec.getLsbD_not, BitVec.getLsbD_shiftLeft, BitVec.getLsbD_setWidth,
    BitVec.getLsbD_extractLsb', hones, hj, decide_true, Bool.true_and]
  rcases Nat.lt_trichotomy (j / 16) p with h | h | h
  · have hlt : j < 16 * p := by omega
    simp [hlt, h.ne]
  · have hlt : ¬j < 16 * p := by omega
    have hmod : j - 16 * p = j % 16 := by omega
    have hin : j % 16 < 16 := by omega
    have hin' : j % 16 < 64 := by omega
    simp [hlt, h, hmod, hin, hin']
  · have hlt : ¬j < 16 * p := by omega
    have hout : ¬j - 16 * p < 16 := by omega
    simp [hlt, h.ne', hout]

theorem scalarImmediateResults : ScalarImmediateResults := by
  intro w s c h x i n p
  have hn : shiftBy i = n := shiftBy_signExtend w.imm
  have hi : i.toInt = w.imm.toInt := toInt_immediate w.imm
  refine ⟨scalarResult_of_step h rfl ?_, scalarResult_of_step h rfl ?_, scalarResult_of_step h rfl rfl,
    scalarResult_of_step h rfl rfl, scalarResult_of_step h rfl rfl, scalarResult_of_step h rfl (congrArg (x <<< ·) hn),
    scalarResult_of_step h rfl (congrArg (x >>> ·) hn), scalarResult_of_step h rfl (congrArg x.sshiftRight hn),
    scalarResult_of_step h rfl (flagWord_eq beq_iff_eq), scalarResult_of_step h rfl (flagWord_eq ?_),
    scalarResult_of_step h rfl (flagWord_eq decide_eq_true_iff), scalarResult_of_step h rfl rfl,
    ⟨_, scalarResult_of_step h rfl rfl, fun j hj => getLsbD_lihWord w.imm x hj⟩⟩
  · rw [BitVec.ofInt_add, BitVec.ofInt_toInt]; rfl
  · rw [BitVec.ofInt_mul, BitVec.ofInt_toInt]; rfl
  · rw [← hi]; exact BitVec.slt_iff_toInt_lt

/-- Settles O3: the words by register, the counts and extensions, and the words by immediate. -/
theorem scalarIntegerResults : Obligations.ScalarIntegerResults :=
  ⟨scalarIntegerOperations, scalarBitCountsAndExtensions, scalarImmediateResults⟩

end Sys2Proof.Machine
end

section
/-! LEMMAS. Transfers of control, links, and the mask instructions (R92 to R95). -/

namespace Sys2Proof.Machine

/-! ## Branches and links (R92, R93) -/

theorem branchTarget_eq (pc : W64) (w : ImmForm) : branchTarget pc w = BitVec.ofInt 64 (pc.toInt + 8 * w.imm.toInt) := by
  rw [branchTarget, immSigned, BitVec.ofInt_add, BitVec.ofInt_mul, BitVec.ofInt_toInt, BitVec.shiftLeft_eq_mul_twoPow, BitVec.mul_comm]
  rfl

/-- A branch goes to its target where its condition holds, and on to the next word else. -/
theorem jumpsTo_of_branchIf {i : Instr} {w : ImmForm} {s : State} {c : Crew} {taken : Crew → Bool} {p : Prop} [Decidable p]
    (h : Issues s c w.guard) (he : exec i s = branchIf w s taken) (hp : taken c = true ↔ p) :
    JumpsTo i s c (if p then BitVec.ofInt 64 (c.pc.toInt + 8 * w.imm.toInt) else c.pc + 8) := by
  refine crewResult_of_putCrew h.1 ?_ rfl
  rw [he, branchIf, crewInstr_run h, runBody_ok rfl, branchTarget_eq]
  simp only [hp]
  split <;> rfl

/-- A set of lanes is not empty when one of its lanes is set. -/
theorem mask_ne_zero_iff (m : Mask) : m ≠ 0 ↔ ∃ l, l < 1024 ∧ m.getLsbD l = true := by
  constructor
  · contrapose!
    intro h
    exact BitVec.eq_of_getLsbD_eq fun l hl => by simpa using h l hl
  · rintro ⟨l, -, hl⟩ rfl
    simp at hl

theorem branchTargets : BranchTargets := by
  intro w s c h target
  refine ⟨jumpsTo_of_branchIf h rfl (p := True) (by simp), jumpsTo_of_branchIf h rfl beq_iff_eq,
    jumpsTo_of_branchIf h rfl bne_iff_ne, jumpsTo_of_branchIf h rfl ?_, jumpsTo_of_branchIf h rfl ?_, ?_⟩
  · simp only [bne_iff_ne, mask_ne_zero_iff, BitVec.getLsbD_and, Bool.and_eq_true]
  · rw [beq_iff_eq, ← not_iff_not, ← ne_eq, mask_ne_zero_iff]
    push Not
    refine exists_congr fun l => and_congr_right fun hl => ?_
    simp [hl]
  · refine ⟨{ c.setS w.d (c.pc + 8) with pc := target }, crewResult_of_putCrew h.1 ?_ ?_, ?_, rfl, ?_⟩
    · show crewInstr w.guard s _ = _
      rw [crewInstr_run h, runBody_ok rfl, branchTarget_eq]
    · exact Crew.setS_place c w.d _
    · exact fun f hf => c.sreg_setS w.d f _ hf
    · rw [Crew.setS_eq]

theorem jumpTo_eq (s : State) (c c' : Crew) (target : W64) : jumpTo s c c' target =
    if target.toNat % 8 = 0 then .ok (s.putCrew { c' with pc := target, place := c.place }) else raise 3 1 [target] := by
  have haligned : target.extractLsb' 0 3 = 0#3 ↔ target.toNat % 8 = 0 := by
    rw [field_eq_zero_iff, pow_zero, Nat.div_one]
    rfl
  simp only [jumpTo, bne_iff_ne, ne_eq, BitVec.ofNat_eq_ofNat, haligned, ite_not]

/-- A jump to an aligned value goes there (R93). -/
theorem runBody_jumpTo {s : State} {c : Crew} {f : Crew → Crew} {a : BitVec 8} (h : (c.sreg a).toNat % 8 = 0) :
    runBody s c (fun s c => jumpTo s c (f c) (c.sreg a)) = .next (s.putCrew { f c with pc := c.sreg a, place := c.place }) :=
  runBody_ok ((jumpTo_eq s c (f c) _).trans (if_pos h))

/-- A jump to another value raises the control-transfer fault (R93). -/
theorem runBody_jumpTo_misaligned {s : State} {c : Crew} {f : Crew → Crew} {a : BitVec 8} (h : (c.sreg a).toNat % 8 ≠ 0) :
    runBody s c (fun s c => jumpTo s c (f c) (c.sreg a)) =
      .next (s.killCrew c { cause := 3, detail := 1, infos := [c.sreg a] }) :=
  runBody_fault ((jumpTo_eq s c (f c) _).trans (if_neg h))

theorem registerJumps : RegisterJumps := by
  intro w s c h target
  have hrun : ∀ f : Crew → Crew, crewInstr w.guard s (fun s c => jumpTo s c (f c) (c.sreg w.a)) =
      runBody s c fun s c => jumpTo s c (f c) (c.sreg w.a) := fun f => crewInstr_run h _
  refine ⟨fun ha => ⟨?_, ?_, ?_⟩, fun ha => ⟨?_, ?_, ?_⟩⟩
  · exact crewResult_of_putCrew h.1 ((hrun id).trans (runBody_jumpTo ha)) rfl
  · exact crewResult_of_putCrew h.1 ((hrun id).trans (runBody_jumpTo ha)) rfl
  · refine ⟨_, crewResult_of_putCrew h.1 ((hrun fun c => c.setS w.d (c.pc + 8)).trans (runBody_jumpTo ha)) rfl,
      fun f hf => c.sreg_setS w.d f _ hf, rfl, ?_⟩
    rw [Crew.setS_eq]
  · exact (hrun id).trans (runBody_jumpTo_misaligned ha)
  · exact (hrun id).trans (runBody_jumpTo_misaligned ha)
  · exact (hrun fun c => c.setS w.d (c.pc + 8)).trans (runBody_jumpTo_misaligned ha)

/-! ## Mask instructions (R94, R95) -/

theorem getLsbD_allLanes (c : Crew) (l : Nat) : c.allLanes.getLsbD l = (decide (l < 1024) && decide (l < c.lanes)) := by
  rw [Crew.allLanes, Mask.below, BitVec.getLsbD_ofNat, Nat.testBit_two_pow_sub_one]

/-- The mask registers after a write to one of m1 to m15 (R94). -/
theorem Crew.mask_setM (c : Crew) {d f : BitVec 8} (m : Mask) (hd : 0x41 ≤ d.toNat) (hd' : d.toNat ≤ 0x4F) (hf : 0x40 ≤ f.toNat)
    (hf' : f.toNat ≤ 0x4F) : (c.setM d m).mask f = if f = d then m &&& c.allLanes else c.mask f := by
  have hzero : f = 0x40 ↔ f.toNat = 0x40 := BitVec.toNat_inj.symm
  have hsame : f = d ↔ f.toNat = d.toNat := BitVec.toNat_inj.symm
  simp only [Crew.mask, Crew.setM, hzero, hsame, Vector.getElem?_setIfInBounds]
  by_cases h : f.toNat = d.toNat
  · rw [if_neg (by omega), if_pos (by rw [h]), if_pos (by omega), if_pos h, Option.getD_some]
  · rw [if_neg (show ¬d.toNat - 0x40 = f.toNat - 0x40 by omega), if_neg h]

theorem maskResult_of_maskStep {i : Instr} {w : RegForm} {s : State} {c : Crew} {f : Mask → Mask → Mask} (h : Issues s c w.guard)
    (hd : 0x41 ≤ w.d.toNat) (hd' : w.d.toNat ≤ 0x4F) (he : exec i s = maskStep w s f) :
    MaskResult i s c w.d (curPart w c (f (c.mask w.a) (c.mask w.b))) :=
  ⟨_, crewResult_of_putCrew h.1 (he.trans (crewStep_run h _)) rfl, fun _ hf hf' => c.mask_setM _ hd hd' hf hf', rfl, rfl⟩

theorem maskInstructionResults : MaskInstructionResults := by
  intro w s c h a b part
  refine ⟨fun hd hd' => ⟨maskResult_of_maskStep h hd hd' rfl, maskResult_of_maskStep h hd hd' rfl, maskResult_of_maskStep h hd hd' rfl,
    maskResult_of_maskStep (f := fun x _ => ~~~x) h hd hd' rfl⟩, scalarResult_of_step h rfl rfl, scalarResult_of_step h rfl (flagWord_eq ?_)⟩
  rw [bne_iff_ne, mask_ne_zero_iff]
  simp only [BitVec.getLsbD_and, getLsbD_allLanes, Bool.and_eq_true, decide_eq_true_eq]
  constructor
  · rintro ⟨l, -, hm, h1024, hl⟩; exact ⟨l, hl, h1024, hm⟩
  · rintro ⟨l, hl, h1024, hm⟩; exact ⟨l, h1024, hm, h1024, hl⟩

/-- Settles O5: the branches, the jumps through registers, and the masks. -/
theorem branchesAndMasks : Obligations.BranchesAndMasks := ⟨branchTargets, registerJumps, maskInstructionResults⟩

end Sys2Proof.Machine
end
section
/-! LEMMAS. Divergence: MARK and BRD, rejoining, and lanes that exit (R96 to R100, R217). -/

namespace Sys2Proof.Machine

/-! ## MARK and BRD (R97) -/

/-- A divergence fault kills the crew with RDEPTH as its INFO word (R100). -/
theorem runBody_divergence {s : State} {c : Crew} {body : State → Crew → Eff State} {detail : Nat}
    (h : body s c = divergence c detail) :
    runBody s c body = .next (s.killCrew c { cause := 7, detail := detail, infos := [c.rdepth] }) :=
  runBody_fault h

section
variable {w : ImmForm} {s : State} {c : Crew}

theorem exec_mark (h : Issues s c w.guard) : exec (.markR w) s = runBody s c fun s c =>
    if c.stack.length = 16 then divergence c 1
    else .ok (s.putCrew { c with stack := ⟨.mark, c.cur, branchTarget c.pc w⟩ :: c.stack }.advance) :=
  crewInstr_run h _

/-- A BRD without lanes goes on at the next word, whether its guard stops it or the current mask is empty. -/
theorem exec_brd_of_no_lanes (h : s.crewAt s.cur = some c) (ht : guardSet w.guard c = 0) :
    exec (.brd w) s = .next (s.putCrew c.advance) := by
  cases hg : guardFalse w.guard c with
  | true => exact crewInstr_skip h hg _
  | false => exact (crewInstr_run ⟨h, hg⟩ _).trans (runBody_ok (if_pos ht))

theorem exec_brd_of_lanes (h : s.crewAt s.cur = some c) (ht : guardSet w.guard c ≠ 0) :
    exec (.brd w) s = runBody s c fun s c =>
      if guardSet w.guard c = c.cur then .ok (s.putCrew { c with pc := branchTarget c.pc w })
      else if c.stack.length = 16 then divergence c 1
      else .ok (s.putCrew { c with
        stack := ⟨.path, c.cur &&& ~~~guardSet w.guard c, c.pc + 8⟩ :: c.stack, cur := guardSet w.guard c
        pc := branchTarget c.pc w }) := by
  have hg : guardFalse w.guard c = false := Bool.eq_false_iff.2 fun hf => ht (guardFalse_iff.1 hf).2
  refine (crewInstr_run ⟨h, hg⟩ _).trans ?_
  simp only [runBody, if_neg ht]

end

/-- Settles O6: MARK by the room on the stack, and BRD by its lanes and the room on the stack. -/
theorem markAndDivergentBranch : Obligations.MarkAndDivergentBranch := by
  intro w s c h target lanes
  have htarget : branchTarget c.pc w = target := branchTarget_eq c.pc w
  refine ⟨fun hg hroom => ?_, fun hg hfull => ?_, fun ht => ?_, fun ht hall => ?_, fun ht hpart hroom => ?_, fun ht hpart hfull => ?_⟩
  · rw [← htarget]
    exact crewResult_of_putCrew h ((exec_mark ⟨h, hg⟩).trans (runBody_ok (if_neg hroom))) rfl
  · exact (exec_mark ⟨h, hg⟩).trans (runBody_divergence (if_pos hfull))
  · exact crewResult_of_putCrew h (exec_brd_of_no_lanes h ht) rfl
  · rw [← htarget]
    exact crewResult_of_putCrew h ((exec_brd_of_lanes h ht).trans (runBody_ok (if_pos hall))) rfl
  · rw [← htarget]
    exact crewResult_of_putCrew h ((exec_brd_of_lanes h ht).trans (runBody_ok ((if_neg hpart).trans (if_neg hroom)))) rfl
  · exact (exec_brd_of_lanes h ht).trans (runBody_divergence ((if_neg hpart).trans (if_pos hfull)))

/-! ## JoinAction (R98) -/

/-- JoinAction takes the first entry that keeps a live lane. -/
theorem joinAction_of_live {live : Mask} {pre rest : List StackEntry} {e : StackEntry} (c : Crew)
    (hpre : ∀ p, p ∈ pre → p.mask &&& live = 0) (he : e.mask &&& live ≠ 0) :
    joinAction live (pre ++ e :: rest) c =
      { c with stack := rest, cur := e.mask &&& live, pc := if e.kind = .path then e.addr else e.addr + 8 } := by
  induction pre generalizing c with
  | nil =>
    rw [List.nil_append, joinAction]
    simp only [he, decide_false, Bool.false_and, Bool.false_eq_true, if_false]
  | cons p pre ih =>
    have hdead := hpre p (List.mem_cons_self ..)
    rw [List.cons_append, joinAction]
    have hrest : (pre ++ e :: rest).isEmpty = false := by cases pre <;> rfl
    simp only [hdead, hrest, decide_true, Bool.true_and, Bool.not_false, if_true]
    exact ih _ fun q hq => hpre q (List.mem_cons_of_mem p hq)

/-- Without a live lane in any entry JoinAction empties the stack. -/
theorem joinAction_of_dead {live : Mask} {st : List StackEntry} (c : Crew) (hst : st ≠ []) (hdead : ∀ p, p ∈ st → p.mask &&& live = 0) :
    (joinAction live st c).cur = 0 ∧ (joinAction live st c).stack = [] ∧ (joinAction live st c).place = c.place := by
  induction st generalizing c with
  | nil => exact absurd rfl hst
  | cons p rest ih =>
    have hp := hdead p (List.mem_cons_self ..)
    rw [joinAction]
    simp only [hp, decide_true, Bool.true_and, Bool.not_eq_true']
    cases hrest : rest.isEmpty with
    | true => simpa using hrest
    | false =>
      have hne : rest ≠ [] := by simpa using hrest
      exact ih _ hne fun q hq => hdead q (List.mem_cons_of_mem p hq)

/-! ## Crews that go on and crews that end (R99) -/

theorem State.settle_of_lanes {s : State} {c : Crew} (h : c.cur ≠ 0) : s.settle c = s.putCrew c := by
  simp only [State.settle, h, decide_false, Bool.false_and, Bool.false_eq_true, if_false]

/-- A crew without a lane and without a stack leaves its berth empty. -/
theorem State.crewAt_settle_of_ended {s : State} {c c' : Crew} (h : s.crewAt s.cur = some c) (hcur : c'.cur = 0)
    (hstack : c'.stack = []) (hplace : c'.place = c.place) : (s.settle c').crewAt s.cur = none := by
  obtain ⟨hd, hb, hp⟩ := State.crewAt_some h
  have hends : s.settle c' = s.endCrew { c' with live := 0 } .exited := by
    simp only [State.settle, hcur, hstack, decide_true, List.isEmpty_nil, Bool.and_self, if_true]
  rw [hends, (endCrew_leaves (by rwa [hplace, hp]) (by rwa [hplace, hp]) .exited).1, if_pos (by rw [hplace, hp])]

/-! ## JOIN (R98, R100) -/

section
variable {w : RegForm} {s : State} {c : Crew} (h : Issues s c w.guard)
include h

theorem exec_join : exec (.join w) s = runBody s c fun s c =>
    if c.stack.isEmpty then divergence c 2
    else if nearestMark c.stack != some c.pc then divergence c 3
    else .ok (s.settle (joinAction c.live c.stack c)) :=
  crewInstr_run h _

theorem join_faults_of_empty (hst : c.stack = []) : Kills (.join w) s c 7 2 [c.rdepth] := by
  refine (exec_join h).trans (runBody_divergence ?_)
  rw [hst, List.isEmpty_nil, if_pos rfl]

theorem join_faults_elsewhere (hst : c.stack ≠ []) (hmark : nearestMark c.stack ≠ some c.pc) : Kills (.join w) s c 7 3 [c.rdepth] := by
  refine (exec_join h).trans (runBody_divergence ?_)
  rw [if_neg (by simpa using hst), if_pos (by simpa using hmark)]

/-- At the join address of the nearest MARK entry JOIN takes JoinAction, and the crew goes on or ends. -/
theorem join_runs (hst : c.stack ≠ []) (hmark : nearestMark c.stack = some c.pc) :
    exec (.join w) s = .next (s.settle (joinAction c.live c.stack c)) := by
  refine (exec_join h).trans (runBody_ok ?_)
  rw [if_neg (by simpa using hst), if_neg (by simpa using hmark)]

end

theorem joinFollowsTheStack : JoinFollowsTheStack := by
  intro w s c h nearest
  refine ⟨join_faults_of_empty h, join_faults_elsewhere h, fun pre e rest hst hmark hpre he => ?_, fun hst hmark hdead => ?_⟩
  · have hjoin := joinAction_of_live (rest := rest) c hpre he
    have hrun := join_runs h (by simp [hst]) hmark
    rw [hst, hjoin, State.settle_of_lanes he] at hrun
    exact crewResult_of_putCrew h.1 hrun rfl
  · obtain ⟨hcur, hstack, hplace⟩ := joinAction_of_dead c hst hdead
    exact ⟨_, join_runs h hst hmark, State.crewAt_settle_of_ended h.1 hcur hstack hplace⟩

/-! ## EXIT (R99, R217) -/

theorem exec_exit {w : RegForm} {s : State} {c : Crew} (h : Issues s c w.guard) :
    exec (.exitR w) s = .next (s.settle (c.exitLanes (guardSet w.guard c))) :=
  (crewInstr_run h _).trans (runBody_ok rfl)

/-- A stack entry without the lanes that exit. -/
def StackEntry.without (gone : Mask) (p : StackEntry) : StackEntry := { p with mask := p.mask &&& ~~~gone }

/-- The lanes that an entry keeps live after some have exited. -/
theorem StackEntry.live_without (p : StackEntry) (gone live : Mask) :
    (p.without gone).mask &&& (live &&& ~~~gone) = p.mask &&& ~~~gone &&& live := by
  refine BitVec.eq_of_getLsbD_eq fun l hl => ?_
  simp only [StackEntry.without, BitVec.getLsbD_and, BitVec.getLsbD_not, hl, decide_true, Bool.true_and]
  cases p.mask.getLsbD l <;> cases gone.getLsbD l <;> cases live.getLsbD l <;> rfl

/-- A crew whose lanes of a set exit, before it takes JoinAction. -/
def Crew.afterExit (c : Crew) (gone : Mask) : Crew :=
  { c with live := c.live &&& ~~~gone, cur := c.cur &&& ~~~gone, stack := c.stack.map (StackEntry.without gone), pc := c.pc + 8 }

theorem Crew.exitLanes_eq (c : Crew) (gone : Mask) : c.exitLanes gone =
    if c.cur &&& ~~~gone = 0 ∧ c.stack ≠ [] then
      joinAction (c.live &&& ~~~gone) (c.stack.map (StackEntry.without gone)) (c.afterExit gone)
    else c.afterExit gone := by
  have hcond : (c.cur &&& ~~~gone = 0 ∧ c.stack ≠ []) ↔
      (decide (c.cur &&& ~~~gone = 0) && !(c.stack.map (StackEntry.without gone)).isEmpty) = true := by
    rw [Bool.and_eq_true, decide_eq_true_eq, Bool.not_eq_true', List.isEmpty_eq_false_iff, ne_eq, ne_eq, List.map_eq_nil_iff]
  simp only [hcond]
  rfl

theorem exitRemovesLanes : ExitRemovesLanes := by
  intro w s c h gone
  have hdead : ∀ ps : List StackEntry, (∀ p, p ∈ ps → p.mask &&& ~~~gone &&& c.live = 0) →
      ∀ q, q ∈ ps.map (StackEntry.without gone) → q.mask &&& (c.live &&& ~~~gone) = 0 := by
    intro ps hps q hq
    obtain ⟨p, hp, rfl⟩ := List.mem_map.1 hq
    rw [p.live_without, hps p hp]
  refine ⟨fun hcur => ?_, fun hcur hall => ?_, fun pre e rest hcur hst hpre he => ?_⟩
  · have hrun := exec_exit h
    rw [c.exitLanes_eq, if_neg fun hc => hcur hc.1, State.settle_of_lanes hcur] at hrun
    exact crewResult_of_putCrew h.1 hrun rfl
  · refine ⟨_, exec_exit h, ?_⟩
    rw [c.exitLanes_eq]
    by_cases hst : c.stack = []
    · rw [if_neg fun hc => hc.2 hst]
      exact State.crewAt_settle_of_ended h.1 hcur (by rw [Crew.afterExit, hst]; rfl) rfl
    · obtain ⟨hcur', hstack', hplace'⟩ := joinAction_of_dead (c.afterExit gone) (mt List.map_eq_nil_iff.1 hst) (hdead _ hall)
      rw [if_pos ⟨hcur, hst⟩]
      exact State.crewAt_settle_of_ended h.1 hcur' hstack' hplace'
  · have hrun := exec_exit h
    have hjoin := joinAction_of_live (rest := rest.map (StackEntry.without gone)) (c.afterExit gone) (hdead _ hpre)
      (by rwa [e.live_without])
    rw [c.exitLanes_eq, if_pos ⟨hcur, by simp [hst]⟩, hst, List.map_append, List.map_cons, hjoin,
      State.settle_of_lanes (by rwa [e.live_without]), e.live_without] at hrun
    exact crewResult_of_putCrew h.1 hrun rfl

/-- Settles O7: JOIN by what its stack keeps live, and EXIT by what its lanes leave. -/
theorem joinsAndExits : Obligations.JoinsAndExits := ⟨joinFollowsTheStack, exitRemovesLanes⟩

end Sys2Proof.Machine
end

section
/-! LEMMAS. What reads and writes of memory leave of the package: dirty lines, clocks, event counts and the keys of lines beside the bytes
(R301, R320, R351, R403). -/

namespace Sys2Proof.Machine

/-- Two states differ in memory with its marks, stamps and line keys, and in the dirty lines, clocks and event counts of dies alone. -/
structure OnlyData (s t : State) : Prop where
  package : t = { s with mem := t.mem, memMarks := t.memMarks, stamps := t.stamps, stack := t.stack, dies := t.dies, io := t.io }
  dies : ∀ d, t.die d = { s.die d with dirty := (t.die d).dirty, clock := (t.die d).clock, evseq := (t.die d).evseq }
  io : t.io = { s.io with sec := { s.io.sec with lineKeys := t.io.sec.lineKeys }, clock := t.io.clock, evseq := t.io.evseq }

theorem OnlyData.refl (s : State) : OnlyData s s := ⟨rfl, fun _ => rfl, rfl⟩

theorem OnlyData.trans {s t u : State} (h : OnlyData s t) (k : OnlyData t u) : OnlyData s u where
  package := by rw [k.package, h.package]
  dies d := by rw [k.dies d, h.dies d]
  io := by rw [k.io, h.io]

/-- A change of memory, its marks, its stamps and what stacks keep. -/
theorem onlyData_of_mem {s t : State}
    (h : t = { s with mem := t.mem, memMarks := t.memMarks, stamps := t.stamps, stack := t.stack }) : OnlyData s t := by
  rw [h]
  exact ⟨rfl, fun _ => rfl, rfl⟩

theorem onlyData_onDie (s : State) (d : Nat) {f : Die → Die}
    (hf : ∀ x, f x = { x with dirty := (f x).dirty, clock := (f x).clock, evseq := (f x).evseq }) : OnlyData s (s.onDie d f) where
  package := rfl
  dies e := by
    rw [State.die_onDie]
    split
    · rename_i h
      rw [h.1]
      exact hf _
    · rfl
  io := rfl

theorem onlyData_onIo (s : State) {f : IoDie → IoDie}
    (hf : ∀ x, f x = { x with sec := { x.sec with lineKeys := (f x).sec.lineKeys }, clock := (f x).clock, evseq := (f x).evseq }) :
    OnlyData s (s.onIo f) :=
  ⟨rfl, fun _ => rfl, hf s.io⟩

theorem onlyData_foldl {α : Type} {f : State → α → State} (hf : ∀ s x, OnlyData s (f s x)) (xs : List α) (s : State) :
    OnlyData s (xs.foldl f s) := by
  induction xs generalizing s with
  | nil => exact OnlyData.refl s
  | cons x rest ih => exact (hf s x).trans (ih (f s x))

/-! ## Bytes at their home slices and in the L1s (R301, R403) -/

theorem onlyData_setCell (s : State) (k : Nat) (b : Byte) : OnlyData s (s.setCell k b) := onlyData_of_mem rfl

theorem onlyData_putStamp (s : State) (lo n w : Nat) (g : Option Image) : OnlyData s (s.putStamp lo n w g) := onlyData_of_mem rfl

theorem onlyData_rekeyLine (s : State) (key line : Nat) : OnlyData s (s.rekeyLine key line) := by
  show OnlyData s (if s.keyPair key = s.lineKey line then s else _)
  split
  · exact OnlyData.refl s
  · exact (onlyData_foldl (fun t p => onlyData_setCell t _ _) _ s).trans (onlyData_onIo _ fun _ => rfl)

theorem onlyData_keepOld (s : State) (pa : Nat) : OnlyData s (s.keepOld pa) := by
  unfold State.keepOld
  split
  · exact onlyData_of_mem rfl
  · exact OnlyData.refl s

theorem onlyData_setHomeByte (s : State) (key pa : Nat) (b : Byte) : OnlyData s (s.setHomeByte key pa b) :=
  ((onlyData_rekeyLine s key (pa / 128)).trans (onlyData_keepOld _ pa)).trans (onlyData_setCell _ pa b)

theorem onlyData_writeLine (s : State) (die : Nat) (l : DirtyLine) : OnlyData s (s.writeLine die l) := by
  have hbytes := onlyData_foldl (fun t (p : Nat × Byte) => onlyData_setHomeByte t l.key p.1 p.2) l.bytes s
  exact (hbytes.trans (onlyData_of_mem rfl)).trans (onlyData_foldl (fun t _ => onlyData_putStamp t _ _ _ _) _ _)

theorem onlyData_writeBack (s : State) (die : Nat) (pick : DirtyLine → Bool) : OnlyData s (s.writeBack die pick) := by
  refine (onlyData_foldl (fun t l => onlyData_writeLine t die l) ((s.die die).dirty.filter pick) s).trans ?_
  exact onlyData_onDie (f := fun x => { x with dirty := x.dirty.filter fun l => !pick l }) _ die fun _ => rfl

theorem onlyData_settleKey (s : State) (die key line : Nat) : OnlyData s (s.settleKey die key line) := by
  unfold State.settleKey
  split
  · exact onlyData_writeBack s die _
  · exact OnlyData.refl s

theorem onlyData_settlePlace (s : State) (die : Nat) (p : Place) (n : Nat) : OnlyData s (s.settlePlace die p n) := by
  cases p with
  | pa x key page => exact (onlyData_settleKey s die key _).trans (onlyData_settleKey _ die key _)
  | chip k => exact OnlyData.refl s
  | barge d off => exact OnlyData.refl s

/-! ## Reads (R320, R364) -/

theorem onlyData_receive (s : State) (die : Nat) (g : Image) : OnlyData s (s.receive die g) := by
  unfold State.receive
  split
  · exact onlyData_onIo s fun _ => rfl
  · exact onlyData_onDie s die fun _ => rfl

theorem onlyData_mergeStamps (s : State) (die : Nat) (keys : List Nat) : OnlyData s (s.mergeStamps die keys) :=
  onlyData_foldl (fun t g => onlyData_receive t die g) _ s

theorem onlyData_observe (s : State) (die : Nat) (p : Place) (n : Nat) : OnlyData s (s.observe die p n) :=
  (onlyData_settlePlace s die p n).trans (onlyData_mergeStamps _ die _)

theorem onlyData_observeSpan (s : State) (die : Nat) (ps : List (Place × Nat)) : OnlyData s (s.observeSpan die ps) :=
  onlyData_foldl (fun t (p : Place × Nat) => onlyData_observe t die p.1 p.2) ps s

theorem onlyData_seeSys (s : State) (reader die : Nat) (a : W64) (n : Nat) : OnlyData s (s.seeSys reader die a n) := by
  unfold State.seeSys
  split
  · exact onlyData_mergeStamps s reader _
  · exact OnlyData.refl s

/-! ## Writes of engines and of the hardware itself (R301, R320, R351) -/

theorem onlyData_engineAt (s : State) (die : Nat) (p : Place) (b : Byte) : OnlyData s (s.engineAt die p b) := by
  cases p with
  | pa x key page => exact (onlyData_writeBack s die _).trans (onlyData_setHomeByte _ key x b)
  | chip k => exact onlyData_setCell s k b
  | barge d off => exact OnlyData.refl s

theorem onlyData_engineBytes (s : State) (die : Nat) (p : Place) (bs : List Byte) : OnlyData s (s.engineBytes die p bs) := by
  have hbytes := onlyData_foldl (fun t (x : Byte × Nat) => onlyData_engineAt t die (p.plus x.2) x.1) bs.zipIdx s
  refine hbytes.trans ?_
  cases p with
  | pa x key page => exact onlyData_of_mem rfl
  | chip k => exact onlyData_of_mem rfl
  | barge d off => exact OnlyData.refl _

theorem onlyData_markPlace (s : State) (p : Place) : OnlyData s (s.markPlace p) := by
  have hmark : ∀ k, OnlyData s (s.setMark k) := fun k => by
    unfold State.setMark
    split
    · exact OnlyData.refl s
    · exact onlyData_of_mem rfl
  cases p with
  | pa x key page => exact hmark x
  | chip k => exact hmark k
  | barge d off => exact OnlyData.refl s

theorem onlyData_landSpan (s : State) (die : Nat) (ps : List (Place × Nat)) (bs : List Byte) (ms : List Bool) :
    OnlyData s (s.landSpan die ps bs ms) := by
  induction ps generalizing s bs ms with
  | nil => exact OnlyData.refl s
  | cons p rest ih =>
    refine ((onlyData_engineBytes s die p.1 _).trans (onlyData_foldl (fun t m => ?_) _ _)).trans (ih _ _ _)
    split
    · exact onlyData_markPlace t _
    · exact OnlyData.refl t

theorem onlyData_setSysBy (s : State) (writer die : Nat) (a v : W64) : OnlyData s (s.setSysBy writer die a v) := by
  unfold State.setSysBy
  split
  · exact onlyData_engineBytes s writer _ _
  · exact OnlyData.refl s

/-! ## What such a change leaves -/

section
variable {s t : State} (h : OnlyData s t)
include h

theorem OnlyData.core (d k : Nat) : t.core d k = s.core d k := by
  rw [State.core, h.dies d]
  rfl

theorem OnlyData.crewAt (who : CrewRef) : t.crewAt who = s.crewAt who := by
  rw [State.crewAt, h.core]
  rfl

theorem OnlyData.recorderOf (d : Nat) : t.recorderOf d = s.recorderOf d := by
  unfold State.recorderOf
  rw [h.io, h.dies d]

theorem OnlyData.noLog (hs : s.NoLog) : t.NoLog := fun d => by rw [h.recorderOf, hs d]

theorem OnlyData.agenda : t.agenda = s.agenda := by rw [h.package]

theorem OnlyData.now : t.now = s.now := by rw [h.package]

end

end Sys2Proof.Machine
end

section
/-! LEMMAS. The turns of a step: events, the end of a cycle, and the issue slot of a berth (R101, R143, R346). -/

namespace Sys2Proof.Machine

/-! ## What the end of a cycle leaves of the turns and of memory (R256, R291, R390) -/

/-- The turns to come and the count of cycles are the same. -/
structure SameTurns (s t : State) : Prop where
  agenda : t.agenda = s.agenda
  now : t.now = s.now

theorem SameTurns.refl (s : State) : SameTurns s s := ⟨rfl, rfl⟩

theorem SameTurns.trans {s t u : State} (h : SameTurns s t) (k : SameTurns t u) : SameTurns s u :=
  ⟨k.agenda.trans h.agenda, k.now.trans h.now⟩

theorem OnlyData.sameTurns {s t : State} (h : OnlyData s t) : SameTurns s t := ⟨h.agenda, h.now⟩

theorem sameTurns_foldl {α : Type} {f : State → α → State} (hf : ∀ s x, SameTurns s (f s x)) (xs : List α) (s : State) :
    SameTurns s (xs.foldl f s) := by
  induction xs generalizing s with
  | nil => exact SameTurns.refl s
  | cons x rest ih => exact (hf s x).trans (ih (f s x))

theorem onlyData_clearLate (s : State) (d : Nat) (w : Weir) : OnlyData s (s.clearLate d w) :=
  onlyData_foldl (fun t j => by
    split
    · exact OnlyData.refl t
    · exact onlyData_engineBytes t d _ _) _ s

theorem sameTurns_endRelease (s : State) (x : WeirRelease) : SameTurns s (s.endRelease x) := by
  unfold State.endRelease
  simp only
  generalize hd : weirDie (s.weirAt x.die x.record) = d
  have hcopied := onlyData_foldl (fun t (p : Nat × List Byte × List Bool) =>
    onlyData_landSpan t d [(.chip p.1, p.2.1.length)] p.2.1 p.2.2) x.previous s
  have hdone : ∀ u, OnlyData s u → ∀ w, OnlyData s ((u.clearLate d w).setWeirState x.die x.record 3) := fun u hu w =>
    (hu.trans (onlyData_clearLate u d w)).trans (onlyData_setSysBy _ _ x.die x.record _)
  split
  · exact (hdone _ hcopied _).sameTurns
  · exact (hdone _ hcopied _).sameTurns.trans ⟨rfl, rfl⟩

theorem sameTurns_combineTurn (s : State) : SameTurns s s.combineTurn := by
  refine SameTurns.trans (sameTurns_foldl (fun t x => ?_) s.flight.releases s) ⟨rfl, rfl⟩
  split
  · exact (onlyData_landSpan t _ _ _ _).sameTurns
  · exact sameTurns_endRelease t x

/-- Without a combine that runs nothing is written. -/
theorem mem_combineTurn {s : State} (h : s.flight.releases = []) : s.combineTurn.mem = s.mem := by
  rw [State.combineTurn, h]
  rfl

/-- The turns, the count of cycles and memory are the same. -/
structure SameTimeAndMemory (s t : State) : Prop where
  turns : SameTurns s t
  mem : t.mem = s.mem

theorem SameTimeAndMemory.trans {s t u : State} (h : SameTimeAndMemory s t) (k : SameTimeAndMemory t u) : SameTimeAndMemory s u :=
  ⟨h.turns.trans k.turns, k.mem.trans h.mem⟩

theorem sameTimeAndMemory_foldl {α : Type} {f : State → α → State} (hf : ∀ s x, SameTimeAndMemory s (f s x)) (xs : List α)
    (s : State) : SameTimeAndMemory s (xs.foldl f s) := by
  induction xs generalizing s with
  | nil => exact ⟨SameTurns.refl s, rfl⟩
  | cons x rest ih => exact (hf s x).trans (ih (f s x))

theorem sameTimeAndMemory_peerCredit (s : State) (die : Nat) (k : OwedCredit) : SameTimeAndMemory s (s.peerCredit die k) := by
  unfold State.peerCredit
  split <;> exact ⟨⟨rfl, rfl⟩, rfl⟩

theorem sameTimeAndMemory_payCredits (s : State) : SameTimeAndMemory s s.payCredits :=
  sameTimeAndMemory_foldl (fun t d => SameTimeAndMemory.trans (t := t.onDie d fun x => { x with owed := [] }) ⟨⟨rfl, rfl⟩, rfl⟩
    (sameTimeAndMemory_foldl (fun u k => sameTimeAndMemory_peerCredit u d k) _ _)) _ s

theorem sameTimeAndMemory_portsTurn (s : State) : SameTimeAndMemory s s.portsTurn := by
  unfold State.portsTurn
  generalize List.range 32 = ports
  induction ports generalizing s with
  | nil => exact ⟨SameTurns.refl s, rfl⟩
  | cons n rest ih =>
    rw [List.foldl_cons]
    refine SameTimeAndMemory.trans ?_ (ih _)
    exact ⟨⟨rfl, rfl⟩, rfl⟩

/-- The credits and the frames of a cycle's end change no turn and no byte. -/
theorem nextCycle_after_combine (s : State) : SameTimeAndMemory s.combineTurn s.combineTurn.payCredits.portsTurn :=
  (sameTimeAndMemory_payCredits _).trans (sameTimeAndMemory_portsTurn _)

theorem agenda_nextCycle (s : State) : s.nextCycle.agenda = s.agenda :=
  (nextCycle_after_combine s).turns.agenda.trans (sameTurns_combineTurn s).agenda

theorem now_nextCycle (s : State) : s.nextCycle.now = s.now + 1 :=
  congrArg (· + 1) ((nextCycle_after_combine s).turns.now.trans (sameTurns_combineTurn s).now)

theorem mem_nextCycle {s : State} (h : s.flight.releases = []) : s.nextCycle.mem = s.mem :=
  (nextCycle_after_combine s).mem.trans (mem_combineTurn h)

/-! ## Issue slots (R143, R346) -/

theorem issue_of_held {s : State} {c : Crew} (hc : s.crewAt s.cur = some c)
    (h : s.heldBack c = true ∨ s.cur.berth < (s.core s.cur.die s.cur.core).slot) : issue s = .next s := by
  have hplace := (State.crewAt_some hc).2.2
  simp only [issue, hc, hplace, Bool.or_eq_true, decide_eq_true_eq, h, if_true]

/-- A crew that has met poison takes it in its issue slot, at the word that met it. -/
theorem issue_of_poison {s : State} {c : Crew} {detail : Nat} {info : W64} {poff : BitVec 21} (hc : s.crewAt s.cur = some c)
    (hheld : s.heldBack c = false) (hslot : (s.core s.cur.die s.cur.core).slot ≤ s.cur.berth) (hp : c.poison = some (detail, info, poff)) :
    issue s = .next ((s.takeSlot c).killCrew { c with pc := c.entry + (poff.setWidth 64 <<< 3) } ⟨15, detail, [info]⟩) := by
  have hplace := (State.crewAt_some hc).2.2
  simp only [issue, hc, hplace, hheld, Bool.false_or, decide_eq_true_eq, if_neg (Nat.not_lt.2 hslot), hp]

/-- The word at an offset of words from the entry has that offset as its POFF. -/
theorem poff_at_entry (c : Crew) (p : BitVec 21) : Crew.poff { c with pc := c.entry + (p.setWidth 64 <<< 3) } = p := by
  show ((c.entry + (p.setWidth 64 <<< 3) - c.entry) >>> 3).setWidth 21 = p
  rw [BitVec.add_comm, BitVec.add_sub_cancel]
  refine BitVec.eq_of_toNat_eq ?_
  simp only [BitVec.toNat_setWidth, BitVec.toNat_ushiftRight, BitVec.toNat_shiftLeft, Nat.shiftLeft_eq, Nat.shiftRight_eq_div_pow]
  have := p.isLt
  omega

/-- Settles O13: the three kinds of turn, and the issue slot of a crew that is held back or has met poison. -/
theorem turnsOfAStep : Obligations.TurnsOfAStep := by
  refine ⟨fun s i rest h => ?_, fun s rest h => ?_, fun s who rest h => ?_, fun s c hc h => issue_of_held hc h,
    fun s c detail info poff hc hheld hslot hp => ?_⟩
  · simp only [step, h]
  · have hstep : step s = .next (State.nextCycle { s with agenda := rest }) := by simp only [step, h]
    refine ⟨State.nextCycle { s with agenda := rest }, hstep, rfl, ?_, ?_, ?_⟩
    · rw [agenda_nextCycle]
    · rw [now_nextCycle]
    · intro hr
      rw [mem_nextCycle (s := { s with agenda := rest }) hr]
  · simp only [step, h]
  · refine ⟨s.takeSlot c, { c with pc := c.entry + (poff.setWidth 64 <<< 3) }, issue_of_poison hc hheld hslot hp,
      poff_at_entry c poff, rfl, ?_⟩
    rw [← (State.crewAt_some hc).2.2]
    rfl

end Sys2Proof.Machine
end

section
/-! LEMMAS. Which handler a core starts, and what its footprint may take (R237, R238, R240, R307). -/

namespace Sys2Proof.Machine

/-! ## Heads and ready handlers (R237, R238) -/

theorem State.headOf_eq_some_iff {s : State} {d k n : Nat} {x : Head} : s.headOf d k n = some x ↔ HeadIs s d k n x := by
  unfold State.headOf HeadIs
  rcases ht : (s.chan d k n).tokens with _ | ⟨t, rest⟩
  case cons => simpa using eq_comm
  case nil =>
    have hrow : ((s.rowsOf d k n).findIdx? fun r => r.claimed = none).bind
          (fun i => ((s.rowsOf d k n)[i]?).map fun r => Head.row i r) = some x ↔
        ∃ i r, (s.rowsOf d k n)[i]? = some r ∧ r.claimed = none ∧ x = .row i r ∧
          ∀ (j : Nat) (q : Row), j < i → (s.rowsOf d k n)[j]? = some q → q.claimed ≠ none := by
      simp only [Option.bind_eq_some_iff, Option.map_eq_some_iff, List.findIdx?_eq_some_iff_getElem, decide_eq_true_eq,
        List.getElem?_eq_some_iff]
      constructor
      · rintro ⟨i, ⟨hi, hfree, hbefore⟩, r, ⟨_, rfl⟩, rfl⟩
        exact ⟨i, _, ⟨hi, rfl⟩, hfree, rfl, fun j q hj ⟨_, hq⟩ => hq ▸ hbefore j hj⟩
      · rintro ⟨i, r, ⟨hi, rfl⟩, hfree, rfl, hbefore⟩
        exact ⟨i, ⟨hi, hfree, fun j hj => hbefore j _ hj ⟨hj.trans hi, rfl⟩⟩, _, ⟨hi, rfl⟩, rfl⟩
    cases he : (s.chan d k n).endpoint with
    | stream e =>
      cases hw : (s.stream d k e).isWrite with
      | true => simp [hw]
      | false => simpa [hw] using hrow
    | rowQueue => simpa using hrow
    | drainPort => simpa using hrow
    | lockOut l => simpa using hrow

theorem State.ready_eq_some_iff {s : State} {d k : Nat} {r : Region} {h : Handler} {x : Head} {bufs : List Nat} {priv : Nat} :
    s.ready d k r h = some (x, bufs, priv) ↔ ReadyWith s d k r h x bufs priv := by
  have hwidth : ∀ y : Head, (match y with
      | .row _ w => w.width == h.lanes
      | .token _ => true) = true ↔ ∀ i q, y = .row i q → q.width = h.lanes := by
    intro y
    cases y <;> simp
  unfold State.ready ReadyWith
  rw [← State.headOf_eq_some_iff]
  cases s.headOf d k h.chan with
  | none => simp
  | some y =>
    simp only [Option.ite_none_right_eq_some, Bool.and_eq_true, Option.map_eq_some_iff, Bool.or_eq_true, beq_iff_eq,
      Option.isNone_iff_eq_none, List.all_eq_true, Core.holds, Option.some.injEq, Prod.mk.injEq]
    constructor
    · rintro ⟨⟨⟨⟨⟨henable, htag⟩, hpreds⟩, hberth⟩, hw⟩, f, hf, rfl, rfl⟩
      exact ⟨rfl, henable, htag, hpreds, hberth, (hwidth y).1 hw, hf⟩
    · rintro ⟨rfl, henable, htag, hpreds, hberth, hw, hf⟩
      exact ⟨⟨⟨⟨⟨henable, htag⟩, hpreds⟩, hberth⟩, (hwidth y).2 hw⟩, _, hf, rfl, rfl⟩

/-- No handler is ready. -/
theorem State.readyHandler_eq_none {s : State} {d k : Nat} {r : Region}
    (hn : ∀ h, h ∈ r.cfg.handlers → ¬∃ x bufs priv, ReadyWith s d k r h x bufs priv) : s.readyHandler d k r = none := by
  simp only [State.readyHandler, List.findSome?_eq_none_iff, Option.map_eq_none_iff]
  intro h hh
  refine Option.eq_none_iff_forall_not_mem.2 fun f hf => hn h hh ⟨f.1, f.2.1, f.2.2, State.ready_eq_some_iff.1 hf⟩

/-- The first ready handler of the list is taken. -/
theorem State.readyHandler_eq_some {s : State} {d k : Nat} {r : Region} {pre post : List Handler} {h : Handler} {x : Head}
    {bufs : List Nat} {priv : Nat} (hlist : r.cfg.handlers = pre ++ h :: post)
    (hpre : ∀ y, y ∈ pre → ¬∃ x bufs priv, ReadyWith s d k r y x bufs priv) (hready : ReadyWith s d k r h x bufs priv) :
    s.readyHandler d k r = some (h, x, bufs, priv) := by
  have hnone : (pre.findSome? fun y => (s.ready d k r y).map fun z => (y, z)) = none := by
    rw [List.findSome?_eq_none_iff]
    intro y hy
    rw [Option.map_eq_none_iff]
    exact Option.eq_none_iff_forall_not_mem.2 fun f hf => hpre y hy ⟨f.1, f.2.1, f.2.2, State.ready_eq_some_iff.1 hf⟩
  rw [State.readyHandler, hlist, List.findSome?_append, hnone, Option.none_or, List.findSome?_cons,
    State.ready_eq_some_iff.2 hready]
  rfl

/-! ## Footprints (R240, R307) -/

/-- The first elements of a filtered range: each element left out below one of them fails the test. -/
theorem fails_of_notMem_take_filter {p : Nat → Bool} {n m a b : Nat} (hb : b ∈ ((List.range m).filter p).take n) (hab : a < b)
    (ha : a ∉ ((List.range m).filter p).take n) : p a = false := by
  by_contra hp
  have hm : b < m := by
    have := List.mem_of_mem_take hb
    rw [List.mem_filter, List.mem_range] at this
    exact this.1
  have hmem : a ∈ (List.range m).filter p := by
    rw [List.mem_filter, List.mem_range]
    exact ⟨hab.trans hm, by simpa using hp⟩
  rw [← List.take_append_drop n ((List.range m).filter p), List.mem_append] at hmem
  have hsorted : List.Pairwise (· < ·) ((List.range m).filter p) := List.pairwise_lt_range.filter _
  rw [← List.take_append_drop n ((List.range m).filter p), List.pairwise_append] at hsorted
  exact absurd (hsorted.2.2 b hb a (hmem.resolve_left ha)) (by omega)

/-- A free run of a pool lies in it, beside each run that is taken. -/
theorem freeRun_fits {p pool o : Nat} {runs : List Returned} (h : freeRun p pool runs = some o) :
    o + p ≤ pool ∧ ∀ y, y ∈ runs → y.privSize ≠ 0 → o + p ≤ y.privBase ∨ y.privBase + y.privSize ≤ o := by
  have hmem := List.min?_mem h
  simp only [List.mem_filter, Bool.and_eq_true, decide_eq_true_eq, List.all_eq_true, Bool.or_eq_true, bne_iff_ne] at hmem
  exact ⟨hmem.2.1, fun y hy hne => hmem.2.2 y ⟨hy, hne⟩⟩

/-- What a footprint that fits takes of a core. -/
theorem State.footprint_fits {s : State} {d k : Nat} {r : Region} {h : Handler} {bufs : List Nat} {priv : Nat}
    (hf : s.footprint d k r h = some (bufs, priv)) :
    ((s.core d k).taken.map Returned.granules).sum + h.regs ≤ 1024 ∧ h.tiles ≤ (s.freeBuffers d k r).length ∧
      bufs = (s.freeBuffers d k r).take h.tiles ∧
      (h.priv ≠ 0 → freeRun h.priv r.cfg.privPool (s.core d k).taken = some priv) := by
  unfold State.footprint at hf
  simp only [Bool.or_eq_true, decide_eq_true_eq] at hf
  split at hf
  · cases hf
  · rename_i hroom
    rw [Option.map_eq_some_iff] at hf
    obtain ⟨o, ho, heq⟩ := hf
    obtain ⟨rfl, rfl⟩ := Prod.mk.inj heq
    refine ⟨by omega, by omega, rfl, fun hp => ?_⟩
    rwa [if_neg hp] at ho

/-- The buffers that a footprint takes are the lowest that the region reserves for no lock or layer and no crew holds. -/
theorem State.buffers_of_footprint {s : State} {d k : Nat} {r : Region} {n b : Nat} (hb : b ∈ (s.freeBuffers d k r).take n) :
    b < 256 ∧ r.reserves k b = false ∧ (∀ y, y ∈ (s.core d k).taken → b ∉ y.buffers) ∧
      ∀ a, a < b → a ∉ (s.freeBuffers d k r).take n → r.reserves k a = true ∨ ∃ y, y ∈ (s.core d k).taken ∧ a ∈ y.buffers := by
  have hfree := List.mem_of_mem_take hb
  unfold State.freeBuffers at hfree
  simp only [List.mem_filter, List.mem_range, Bool.and_eq_true, Bool.not_eq_true', List.contains_eq_mem, decide_eq_false_iff_not,
    List.mem_flatMap, not_exists, not_and] at hfree
  obtain ⟨hlt, hres, hheld⟩ := hfree
  refine ⟨hlt, hres, hheld, fun a hab ha => ?_⟩
  have hfail := fails_of_notMem_take_filter hb hab ha
  simp only [Bool.and_eq_false_iff, Bool.not_eq_false', List.contains_eq_mem, decide_eq_true_eq, List.mem_flatMap] at hfail
  exact hfail

end Sys2Proof.Machine
end

section
/-! LEMMAS. The start of a handler: the crew that it makes, and the record of a launched node (R238, R242, R243, R270). -/

namespace Sys2Proof.Machine

/-! ## The crew of a start (R242) -/

theorem getElem?_tabulate {α : Type} (n : Nat) (f : Nat → α) (i : Nat) :
    (tabulate n f)[i]? = if i < n then some (f i) else none := by
  simp only [tabulate, Vector.getElem?_mk, List.getElem?_toArray, List.getElem?_map]
  split <;> simp_all

section
variable (uid : Nat) (place : CrewRef) (g : RegionCfg) (h : Handler) (t : Trigger) (bufs : List Nat) (priv : Nat)
  (cid : BitVec 16) (now : Nat)

/-- The scalar registers of a started crew hold what its trigger gives it in s1 to s3, and zero. -/
theorem sreg_startedCrew {f : BitVec 8} (hf : f.toNat < 64) : (startedCrew uid place g h t bufs priv cid now).sreg f =
    if f = 1 then t.s1 else if f = 2 then t.s2 else if f = 3 then t.s3 else 0 := by
  have hzero : (Crew.start uid place g.fmts (g.codeBase + h.entry) h.lanes).sreg f = 0 := by
    simp only [Crew.sreg, Crew.start, Vector.getElem?_replicate, hf, if_true, Option.getD_some, ite_self]
  have hsets : (startedCrew uid place g h t bufs priv cid now).sreg f =
      ((((Crew.start uid place g.fmts (g.codeBase + h.entry) h.lanes).setS 1 t.s1).setS 2 t.s2).setS 3 t.s3).sreg f := rfl
  rw [hsets, Crew.sreg_setS _ _ _ _ hf, Crew.sreg_setS _ _ _ _ hf, Crew.sreg_setS _ _ _ _ hf, hzero]
  by_cases h1 : f = 1
  · subst h1; rfl
  · by_cases h2 : f = 2
    · subst h2; rfl
    · have ne {e : BitVec 8} {v w : W64} (he : ¬f = e) : (if f = e ∧ e ≠ 0 then v else w) = w := if_neg fun hn => he hn.1
      rw [ne h1, ne h2, if_neg h1, if_neg h2]
      exact if_congr (and_iff_left (by decide)) rfl rfl

theorem mask_startedCrew {f : BitVec 8} (hlo : 0x41 ≤ f.toNat) (hhi : f.toNat ≤ 0x4F) :
    (startedCrew uid place g h t bufs priv cid now).mask f = 0 := by
  have hne : f ≠ 0x40 := fun he => by rw [he] at hlo; exact absurd hlo (by decide)
  have hm : (startedCrew uid place g h t bufs priv cid now).mregs = Vector.replicate 16 0 := rfl
  rw [Crew.mask, if_neg hne, hm, Vector.getElem?_replicate, if_pos (by omega)]
  rfl

theorem vreg_startedCrew {v : Nat} (hv : v < 256) :
    let x := (startedCrew uid place g h t bufs priv cid now).vreg v
    x.tag = 0 ∧ x.marks = 0 ∧ ∀ q, x.word q = 0 := by
  have hm : (startedCrew uid place g h t bufs priv cid now).vregs = Vector.replicate 256 VReg.reset := rfl
  rw [Crew.vreg, hm, Vector.getElem?_replicate, if_pos hv]
  exact ⟨rfl, rfl, fun _ => rfl⟩

theorem fmt_startedCrew {i : Nat} (hi : i < 16) :
    (startedCrew uid place g h t bufs priv cid now).fmt i = (g.fmts[i]?).getD 0x10000 := by
  have hm : (startedCrew uid place g h t bufs priv cid now).fmts = tabulate 16 fun i => g.fmts[i]?.getD 0x10000 := rfl
  rw [Crew.fmt, hm, getElem?_tabulate, if_pos hi]
  rfl

/-- The tile handles of a started crew: the buffers of its footprint from t0 on, and the buffer of its lock in t63. -/
theorem tiles_startedCrew {i : Nat} (hi : i < 64) : (startedCrew uid place g h t bufs priv cid now).tiles[i]? =
    some (if i = 63 ∧ t.lockBuf.isSome then { bound := true, buf := BitVec.ofNat 8 (t.lockBuf.getD 0), tag := 0 }
      else if i < bufs.length then { bound := true, buf := BitVec.ofNat 8 ((bufs[i]?).getD 0), tag := 0 }
      else { bound := false, buf := 0, tag := 0 }) := by
  have hbound : ∀ o : Option Nat, (match o with
        | some b => ({ bound := true, buf := BitVec.ofNat 8 b, tag := 0 } : TileHandle)
        | none => TileHandle.reset) =
      if o.isSome then { bound := true, buf := BitVec.ofNat 8 (o.getD 0), tag := 0 } else { bound := false, buf := 0, tag := 0 } := by
    intro o
    cases o <;> rfl
  have hm : (startedCrew uid place g h t bufs priv cid now).tiles = match t.lockBuf with
      | some b => (tabulate 64 fun i => match bufs[i]? with
          | some b => { bound := true, buf := BitVec.ofNat 8 b, tag := 0 }
          | none => TileHandle.reset).setIfInBounds 63 { bound := true, buf := BitVec.ofNat 8 b, tag := 0 }
      | none => tabulate 64 fun i => match bufs[i]? with
          | some b => { bound := true, buf := BitVec.ofNat 8 b, tag := 0 }
          | none => TileHandle.reset := rfl
  rw [hm]
  cases t.lockBuf with
  | none =>
    simp only [getElem?_tabulate, if_pos hi, hbound]
    simp
  | some b =>
    simp only [Vector.getElem?_setIfInBounds, getElem?_tabulate, hbound]
    by_cases h63 : i = 63
    · simp [h63]
    · simp [h63, hi, Ne.symm h63]

/-- The state of a crew at its start (R242), by its trigger and its footprint. -/
def Crew.StartsAs (c : Crew) : Prop :=
  c.uid = uid ∧ c.place = place ∧ c.region = g.num ∧ c.version = g.version ∧ c.handler = h.index ∧ c.lanes = h.lanes ∧
    c.pc = g.codeBase + h.entry ∧ c.entry = c.pc ∧
    (∀ f : BitVec 8, f.toNat < 64 → c.sreg f = if f = 1 then t.s1 else if f = 2 then t.s2 else if f = 3 then t.s3 else 0) ∧
    (∀ f : BitVec 8, 0x41 ≤ f.toNat → f.toNat ≤ 0x4F → c.mask f = 0) ∧ c.cur = t.live ∧ c.live = t.live ∧ c.stack = [] ∧
    (∀ v, v < 256 → (c.vreg v).tag = 0 ∧ (c.vreg v).marks = 0 ∧ ∀ q, (c.vreg v).word q = 0) ∧
    (∀ i, i < 16 → c.fmt i = (g.fmts[i]?).getD 0x10000) ∧
    (∀ i, i < 64 → (c.tiles[i]?) = some (if i = 63 ∧ t.lockBuf.isSome then
        { bound := true, buf := BitVec.ofNat 8 (t.lockBuf.getD 0), tag := 0 }
      else if i < bufs.length then { bound := true, buf := BitVec.ofNat 8 ((bufs[i]?).getD 0), tag := 0 }
      else { bound := false, buf := 0, tag := 0 })) ∧
    c.ops = [] ∧ c.werr = 0 ∧ c.cflags = 0 ∧ c.held = t.held ∧ c.lockBuf = t.lockBuf ∧ c.buffers = bufs ∧ c.granules = h.regs ∧
    c.privBase = priv ∧ c.privSize = h.priv ∧ c.wait = none ∧ c.weir = none ∧ c.started = now ∧ c.launched = t.launched ∧
    c.fp = 0 ∧ c.folds = 0

theorem startsAs_startedCrew : (startedCrew uid place g h t bufs priv cid now).StartsAs uid place g h t bufs priv now :=
  ⟨rfl, rfl, rfl, rfl, rfl, rfl, rfl, rfl, fun _ hf => sreg_startedCrew _ _ _ _ _ _ _ _ _ hf,
    fun _ hlo hhi => mask_startedCrew _ _ _ _ _ _ _ _ _ hlo hhi, rfl, rfl, rfl, fun _ hv => vreg_startedCrew _ _ _ _ _ _ _ _ _ hv,
    fun _ hi => fmt_startedCrew _ _ _ _ _ _ _ _ _ hi, fun _ hi => tiles_startedCrew _ _ _ _ _ _ _ _ _ hi,
    rfl, rfl, rfl, rfl, rfl, rfl, rfl, rfl, rfl, rfl, rfl, rfl, rfl, rfl, rfl⟩

/-- An EXIT that awaits the first issue is no part of that state. -/
theorem Crew.StartsAs.exiting {uid : Nat} {place : CrewRef} {g : RegionCfg} {h : Handler} {t : Trigger} {bufs : List Nat}
    {priv now : Nat} {c : Crew} (hc : c.StartsAs uid place g h t bufs priv now) (e : Bool) :
    Crew.StartsAs uid place g h t bufs priv now { c with exitPending := e } := hc

end

/-! ## What a start changes beside the crew (R238) -/

/-- The cores and the resident regions of dies, and the count of crews, differ between two states alone. -/
structure OnlyCores (s t : State) : Prop where
  package : t = { s with dies := t.dies, nextUid := t.nextUid }
  dies : ∀ d, t.die d = { s.die d with cores := (t.die d).cores, regions := (t.die d).regions }

theorem OnlyCores.trans {s t u : State} (h : OnlyCores s t) (k : OnlyCores t u) : OnlyCores s u where
  package := by rw [k.package, h.package]
  dies d := by rw [k.dies d, h.dies d]

theorem onlyCores_onDie (s : State) (d : Nat) {f : Die → Die}
    (hf : ∀ x, f x = { x with cores := (f x).cores, regions := (f x).regions }) : OnlyCores s (s.onDie d f) where
  package := rfl
  dies e := by
    rw [State.die_onDie]
    split
    · rename_i h
      rw [h.1]
      exact hf _
    · rfl

theorem onlyCores_onCore (s : State) (d k : Nat) (f : Core → Core) : OnlyCores s (s.onCore d k f) :=
  onlyCores_onDie (f := fun x => x.setCore k (f (s.core d k))) s d fun _ => rfl

theorem onlyCores_setRows (s : State) (d k n : Nat) (rows : List Row) : OnlyCores s (s.setRows d k n rows) := by
  unfold State.setRows
  simp only
  split
  · exact onlyCores_onCore s d k _
  · exact onlyCores_onCore s d k _
  · exact onlyCores_onCore s d k _
  · exact ⟨rfl, fun _ => rfl⟩

theorem onlyCores_takeHead (s : State) (d k n uid : Nat) (x : Head) : OnlyCores s (s.takeHead d k n uid x) := by
  cases x with
  | token t => exact onlyCores_onCore s d k fun x => { x with chans := modifyVec x.chans n fun y => { y with tokens := y.tokens.tail } }
  | row i q => exact onlyCores_setRows s d k n _

section
variable {s t : State} (h : OnlyCores s t)
include h

theorem OnlyCores.recorderOf (d : Nat) : t.recorderOf d = s.recorderOf d := by
  rw [State.recorderOf, h.dies d, h.package]
  rfl

theorem OnlyCores.part (d : Nat) : (t.die d).part = (s.die d).part := by rw [h.dies d]

theorem OnlyCores.regs (d : Nat) : (t.die d).regs = (s.die d).regs := by rw [h.dies d]

theorem OnlyCores.barges (d : Nat) : (t.die d).barges = (s.die d).barges := by rw [h.dies d]

theorem OnlyCores.nodeHome (node : W64) (d : Nat) : t.nodeHome node d = s.nodeHome node d := by
  simp only [State.nodeHome, State.nodeDie, h.part]

theorem OnlyCores.sysPlace (root : W64) (write : Bool) (a : W64) : t.sysPlace root write a = s.sysPlace root write a := by
  rw [h.package]
  rfl

theorem OnlyCores.homeRead (p : Place) (n : Nat) : t.homeRead p n = s.homeRead p n := by
  have hbarge : ∀ e off, t.bargeByte e off = s.bargeByte e off := fun e off => by simp only [State.bargeByte, h.barges]
  have hcell : ∀ k, t.cell k = s.cell k := fun k => by rw [h.package]; rfl
  have hhome : ∀ key pa, t.homeByte key pa = s.homeByte key pa := fun key pa => by rw [h.package]; rfl
  simp only [State.homeRead, hbarge, hcell, hhome]

theorem OnlyCores.sys64 (d : Nat) (a : W64) : t.sys64 d a = s.sys64 d a := by
  simp only [State.sys64, h.sysPlace, h.homeRead, h.regs]

end

/-! ## Starts without a recording (R333) -/

theorem State.logStalls_noLog {s : State} (h : s.NoLog) (d : Nat) : s.logStalls d = false := by
  simp [State.logStalls, h d]

theorem State.logEntry_of_mode {s : State} {d : Nat} (h : (s.recorderOf d).mode = 0) (kind : Nat) (cid : BitVec 16) (a : BitVec 48)
    (b c : W64) : s.logEntry d kind cid a b c = s := by
  simp [State.logEntry, h]

theorem State.startCid_noLog {s : State} (h : s.NoLog) (d g : Nat) (y : Handler) : s.startCid d g y = (0xFFFF, s) := by
  simp [State.startCid, h d]

/-- A region of a die without a fatal error runs. -/
theorem State.mayFire_iff {s : State} {d g : Nat} {r : Region} (hd : d < 4) (hr : (s.die d).region g = some r)
    (hfatal : (s.die d).faults.fatal = none) (hswap : (s.die d).regs.swapping = false) :
    s.mayFire d g = true ↔ r.phase = .running := by
  simp [State.mayFire, State.isFatal, State.faultsOf, if_neg (Nat.ne_of_lt hd), hr, hfatal, hswap]

/-- The state of a started crew's package before its crew stands on the berth: the head is taken, and the start noted. -/
def State.started (s : State) (d k g n : Nat) (x : Head) : State :=
  ({ s with nextUid := s.nextUid + 1 }.takeHead d k n s.nextUid x).onRegion d g fun y => { y with lastStart := s.now }

theorem onlyCores_started (s : State) (d k g n : Nat) (x : Head) : OnlyCores s (s.started d k g n x) := by
  have huid : OnlyCores s { s with nextUid := s.nextUid + 1 } := ⟨rfl, fun _ => rfl⟩
  exact (huid.trans (onlyCores_takeHead _ d k n s.nextUid x)).trans
    (onlyCores_onDie (f := fun z => z.onRegion g fun y => { y with lastStart := s.now }) _ d fun _ => rfl)

/-- A crew stands on its berth, and ends at once without a live lane (R99). -/
def State.begin (s : State) (c : Crew) : State := if c.live = 0 then (s.putCrew c).endCrew c .exited else s.putCrew c

section
variable {s : State} {d k g : Nat} {r : Region} (hlog : s.NoLog) (hd : d < 4) (hk : (s.core d k).region = some g)
  (hr : (s.die d).region g = some r) (hnum : r.cfg.num = g) (hfatal : (s.die d).faults.fatal = none)
  (hswap : (s.die d).regs.swapping = false)
include hd hk hr hnum hfatal hswap

/-- Nothing starts on a core whose region does not run, or that has no ready handler. -/
theorem handlerStart_of_none (h : r.phase ≠ .running ∨ s.readyHandler d k r = none) : exec (.handlerStart d k) s = .next s := by
  show execHandlerStart d k s = .next s
  have hmay := State.mayFire_iff hd hr hfatal hswap
  subst hnum
  simp only [execHandlerStart, hk, Option.bind_some, hr]
  split
  · rfl
  · rename_i hruns
    rw [h.resolve_left fun hn => hn (hmay.1 (by simpa using hruns))]

include hlog in
/-- The lowest ready handler starts. -/
theorem handlerStart_of_ready {h : Handler} {x : Head} {bufs : List Nat} {priv : Nat} (hruns : r.phase = .running)
    (hready : s.readyHandler d k r = some (h, x, bufs, priv)) :
    ∃ c : Crew, c.StartsAs s.nextUid { die := d, core := k, berth := x.tag } r.cfg h (x.trigger h.lanes) bufs priv s.now ∧
      c.place = { die := d, core := k, berth := x.tag } ∧ c.launched = (x.trigger h.lanes).launched ∧ c.exitPending = false ∧
      exec (.handlerStart d k) s =
        .next (((s.started d k g h.chan x).startNode c).1.begin ((s.started d k g h.chan x).startNode c).2) := by
  refine ⟨_, startsAs_startedCrew _ _ _ _ _ _ _ 0xFFFF _, rfl, rfl, rfl, ?_⟩
  show execHandlerStart d k s = _
  have hmay := (State.mayFire_iff hd hr hfatal hswap).2 hruns
  have hmode : ((s.started d k g h.chan x).recorderOf d).mode = 0 := by rw [(onlyCores_started s d k g h.chan x).recorderOf, hlog d]
  have hentry := State.logEntry_of_mode hmode
  unfold State.started at hentry ⊢
  subst hnum
  simp only [execHandlerStart, hk, Option.bind_some, hr, hmay, hready, State.startCid_noLog hlog, State.logStalls_noLog hlog,
    hentry, Bool.not_true, Bool.false_eq_true, if_false, State.begin, beq_iff_eq]

end

/-- A crew that no node launched. -/
theorem startNode_of_none (s : State) {c : Crew} (h : c.launched = none) : s.startNode c = (s, c) := by
  simp only [State.startNode, h]

/-- The node of a launched crew names it; a retrying node has fired, and the crew of a cancelling one is to exit (R270, R280, R287). -/
theorem startNode_of_launched {s t : State} (hst : OnlyCores s t) {c : Crew} {l : Launched} {p : CrewRef} (hp : c.place = p)
    (h : c.launched = some l) (hstays : c.exitPending = false) : t.startNode c =
      let e := s.nodeHome l.node p.die
      let st := (s.sys64 e l.node).toNat / 2 ^ 57 % 8
      let named := (t.seeSys p.die e l.node 64).setSysBy p.die e (l.node + 32) p.nodeWord
      (if st = 4 then named.setSys64 e l.node (nodeWithState (s.sys64 e l.node) 2) else named,
        { c with exitPending := decide (st = 5) }) := by
  have hstate : ∀ w : W64, nodeState w = w.toNat / 2 ^ 57 % 8 := fun w => toNat_field w 57 3
  subst hp
  simp only [State.startNode, h, hst.nodeHome, hst.sys64, hstate]
  generalize (s.sys64 (s.nodeHome l.node c.place.die) l.node).toNat / 2 ^ 57 % 8 = st
  by_cases h4 : st = 4
  · simp [h4, ← hstays]
    rw [← h]
  · by_cases h5 : st = 5
    · simp [h5]
    · simp [h4, h5, ← hstays]
      rw [← h]

end Sys2Proof.Machine
end

section
/-! LEMMAS. The poison ring: an entry written at its home slice, and the record freed (R350). -/

namespace Sys2Proof.Machine

/-! ## The number of a list of bytes -/

theorem natOfBytes_append (xs ys : List Byte) : natOfBytes (xs ++ ys) = natOfBytes xs + 256 ^ xs.length * natOfBytes ys := by
  induction xs with
  | nil => simp [natOfBytes]
  | cons x rest ih =>
    rw [List.cons_append, natOfBytes, ih, natOfBytes, List.length_cons, Nat.pow_succ, Nat.mul_add, Nat.mul_comm (256 ^ _) 256,
      Nat.mul_assoc, Nat.add_assoc]

theorem natOfBytes_bytesOfNat (n v : Nat) : natOfBytes (bytesOfNat n v) = v % 256 ^ n := by
  induction n generalizing v with
  | zero => simp [natOfBytes, bytesOfNat, Nat.mod_one]
  | succ n ih =>
    rw [bytesOfNat, natOfBytes, ih, BitVec.toNat_ofNat, pow_succ' 256 n, Nat.mod_mul]

theorem natOfBytes_wordBytes (v : W64) : natOfBytes (wordBytes v) = v.toNat :=
  (natOfBytes_bytesOfNat 8 _).trans (Nat.mod_eq_of_lt v.isLt)

theorem natOfBytes_zeros (n : Nat) : natOfBytes (List.replicate n 0) = 0 := by
  induction n with
  | zero => rfl
  | succ n ih =>
    rw [List.replicate_succ, natOfBytes, ih]
    rfl

/-- The bytes of a list are those of its number. -/
theorem getElem?_of_natOfBytes {bs : List Byte} {i : Nat} (hi : i < bs.length) :
    bs[i]? = some (BitVec.ofNat 8 (natOfBytes bs / 256 ^ i)) := by
  induction bs generalizing i with
  | nil => exact absurd hi (Nat.not_lt_zero i)
  | cons b rest ih =>
    cases i with
    | zero =>
      rw [List.getElem?_cons_zero, natOfBytes, Nat.pow_zero, Nat.div_one]
      refine congrArg some (BitVec.eq_of_toNat_eq ?_)
      rw [BitVec.toNat_ofNat]
      have := b.isLt
      omega
    | succ i =>
      have hb : (b.toNat + 256 * natOfBytes rest) / 256 = natOfBytes rest := by
        have := b.isLt
        omega
      rw [List.getElem?_cons_succ, natOfBytes, Nat.pow_succ', ← Nat.div_div_eq_div_mul, hb]
      exact ih (Nat.lt_of_succ_lt_succ hi)

/-! ## Bytes written at their home slices in the clear -/

/-- Bytes that a die writes at their home slices in the clear. -/
theorem State.writePa_bytes {s : State} (hc : s.InTheClear) (h : Memory.wf s.mem = true) (die pa : Nat) (bs : List Byte) :
    WritesCells s (s.writePa die pa bs) pa bs.length (natOfBytes bs) := by
  obtain ⟨hframe, hmem⟩ := State.setHomeBytes_spec bs pa hc
  obtain ⟨-, -, hcells⟩ := State.setCells_spec bs pa h
  have hbytes : ∀ i, i < bs.length → bs[i]? = some (BitVec.ofNat 8 (natOfBytes bs / 256 ^ i)) := fun i => getElem?_of_natOfBytes
  rw [State.writePa]
  generalize (bs.zipIdx.foldl (fun t x => t.setHomeByte 0 (pa + x.2) x.1) s) = t at *
  refine ⟨fun j => ?_, ?_, fun x => ?_⟩
  · show cellRead t.mem j = _
    rw [hmem]
    refine (hcells j).trans ?_
    split
    · rw [hbytes _ (by omega), Option.getD_some]
    · rfl
  · rw [hframe]
    rfl
  · rw [hframe]
    simp only [State.putStamp, State.clearMarks, List.mem_filter, Bool.not_eq_true', Bool.and_eq_false_iff, decide_eq_false_iff_not,
      not_and_or]

/-- What is written of memory leaves the dies. -/
theorem WritesCells.dies {s w : State} {at_ n v : Nat} (h : WritesCells s w at_ n v) : w.dies = s.dies := by rw [h.2.1]

theorem State.onDie_onDie (s : State) {d : Nat} (hd : d < 4) (f k : Die → Die) :
    (s.onDie d f).onDie d k = s.onDie d fun x => k (f x) := by
  rw [State.onDie, State.die_onDie, if_pos ⟨rfl, hd⟩]
  simp only [State.onDie, State.setDie, Vector.setIfInBounds_setIfInBounds]

/-! ## Ring entries (R350) -/

theorem Barge.bytes_length (b : Barge) : b.bytes.length = 64 := by
  simp only [Barge.bytes, wordBytes, List.length_append, bytesOfNat_length, List.length_cons, List.length_nil,
    List.length_replicate]

/-- The 128 bytes of a ring entry. -/
def ringEntry (b : Barge) (h : HandedOn) : List Byte :=
  b.bytes ++ wordBytes (h.seq.setWidth 64) ++ wordBytes h.lockRef ++ List.replicate 48 0

theorem wordBytes_length (v : W64) : (wordBytes v).length = 8 := bytesOfNat_length 8 _

theorem ringEntry_length (b : Barge) (h : HandedOn) : (ringEntry b h).length = 128 := by
  simp only [ringEntry, List.length_append, Barge.bytes_length, wordBytes_length, List.length_replicate]

theorem natOfBytes_ringEntry (b : Barge) (h : HandedOn) :
    natOfBytes (ringEntry b h) = natOfBytes b.bytes + h.seq.toNat * 2 ^ 512 + h.lockRef.toNat * 2 ^ 576 := by
  have hseq : (h.seq.setWidth 64).toNat = h.seq.toNat := by
    rw [BitVec.toNat_setWidth]
    exact Nat.mod_eq_of_lt (h.seq.isLt.trans (by decide))
  simp only [ringEntry, natOfBytes_append, List.length_append, Barge.bytes_length, wordBytes_length, natOfBytes_wordBytes,
    natOfBytes_zeros, hseq, Nat.mul_zero, Nat.add_zero]
  simp only [show (256 : Nat) = 2 ^ 8 from rfl, ← Nat.pow_mul, Nat.mul_comm (2 ^ _)]

/-- A barge without a landing row ends: its record is free. -/
theorem State.freeBarge_eq {s : State} {d i : Nat} {b : Barge} (hb : s.barge d i = some b) (hl : b.landing = none) :
    s.freeBarge d i = s.onDie d fun x => { x with barges := assocDel x.barges i } := by
  simp only [State.freeBarge, hb, State.freeLanding, hl, State.freeRecord]

section
variable {s : State} {d : Nat} {y : HandedOn} {rest : List HandedOn} (h : (s.die d).handedOn = y :: rest)
include h

theorem poisonRingWrite_full (hsize : (s.die d).regs.poisonSize ≠ 0)
    (hfull : ((s.die d).regs.poisonTail.toNat + 1) % (s.die d).regs.poisonSize.toNat = (s.die d).regs.poisonHead.toNat) :
    exec (.poisonRingWrite d) s = .next s := by
  show execPoisonRingWrite d s = _
  simp only [execPoisonRingWrite, h, if_neg hsize, if_pos hfull]

variable {b : Barge} (hd : d < 4) (hb : s.barge d y.record = some b) (hl : b.landing = none)
include hd hb hl

theorem poisonRingWrite_of_no_ring (hsize : (s.die d).regs.poisonSize = 0) :
    exec (.poisonRingWrite d) s = .next (s.onDie d fun z => { z with handedOn := rest, barges := assocDel z.barges y.record }) := by
  show execPoisonRingWrite d s = _
  simp only [execPoisonRingWrite, h, if_pos hsize, State.freeBarge_eq hb hl, State.onDie_onDie _ hd]

theorem poisonRingWrite_of_room (hsize : (s.die d).regs.poisonSize ≠ 0)
    (hroom : ((s.die d).regs.poisonTail.toNat + 1) % (s.die d).regs.poisonSize.toNat ≠ (s.die d).regs.poisonHead.toNat)
    (hc : s.InTheClear) (hmem : Memory.wf s.mem = true) :
    ∃ w, WritesCells s w ((s.die d).regs.poisonBase.toNat + 128 * (s.die d).regs.poisonTail.toNat) 128
        (natOfBytes b.bytes + y.seq.toNat * 2 ^ 512 + y.lockRef.toNat * 2 ^ 576) ∧
      exec (.poisonRingWrite d) s = .next (w.onDie d fun z =>
        { z with
          handedOn := rest, barges := assocDel z.barges y.record
          regs := { z.regs with
            poisonTail := BitVec.ofNat 16 (((s.die d).regs.poisonTail.toNat + 1) % (s.die d).regs.poisonSize.toNat) } }) := by
  have hw := State.writePa_bytes hc hmem d ((s.die d).regs.poisonBase.toNat + 128 * (s.die d).regs.poisonTail.toNat) (ringEntry b y)
  have hexec : exec (.poisonRingWrite d) s = execPoisonRingWrite d s := rfl
  simp only [execPoisonRingWrite, h, if_neg hsize, if_neg hroom, hb, Option.getD_some] at hexec
  rw [← ringEntry] at hexec
  generalize s.writePa d ((s.die d).regs.poisonBase.toNat + 128 * (s.die d).regs.poisonTail.toNat) (ringEntry b y) = w at hw hexec
  have hdie : w.die d = s.die d := by rw [State.die, WritesCells.dies hw, State.die]
  have hbarge : w.barge d y.record = some b := by rw [State.barge, hdie]; exact hb
  rw [State.freeBarge_eq hbarge hl, State.onDie_onDie _ hd, State.onDie_onDie _ hd] at hexec
  rw [ringEntry_length, natOfBytes_ringEntry] at hw
  refine ⟨w, hw, hexec.trans (congrArg _ ?_)⟩
  rw [State.onDie, State.onDie, hdie]

end

end Sys2Proof.Machine
end

section
/-! PROOFS. The start of handlers (R237 to R243, R270) and the poison ring (R350). -/

namespace Sys2Proof.Machine

/-- Settles O42: readiness and footprints clause by clause, the three kinds of start from one lemma, and the poison ring. -/
theorem handlersStart : Obligations.HandlersStart := by
  intro s d k g r hlog hd hk hr hnum hfatal hswap
  refine ⟨fun h => ?_, fun h bufs priv hf => ?_, fun pre h post x bufs priv hruns hlist hpre hready _ => ?_,
    fun y rest h => ⟨fun hsize hfull => poisonRingWrite_full h hsize hfull, fun b hb hl =>
      ⟨poisonRingWrite_of_no_ring h hd hb hl, fun hsize hroom => poisonRingWrite_of_room h hd hb hl hsize hroom⟩⟩⟩
  · exact handlerStart_of_none hd hk hr hnum hfatal hswap (h.imp_right State.readyHandler_eq_none)
  · obtain ⟨hregs, htiles, rfl, hpriv⟩ := State.footprint_fits hf
    exact ⟨hregs, List.length_take_of_le htiles, fun b hb => State.buffers_of_footprint hb, fun hp => freeRun_fits (hpriv hp)⟩
  · subst hnum
    obtain ⟨c, hstarts, hplace, hlaunched, hstays, hexec⟩ :=
      handlerStart_of_ready hlog hd hk hr rfl hfatal hswap hruns (State.readyHandler_eq_some hlist hpre hready)
    refine ⟨fun lock tag cause records wp buf hx => ?_, fun i q hx => ?_, fun tag l hx => ?_⟩
    · subst hx
      rw [startNode_of_none _ hlaunched] at hexec
      exact ⟨c, hstarts, hexec⟩
    · subst hx
      rw [startNode_of_none _ hlaunched] at hexec
      exact ⟨c, hstarts, hexec⟩
    · subst hx
      rw [startNode_of_launched (onlyCores_started s d k _ h.chan _) hplace hlaunched hstays] at hexec
      exact ⟨_, hstarts.exiting _, decide_eq_true_iff, hexec⟩

end Sys2Proof.Machine
end

section
/-! LEMMAS. The copy that fails the statement of the engines' steps: the first piece of a TLD, on a die whose table of cores is not in
rising order (R157, R182, R210). -/

namespace Sys2Proof.Machine

/-- A crew that is bound to a weir, and one of the same identity that is not. -/
def unboundTwin : Crew := Crew.start 0 CrewRef.first [] 0 4

def boundTwin : Crew :=
  { unboundTwin with weir := some { record := 0xB000000000000100, home := 0xB000000000000100, slot := 0, notice := false } }

/-- One byte of a TLD for that identity, read and still to land at cell 0. -/
def pieceChunk : CopyChunk := { dst := [(.chip 0, 1)], bytes := [1], marks := [], old := false }

def pieceJob : CopyJob :=
  { kind := .tld 0, dst := 0, src := 0, len := 1, off := 0, chunk := some pieceChunk, bad := false, op := none
    agent := unboundTwin.agent, after := [] }

/-- The core of the bound crew, with the copy at the head of its first channel. -/
def copyingCore : Core :=
  { Core.reset with
    berths := Vector.replicate 4 none |>.setIfInBounds 0 (some boundTwin)
    chans := Vector.replicate 16 Channel.reset |>.setIfInBounds 0 { Channel.reset with jobs := [pieceJob] } }

/-- Core 0 stands behind core 1 in the table, whose crew is not bound; the weir's window is the one cell 0. -/
def twinState : State :=
  { (State.reset.onDie 0 fun x =>
      { x with cores := [(1, { Core.reset with berths := Vector.replicate 4 none |>.setIfInBounds 0 (some unboundTwin) }), (0, copyingCore)] })
    with mem := [(0xB000000000000120, 1)] }

/-- A cell in the state that an event leaves. -/
def cellAfter (o : Host.Outcome State Fault Refusal) (k : Nat) : Byte :=
  match o with
  | .next t => t.cell k
  | _ => 0

theorem twinState_noLog : twinState.NoLog := by
  intro d
  rcases Nat.lt_or_ge d 5 with h | h
  · interval_cases d <;> rfl
  · have out : twinState.dies[d]? = none := by simp; omega
    simp [State.recorderOf, State.die, Nat.ne_of_gt h, out, Die.reset, Recorder.reset]

/-- The crew of the copy's identity is the unbound one. -/
theorem copyWindow_twinState : twinState.copyWindow pieceJob.agent = none := rfl

/-- The emptied full bit puts core 0 in front of core 1, and the bound crew is found. -/
theorem copyWindow_after_setFull : (twinState.setFull 0 0 0 false).copyWindow pieceJob.agent =
    some (0, { record := 0xB000000000000100, home := 0xB000000000000100, slot := 0, notice := false }, 0, 1) := rfl

/-- The byte travels to the weir's bank, and cell 0 stays zero. -/
theorem piece_does_not_land : cellAfter (exec (.copyChunk 0 0 0) twinState) 0 = 0 := rfl

/-- Refutes O34: the clause of a landing piece takes every state, so also one in which a die's table of cores is not in rising order
and two crews share an identity. The first piece of a TLD first empties its buffer (R182), which puts the channel's core in front of the others, and the
crew of the copy's identity that is then found is another: one bound to a weir, in whose window the piece is held back as a provisional
value (R210). A premise that a die's cores are listed in rising order, or that crews have different identities, would exclude this state. -/
theorem not_engineSteps : ¬ Obligations.EngineSteps := by
  rintro ⟨copies, -⟩
  obtain ⟨-, lands⟩ := copies twinState 0 0 0 (.copyChunk 0 0 0) pieceJob [] twinState_noLog (by decide) rfl
    (.inl ⟨rfl, fun _ _ gather => nomatch gather⟩)
  obtain ⟨t, runs, cells, -⟩ := lands pieceChunk (.chip 0) rfl rfl (by decide) (fun _ marked => nomatch marked) rfl ⟨rfl, rfl⟩ (by decide)
    rfl rfl copyWindow_twinState fun _ _ place => nomatch place
  have landed : t.cell 0 = 1 := cells 0
  have stays : t.cell 0 = 0 := by
    have h := piece_does_not_land
    rwa [runs] at h
  rw [landed] at stays
  exact absurd stays (by decide)

end Sys2Proof.Machine
end

section
/-! LEMMAS. What a vector word leaves beside the registers that it writes: the blocks that it refers to, the spill area, and the crew
on its berth (R77, R241, R302, R307). -/

namespace Sys2Proof.Machine

/-! ## References to registers (R241) -/

/-- The blocks that references bind or spill, and REGSPILL, are all that differ between two crews. -/
structure Touched (c c' : Crew) : Prop where
  flags : c'.cflags = c.cflags ∨ c'.cflags = c.cflags ||| 2
  rest : c' = { c with boundBlocks := c'.boundBlocks, spillBlocks := c'.spillBlocks, cflags := c'.cflags }

theorem Touched.refl (c : Crew) : Touched c c := ⟨.inl rfl, rfl⟩

theorem Touched.trans {a b c : Crew} (h : Touched a b) (k : Touched b c) : Touched a c where
  flags := by
    rcases k.flags with hk | hk <;> rcases h.flags with hh | hh <;> rw [hk, hh]
    · exact .inl rfl
    · exact .inr rfl
    · exact .inr rfl
    · exact .inr (by rw [BitVec.or_assoc, BitVec.or_self])
  rest := by rw [k.rest, h.rest]

theorem touched_touch (c : Crew) (write : Bool) (r : Nat) : Touched c (c.touch write r).1 := by
  unfold Crew.touch
  simp only
  split
  · split
    · exact ⟨.inl rfl, rfl⟩
    · exact Touched.refl c
  · split
    · exact Touched.refl c
    · exact ⟨.inr rfl, rfl⟩

theorem touched_foldl {f : Crew × Nat → Nat → Crew × Nat} (hf : ∀ p r, Touched p.1 (f p r).1) (rs : List Nat) (p : Crew × Nat) :
    Touched p.1 (rs.foldl f p).1 := by
  induction rs generalizing p with
  | nil => exact Touched.refl p.1
  | cons r rest ih => exact (hf p r).trans (ih (f p r))

theorem touched_touchAll (c : Crew) (reads writes : List Nat) : Touched c (c.touchAll reads writes).1 := by
  refine Touched.trans (touched_foldl ?_ reads (c, 0)) (touched_foldl ?_ writes _)
  · exact fun p r => touched_touch p.1 false r
  · exact fun p r => touched_touch p.1 true r

/-! ## The spill area (R241, R302, R307) -/

theorem onlyData_clearMarks (s : State) (pa n : Nat) : OnlyData s (s.clearMarks pa n) := onlyData_of_mem rfl

theorem onlyData_writePa (s : State) (die pa : Nat) (bs : List Byte) : OnlyData s (s.writePa die pa bs) :=
  ((onlyData_foldl (fun t (p : Byte × Nat) => onlyData_setHomeByte t 0 (pa + p.2) p.1) bs.zipIdx s).trans
    (onlyData_clearMarks _ pa bs.length)).trans (onlyData_putStamp _ pa bs.length die _)

theorem onlyData_spillOut (s : State) (c : Crew) (rs : List Nat) : OnlyData s (s.spillOut c rs) :=
  onlyData_foldl (fun t _ => onlyData_writePa t _ _ _) rs s

theorem onlyData_spillTurn (s : State) (old new : Crew) : OnlyData s (s.spillTurn old new) := by
  unfold State.spillTurn
  simp only
  split
  · exact (onlyData_writeBack s _ _).trans (onlyData_spillOut _ _ _)
  · exact onlyData_spillOut s _ _

theorem State.spillTurn_cur (s : State) (old new : Crew) : (s.spillTurn old new).cur = s.cur := by
  rw [(onlyData_spillTurn s old new).package]

/-! ## The end of a vector word -/

/-- The crew that a vector word leaves, from the crew with its results written. -/
def Crew.afterVec (c : Crew) (reads writes : List Nat) : Crew := (c.touchAll reads writes).1.advance

section
variable (c : Crew) (reads writes : List Nat)

theorem vectorCrew_afterVec : VectorCrew c (c.afterVec reads writes) := by
  have h := touched_touchAll c reads writes
  unfold Crew.afterVec
  refine ⟨?_, h.flags, ?_⟩
  · rw [h.rest]; rfl
  · rw [h.rest]; rfl

@[simp] theorem Crew.afterVec_vregs : (c.afterVec reads writes).vregs = c.vregs := by
  show (c.touchAll reads writes).1.vregs = c.vregs
  rw [(touched_touchAll c reads writes).rest]

@[simp] theorem Crew.afterVec_place : (c.afterVec reads writes).place = c.place := by
  show (c.touchAll reads writes).1.place = c.place
  rw [(touched_touchAll c reads writes).rest]

end

/-- Writing the results is all that a vector word does to its crew before its end. -/
theorem VectorCrew.of_vregs {b c c' : Crew} (h : VectorCrew b c') (hb : b = { c with vregs := b.vregs }) : VectorCrew c c' where
  pc := by rw [h.pc, hb]
  flags := by rw [hb] at h; exact h.flags
  rest := by
    have := h.rest
    rw [hb] at this
    exact this

theorem Crew.writeVec_eq (c : Crew) (r : Nat) (pair : Bool) (E : Mask) (f : Nat → Nat) (tag : BitVec 8) :
    c.writeVec r pair E f tag = { c with vregs := (c.writeVec r pair E f tag).vregs } := by
  unfold Crew.writeVec
  cases pair <;> rfl

/-- A crew put on the berth whose turn it is, with its new spill blocks counted. -/
theorem crewAndCore_berth {s : State} {c' : Crew} (hp : c'.place = s.cur) (hd : s.cur.die < 4) (hb : s.cur.berth < 4)
    (b : Crew) (n : Nat) : CrewAndCore s ((s.putCrew c').countSpills b n) c' := by
  refine crewAndCore_spills (s := s) (t := s.putCrew c') ⟨?_, ?_, fun _ => rfl, rfl, fun d => ?_, fun d k => ?_⟩ b n
  · rw [State.putCrew, State.crewAt_setBerth, hp, if_pos ⟨rfl, hd, hb⟩, Option.map_some, ← hp]
  · intro who hw
    rw [State.putCrew, State.crewAt_setBerth, hp, if_neg fun h => hw h.1]
  · rw [State.putCrew, State.die_setBerth_eq]
  · rw [State.putCrew, State.core_setBerth_eq]

/-- The end of a vector word, from the state in which its endpoints have given and taken their rows. -/
theorem crewAndCore_finishVec {s : State} {c b : Crew} (h : s.crewAt s.cur = some c) (hb : b.place = c.place)
    (reads writes : List Nat) :
    CrewAndCore (s.spillTurn c (b.afterVec reads writes)) (s.finishVec b reads writes) (b.afterVec reads writes) := by
  obtain ⟨hdie, hberth, hplace⟩ := State.crewAt_some h
  have hcur : b.place = s.cur := hb.trans hplace
  have hturn : s.finishVec b reads writes = ((s.spillTurn c (b.afterVec reads writes)).putCrew (b.afterVec reads writes)).countSpills b
      (b.touchAll reads writes).2 := by
    unfold State.finishVec
    rw [hcur, h]
    rfl
  rw [hturn]
  have base := s.spillTurn_cur c (b.afterVec reads writes)
  exact crewAndCore_berth (by rw [Crew.afterVec_place, hcur, base]) (by rw [base]; exact hdie) (by rw [base]; exact hberth) b _

/-- The spill area depends on a crew's blocks and registers alone. -/
theorem State.spillTurn_setS (s : State) (c new : Crew) (d : BitVec 8) (v : W64) :
    s.spillTurn (c.setS d v) new = s.spillTurn c new := by
  rw [Crew.setS_eq]
  rfl

end Sys2Proof.Machine
end

section
/-! LEMMAS. Vector registers after a write: the lanes of E of a register or a pair, and every other register as it was (R59, R77, R113,
R352). -/

namespace Sys2Proof.Machine

/-! ## One register -/

@[simp] theorem VReg.write_tag (v : VReg) (n : Nat) (E : Mask) (f : Nat → Nat) (tag : BitVec 8) : (v.write n E f tag).tag = tag := rfl

theorem VReg.word_write (v : VReg) {n l : Nat} (hl : l < n) (E : Mask) (f : Nat → Nat) (tag : BitVec 8) :
    (v.write n E f tag).word l = if E.getLsbD l then BitVec.ofNat 32 (f l) else v.word l := by
  simp [VReg.word, VReg.write, hl]

theorem VReg.marks_write (v : VReg) (n : Nat) (E : Mask) (f : Nat → Nat) (tag : BitVec 8) (l : Nat) :
    (v.write n E f tag).marks.getLsbD l = if E.getLsbD l then false else v.marks.getLsbD l := by
  show (v.marks &&& ~~~E).getLsbD l = _
  rw [BitVec.getLsbD_and, BitVec.getLsbD_not]
  by_cases hl : l < 1024
  · cases E.getLsbD l <;> simp [hl]
  · simp [BitVec.getLsbD_of_ge _ l (Nat.le_of_not_lt hl)]

/-! ## A register or a pair of a crew -/

theorem Crew.vreg_congr {c c' : Crew} (h : c'.vregs = c.vregs) (q : Nat) : c'.vreg q = c.vreg q := by
  rw [Crew.vreg, h, ← Crew.vreg]

theorem mem_regsOf {r q : Nat} {pair : Bool} : q ∈ regsOf r pair ↔ q = r ∨ (pair = true ∧ q = r + 1) := by
  cases pair <;> simp [regsOf]

/-- A register, or an even pair, lies in v0 to v255. -/
theorem regsOf_lt {r : Nat} {pair : Bool} (h : r < 256) (even : pair = true → r % 2 = 0) {q : Nat} (hq : q ∈ regsOf r pair) :
    q < 256 := by
  rcases mem_regsOf.1 hq with rfl | ⟨hp, rfl⟩
  · exact h
  · have := even hp
    omega

theorem getD_setIfInBounds {α : Type} {n : Nat} (v : Vector α n) {r q : Nat} (hr : r < n) (x z : α) :
    ((v.setIfInBounds r x)[q]?).getD z = if q = r then x else v[q]?.getD z := by
  by_cases h : r = q
  · subst h
    simp [hr]
  · simp [h, Ne.symm h]

section
variable {c : Crew} {r : Nat} {pair : Bool} (hr : ∀ q, q ∈ regsOf r pair → q < 256) (E : Mask) (f : Nat → Nat) (tag : BitVec 8)
include hr

/-- The first register of a write. -/
theorem Crew.vreg_writeVec_first : (c.writeVec r pair E f tag).vreg r = (c.vreg r).write c.lanes E f tag := by
  have hr0 := hr r (mem_regsOf.2 (.inl rfl))
  cases pair with
  | false => exact (getD_setIfInBounds c.vregs hr0 _ VReg.reset).trans (if_pos rfl)
  | true =>
    have hr1 := hr (r + 1) (mem_regsOf.2 (.inr ⟨rfl, rfl⟩))
    refine (getD_setIfInBounds _ hr1 _ VReg.reset).trans ((if_neg (by omega)).trans ?_)
    exact (getD_setIfInBounds c.vregs hr0 _ VReg.reset).trans (if_pos rfl)

/-- The second register of a pair takes the high words. -/
theorem Crew.vreg_writeVec_second (hp : pair = true) : (c.writeVec r pair E f tag).vreg (r + 1) =
    (c.vreg (r + 1)).write c.lanes E (fun l => f l / 2 ^ 32) tag := by
  subst hp
  exact (getD_setIfInBounds _ (hr (r + 1) (mem_regsOf.2 (.inr ⟨rfl, rfl⟩))) _ VReg.reset).trans (if_pos rfl)

theorem onlyVectors_writeVec : OnlyVectors c (c.writeVec r pair E f tag) (regsOf r pair) := by
  intro q _ hq
  have hr0 := hr r (mem_regsOf.2 (.inl rfl))
  rw [mem_regsOf, not_or, not_and] at hq
  obtain ⟨hfirst, hsecond⟩ := hq
  cases pair with
  | false => exact (getD_setIfInBounds c.vregs hr0 _ VReg.reset).trans (if_neg hfirst)
  | true =>
    have hr1 := hr (r + 1) (mem_regsOf.2 (.inr ⟨rfl, rfl⟩))
    refine (getD_setIfInBounds _ hr1 _ VReg.reset).trans ((if_neg (hsecond rfl)).trans ?_)
    exact (getD_setIfInBounds c.vregs hr0 _ VReg.reset).trans (if_neg hfirst)

/-- A write puts values that fit their lanes into the lanes of E. -/
theorem laneValues_writeVec (hf : ∀ l, f l < 2 ^ (if pair then 64 else 32)) :
    LaneValues c (c.writeVec r pair E f tag) E r pair tag f fun _ => false := by
  have first := Crew.vreg_writeVec_first (c := c) hr E f tag
  refine ⟨fun l hl => ?_, fun q hq => ?_⟩
  · cases pair with
    | false =>
      have fits : f l < 2 ^ 32 := hf l
      simp only [Crew.laneValue, first, VReg.word_write _ hl, Bool.false_eq_true, if_false]
      split
      · rw [BitVec.toNat_ofNat, Nat.mod_eq_of_lt fits]
      · rfl
    | true =>
      have fits : f l < 2 ^ 64 := hf l
      have second := Crew.vreg_writeVec_second (c := c) hr E f tag rfl
      simp only [Crew.laneValue, first, second, VReg.word_write _ hl, if_true]
      split
      · rw [BitVec.toNat_ofNat, BitVec.toNat_ofNat]
        omega
      · rfl
  · rcases mem_regsOf.1 hq with rfl | ⟨hp, rfl⟩
    · rw [first]
      exact ⟨rfl, fun l _ => VReg.marks_write _ _ _ _ _ l⟩
    · rw [Crew.vreg_writeVec_second hr E f tag hp]
      exact ⟨rfl, fun l _ => VReg.marks_write _ _ _ _ _ l⟩

end

/-! ## Writes one after another -/

theorem OnlyVectors.refl (c : Crew) (rs : List Nat) : OnlyVectors c c rs := fun _ _ _ => rfl

theorem OnlyVectors.trans {a b c : Crew} {rs qs : List Nat} (h : OnlyVectors a b rs) (k : OnlyVectors b c qs) :
    OnlyVectors a c (rs ++ qs) := fun q hq hn => by
  rw [List.mem_append, not_or] at hn
  rw [k q hq hn.2, h q hq hn.1]

/-- Only the vector registers of a crew count. -/
theorem OnlyVectors.congr {c b c' : Crew} {rs : List Nat} (h : OnlyVectors c b rs) (hv : c'.vregs = b.vregs) : OnlyVectors c c' rs :=
  fun q hq hn => (Crew.vreg_congr hv q).trans (h q hq hn)

theorem Crew.laneValue_congr {c c' : Crew} {r : Nat} {pair : Bool} (h : ∀ q, q ∈ regsOf r pair → c'.vreg q = c.vreg q) (l : Nat) :
    c'.laneValue r pair l = c.laneValue r pair l := by
  have first := h r (mem_regsOf.2 (.inl rfl))
  cases pair with
  | false => simp only [Crew.laneValue, Bool.false_eq_true, if_false, first]
  | true => simp only [Crew.laneValue, first, h (r + 1) (mem_regsOf.2 (.inr ⟨rfl, rfl⟩))]

/-- What a write left of its registers speaks of those registers alone. -/
theorem LaneValues.congr {c b c1 c2 : Crew} {E : Mask} {r : Nat} {pair : Bool} {tag : BitVec 8} {v : Nat → Nat} {bad : Nat → Bool}
    (h : LaneValues c1 c2 E r pair tag v bad) (hlanes : c1.lanes = c.lanes) (hpre : ∀ q, q ∈ regsOf r pair → c1.vreg q = c.vreg q)
    (hpost : ∀ q, q ∈ regsOf r pair → b.vreg q = c2.vreg q) : LaneValues c b E r pair tag v bad := by
  obtain ⟨hvalue, hreg⟩ := h
  rw [hlanes] at hvalue
  refine ⟨fun l hl => ?_, fun q hq => ?_⟩
  · rw [Crew.laneValue_congr hpost, hvalue l hl, Crew.laneValue_congr hpre]
  · have := hreg q hq
    rw [hlanes, hpre q hq] at this
    rw [hpost q hq]
    exact this

/-- One write of a word: the register or pair, its lanes' values, and its tag. -/
structure StepWrite where
  reg : Nat
  pair : Bool
  val : Nat → Nat
  tag : BitVec 8

def StepWrite.regs (x : StepWrite) : List Nat := regsOf x.reg x.pair

/-- The registers exist, and the values fit their lanes. -/
def StepWrite.fits (x : StepWrite) : Prop := (∀ q, q ∈ x.regs → q < 256) ∧ ∀ l, x.val l < 2 ^ (if x.pair then 64 else 32)

def Crew.writeStep (E : Mask) (c : Crew) (x : StepWrite) : Crew := c.writeVec x.reg x.pair E x.val x.tag

/-- The writes of a word's steps, in their order. -/
def Crew.writeSteps (c : Crew) (E : Mask) (xs : List StepWrite) : Crew := xs.foldl (Crew.writeStep E) c

theorem Crew.writeSteps_eq (c : Crew) (E : Mask) (xs : List StepWrite) : c.writeSteps E xs = { c with vregs := (c.writeSteps E xs).vregs } := by
  induction xs generalizing c with
  | nil => rfl
  | cons x rest ih =>
    have hstep : c.writeSteps E (x :: rest) = (c.writeStep E x).writeSteps E rest := rfl
    rw [hstep, ih, show c.writeStep E x = { c with vregs := (c.writeStep E x).vregs } from c.writeVec_eq _ _ _ _ _]

@[simp] theorem Crew.writeStep_lanes (E : Mask) (c : Crew) (x : StepWrite) : (c.writeStep E x).lanes = c.lanes := by
  rw [show c.writeStep E x = { c with vregs := (c.writeStep E x).vregs } from c.writeVec_eq _ _ _ _ _]

theorem onlyVectors_writeSteps (E : Mask) {xs : List StepWrite} (hfits : ∀ x, x ∈ xs → x.fits) (c : Crew) :
    OnlyVectors c (c.writeSteps E xs) (xs.flatMap StepWrite.regs) := by
  induction xs generalizing c with
  | nil => exact OnlyVectors.refl c []
  | cons x rest ih =>
    obtain ⟨hx, hrest⟩ := List.forall_mem_cons.1 hfits
    exact (onlyVectors_writeVec hx.1 E x.val x.tag).trans (ih hrest (c.writeStep E x))

/-- Where no later step writes a register of an earlier one, every step's values stand at the end (R117). -/
theorem laneValues_writeSteps (E : Mask) {xs : List StepWrite} (hfits : ∀ x, x ∈ xs → x.fits)
    (hapart : xs.Pairwise fun x y => ∀ q, q ∈ x.regs → q ∉ y.regs) (c : Crew) {x : StepWrite} (hx : x ∈ xs) :
    LaneValues c (c.writeSteps E xs) E x.reg x.pair x.tag x.val fun _ => false := by
  induction xs generalizing c with
  | nil => exact absurd hx List.not_mem_nil
  | cons y rest ih =>
    obtain ⟨hy, hrest⟩ := List.forall_mem_cons.1 hfits
    obtain ⟨hfirst, hlater⟩ := List.pairwise_cons.1 hapart
    have head := laneValues_writeVec (c := c) hy.1 E y.val y.tag hy.2
    rcases List.mem_cons.1 hx with rfl | hmem
    · refine head.congr rfl (fun _ _ => rfl) fun q hq => ?_
      refine onlyVectors_writeSteps E hrest (c.writeStep E x) q (hy.1 q hq) fun hw => ?_
      obtain ⟨z, hz, hqz⟩ := List.mem_flatMap.1 hw
      exact hfirst z hz q hq hqz
    · refine (ih hrest hlater (c.writeStep E y) hmem).congr (Crew.writeStep_lanes E c y) (fun q hq => ?_) fun _ _ => rfl
      exact onlyVectors_writeVec hy.1 E y.val y.tag q ((hrest x hmem).1 q hq) fun hqy => hfirst x hmem q hqy hq

end Sys2Proof.Machine
end

section
/-! LEMMAS. Elements of a lane: what packing puts at each place, the types that tags and etys name, and the fit of an exact integer
(R58 to R60, R73 to R75). -/

namespace Sys2Proof.Machine

/-! ## Packing (R59) -/

theorem elemOf_packElems (w : Nat) {xs : List Nat} {e : Nat} (he : e < xs.length) : elemOf w (packElems w xs) e = xs[e] % 2 ^ w := by
  induction xs generalizing e with
  | nil => exact absurd he (Nat.not_lt_zero e)
  | cons x rest ih =>
    have hlow : x % 2 ^ w < 2 ^ w := Nat.mod_lt _ (Nat.two_pow_pos w)
    cases e with
    | zero => simp [elemOf, packElems]
    | succ e =>
      rw [List.getElem_cons_succ, ← ih (Nat.lt_of_succ_lt_succ he), elemOf, elemOf, packElems, Nat.mul_succ, Nat.add_comm (w * e),
        Nat.pow_add, ← Nat.div_div_eq_div_mul, Nat.add_mul_div_left _ _ (Nat.two_pow_pos w), Nat.div_eq_of_lt hlow, Nat.zero_add]

theorem packElems_lt (w : Nat) (xs : List Nat) : packElems w xs < 2 ^ (w * xs.length) := by
  induction xs with
  | nil => simp [packElems]
  | cons x rest ih =>
    have hlow : x % 2 ^ w < 2 ^ w := Nat.mod_lt _ (Nat.two_pow_pos w)
    rw [packElems, List.length_cons, Nat.mul_succ, Nat.add_comm (w * _), Nat.pow_add]
    calc x % 2 ^ w + 2 ^ w * packElems w rest < 2 ^ w * (packElems w rest + 1) := by rw [Nat.mul_succ]; omega
      _ ≤ 2 ^ w * 2 ^ (w * rest.length) := Nat.mul_le_mul_left _ ih

theorem elemOf_laneMap (w : Nat) {p e : Nat} (he : e < p) (f : Nat → Nat) : elemOf w (laneMap w p f) e = f e % 2 ^ w := by
  rw [laneMap, elemOf_packElems w (by simpa using he)]
  simp

theorem laneMap_lt (w p : Nat) (f : Nat → Nat) : laneMap w p f < 2 ^ (w * p) := by
  simpa [laneMap] using packElems_lt w ((List.range p).map f)

/-- Only the low bits of the elements count. -/
theorem laneMap_congr {w p : Nat} {f g : Nat → Nat} (h : ∀ e, e < p → f e % 2 ^ w = g e % 2 ^ w) : laneMap w p f = laneMap w p g := by
  have hpack : ∀ es : List Nat, (∀ e, e ∈ es → e < p) → packElems w (es.map f) = packElems w (es.map g) := fun es => by
    induction es with
    | nil => exact fun _ => rfl
    | cons e rest ih =>
      intro hes
      obtain ⟨he, hrest⟩ := List.forall_mem_cons.1 hes
      simp only [List.map_cons, packElems, h e he, ih hrest]
  exact hpack _ fun e he => List.mem_range.1 he

theorem elemOf_lt (w x e : Nat) : elemOf w x e < 2 ^ w := Nat.mod_lt _ (Nat.two_pow_pos w)

/-! ## Types (R58, R73, R74) -/

/-- The types that a tag or an ety may name. -/
def ElemTy.legal : ElemTy → Prop
  | .sint w => w = 8 ∨ w = 16 ∨ w = 32 ∨ w = 64
  | .uint w => w = 8 ∨ w = 16 ∨ w = 32 ∨ w = 64
  | .ieee c => c ≤ 3
  | .narrow8 _ => True
  | .narrow4 _ => True

/-- 8 times a power of two, up to 64. -/
theorem integer_width {k : Nat} (hk : k ≤ 3) : 8 * 2 ^ k = 8 ∨ 8 * 2 ^ k = 16 ∨ 8 * 2 ^ k = 32 ∨ 8 * 2 ^ k = 64 := by
  interval_cases k <;> decide

theorem ElemTy.legal_of_class {cls code : Nat} {t : ElemTy} (h : typeOfClass cls code = some t) : t.legal := by
  unfold typeOfClass at h
  simp only [Bool.and_eq_true, decide_eq_true_eq] at h
  split at h
  case isTrue hc => exact Option.some.inj h ▸ integer_width hc.2
  split at h
  case isTrue hc => exact Option.some.inj h ▸ integer_width hc.2
  split at h
  case isTrue hc => exact Option.some.inj h ▸ hc.2
  split at h
  case isTrue => exact Option.some.inj h ▸ trivial
  split at h
  case isTrue => exact Option.some.inj h ▸ trivial
  exact absurd h (by simp)

theorem ElemTy.legal_of_tag {tag : BitVec 8} {t : ElemTy} (h : tagType tag = some t) : t.legal := ElemTy.legal_of_class h

theorem ElemTy.legal_of_ety {ety : BitVec 4} {fm : Nat} {t : ElemTy} (h : etyType ety fm = some t) : t.legal := by
  unfold etyType at h
  simp only [Bool.and_eq_true, decide_eq_true_eq] at h
  split at h
  case isTrue => exact Option.some.inj h ▸ integer_width (by omega)
  split at h
  case isTrue => exact Option.some.inj h ▸ integer_width (by omega)
  split at h
  case isTrue =>
    have hcode : ety.toNat - 9 ≤ 3 := by omega
    exact Option.some.inj h ▸ hcode
  split at h
  case isTrue => exact Option.some.inj h ▸ trivial
  split at h
  case isTrue => exact Option.some.inj h ▸ trivial
  exact absurd h (by simp)

/-- The elements of a lane fill its word, or its pair (R59). -/
theorem ElemTy.width_mul_perLane {t : ElemTy} (h : t.legal) : t.width * t.perLane = if t.is64 then 64 else 32 := by
  cases t with
  | sint w => rcases h with rfl | rfl | rfl | rfl <;> rfl
  | uint w => rcases h with rfl | rfl | rfl | rfl <;> rfl
  | ieee c =>
    have hc : c ≤ 3 := h
    interval_cases c <;> rfl
  | narrow8 i => simp [ElemTy.width, ElemTy.perLane, ElemTy.is64]
  | narrow4 i => simp [ElemTy.width, ElemTy.perLane, ElemTy.is64]

theorem laneMap_fits {t : ElemTy} (h : t.legal) (f : Nat → Nat) : laneMap t.width t.perLane f < 2 ^ (if t.is64 then 64 else 32) := by
  rw [← ElemTy.width_mul_perLane h]
  exact laneMap_lt _ _ f

/-- A pair's type by its tag, and by its ety. -/
theorem tagIs64_of_type {tag : BitVec 8} {t : ElemTy} (h : tagType tag = some t) : tagIs64 tag = t.is64 := by
  rw [tagIs64, h]
  rfl

theorem ety64_of_type {ety : BitVec 4} {fm : Nat} {t : ElemTy} (h : etyType ety fm = some t) : ety64 ety = t.is64 := by
  have hall : ∀ n, n < 16 → (etyType (BitVec.ofNat 4 n) fm).all (fun t => ety64 (BitVec.ofNat 4 n) == t.is64) = true := fun n hn => by
    interval_cases n <;> rfl
  have hety := hall ety.toNat ety.isLt
  rw [BitVec.ofNat_toNat, BitVec.setWidth_eq, h] at hety
  exact beq_iff_eq.1 hety

/-! ## Elements written (R59, R77) -/

/-- Lane values packed from elements are elements. -/
theorem LaneValues.elements {c c' : Crew} {E : Mask} {r : Nat} {t : ElemTy} {f : Nat → Nat → Nat}
    (h : LaneValues c c' E r t.is64 t.tag (fun l => laneMap t.width t.perLane (f l)) fun _ => false) : LaneElements c c' E r t f := by
  obtain ⟨hvalue, hreg⟩ := h
  refine ⟨fun l e hl he => ?_, fun q hq => ?_⟩
  · rw [Crew.element, hvalue l hl, Crew.element]
    split
    · exact elemOf_laneMap t.width he _
    · rfl
  · obtain ⟨htag, hmark⟩ := hreg q hq
    refine ⟨htag, fun l hl => ?_⟩
    rw [hmark l hl]
    cases E.getLsbD l <;> rfl

end Sys2Proof.Machine
end

section
/-! LEMMAS. The checks of vector operands: what passes them, and what a check that passes says (R75, R113, R352, R405). -/

namespace Sys2Proof.Machine

/-! ## Checks that pass -/

theorem checkReserved_ok {pos : Nat} {tag : BitVec 8} (h : tagReserved false tag = false) : checkReserved pos tag = .ok () := by
  simp [checkReserved, h]

theorem needEven_ok {pair : Bool} {r : Nat} (h : pair = true → r % 2 = 0) : needEven pair r = .ok () := by
  unfold needEven
  cases pair
  · rfl
  · simp [h rfl]

theorem checkResult_ok {fms : Vector (BitVec 32) 16} {t : ElemTy} (h : t.widMismatch fms = false) : checkResult fms t = .ok () := by
  simp [checkResult, h]

/-- A source without a marked word in an active lane (R113, R352). -/
theorem Source.consume_ok {x : Source} {n : Nat} {E : Mask}
    (h : ∀ l, l < n → E.getLsbD l = true → x.marks.getLsbD l = false) : x.consume n E = .ok () := by
  have none : lanesOf n (x.marks &&& E) = [] := by
    simp only [lanesOf, List.filter_eq_nil_iff, List.mem_range, BitVec.getLsbD_and, Bool.and_eq_true, not_and, Bool.not_eq_true]
    intro l hl hmark
    by_contra hE
    exact absurd (h l hl (by simpa using hE)) (by simp [hmark])
  simp [Source.consume, none]

theorem marks_source (c : Crew) (r : Nat) (pair : Bool) (l : Nat) :
    (c.source r pair).marks.getLsbD l = true ↔ ∃ q, q ∈ regsOf r pair ∧ (c.vreg q).marks.getLsbD l = true := by
  cases pair <;> simp [Crew.source, regsOf]

theorem consume_source {c : Crew} {E : Mask} {r : Nat} {pair : Bool} (h : Unmarked c E r pair) :
    (c.source r pair).consume c.lanes E = .ok () :=
  Source.consume_ok fun l hl hE => by
    by_contra hmark
    obtain ⟨q, hq, hmarked⟩ := (marks_source c r pair l).1 (by simpa using hmark)
    exact absurd (h q l hq hl hE) (by simp [hmarked])

/-- The marks of lanes that are read speak of the registers alone. -/
theorem Unmarked.congr {c c' : Crew} {E : Mask} {r : Nat} {pair : Bool} (h : Unmarked c E r pair) (hlanes : c'.lanes = c.lanes)
    (hregs : ∀ q, q ∈ regsOf r pair → c'.vreg q = c.vreg q) : Unmarked c' E r pair := fun q l hq hl hE => by
  rw [hregs q hq]
  exact h q l hq (hlanes ▸ hl) hE

/-! ## What a passed check of the first source says (R75) -/

theorem tagFault_else_eq_ok {α : Type} {b : Bool} {kind pos : Nat} {tag : BitVec 8} {x : Eff α} {y : α} :
    (if b = true then tagFault kind pos tag else x) = .ok y ↔ b = false ∧ x = .ok y := by
  cases b <;> simp [tagFault, raise]

theorem tagFault_ne_ok {α : Type} {kind pos : Nat} {tag : BitVec 8} {y : α} : (tagFault kind pos tag : Eff α) ≠ .ok y := nofun

section
variable {fms : Vector (BitVec 32) 16} {ety : BitVec 4} {accept : ElemTy → Bool} {pos : Nat} {tag : BitVec 8} {t u : ElemTy}

/-- An ety other than 0 names this type, under 13 and 14 by its class alone. -/
def namesType (ety : BitVec 4) (t : ElemTy) : Prop :=
  ety ≠ 0 → if ety = 13 ∨ ety = 14 then t.cls = ety.toNat - 9 else etyType ety 0 = some t

theorem firstType_raw_iff (h : tagType tag = none) : firstType fms ety accept pos tag = .ok t ↔
    tagReserved false tag = false ∧ (ety ≠ 0 ∧ ety ≠ 13 ∧ ety ≠ 14) ∧ etyType ety 0 = some t := by
  simp only [firstType, h, tagFault_else_eq_ok, Bool.or_eq_false_iff, decide_eq_false_iff_not, and_assoc, ne_eq]
  cases etyType ety 0 <;> simp [tagFault_ne_ok]

theorem firstType_typed_iff (h : tagType tag = some u) : firstType fms ety accept pos tag = .ok t ↔
    tagReserved false tag = false ∧ u.widMismatch fms = false ∧ namesType ety u ∧ (ety = 0 → accept u = true) ∧
      tagScaled tag = false ∧ u = t := by
  have hnames : (ety != 0 && (if ety = 13 || ety = 14 then u.cls != ety.toNat - 9 else some u != etyType ety 0)) = false ↔
      namesType ety u := by
    unfold namesType
    by_cases h0 : ety = 0
    · simp [h0]
    · by_cases hnarrow : ety = 13 ∨ ety = 14
      · simp only [Bool.and_eq_false_iff, bne_eq_false_iff_eq, h0, false_or, Bool.or_eq_true, decide_eq_true_eq, hnarrow, if_true, ne_eq,
          not_false_eq_true, true_implies]
      · simp only [Bool.and_eq_false_iff, bne_eq_false_iff_eq, h0, false_or, Bool.or_eq_true, decide_eq_true_eq, hnarrow, if_false, ne_eq,
          not_false_eq_true, true_implies]
        exact eq_comm
  have haccept : (decide (ety = 0) && !accept u) = false ↔ (ety = 0 → accept u = true) := by
    by_cases h0 : ety = 0
    · simp only [h0, decide_true, Bool.true_and, Bool.not_eq_false', true_implies]
    · simp only [h0, decide_false, Bool.false_and, false_implies]
  simp only [firstType, h, tagFault_else_eq_ok, hnames, haccept, Except.ok.injEq]

end

section
variable {fms : Vector (BitVec 32) 16} {ety : BitVec 4} {accept : ElemTy → Bool} {pos : Nat} {tag : BitVec 8} {t : ElemTy}
  (h : firstType fms ety accept pos tag = .ok t)
include h

/-- The type of a word is its first source's, or for raw bits its ety's. -/
theorem firstType_cases : (tagType tag = none ∧ (ety ≠ 0 ∧ ety ≠ 13 ∧ ety ≠ 14) ∧ etyType ety 0 = some t) ∨
    (tagType tag = some t ∧ namesType ety t) := by
  cases htype : tagType tag with
  | none => exact .inl ⟨rfl, ((firstType_raw_iff htype).1 h).2⟩
  | some u =>
    obtain ⟨-, -, hnames, -, -, rfl⟩ := (firstType_typed_iff htype).1 h
    exact .inr ⟨rfl, hnames⟩

theorem firstType_legal : t.legal := by
  rcases firstType_cases h with ⟨-, -, hname⟩ | ⟨htype, -⟩
  · exact ElemTy.legal_of_ety hname
  · exact ElemTy.legal_of_tag htype

/-- A word that takes the type passes the check, wherever its source stands. -/
theorem firstType_of_accepted {accept' : ElemTy → Bool} (ha : accept' t = true) (pos' : Nat) :
    firstType fms ety accept' pos' tag = .ok t := by
  cases htype : tagType tag with
  | none => exact (firstType_raw_iff htype).2 ((firstType_raw_iff htype).1 h)
  | some u =>
    obtain ⟨hreserved, hwid, hnames, -, hscaled, rfl⟩ := (firstType_typed_iff htype).1 h
    exact (firstType_typed_iff htype).2 ⟨hreserved, hwid, hnames, fun _ => ha, hscaled, rfl⟩

/-- The type that the steps run on. -/
theorem sourceType_first : sourceType ((etyType ety 0).getD (.uint 32)) tag = t := by
  rcases firstType_cases h with ⟨htype, -, hname⟩ | ⟨htype, -⟩
  · rw [sourceType, htype, hname]
    rfl
  · rw [sourceType, htype]
    rfl

/-- The pairs of a word are those of its type (R113). -/
theorem pair_first : (if ety = 0 then tagIs64 tag else ety64 ety) = t.is64 := by
  rcases firstType_cases h with ⟨-, hety, hname⟩ | ⟨htype, hnames⟩
  · rw [if_neg hety.1, ety64_of_type hname]
  · split
    case isTrue => exact tagIs64_of_type htype
    case isFalse h0 =>
      have hname := hnames h0
      split at hname
      case isTrue hnarrow =>
        have hety : ety64 ety = false ∧ 4 ≤ ety.toNat - 9 := by rcases hnarrow with rfl | rfl <;> decide
        have hsmall : t.is64 = false := by
          rw [← hname] at hety
          cases t with
          | narrow8 i => simp [ElemTy.is64, ElemTy.width]
          | narrow4 i => simp [ElemTy.is64, ElemTy.width]
          | sint w => exact absurd hety.2 (by simp [ElemTy.cls])
          | uint w => exact absurd hety.2 (by simp [ElemTy.cls])
          | ieee k => exact absurd hety.2 (by simp [ElemTy.cls])
        rw [hsmall, hety.1]
      case isFalse => exact ety64_of_type hname

/-- A word on integers has no ety of a narrow float. -/
theorem not_narrow_of_int (hint : t.isInt = true) : ety ≠ 13 ∧ ety ≠ 14 := by
  rcases firstType_cases h with ⟨-, hety, -⟩ | ⟨-, hnames⟩
  · exact hety.2
  · have hcls : t.cls ≤ 2 := by
      cases t with
      | sint w => exact Nat.le_succ 1
      | uint w => exact Nat.le_refl 2
      | ieee k => exact absurd hint (by simp [ElemTy.isInt])
      | narrow8 i => exact absurd hint (by simp [ElemTy.isInt])
      | narrow4 i => exact absurd hint (by simp [ElemTy.isInt])
    refine ⟨?_, ?_⟩
    · rintro rfl
      have hfloat : t.cls = 4 := hnames (by decide)
      omega
    · rintro rfl
      have hfloat : t.cls = 5 := hnames (by decide)
      omega

end

/-- Another source of a word on integers has the word's type (R75). -/
theorem sourceType_int {fms : Vector (BitVec 32) 16} {ety : BitVec 4} {want : ElemTy} {pos : Nat} {tag : BitVec 8}
    (h : checkTyped fms ety want pos tag = .ok ()) (hety : ety ≠ 13 ∧ ety ≠ 14) : sourceType want tag = want := by
  cases htype : tagType tag with
  | none => rw [sourceType, htype]; rfl
  | some u =>
    have hne : (u != want) = false := by
      simp only [checkTyped, htype, hety.1, hety.2, decide_false, Bool.or_self, Bool.false_eq_true, if_false, tagFault_else_eq_ok] at h
      exact h.2.2.1
    rw [sourceType, htype, Option.getD_some]
    simpa using hne

/-- The immediate forms take a source whose tag names an integer type (R138). -/
theorem firstType_typed {c : Crew} {r : Nat} {t : ElemTy} (h : Typed c r t) (hint : t.isInt = true) (pos : Nat) :
    firstType c.fmts 0 acceptI pos (c.vreg r).tag = .ok t := by
  obtain ⟨htag, htype, hwid, hreserved⟩ := h
  have hscaled : tagScaled t.tag = false := by
    have hlegal := ElemTy.legal_of_tag htype
    cases t with
    | sint w => rcases hlegal with rfl | rfl | rfl | rfl <;> decide
    | uint w => rcases hlegal with rfl | rfl | rfl | rfl <;> decide
    | ieee c => exact absurd hint (by simp [ElemTy.isInt])
    | narrow8 i => exact absurd hint (by simp [ElemTy.isInt])
    | narrow4 i => exact absurd hint (by simp [ElemTy.isInt])
  rw [htag]
  exact (firstType_typed_iff htype).2 ⟨hreserved, hwid, fun h0 => absurd rfl h0, fun _ => hint, hscaled, rfl⟩

end Sys2Proof.Machine
end

section
/-! LEMMAS. Vector words that write one register, a pair, or one register after another: from the state they end in to what they leave
(R113, R117). -/

namespace Sys2Proof.Machine

/-- A vector word that ends in the crew b, from the state in which its endpoints have given and taken their rows. -/
theorem runsOn_of_finish {i : Instr} {s base : State} {c b : Crew} {reads writes : List Nat} (h : base.crewAt base.cur = some c)
    (hb : b.place = c.place) (he : exec i s = .next (base.finishVec b reads writes)) :
    RunsOn i s (base.spillTurn c (b.afterVec reads writes)) (b.afterVec reads writes) :=
  ⟨_, he, crewAndCore_finishVec h hb reads writes⟩

section
variable {i : Instr} {s base : State} {c : Crew} {E : Mask} {reads writes : List Nat}

/-- A word that ends with its registers written, from the state in which its endpoints have given their rows. -/
theorem runsOn_writeSteps {xs : List StepWrite} (h : base.crewAt base.cur = some c) (hfits : ∀ x, x ∈ xs → x.fits)
    (hapart : xs.Pairwise fun x y => ∀ q, q ∈ x.regs → q ∉ y.regs)
    (he : exec i s = .next (base.finishVec (c.writeSteps E xs) reads writes)) :
    ∃ c', RunsOn i s (base.spillTurn c c') c' ∧ VectorCrew c c' ∧ OnlyVectors c c' (xs.flatMap StepWrite.regs) ∧
      ∀ x, x ∈ xs → LaneValues c c' E x.reg x.pair x.tag x.val fun _ => false := by
  have hcrew := c.writeSteps_eq E xs
  have hvregs := (c.writeSteps E xs).afterVec_vregs reads writes
  refine ⟨(c.writeSteps E xs).afterVec reads writes, runsOn_of_finish h (by rw [hcrew]) he,
    (vectorCrew_afterVec _ reads writes).of_vregs hcrew, (onlyVectors_writeSteps E hfits c).congr hvregs, fun x hx => ?_⟩
  exact (laneValues_writeSteps E hfits hapart c hx).congr rfl (fun _ _ => rfl) fun q _ => Crew.vreg_congr hvregs q

theorem vectorResult_writeSteps {xs : List StepWrite} (h : s.crewAt s.cur = some c) (hfits : ∀ x, x ∈ xs → x.fits)
    (hapart : xs.Pairwise fun x y => ∀ q, q ∈ x.regs → q ∉ y.regs)
    (he : exec i s = .next (s.finishVec (c.writeSteps E xs) reads writes)) :
    ∃ c', VectorResult i s c c' ∧ OnlyVectors c c' (xs.flatMap StepWrite.regs) ∧
      ∀ x, x ∈ xs → LaneValues c c' E x.reg x.pair x.tag x.val fun _ => false := by
  obtain ⟨c', ⟨t, ht, hframe⟩, hcrew, hrest⟩ := runsOn_writeSteps h hfits hapart he
  exact ⟨c', ⟨t, ht, hframe, hcrew⟩, hrest⟩

variable {r : BitVec 8} {pair : Bool} {f : Nat → Nat} {tag : BitVec 8}

/-- A word that writes one register, or one even pair. -/
theorem runsOn_write (h : base.crewAt base.cur = some c) (even : pair = true → r.toNat % 2 = 0) (hf : ∀ l, f l < 2 ^ (if pair then 64 else 32))
    (he : exec i s = .next (base.finishVec (c.writeVec r.toNat pair E f tag) reads writes)) :
    ∃ c', RunsOn i s (base.spillTurn c c') c' ∧ VectorCrew c c' ∧ OnlyVectors c c' (regsOf r.toNat pair) ∧
      LaneValues c c' E r.toNat pair tag f fun _ => false := by
  have hfits : StepWrite.fits ⟨r.toNat, pair, f, tag⟩ := ⟨fun q => regsOf_lt r.isLt even, hf⟩
  obtain ⟨c', hruns, hcrew, honly, hvalues⟩ := runsOn_writeSteps (xs := [⟨r.toNat, pair, f, tag⟩]) h
    (List.forall_mem_singleton.2 hfits) (List.pairwise_singleton _ _) he
  rw [List.flatMap_singleton] at honly
  exact ⟨c', hruns, hcrew, honly, hvalues _ (List.mem_singleton.2 rfl)⟩

theorem vectorResult_write (h : s.crewAt s.cur = some c) (even : pair = true → r.toNat % 2 = 0)
    (hf : ∀ l, f l < 2 ^ (if pair then 64 else 32))
    (he : exec i s = .next (s.finishVec (c.writeVec r.toNat pair E f tag) reads writes)) :
    ∃ c', VectorResult i s c c' ∧ OnlyVectors c c' (regsOf r.toNat pair) ∧ LaneValues c c' E r.toNat pair tag f fun _ => false := by
  obtain ⟨c', ⟨t, ht, hframe⟩, hcrew, hrest⟩ := runsOn_write h even hf he
  exact ⟨c', ⟨t, ht, hframe, hcrew⟩, hrest⟩

/-- The same for a word that writes elements. -/
theorem vectorResult_elements {t : ElemTy} {g : Nat → Nat → Nat} (h : s.crewAt s.cur = some c) (ht : t.legal)
    (even : t.is64 = true → r.toNat % 2 = 0)
    (he : exec i s = .next (s.finishVec (c.writeVec r.toNat t.is64 E (fun l => laneMap t.width t.perLane (g l)) t.tag) reads writes)) :
    ∃ c', VectorResult i s c c' ∧ OnlyVectors c c' (regsOf r.toNat t.is64) ∧ LaneElements c c' E r.toNat t g := by
  obtain ⟨c', hresult, honly, hvalues⟩ := vectorResult_write h even (fun l => laneMap_fits ht (g l)) he
  exact ⟨c', hresult, honly, hvalues.elements⟩

/-- Only the low bits of the elements count. -/
theorem LaneElements.congr {c' : Crew} {r : Nat} {t : ElemTy} {g k : Nat → Nat → Nat} (h : LaneElements c c' E r t g)
    (hgk : ∀ l e, g l e % 2 ^ t.width = k l e % 2 ^ t.width) : LaneElements c c' E r t k :=
  ⟨fun l e hl he => by rw [← hgk]; exact h.1 l e hl he, h.2⟩

theorem Crew.laneValue_lt (c : Crew) (r : Nat) (pair : Bool) (l : Nat) : c.laneValue r pair l < 2 ^ (if pair then 64 else 32) := by
  have low := ((c.vreg r).word l).isLt
  cases pair with
  | false => exact low
  | true =>
    have high := ((c.vreg (r + 1)).word l).isLt
    simp only [Crew.laneValue, if_true]
    omega

end

end Sys2Proof.Machine
end

section
/-! LEMMAS. Exact integers fitted to a type, and shifts, as the statements write them (R60, R121). -/

namespace Sys2Proof.Machine

theorem fitInt_eq_fitted (signed : Bool) (w : Nat) (sat : BitVec 1) (v : Int) : fitInt signed w (sat = 1) v = fitted w signed sat v := by
  unfold fitInt fitted wrapInt
  simp only [decide_eq_true_eq]
  cases signed <;> rfl

theorem wrapInt_eq_fitted (signed : Bool) (w : Nat) (v : Int) : wrapInt w v = fitted w signed 0 v := rfl

/-- What a code reads as differs from it by a multiple of the type's size. -/
theorem intOf_emod (signed : Bool) (w x : Nat) : intOf signed w x % 2 ^ w = (x : Int) % 2 ^ w := by
  unfold intOf
  simp only
  split
  · rw [Int.sub_emod_right]
    push_cast
    exact Int.emod_emod_of_dvd _ (dvd_refl _)
  · push_cast
    exact Int.emod_emod_of_dvd _ (dvd_refl _)

/-- A code is the wrapped value of what it reads as. -/
theorem wrapInt_intOf (signed : Bool) (w x : Nat) : wrapInt w (intOf signed w x) = x % 2 ^ w := by
  rw [wrapInt, intOf_emod, ← Int.toNat_natCast (x % 2 ^ w)]
  push_cast
  rfl

/-- A sum wraps alike whether a code or what it reads as is added to. -/
theorem fitted_wrapped (signed : Bool) (w x : Nat) (v : Int) : wrapInt w (x + v) = fitted w signed 0 (intOf signed w x + v) := by
  rw [wrapInt_eq_fitted signed, fitted, fitted, if_neg (by decide), if_neg (by decide), Int.add_emod, ← intOf_emod signed,
    ← Int.add_emod]

theorem shlElem_mod (w x n : Nat) : shlElem w x n % 2 ^ w = (if w ≤ n then 0 else x * 2 ^ n) % 2 ^ w := by
  unfold shlElem
  split
  · rfl
  · rw [Nat.mod_mod]

theorem immShift_eq (w : ImmForm) : immShift w = w.imm.toNat % 64 := by
  rw [immShift, BitVec.extractLsb'_toNat, Nat.shiftRight_zero]

end Sys2Proof.Machine
end

section
/-! LEMMAS. Vector selections, moves, broadcasts, lane numbers and immediates (R124, R127, R138). -/

namespace Sys2Proof.Machine

/-! ## Moves (R124, R127) -/

theorem eff_ok_bind {α β : Type} (x : α) (f : α → Eff β) : ((.ok x : Eff α) >>= f) = f x := rfl

theorem and_not_zero (E : Mask) : E &&& ~~~(0 : Mask) = E := by
  exact (congrArg (E &&& ·) BitVec.not_zero).trans BitVec.and_allOnes

section
variable {w : RegForm} {s : State} {c : Crew} (h : s.crewAt s.cur = some c)
include h

theorem exec_vsel {pair : Bool} (hpair : tagIs64 (c.vreg w.a.toNat).tag = pair)
    (hra : tagReserved false (c.vreg w.a.toNat).tag = false) (hrb : tagReserved false (c.vreg w.b.toNat).tag = false)
    (even : pair = true → w.d.toNat % 2 = 0 ∧ w.a.toNat % 2 = 0 ∧ w.b.toNat % 2 = 0)
    (ha : Unmarked c (guardSet w.guard c) w.a.toNat pair) (hb : Unmarked c (guardSet w.guard c) w.b.toNat pair) :
    exec (.vsel w) s = .next (s.finishVec (c.writeVec w.d.toNat pair (guardSet w.guard c)
      (fun l => if (c.mask w.c).getLsbD l then c.laneValue w.a.toNat pair l else c.laneValue w.b.toNat pair l) (c.vreg w.a.toNat).tag)
      (regsOf w.a.toNat pair ++ regsOf w.b.toNat pair) (regsOf w.d.toNat pair)) := by
  refine (anyInstr_run h _).trans (runBody_ok ?_)
  simp only [hpair, checkReserved_ok hra, checkReserved_ok hrb, needEven_ok fun p => (even p).1, needEven_ok fun p => (even p).2.1,
    needEven_ok fun p => (even p).2.2, consume_source ha, consume_source hb]
  rfl

omit h in
theorem etyType_eq_none {ety : BitVec 4} {fm : Nat} (hname : etyType ety fm = none) : ety = 0 ∨ ety = 15 := by
  have hall : ∀ n, n < 16 → (etyType (BitVec.ofNat 4 n) fm).isSome = (n != 0 && n != 15) := fun n hn => by
    interval_cases n <;> rfl
  have hety := hall ety.toNat ety.isLt
  rw [BitVec.ofNat_toNat, BitVec.setWidth_eq, hname] at hety
  rw [← BitVec.toNat_inj, ← BitVec.toNat_inj]
  simp at hety
  simp
  omega

omit h in
/-- The tag that a move between registers writes. -/
theorem movTag_eq {ta tag : BitVec 8} (hsame : w.ety = 0 → tag = ta)
    (hnamed : ∀ t, etyType w.ety (w.c.toNat - 0x90) = some t → tag = t.tag ||| (if w.fn.getLsbD 0 then 0x80 else 0))
    (h15 : w.ety ≠ 15) : movTag w ta = tag := by
  have hop : (fnOP w).getLsbD 0 = w.fn.getLsbD 0 := by simp [fnOP]
  unfold movTag
  cases hname : etyType w.ety (w.c.toNat - 0x90) with
  | some t => rw [hnamed t hname, hop]
  | none => exact (hsame ((etyType_eq_none hname).resolve_right h15)).symm

theorem exec_vmov {moved : Bool} {tag : BitVec 8} (hqa : fnQA w = false) (hqd : fnQD w = false)
    (hmoved : (if w.ety = 0 then tagIs64 (c.vreg w.a.toNat).tag else ety64 w.ety) = moved)
    (htag : movTag w (c.vreg w.a.toNat).tag = tag) (hra : tagReserved false (c.vreg w.a.toNat).tag = false)
    (even : moved = true → w.d.toNat % 2 = 0 ∧ w.a.toNat % 2 = 0) (ha : Unmarked c (guardSet w.guard c) w.a.toNat moved) :
    exec (.vmov w) s = .next (s.finishVec (c.writeVec w.d.toNat moved (guardSet w.guard c) (c.laneValue w.a.toNat moved) tag)
      (regsOf w.a.toNat moved) (regsOf w.d.toNat moved)) := by
  refine (anyInstr_run h _).trans (runBody_ok ?_)
  have hsource : s.sourceA w c moved = .ok (c.source w.a.toNat moved, s) := by
    rw [State.sourceA, hqa]
    rfl
  have hroom : s.roomD w c = .ok () := by
    rw [State.roomD, hqd]
    rfl
  have hresult : ∀ E f rs, s.resultD w c moved E f tag rs =
      s.finishVec (c.writeVec w.d.toNat moved E f tag) rs (regsOf w.d.toNat moved) := fun E f rs => by
    rw [State.resultD, hqd]
    rfl
  have hsourceTag : (c.source w.a.toNat moved).tag = (c.vreg w.a.toNat).tag := rfl
  have hvoid : (c.source w.a.toNat moved).void = 0 := rfl
  simp only [hmoved, hsource, eff_ok_bind, hroom, hqa, hqd, hsourceTag, Bool.or_self, Bool.and_false, Bool.false_eq_true, if_false,
    checkReserved_ok hra, needEven_ok fun p => (even p).1, needEven_ok fun p => (even p).2, hvoid, consume_source ha, htag, hresult, and_not_zero]
  rfl

end

theorem vectorMoves : VectorMoves := by
  intro w s c h E ta pair moved
  refine ⟨fun hra hrb even ha hb => ?_, fun hqa hqd hra even ha tag hsame hnamed h15 => ?_, fun t hname hwid even => ?_, ?_, fun v => ?_⟩
  · refine vectorResult_write h (fun p => (even p).1) (fun l => ?_) (exec_vsel h rfl hra hrb even ha hb)
    split
    · exact c.laneValue_lt _ _ l
    · exact c.laneValue_lt _ _ l
  · exact vectorResult_write h (fun p => (even p).1) (c.laneValue_lt _ _)
      (exec_vmov h hqa hqd rfl (movTag_eq hsame hnamed h15) hra even ha)
  · have hdest : destType w = t := by rw [destType, hname]; rfl
    have he : exec (.vbcast w) s = .next (s.finishVec (c.writeVec w.d.toNat t.is64 E
        (fun _ => laneMap t.width t.perLane fun _ => (c.sreg w.a).toNat % 2 ^ t.width) t.tag) [] (regsOf w.d.toNat t.is64)) := by
      refine (anyInstr_run h _).trans (runBody_ok ?_)
      simp only [hdest, checkResult_ok hwid]
      rfl
    obtain ⟨c', hresult, honly, hvalues⟩ := vectorResult_elements h (ElemTy.legal_of_ety hname) even he
    exact ⟨c', hresult, honly, hvalues.congr fun _ _ => Nat.mod_mod _ _⟩
  · exact vectorResult_write (pair := false) h (fun p => absurd p (by decide)) (fun l => Nat.mod_lt _ (by decide))
      ((anyInstr_run h _).trans (runBody_ok rfl))
  · have himm : (v.imm.signExtend 32).toNat = (v.imm.toInt % 2 ^ 32).toNat := BitVec.toNat_ofInt _
    have he : exec (.vli v) s = .next (s.finishVec (c.writeVec v.d.toNat false (guardSet v.guard c)
        (fun _ => (v.imm.toInt % 2 ^ 32).toNat) 0) [] [v.d.toNat]) := by
      rw [← himm]
      exact (anyInstr_run h _).trans (runBody_ok rfl)
    exact vectorResult_write (pair := false) h (fun p => absurd p (by decide)) (fun l => by rw [← himm]; exact BitVec.isLt _) he

/-! ## Immediate forms (R138) -/

/-- An immediate form on the elements of an integer type. -/
theorem vectorResult_immediate {i : Instr} {w : ImmForm} {s : State} {c : Crew} {t : ElemTy} {f : ElemTy → Nat → Nat} {g : Nat → Nat}
    (hi : exec i s = vecImm w s f) (h : s.crewAt s.cur = some c) (hint : t.isInt = true) (htyped : Typed c w.a.toNat t)
    (hclean : Unmarked c (guardSet w.guard c) w.a.toNat t.is64) (even : t.is64 = true → w.a.toNat % 2 = 0 ∧ w.d.toNat % 2 = 0)
    (hg : ∀ x, f t x % 2 ^ t.width = g x % 2 ^ t.width) :
    ∃ c', VectorResult i s c c' ∧ OnlyVectors c c' (regsOf w.d.toNat t.is64) ∧
      LaneElements c c' (guardSet w.guard c) w.d.toNat t fun l e => g (c.element w.a.toNat t l e) := by
  have he : exec i s = .next (s.finishVec (c.writeVec w.d.toNat t.is64 (guardSet w.guard c)
      (fun l => laneMap t.width t.perLane fun e => f t (c.element w.a.toNat t l e)) t.tag)
      (regsOf w.a.toNat t.is64) (regsOf w.d.toNat t.is64)) := by
    refine hi.trans ((anyInstr_run h _).trans (runBody_ok ?_))
    simp only [firstType_typed htyped hint, eff_ok_bind, needEven_ok fun p => (even p).1, needEven_ok fun p => (even p).2,
      consume_source hclean]
    rfl
  obtain ⟨c', hresult, honly, hvalues⟩ := vectorResult_elements h (ElemTy.legal_of_tag htyped.2.1) (fun p => (even p).2) he
  exact ⟨c', hresult, honly, hvalues.congr fun _ _ => hg _⟩

theorem vectorImmediates : VectorImmediates := by
  intro w s c t h hint htyped hclean even n
  have hn : immShift w = n := immShift_eq w
  have hadd : exec (.vaddi w) s = vecImm w s fun u x => wrapInt u.width (x + w.imm.toInt) := rfl
  have hshl : exec (.vshli w) s = vecImm w s fun u x => shlElem u.width x n := by rw [← hn]; rfl
  have hshr : exec (.vshri w) s = vecImm w s fun u x => shrElem u.width x n := by rw [← hn]; rfl
  have hsra : exec (.vsrai w) s = vecImm w s fun u x => sraElem u.width x n := by rw [← hn]; rfl
  exact ⟨vectorResult_immediate hadd h hint htyped hclean even fun x => congrArg (· % 2 ^ t.width) (fitted_wrapped _ _ x w.imm.toInt),
    vectorResult_immediate hshl h hint htyped hclean even fun x => shlElem_mod t.width x n,
    vectorResult_immediate hshr h hint htyped hclean even fun x => rfl,
    vectorResult_immediate hsra h hint htyped hclean even fun x => congrArg (· % 2 ^ t.width) (wrapInt_eq_fitted true t.width _)⟩

end Sys2Proof.Machine
end

section
/-! LEMMAS. An elementwise word of register operands, step by step: every step passes its checks, reads its registers as they were
before the word, and writes its own (R75, R113, R117, R118). -/

namespace Sys2Proof.Machine

/-! ## Sequences of checks -/

theorem mapM_of_ok {α β : Type} {f : α → Eff β} {g : α → β} {xs : List α} (h : ∀ x, x ∈ xs → f x = .ok (g x)) :
    xs.mapM f = .ok (xs.map g) := by
  induction xs with
  | nil => rfl
  | cons x rest ih =>
    obtain ⟨hx, hrest⟩ := List.forall_mem_cons.1 h
    rw [List.mapM_cons, hx, ih hrest]
    rfl

theorem forM_of_ok {α : Type} {f : α → Eff Unit} {xs : List α} (h : ∀ x, x ∈ xs → f x = .ok ()) : xs.forM f = .ok () := by
  induction xs with
  | nil => rfl
  | cons x rest ih =>
    obtain ⟨hx, hrest⟩ := List.forall_mem_cons.1 h
    show (f x >>= fun _ => rest.forM f) = .ok ()
    rw [hx]
    exact ih hrest

theorem stepReg_ok {f : BitVec 8} {o : Int} (h : 0 ≤ (f.toNat : Int) + o ∧ (f.toNat : Int) + o ≤ 255) :
    stepReg f.toNat o = .ok (stepAt f o) := by
  simp [stepReg, h, stepAt]

theorem stepAt_lt {f : BitVec 8} {o : Int} (h : (f.toNat : Int) + o ≤ 255) : stepAt f o < 256 := by
  unfold stepAt
  omega

/-! ## One step -/

/-- The registers of a step. -/
def VecSpec.stepRegs (p : VecSpec) (w : RegForm) (o : Int) : StepRegs :=
  ⟨stepAt w.d o, stepAt w.a o, if p.useB then stepAt w.b o else 0⟩

/-- The registers that a step reads or writes. -/
def VecSpec.touches (p : VecSpec) (w : RegForm) (pair : Bool) (o : Int) : List Nat :=
  regsOf (stepAt w.a o) pair ++ (if p.useB then regsOf (stepAt w.b o) pair else []) ++ regsOf (stepAt w.d o) pair

/-- A step at an offset passes its checks, and its result is the write x. -/
structure StepRuns (p : VecSpec) (w : RegForm) (c : Crew) (E : Mask) (o : Int) (x : StepWrite) : Prop where
  inside : ∀ f, f = w.d ∨ f = w.a ∨ (f = w.b ∧ p.useB = true) → 0 ≤ (f.toNat : Int) + o ∧ (f.toNat : Int) + o ≤ 255
  pairs : p.checkPairs c w (p.stepRegs w o) = .ok ()
  checks : ∃ t, p.firstCheck c w 1 (c.vreg (stepAt w.a o)).tag = .ok t ∧
    p.restCheck c w t (c.vreg (p.stepRegs w o).b).tag (c.vreg (stepAt w.d o)).tag = .ok ()
  clean : Unmarked c E (stepAt w.a o) x.pair ∧ (p.useB = true → Unmarked c E (stepAt w.b o) x.pair) ∧
    (p.useD = true → Unmarked c E (stepAt w.d o) x.pair)
  reg : x.reg = stepAt w.d o
  pair : pairStep (p.runType w (c.vreg (stepAt w.a o)).tag) (c.vreg (stepAt w.a o)).tag = x.pair
  tag : resultTag (p.runType w (c.vreg (stepAt w.a o)).tag) (c.vreg (stepAt w.a o)).tag = x.tag
  val : ∀ l y tb, (p.useB = true → y = c.laneValue (stepAt w.b o) x.pair l ∧ tb = (c.vreg (stepAt w.b o)).tag) →
    p.lane (p.runType w (c.vreg (stepAt w.a o)).tag) (c.vreg (stepAt w.a o)).tag tb (c.vreg (stepAt w.d o)).tag
      (c.laneValue (stepAt w.a o) x.pair l) y (c.laneValue (stepAt w.d o) x.pair l) = x.val l

section
variable {p : VecSpec} {w : RegForm} {c : Crew} {E : Mask} {o : Int} {x : StepWrite} (h : StepRuns p w c E o x)
include h

theorem StepRuns.checkStep_ok : p.checkStep c w (p.stepRegs w o) = .ok () := by
  obtain ⟨t, hfirst, hrest⟩ := h.checks
  rw [VecSpec.checkStep, show (p.stepRegs w o).a = stepAt w.a o from rfl, hfirst]
  exact hrest

theorem StepRuns.checkOne_ok : p.checkOne c w (p.stepRegs w o) = .ok () := by
  obtain ⟨t, hfirst, hrest⟩ := h.checks
  rw [VecSpec.checkOne, show (p.stepRegs w o).a = stepAt w.a o from rfl, hfirst, eff_ok_bind, h.pairs]
  exact hrest

/-- A step runs alike from any crew whose registers of the step are as they were before the word. -/
theorem StepRuns.runStep_ok {c1 : Crew} (hlanes : c1.lanes = c.lanes)
    (hregs : ∀ q, q ∈ p.touches w x.pair o → c1.vreg q = c.vreg q) (lists : List Nat × List Nat) :
    ∃ lists', p.runStep w E (c1, lists) (p.stepRegs w o) = .ok (c1.writeStep E x, lists') := by
  have ha : ∀ q, q ∈ regsOf (stepAt w.a o) x.pair → c1.vreg q = c.vreg q := fun q hq =>
    hregs q (by simp [VecSpec.touches, hq])
  have hd : ∀ q, q ∈ regsOf (stepAt w.d o) x.pair → c1.vreg q = c.vreg q := fun q hq =>
    hregs q (by simp [VecSpec.touches, hq])
  have hb : p.useB = true → ∀ q, q ∈ regsOf (stepAt w.b o) x.pair → c1.vreg q = c.vreg q := fun hB q hq =>
    hregs q (by simp [VecSpec.touches, hB, hq])
  have first : ∀ r, r ∈ regsOf r x.pair := fun r => mem_regsOf.2 (.inl rfl)
  have htag : (c1.vreg (p.stepRegs w o).a).tag = (c.vreg (stepAt w.a o)).tag := congrArg VReg.tag (ha _ (first _))
  have htagD : (c1.vreg (p.stepRegs w o).d).tag = (c.vreg (stepAt w.d o)).tag := congrArg VReg.tag (hd _ (first _))
  obtain ⟨hca, hcb, hcd⟩ := h.clean
  have consumeA : (c1.source (p.stepRegs w o).a x.pair).consume c1.lanes E = .ok () := consume_source (hca.congr hlanes ha)
  have consumeB : p.useB = true → (c1.source (p.stepRegs w o).b x.pair).consume c1.lanes E = .ok () := fun hB => by
    rw [VecSpec.stepRegs, if_pos hB]
    exact consume_source ((hcb hB).congr hlanes (hb hB))
  have consumeD : p.useD = true → (c1.source (p.stepRegs w o).d x.pair).consume c1.lanes E = .ok () := fun hD =>
    consume_source ((hcd hD).congr hlanes hd)
  have hval : (fun l => p.lane (p.runType w (c.vreg (stepAt w.a o)).tag) (c.vreg (stepAt w.a o)).tag
      (c1.vreg (p.stepRegs w o).b).tag (c.vreg (stepAt w.d o)).tag ((c1.source (p.stepRegs w o).a x.pair).lane l)
      ((c1.source (p.stepRegs w o).b x.pair).lane l) ((c1.source (p.stepRegs w o).d x.pair).lane l)) = x.val := funext fun l => by
    refine Eq.trans ?_ (h.val l (c1.laneValue (p.stepRegs w o).b x.pair l) (c1.vreg (p.stepRegs w o).b).tag fun hB => ?_)
    · show p.lane _ _ _ _ (c1.laneValue (stepAt w.a o) x.pair l) _ (c1.laneValue (stepAt w.d o) x.pair l) = _
      rw [Crew.laneValue_congr ha, Crew.laneValue_congr hd]
      rfl
    · rw [VecSpec.stepRegs, if_pos hB]
      exact ⟨Crew.laneValue_congr (hb hB) l, congrArg VReg.tag (hb hB _ (first _))⟩
  have hwrite : c1.writeVec (p.stepRegs w o).d x.pair E x.val x.tag = c1.writeStep E x := by rw [Crew.writeStep, h.reg]; rfl
  simp only [VecSpec.runStep, htag, htagD, h.pair, h.tag, consumeA, hval, hwrite, eff_ok_bind]
  cases hB : p.useB <;> cases hD : p.useD
  · exact ⟨_, rfl⟩
  · rw [if_pos rfl, consumeD hD]
    exact ⟨_, rfl⟩
  · rw [if_pos rfl, consumeB hB]
    exact ⟨_, rfl⟩
  · rw [if_pos rfl, if_pos rfl, consumeB hB, consumeD hD]
    exact ⟨_, rfl⟩

end

/-! ## All steps -/

section
variable {p : VecSpec} {w : RegForm} {s : State} {c : Crew} {E : Mask} {offs : List Int} {x : Int → StepWrite}
  (hsteps : ∀ o, o ∈ offs → StepRuns p w c E o (x o))
  (hapart : offs.Pairwise fun o o' => ∀ q, q ∈ (x o).regs → q ∉ p.touches w (x o').pair o')
include hsteps hapart

/-- The steps of a word, one after another. -/
theorem foldlM_runStep (hfits : ∀ o, o ∈ offs → (x o).fits) {c1 : Crew} (hlanes : c1.lanes = c.lanes)
    (hregs : ∀ o, o ∈ offs → ∀ q, q ∈ p.touches w (x o).pair o → c1.vreg q = c.vreg q)
    (hin : ∀ o, o ∈ offs → ∀ q, q ∈ p.touches w (x o).pair o → q < 256) (lists : List Nat × List Nat) :
    ∃ lists', (offs.map (p.stepRegs w)).foldlM (p.runStep w E) (c1, lists) = .ok (c1.writeSteps E (offs.map x), lists') := by
  induction offs generalizing c1 lists with
  | nil => exact ⟨lists, rfl⟩
  | cons o rest ih =>
    obtain ⟨ho, hrest⟩ := List.forall_mem_cons.1 hsteps
    obtain ⟨hfirst, hlater⟩ := List.pairwise_cons.1 hapart
    obtain ⟨hfit, hfits'⟩ := List.forall_mem_cons.1 hfits
    obtain ⟨hreg, hregs'⟩ := List.forall_mem_cons.1 hregs
    obtain ⟨-, hin'⟩ := List.forall_mem_cons.1 hin
    obtain ⟨lists1, hstep⟩ := ho.runStep_ok hlanes hreg lists
    obtain ⟨lists2, hall⟩ := ih hrest hlater hfits' ((Crew.writeStep_lanes E c1 (x o)).trans hlanes)
      (fun o' ho' q hq => (onlyVectors_writeVec hfit.1 E (x o).val (x o).tag q (hin' o' ho' q hq)
        fun hw => hfirst o' ho' q hw hq).trans (hregs' o' ho' q hq)) hin' lists1
    refine ⟨lists2, ?_⟩
    rw [List.map_cons, List.foldlM_cons, hstep]
    exact hall

omit hapart in
theorem regs_ok : p.regs w true offs = .ok (offs.map (p.stepRegs w)) := by
  refine mapM_of_ok fun o ho => ?_
  obtain ⟨inside, -⟩ := hsteps o ho
  simp only [stepReg_ok (inside w.d (.inl rfl)), stepReg_ok (inside w.a (.inr (.inl rfl))), eff_ok_bind, if_true]
  cases hB : p.useB with
  | false =>
    simp only [VecSpec.stepRegs, hB]
    rfl
  | true =>
    simp only [VecSpec.stepRegs, hB, stepReg_ok (inside w.b (.inr (.inr ⟨rfl, hB⟩)))]
    rfl

omit hapart in
theorem checkAll_ok : p.checkAll c w (offs.map (p.stepRegs w)) = .ok () := by
  have hall : ∀ {f : StepRegs → Eff Unit}, (∀ o, o ∈ offs → f (p.stepRegs w o) = .ok ()) →
      (offs.map (p.stepRegs w)).forM f = .ok () := fun hf => forM_of_ok fun r hr => by
    obtain ⟨o, ho, rfl⟩ := List.mem_map.1 hr
    exact hf o ho
  unfold VecSpec.checkAll
  split
  · rw [hall fun o ho => (hsteps o ho).pairs]
    exact hall fun o ho => (hsteps o ho).checkStep_ok
  · exact hall fun o ho => (hsteps o ho).checkOne_ok

/-- A word of register operands ends with the writes of its steps. -/
theorem onRegs_ok (hoffs : s.stepOffsets c (fnT w) w.c = .ok offs) (hfits : ∀ o, o ∈ offs → (x o).fits)
    (hin : ∀ o, o ∈ offs → ∀ q, q ∈ p.touches w (x o).pair o → q < 256) :
    ∃ reads writes, p.onRegs w s c E = .ok (s.finishVec (c.writeSteps E (offs.map x)) reads writes) := by
  obtain ⟨⟨reads, writes⟩, hfold⟩ := foldlM_runStep hsteps hapart hfits rfl (fun _ _ _ _ => rfl) hin ([], [])
  refine ⟨reads, writes, ?_⟩
  rw [VecSpec.onRegs, hoffs, eff_ok_bind, regs_ok hsteps, eff_ok_bind, checkAll_ok hsteps, eff_ok_bind, hfold]
  rfl

end

/-- What a word of register operands leaves, from its steps. -/
theorem vectorResult_of_steps {i : Instr} {spec : Crew → VecSpec} {w : RegForm} {s : State} {c : Crew} {offs : List Int}
    {x : Int → StepWrite} (hi : exec i s = vecRun spec w s) (h : s.crewAt s.cur = some c) (hregs : fnQA w = false ∧ fnQD w = false)
    (hoffs : s.stepOffsets c (fnT w) w.c = .ok offs)
    (hsteps : ∀ o, o ∈ offs → StepRuns (spec c) w c (guardSet w.guard c) o (x o)) (hfits : ∀ o, o ∈ offs → (x o).fits)
    (hapart : offs.Pairwise fun o o' => ∀ q, q ∈ (x o).regs → q ∉ (spec c).touches w (x o').pair o')
    (hin : ∀ o, o ∈ offs → ∀ q, q ∈ (spec c).touches w (x o).pair o → q < 256) :
    ∃ c', VectorResult i s c c' ∧ OnlyVectors c c' (offs.flatMap fun o => (x o).regs) ∧
      ∀ o, o ∈ offs → LaneValues c c' (guardSet w.guard c) (x o).reg (x o).pair (x o).tag (x o).val fun _ => false := by
  obtain ⟨reads, writes, hrun⟩ := onRegs_ok hsteps hapart hoffs hfits hin
  have he : exec i s = .next (s.finishVec (c.writeSteps (guardSet w.guard c) (offs.map x)) reads writes) := by
    refine hi.trans ((anyInstr_run h _).trans (runBody_ok ?_))
    simp only [hregs.1, hregs.2]
    exact hrun
  have hwrites : ∀ o, o ∈ offs → ∀ q, q ∈ (x o).regs → q ∈ (spec c).touches w (x o).pair o := fun o ho q hq => by
    rw [StepWrite.regs, (hsteps o ho).reg] at hq
    simp [VecSpec.touches, hq]
  obtain ⟨c', hresult, honly, hvalues⟩ := vectorResult_writeSteps h
    (fun y hy => by obtain ⟨o, ho, rfl⟩ := List.mem_map.1 hy; exact hfits o ho)
    (List.pairwise_map.2 (hapart.imp_of_mem fun _ ho' hap q hq hq' => hap q hq (hwrites _ ho' q hq'))) he
  rw [List.flatMap_map] at honly
  exact ⟨c', hresult, honly, fun o ho => hvalues _ (List.mem_map_of_mem ho)⟩

end Sys2Proof.Machine
end

section
/-! LEMMAS. Elementwise words on typed elements: from the result of one element to the word (R113, R120). -/

namespace Sys2Proof.Machine

theorem checkPairs_ok {p : VecSpec} {c : Crew} {w : RegForm} {o : Int} {pair : Bool}
    (hpair : (if w.ety = 0 then tagIs64 (c.vreg (stepAt w.a o)).tag else ety64 w.ety) = pair)
    (even : ∀ r, r = w.d ∨ r = w.a ∨ (r = w.b ∧ p.useB = true) → pair = true → stepAt r o % 2 = 0) :
    p.checkPairs c w (p.stepRegs w o) = .ok () := by
  simp only [VecSpec.checkPairs, VecSpec.stepRegs, hpair, needEven_ok (even w.d (.inl rfl)), needEven_ok (even w.a (.inr (.inl rfl))),
    eff_ok_bind]
  refine needEven_ok fun hp => ?_
  obtain ⟨h64, hB⟩ := Bool.and_eq_true_iff.1 hp
  rw [if_pos hB]
  exact even w.b (.inr (.inr ⟨rfl, hB⟩)) h64

/-- The registers of a step lie in v0 to v255. -/
theorem touched_lt {p : VecSpec} {w : RegForm} {o : Int} {pair : Bool} {q : Nat}
    (hinside : ∀ r, r = w.d ∨ r = w.a ∨ (r = w.b ∧ p.useB = true) → 0 ≤ (r.toNat : Int) + o ∧ (r.toNat : Int) + o ≤ 255 ∧
      (pair = true → stepAt r o % 2 = 0)) (hq : q ∈ p.touches w pair o) : q < 256 := by
  have reg : ∀ r, r = w.d ∨ r = w.a ∨ (r = w.b ∧ p.useB = true) → q ∈ regsOf (stepAt r o) pair → q < 256 := fun r hr hq => by
    obtain ⟨-, hle, heven⟩ := hinside r hr
    exact regsOf_lt (stepAt_lt hle) heven hq
  simp only [VecSpec.touches, List.mem_append] at hq
  rcases hq with (hq | hq) | hq
  · exact reg w.a (.inr (.inl rfl)) hq
  · split at hq
    case isTrue hB => exact reg w.b (.inr (.inr ⟨rfl, hB⟩)) hq
    case isFalse => exact absurd hq List.not_mem_nil
  · exact reg w.d (.inl rfl) hq

theorem restCheck_ok {p : VecSpec} {c : Crew} {w : RegForm} {t : ElemTy} {tb td : BitVec 8}
    (hB : p.useB = true → checkTyped c.fmts w.ety t 2 tb = .ok ()) (hD : p.useD = true → checkTyped c.fmts w.ety t 0 td = .ok ()) :
    p.restCheck c w (some t) tb td = .ok () := by
  unfold VecSpec.restCheck
  cases hb : p.useB <;> cases hd : p.useD
  · rfl
  · simp only [hD hd]; rfl
  · simp only [hB hb]; rfl
  · simp only [hB hb, hD hd]; rfl

theorem firstCheck_typed {p : VecSpec} {c : Crew} {w : RegForm} {t : ElemTy} {pos : Nat} {ta : BitVec 8} (hbit : p.bit = false)
    (h : firstType c.fmts w.ety p.accept pos ta = .ok t) : p.firstCheck c w pos ta = .ok (some t) := by
  simp only [VecSpec.firstCheck, hbit, h]
  rfl

/-- The write of a step on elements. -/
def elementWrite (w : RegForm) (c : Crew) (t : ElemTy) (f : (BitVec 8 → Nat) → Int → Nat) (o : Int) : StepWrite :=
  ⟨stepAt w.d o, t.is64, fun l => laneMap t.width t.perLane fun e => f (fun r => c.element (stepAt r o) t l e) o, t.tag⟩

section
variable {i : Instr} {spec : Crew → VecSpec} {w : RegForm} {s : State} {c : Crew} {t : ElemTy} {offs : List Int}
  {f : (BitVec 8 → Nat) → Int → Nat} (h : Elementwise w s c t offs (spec c).useB (spec c).useD)
include h

theorem Elementwise.touched {o : Int} (ho : o ∈ offs) {q : Nat} (hq : q ∈ (spec c).touches w t.is64 o) : q < 256 :=
  touched_lt (h.inside o ho) hq

/-- The steps of a word on elements. -/
theorem Elementwise.stepRuns (hbit : (spec c).bit = false) (haccept : (spec c).accept t = true) {o : Int} (ho : o ∈ offs)
    (hop : ∀ X : BitVec 8 → Nat, (∀ r, X r < 2 ^ t.width) → ∀ y tb,
      ((spec c).useB = true → y = X w.b ∧ tb = (c.vreg (stepAt w.b o)).tag) →
        (spec c).op t (sourceType t tb) (sourceType t (c.vreg (stepAt w.d o)).tag) (X w.a) y (X w.d) % 2 ^ t.width =
          f X o % 2 ^ t.width) :
    StepRuns (spec c) w c (guardSet w.guard c) o (elementWrite w c t f o) := by
  obtain ⟨hfirst, hrestB, hrestD⟩ := h.typed o ho
  have hrun : (spec c).runType w (c.vreg (stepAt w.a o)).tag = some t := by
    rw [VecSpec.runType, hbit, sourceType_first hfirst]
    rfl
  have even : ∀ r, r = w.d ∨ r = w.a ∨ (r = w.b ∧ (spec c).useB = true) → t.is64 = true → stepAt r o % 2 = 0 := fun r hr =>
    (h.inside o ho r hr).2.2
  refine ⟨fun r hr => ⟨(h.inside o ho r hr).1, (h.inside o ho r hr).2.1⟩, ?_,
    ⟨some t, firstCheck_typed hbit (firstType_of_accepted hfirst haccept 1), restCheck_ok (fun hB => ?_) hrestD⟩,
    h.clean o ho, rfl, ?_, ?_, fun l y tb hy => ?_⟩
  · exact checkPairs_ok (pair_first hfirst) even
  · rw [VecSpec.stepRegs, if_pos hB]
    exact hrestB hB
  · rw [hrun]; rfl
  · rw [hrun]; rfl
  · rw [hrun]
    refine laneMap_congr fun e _ => ?_
    refine hop (fun r => c.element (stepAt r o) t l e) (fun r => elemOf_lt _ _ _) _ tb fun hB => ?_
    obtain ⟨rfl, htb⟩ := hy hB
    exact ⟨rfl, htb⟩

/-- An elementwise word whose result for each element is f. -/
theorem elementResult_of_op (hi : exec i s = vecRun spec w s) (hbit : (spec c).bit = false) (haccept : (spec c).accept t = true)
    (hop : ∀ o, o ∈ offs → ∀ X : BitVec 8 → Nat, (∀ r, X r < 2 ^ t.width) → ∀ y tb,
      ((spec c).useB = true → y = X w.b ∧ tb = (c.vreg (stepAt w.b o)).tag) →
        (spec c).op t (sourceType t tb) (sourceType t (c.vreg (stepAt w.d o)).tag) (X w.a) y (X w.d) % 2 ^ t.width =
          f X o % 2 ^ t.width) : ElementResult i w s c t offs f := by
  have hfits : ∀ o, o ∈ offs → (elementWrite w c t f o).fits := fun o ho =>
    ⟨fun q hq => h.touched ho (by
        rw [VecSpec.touches]
        exact List.mem_append_right _ hq),
      fun l => laneMap_fits (firstType_legal (h.typed o ho).1) _⟩
  have hapart : offs.Pairwise fun o o' => ∀ q, q ∈ (elementWrite w c t f o).regs → q ∉ (spec c).touches w t.is64 o' :=
    h.apart.imp fun hap q hq hq' => hap q q hq hq' rfl
  obtain ⟨c', hresult, honly, hvalues⟩ := vectorResult_of_steps hi h.crew h.registers h.steps
    (fun o ho => h.stepRuns hbit haccept ho (hop o ho)) hfits hapart fun o ho q hq => h.touched ho hq
  exact ⟨c', hresult, honly, fun o ho => (hvalues o ho).elements⟩

end

end Sys2Proof.Machine
end

section
/-! LEMMAS. Integer elements: the exact results of arithmetic, shifts, minima and counts, and the elementwise words on them
(R60, R120 to R122). -/

namespace Sys2Proof.Machine

/-! ## Minima and maxima (R62, R122) -/

theorem below_ofInt (a b : Int) : (XReal.ofInt a).below (.ofInt b) = decide (a < b) := by
  have hlt : (XReal.ofInt a).lt (.ofInt b) = decide (a < b) := by
    rw [Bool.eq_iff_iff, decide_eq_true_iff]
    simp only [XReal.ofInt, XReal.lt, magLt, pow2Num, pow2Den, Int.sub_self, Int.neg_zero, Int.toNat_zero, pow_zero, Nat.mul_one]
    by_cases ha : a < 0 <;> by_cases hb : b < 0 <;> simp [ha, hb]
    all_goals omega
  have hzero : ((XReal.ofInt a).isZero && (XReal.ofInt b).isZero && (XReal.ofInt a).isNeg && !(XReal.ofInt b).isNeg) = false := by
    simp only [XReal.ofInt, XReal.isZero, XReal.isNeg]
    by_cases ha : a < 0
    · have : a.natAbs ≠ 0 := by omega
      simp [this]
    · simp [ha]
  rw [XReal.below, hlt, hzero, Bool.or_false]

theorem ElemTy.fmt_int {t : ElemTy} (h : t.isInt = true) (fms : Vector (BitVec 32) 16) : t.fmt fms = none := by
  cases t with
  | sint w => rfl
  | uint w => rfl
  | ieee k => exact absurd h (by simp [ElemTy.isInt])
  | narrow8 i => exact absurd h (by simp [ElemTy.isInt])
  | narrow4 i => exact absurd h (by simp [ElemTy.isInt])

section
variable {t : ElemTy} (hint : t.isInt = true) (fms : Vector (BitVec 32) 16)
include hint

theorem ElemTy.value_int (x : Nat) : t.value fms x = .ofInt (intOf t.isSigned t.width x) := by
  rw [ElemTy.value, ElemTy.fmt_int hint]

/-- The chosen of two integer elements reads as the larger or the smaller of their values. -/
theorem chooseElem_int (large : Bool) (x y : Nat) : ∃ m, chooseElem fms large (t, x) (t, y) = (t, m) ∧
    intOf t.isSigned t.width m = if large then max (intOf t.isSigned t.width x) (intOf t.isSigned t.width y)
      else min (intOf t.isSigned t.width x) (intOf t.isSigned t.width y) := by
  have hreal : ∀ v, (XReal.ofInt v).isNan = false := fun _ => rfl
  unfold chooseElem
  simp only [ElemTy.value_int hint, pickMax, pickMin, hreal, below_ofInt]
  cases large with
  | true =>
    by_cases hlt : intOf t.isSigned t.width x < intOf t.isSigned t.width y
    · exact ⟨y, by simp [hlt], by simp [hlt.le]⟩
    · exact ⟨x, by simp [hlt], by simp [not_lt.1 hlt]⟩
  | false =>
    by_cases hlt : intOf t.isSigned t.width y < intOf t.isSigned t.width x
    · exact ⟨y, by simp [hlt], by simp [hlt.le]⟩
    · exact ⟨x, by simp [hlt], by simp [not_lt.1 hlt]⟩

theorem storeChosen_int (m : Nat) : storeChosen fms t (t, m) = fitted t.width t.isSigned 0 (intOf t.isSigned t.width m) := by
  rw [storeChosen, ElemTy.fmt_int hint, ← wrapInt_eq_fitted, wrapInt_intOf]

theorem minMax_int (large : Bool) (x y : Nat) : storeChosen fms t (chooseElem fms large (t, x) (t, y)) =
    fitted t.width t.isSigned 0 (if large then max (intOf t.isSigned t.width x) (intOf t.isSigned t.width y)
      else min (intOf t.isSigned t.width x) (intOf t.isSigned t.width y)) := by
  obtain ⟨m, hm, hv⟩ := chooseElem_int hint fms large x y
  rw [hm, storeChosen_int hint, hv]

theorem clamp_int (x y z : Nat) : storeChosen fms t (chooseElem fms false (chooseElem fms true (t, z) (t, x)) (t, y)) =
    fitted t.width t.isSigned 0 (min (max (intOf t.isSigned t.width z) (intOf t.isSigned t.width x)) (intOf t.isSigned t.width y)) := by
  obtain ⟨m, hm, hv⟩ := chooseElem_int hint fms true z x
  rw [hm, minMax_int hint, hv]
  rfl

/-- Arithmetic on integers is exact, then fitted (R60). -/
theorem arithElem_int {tb td : ElemTy} (r : BitVec 3) (sat : BitVec 1) (fi : Int → Int → Int → Int) (ff : XReal → XReal → XReal → XReal)
    (x y z : Nat) : arithElem fms r (sat = 1) fi ff t tb td x y z = fitted t.width t.isSigned sat
      (fi (intOf t.isSigned t.width x) (intOf tb.isSigned t.width y) (intOf td.isSigned t.width z)) := by
  rw [arithElem, ElemTy.fmt_int hint]
  exact fitInt_eq_fitted _ _ _ _

end

/-! ## Words on integer elements -/

section
variable {i : Instr} {w : RegForm} {s : State} {c : Crew} {t : ElemTy} {offs : List Int} {useB useD : Bool}
  (hint : t.isInt = true) (h : Elementwise w s c t offs useB useD)
include hint h

theorem Elementwise.typeB (hB : useB = true) {o : Int} (ho : o ∈ offs) : sourceType t (c.vreg (stepAt w.b o)).tag = t :=
  sourceType_int ((h.typed o ho).2.1 hB) (not_narrow_of_int (h.typed o ho).1 hint)

theorem Elementwise.typeD (hD : useD = true) {o : Int} (ho : o ∈ offs) : sourceType t (c.vreg (stepAt w.d o)).tag = t :=
  sourceType_int ((h.typed o ho).2.2 hD) (not_narrow_of_int (h.typed o ho).1 hint)

/-- An arithmetic word on integers; a source that it does not read does not count. -/
theorem integerArith {accept : ElemTy → Bool} {fi : Int → Int → Int → Int} {ff : XReal → XReal → XReal → XReal}
    (hi : exec i s = vecRun (arithSpec w accept useB useD fi ff) w s) (haccept : accept t = true)
    (hB : useB = false → ∀ x y y' z, fi x y z = fi x y' z) (hD : useD = false → ∀ x y z z', fi x y z = fi x y z') :
    ElementResult i w s c t offs fun X _ => fitted t.width t.isSigned w.sat
      (fi (intOf t.isSigned t.width (X w.a)) (intOf t.isSigned t.width (X w.b)) (intOf t.isSigned t.width (X w.d))) := by
  refine elementResult_of_op (spec := arithSpec w accept useB useD fi ff) h hi rfl haccept fun o ho X _ y tb hy => ?_
  refine congrArg (· % 2 ^ t.width) ((arithElem_int hint c.fmts w.rnd w.sat fi ff (X w.a) y (X w.d)).trans
    (congrArg (fitted t.width t.isSigned w.sat) ?_))
  have second : ∀ x z, fi x (intOf (sourceType t tb).isSigned t.width y) z = fi x (intOf t.isSigned t.width (X w.b)) z := fun x z => by
    cases hb : useB with
    | false => exact hB hb _ _ _ _
    | true =>
      obtain ⟨rfl, rfl⟩ := hy hb
      rw [h.typeB hint hb ho]
  rw [second]
  cases hd : useD with
  | false => exact hD hd _ _ _ _
  | true => rw [h.typeD hint hd ho]

end

/-- A word on the codes of elements. -/
theorem codeWord {i : Instr} {w : RegForm} {s : State} {c : Crew} {t : ElemTy} {offs : List Int} {useB : Bool} {accept : ElemTy → Bool}
    {f : ElemTy → Nat → Nat → Nat} {g : Nat → Nat → Nat} (h : Elementwise w s c t offs useB false)
    (hi : exec i s = vecRun (codeSpec accept useB f) w s) (haccept : accept t = true) (hB : useB = false → ∀ x y y', f t x y = f t x y')
    (hg : ∀ x y, x < 2 ^ t.width → f t x y % 2 ^ t.width = g x y % 2 ^ t.width) :
    ElementResult i w s c t offs fun X _ => g (X w.a) (X w.b) := by
  refine elementResult_of_op (spec := codeSpec accept useB f) h hi rfl haccept fun o ho X hX y tb hy => ?_
  refine Eq.trans (congrArg (· % 2 ^ t.width) ?_) (hg (X w.a) (X w.b) (hX w.a))
  show f t (X w.a) y = f t (X w.a) (X w.b)
  cases hb : useB with
  | false => exact hB hb _ _ _
  | true => rw [(hy hb).1]

/-- VMIN and VMAX on integers. -/
theorem integerMinMax {i : Instr} {w : RegForm} {s : State} {c : Crew} {t : ElemTy} {offs : List Int} {large : Bool}
    (hint : t.isInt = true) (h : Elementwise w s c t offs true false) (hi : exec i s = vecRun (minMaxSpec large) w s) :
    ElementResult i w s c t offs fun X _ => fitted t.width t.isSigned 0
      (if large then max (intOf t.isSigned t.width (X w.a)) (intOf t.isSigned t.width (X w.b))
        else min (intOf t.isSigned t.width (X w.a)) (intOf t.isSigned t.width (X w.b))) := by
  refine elementResult_of_op (spec := minMaxSpec large) h hi rfl rfl fun o ho X _ y tb hy => congrArg (· % 2 ^ t.width) ?_
  obtain ⟨rfl, rfl⟩ := hy rfl
  show storeChosen c.fmts t (chooseElem c.fmts large (t, X w.a) (sourceType t _, X w.b)) = _
  rw [h.typeB hint rfl ho, minMax_int hint]

theorem integerClamp {w : RegForm} {s : State} {c : Crew} {t : ElemTy} {offs : List Int} (hint : t.isInt = true)
    (h : Elementwise w s c t offs true true) :
    ElementResult (.vclamp w) w s c t offs fun X _ => fitted t.width t.isSigned 0
      (min (max (intOf t.isSigned t.width (X w.d)) (intOf t.isSigned t.width (X w.a))) (intOf t.isSigned t.width (X w.b))) := by
  refine elementResult_of_op (spec := clampSpec) h rfl rfl rfl fun o ho X _ y tb hy => congrArg (· % 2 ^ t.width) ?_
  obtain ⟨rfl, rfl⟩ := hy rfl
  show storeChosen c.fmts t (chooseElem c.fmts false (chooseElem c.fmts true (sourceType t _, X w.d) (t, X w.a)) (sourceType t _, X w.b)) = _
  rw [h.typeB hint rfl ho, h.typeD hint rfl ho, clamp_int hint]

theorem clzOf_of_lt {n x : Nat} (hx : x < 2 ^ n) : clzOf n x = if x = 0 then n else n - 1 - Nat.log2 x := by
  rw [clzOf, Nat.mod_eq_of_lt hx]

theorem acceptIF_int {t : ElemTy} (h : t.isInt = true) : acceptIF t = true := by
  cases t with
  | sint w => rfl
  | uint w => rfl
  | ieee k => rfl
  | narrow8 i => exact absurd h (by simp [ElemTy.isInt])
  | narrow4 i => exact absurd h (by simp [ElemTy.isInt])

/-- Settles O23: arithmetic is exact and then fitted; minima compare exact values; shifts and counts act on codes. -/
theorem vectorIntegerElements : Obligations.VectorIntegerElements := by
  intro w s c t offs hint v fit
  have hIF := acceptIF_int hint
  have hI : acceptI t = true := hint
  refine ⟨fun h => ⟨?_, ?_, ?_, ?_, ?_, ?_, ?_, ?_, ?_⟩, fun h => ⟨?_, ?_, ?_, ?_⟩, fun h => ⟨?_, ?_, ?_, ?_⟩⟩
  · exact integerArith (fi := fun x y _ => x + y) hint h rfl hIF nofun fun _ _ _ _ _ => rfl
  · exact integerArith (fi := fun x y _ => x - y) hint h rfl hIF nofun fun _ _ _ _ _ => rfl
  · exact integerArith (fi := fun x y _ => x * y) hint h rfl hIF nofun fun _ _ _ _ _ => rfl
  · exact codeWord (g := fun x y => fitted t.width t.isSigned 0 (v x * v y / 2 ^ t.width)) h rfl hI nofun fun _ _ _ =>
      congrArg (· % 2 ^ t.width) (wrapInt_eq_fitted t.isSigned t.width _)
  · exact integerMinMax (large := false) hint h rfl
  · exact integerMinMax (large := true) hint h rfl
  · exact codeWord (g := fun x n => if t.width ≤ n then 0 else x * 2 ^ n) h rfl hI nofun fun x n _ => shlElem_mod t.width x n
  · exact codeWord (g := fun x n => if t.width ≤ n then 0 else x / 2 ^ n) h rfl hI nofun fun _ _ _ => rfl
  · exact codeWord (g := fun x n => fitted t.width true 0 (intOf true t.width x / 2 ^ min n t.width)) h rfl hI nofun fun _ _ _ =>
      congrArg (· % 2 ^ t.width) (wrapInt_eq_fitted true t.width _)
  · exact integerArith (fi := fun x y z => x * y + z) hint h rfl hIF nofun nofun
  · exact integerArith (fi := fun x y z => x * y - z) hint h rfl hIF nofun nofun
  · exact integerArith (fi := fun x y z => z - x * y) hint h rfl hIF nofun nofun
  · exact integerClamp hint h
  · exact integerArith (fi := fun x _ _ => x.natAbs) hint h rfl rfl (fun _ _ _ _ _ => rfl) fun _ _ _ _ _ => rfl
  · exact integerArith (fi := fun x _ _ => -x) hint h rfl rfl (fun _ _ _ _ _ => rfl) fun _ _ _ _ _ => rfl
  · exact codeWord (g := fun x _ => ((List.range t.width).filter fun i => x.testBit i).length) h rfl hI (fun _ _ _ _ => rfl)
      fun x _ _ => congrArg (· % 2 ^ t.width) (onesOf_eq t.width x)
  · exact codeWord (g := fun x _ => if x = 0 then t.width else t.width - 1 - Nat.log2 x) h rfl hI (fun _ _ _ _ => rfl)
      fun x _ hx => congrArg (· % 2 ^ t.width) (clzOf_of_lt hx)

end Sys2Proof.Machine
end

section
/-! LEMMAS. Bitwise words on whole words and pairs (R113, R123). -/

namespace Sys2Proof.Machine

/-- The bits of a lane: a word's, or a pair's. -/
def laneBits (pair : Bool) : Nat := if pair then 64 else 32

/-- The write of a step of a bitwise word. -/
def bitWrite (w : RegForm) (c : Crew) (g : Nat → Nat → Nat → Nat) (o : Int) : StepWrite :=
  let ta := (c.vreg (stepAt w.a o)).tag
  ⟨stepAt w.d o, tagIs64 ta, fun l => g (laneBits (tagIs64 ta)) (c.laneValue (stepAt w.a o) (tagIs64 ta) l)
    (c.laneValue (stepAt w.b o) (tagIs64 ta) l), ta⟩

theorem lane_bitSpec {useB : Bool} {f : Nat → Nat → Nat} {c : Crew} (ta tb td : BitVec 8) (x y z : Nat) :
    (bitSpec useB f c).lane none ta tb td x y z = f x y % 2 ^ laneBits (tagIs64 ta) := by
  show f x y % 2 ^ (if tagIs64 ta then 64 else 32) % 2 ^ (if tagIs64 ta then 64 else 32) = _
  rw [Nat.mod_mod]
  rfl

section
variable {w : RegForm} {s : State} {c : Crew} {offs : List Int} {useB : Bool} {f : Nat → Nat → Nat} {g : Nat → Nat → Nat → Nat}
  (hinside : ∀ o, o ∈ offs → ∀ x, x = w.d ∨ x = w.a ∨ (x = w.b ∧ useB = true) → 0 ≤ (x.toNat : Int) + o ∧ (x.toNat : Int) + o ≤ 255 ∧
    (tagIs64 (c.vreg (stepAt w.a o)).tag = true → stepAt x o % 2 = 0))
  (hclean : ∀ o, o ∈ offs → tagReserved false (c.vreg (stepAt w.a o)).tag = false ∧
    Unmarked c (guardSet w.guard c) (stepAt w.a o) (tagIs64 (c.vreg (stepAt w.a o)).tag) ∧
    (useB = true → tagReserved false (c.vreg (stepAt w.b o)).tag = false ∧
      Unmarked c (guardSet w.guard c) (stepAt w.b o) (tagIs64 (c.vreg (stepAt w.a o)).tag)))
  (hB : useB = false → ∀ x y y', f x y = f x y')
  (hg : ∀ pair x y, x < 2 ^ laneBits pair → y < 2 ^ laneBits pair → f x y % 2 ^ laneBits pair = g (laneBits pair) x y)
include hinside hclean hB hg

theorem bitStep_runs (hety : w.ety = 0) {o : Int} (ho : o ∈ offs) :
    StepRuns (bitSpec useB f c) w c (guardSet w.guard c) o (bitWrite w c g o) := by
  obtain ⟨hra, hca, hb⟩ := hclean o ho
  have hpair : (if w.ety = 0 then tagIs64 (c.vreg (stepAt w.a o)).tag else ety64 w.ety) = tagIs64 (c.vreg (stepAt w.a o)).tag := if_pos hety
  refine ⟨fun x hx => ⟨(hinside o ho x hx).1, (hinside o ho x hx).2.1⟩, checkPairs_ok hpair fun x hx => (hinside o ho x hx).2.2,
    ⟨none, ?_, ?_⟩, ⟨hca, fun hu => (hb hu).2, nofun⟩, rfl, rfl, rfl, fun l y tb hy => (lane_bitSpec _ _ _ _ _ _).trans ?_⟩
  · have hfirst := checkReserved_ok (pos := 1) hra
    simp only [VecSpec.firstCheck, bitSpec, hfirst]
    rfl
  · cases hu : useB with
    | false => rfl
    | true => exact checkReserved_ok (hb hu).1
  · refine Eq.trans (congrArg (· % 2 ^ _) ?_) (hg _ _ _ (c.laneValue_lt _ _ l) (c.laneValue_lt _ _ l))
    cases hu : useB with
    | false => exact hB hu _ _ _
    | true => rw [(hy hu).1]; rfl

/-- A bitwise word of register operands. -/
theorem bitWord {i : Instr} (hi : exec i s = vecRun (bitSpec useB f) w s) (h : s.crewAt s.cur = some c) (hety : w.ety = 0)
    (hqa : fnQA w = false) (hqd : fnQD w = false) (hoffs : s.stepOffsets c (fnT w) w.c = .ok offs)
    (hapart : offs.Pairwise fun o q => ∀ x y, x ∈ regsOf (stepAt w.d o) (tagIs64 (c.vreg (stepAt w.a o)).tag) →
      y ∈ regsOf (stepAt w.a q) (tagIs64 (c.vreg (stepAt w.a q)).tag) ++
        (if useB then regsOf (stepAt w.b q) (tagIs64 (c.vreg (stepAt w.a q)).tag) else []) ++
        regsOf (stepAt w.d q) (tagIs64 (c.vreg (stepAt w.a q)).tag) → x ≠ y) :
    ∃ c', VectorResult i s c c' ∧
      OnlyVectors c c' (offs.flatMap fun o => regsOf (stepAt w.d o) (tagIs64 (c.vreg (stepAt w.a o)).tag)) ∧
      ∀ o, o ∈ offs → LaneValues c c' (guardSet w.guard c) (stepAt w.d o) (tagIs64 (c.vreg (stepAt w.a o)).tag)
        (c.vreg (stepAt w.a o)).tag (fun l => g (laneBits (tagIs64 (c.vreg (stepAt w.a o)).tag))
          (c.laneValue (stepAt w.a o) (tagIs64 (c.vreg (stepAt w.a o)).tag) l)
          (c.laneValue (stepAt w.b o) (tagIs64 (c.vreg (stepAt w.a o)).tag) l)) fun _ => false := by
  have hin : ∀ o, o ∈ offs → ∀ q, q ∈ (bitSpec useB f c).touches w (tagIs64 (c.vreg (stepAt w.a o)).tag) o → q < 256 :=
    fun o ho q hq => touched_lt (hinside o ho) hq
  refine vectorResult_of_steps (x := bitWrite w c g) hi h ⟨hqa, hqd⟩ hoffs (fun o ho => bitStep_runs hinside hclean hB hg hety ho)
    (fun o ho => ⟨fun q hq => hin o ho q (List.mem_append_right _ hq), fun l => ?_⟩)
    (hapart.imp fun hap q hq hq' => hap q q hq hq' rfl) hin
  show g (laneBits _) _ _ < 2 ^ laneBits _
  rw [← hg _ _ _ (c.laneValue_lt _ _ l) (c.laneValue_lt _ _ l)]
  exact Nat.mod_lt _ (Nat.two_pow_pos _)

end

theorem vectorBitwiseLogic : VectorBitwiseLogic := by
  intro w s c offs h hety hqa hqd hoffs E ta pair logic
  refine ⟨fun hinside hclean hapart => ?_, fun hinside hclean hapart => ?_, fun hinside hclean hapart => ?_,
    fun hinside hclean hapart => ?_⟩
  · exact bitWord (g := fun _ x y => x &&& y) hinside hclean nofun
      (fun _ x y _ hy => Nat.mod_eq_of_lt (Nat.and_lt_two_pow x hy)) rfl h hety hqa hqd hoffs hapart
  · exact bitWord (g := fun _ x y => x ||| y) hinside hclean nofun
      (fun _ x y hx hy => Nat.mod_eq_of_lt (Nat.or_lt_two_pow hx hy)) rfl h hety hqa hqd hoffs hapart
  · exact bitWord (g := fun _ x y => x ^^^ y) hinside hclean nofun
      (fun _ x y hx hy => Nat.mod_eq_of_lt (Nat.xor_lt_two_pow hx hy)) rfl h hety hqa hqd hoffs hapart
  · refine bitWord (g := fun n x _ => 2 ^ n - 1 - x) hinside hclean (fun _ _ _ _ => rfl) (fun p x y hx _ => ?_) rfl h hety hqa hqd hoffs hapart
    cases p with
    | false =>
      have hword : x < 2 ^ 32 := hx
      show (2 ^ 64 - 1 - x) % 2 ^ 32 = 2 ^ 32 - 1 - x
      omega
    | true => exact Nat.mod_eq_of_lt (by show 2 ^ 64 - 1 - x < 2 ^ 64; omega)

/-- Settles O26: the bitwise words, the moves, and the immediate forms. -/
theorem vectorMovesAndLogic : Obligations.VectorMovesAndLogic := ⟨vectorBitwiseLogic, vectorMoves, vectorImmediates⟩

end Sys2Proof.Machine
end

section
/-! LEMMAS. The special functions at the inputs that R136 lists, and Gumbel noise (R136, R137). -/

namespace Sys2Proof.Machine

/-! ## Special inputs (R136) -/

section
variable {F : Sfu} {f : Fmt} {r : Rnd} {sat : Bool} {x y : XReal} {seed : Nat}

theorem sfu_of_special (h : sfuSpecial F x = some y) : sfu F f r sat x seed = f.round r sat y := by
  simp only [sfu, h]

theorem sfu_of_closed {neg : Bool} {n d : Nat} {e : Int} (hs : sfuSpecial F (.num neg n d e) = none)
    (hc : sfuClosed F neg n d e = some y) : sfu F f r sat (.num neg n d e) seed = f.round r sat y := by
  simp only [sfu, hs, hc]

end

theorem sfuSpecial_inf {op : Nat} (hop : op < 8) (neg : Bool) : sfuSpecial (Sfu.of op) (.inf neg) =
    some ([.num neg 0 1 0, if neg then .nan else .num false 0 1 0, if neg then .num false 0 1 0 else .inf false,
      if neg then .nan else .inf false, .nan, .nan, .num neg 1 1 0,
      if neg then .num false 0 1 0 else .num false 1 1 0][op]?.getD .nan) := by
  interval_cases op <;> rfl

theorem sfuSpecial_zero {op : Nat} (hop : op < 8) (neg : Bool) (d : Nat) (e : Int) : sfuSpecial (Sfu.of op) (.num neg 0 d e) =
    some ([.inf neg, .inf neg, .num false 1 1 0, .inf true, .num neg 0 1 0, .num false 1 1 0, .num neg 0 1 0,
      .num false 1 2 0][op]?.getD .nan) := by
  interval_cases op <;> rfl

/-- The reciprocal root and the logarithm of a number below zero. -/
theorem sfuSpecial_negative {op : Nat} (hop : op = 1 ∨ op = 3) {n : Nat} (hn : n ≠ 0) (d : Nat) (e : Int) :
    sfuSpecial (Sfu.of op) (.num true n d e) = some .nan := by
  rcases hop with rfl | rfl <;> simp [sfuSpecial, Sfu.of, hn]

theorem sfuSpecial_rcp (neg : Bool) {n : Nat} (hn : n ≠ 0) (d : Nat) (e : Int) : sfuSpecial .rcp (.num neg n d e) = none := by
  simp [sfuSpecial, hn]

theorem acceptShortF_float {t : ElemTy} {fms : Vector (BitVec 32) 16} {f : Fmt} (hf : t.fmt fms = some f) (hn : t.narrowIndex = none)
    (h64 : t.is64 = false) : acceptShortF t = true := by
  have hint : t.isInt = false := by
    by_contra h
    rw [ElemTy.fmt_int (by simpa using h)] at hf
    exact absurd hf (by simp)
  simp [acceptShortF, hint, hn, h64]

theorem vectorTranscendentals : VectorTranscendentals := by
  intro w s c t f offs hf hnarrow h64 hlt h op fit one zero atZero atInf g
  refine ⟨?_, fun x => ⟨fun hx => ?_, fun neg hx => ?_, fun neg n d e hx => ⟨fun hn => ?_, fun hn hneg hop => ?_, fun hn hop => ?_⟩⟩⟩
  · refine elementResult_of_op (spec := sfuSpec w) h rfl rfl (acceptShortF_float hf hnarrow h64) fun o _ X _ y tb _ => ?_
    have hlane : (sfuSpec w c).op t (sourceType t tb) (sourceType t (c.vreg (stepAt w.d o)).tag) (X w.a) y (X w.d) = g (X w.a) := by
      simp only [sfuSpec, hf]
      rfl
    rw [hlane]
  · exact sfu_of_special (by rw [hx]; rfl)
  · exact sfu_of_special (by rw [hx]; exact sfuSpecial_inf hlt neg)
  · subst hn
    exact sfu_of_special (by rw [hx]; exact sfuSpecial_zero hlt neg d e)
  · subst hneg
    exact sfu_of_special (by rw [hx]; exact sfuSpecial_negative hop hn d e)
  · have hF : Sfu.of (fnOP w).toNat = .rcp := if_pos hop
    show sfu (Sfu.of (fnOP w).toNat) _ _ _ _ _ = _
    rw [hx, hF]
    exact sfu_of_closed (sfuSpecial_rcp neg hn d e) rfl

/-! ## Gumbel noise (R137) -/

theorem vectorGumbelNoise : VectorGumbelNoise := by
  intro w s c t f h hf hnarrow h64 hfirst htag E hd hc step hash key noise
  have hreserved : tagReserved false (c.vreg w.c.toNat).tag = false := by rw [htag]; rfl
  have htag' : ((c.vreg w.c.toNat).tag != 0x22) = false := by rw [htag]; rfl
  have he : exec (.vgumbel w) s = .next (s.finishVec (c.writeVec w.d.toNat t.is64 E (fun l => laneMap t.width t.perLane fun e =>
      gumbelElem c.fmts w.rnd (w.sat = 1) key t (c.element w.d.toNat t l e) (c.laneValue w.c.toNat false l + e)) t.tag)
      [w.d.toNat, w.c.toNat] [w.d.toNat]) := by
    refine (anyInstr_run h _).trans (runBody_ok ?_)
    simp only [firstType_of_accepted hfirst (acceptShortF_float hf hnarrow h64) 0, eff_ok_bind, hreserved, htag', Bool.false_eq_true,
      if_false, consume_source (E := guardSet w.guard c) hd, consume_source (E := guardSet w.guard c) hc, Crew.element, h64]
    rfl
  obtain ⟨c', hresult, honly, hvalues⟩ := vectorResult_elements h (firstType_legal hfirst) (fun p => absurd p (by simp [h64])) he
  rw [h64] at honly
  refine ⟨c', hresult, honly, hvalues.congr fun l e => congrArg (· % 2 ^ t.width) ?_⟩
  simp only [gumbelElem, hf]
  have hbits : ∀ x : W64, (x.extractLsb' 40 24).toNat = x.toNat / 2 ^ 40 := fun x => by
    rw [toNat_field, Nat.mod_eq_of_lt]
    have := x.isLt
    omega
  rw [hbits]
  rfl

/-- Settles O30: VSFU's special inputs from the model's table, and the noise of VGUMBEL. -/
theorem vectorSpecialFunctions : Obligations.VectorSpecialFunctions := ⟨vectorTranscendentals, vectorGumbelNoise⟩

end Sys2Proof.Machine
end

section
/-! LEMMAS. Votes over the counted lanes, and shuffles between lanes (R133 to R135). -/

namespace Sys2Proof.Machine

/-! ## Lists of lanes -/

theorem lanesOf_and (n : Nat) (x y : Mask) : lanesOf n (x &&& y) = (lanesOf n x).filter fun l => y.getLsbD l := by
  simp [lanesOf, List.filter_filter, BitVec.getLsbD_and, Bool.and_comm]

theorem lanesOf_and_not {n : Nat} (hn : n ≤ 1024) (x y : Mask) : lanesOf n (x &&& ~~~y) = (lanesOf n x).filter fun l => !y.getLsbD l := by
  rw [lanesOf_and]
  refine List.filter_congr fun l hl => ?_
  have hlt : l < 1024 := by
    have := List.mem_range.1 (List.mem_filter.1 hl).1
    omega
  simp [hlt]

theorem mem_lanesOf {n l : Nat} {m : Mask} : l ∈ lanesOf n m ↔ l < n ∧ m.getLsbD l = true := by
  rw [lanesOf, List.mem_filter, List.mem_range]

/-- A set made of listed lanes has no others. -/
theorem mem_of_getLsbD_maskOf {ls : List Nat} {j : Nat} (h : (maskOf ls).getLsbD j = true) : j ∈ ls := by
  have hfold : ∀ a, (ls.foldl (fun a l => a ||| 1 <<< l) a).testBit j = true → a.testBit j = true ∨ j ∈ ls := by
    clear h
    induction ls with
    | nil => exact fun a ha => .inl ha
    | cons l rest ih =>
      intro a ha
      rcases ih _ ha with hbit | hmem
      · rw [Nat.testBit_or, Bool.or_eq_true] at hbit
        refine hbit.imp_right fun hone => List.mem_cons.2 (.inl ?_)
        rw [Nat.one_shiftLeft, Nat.testBit_two_pow] at hone
        exact (of_decide_eq_true hone).symm
      · exact .inr (List.mem_cons_of_mem l hmem)
  rw [maskOf, BitVec.getLsbD_ofNat, Bool.and_eq_true] at h
  rcases hfold 0 h.2 with hzero | hmem
  · exact absurd hzero (by simp)
  · exact hmem

/-! ## VVOTE (R133) -/

theorem voteResult_eq {op n : Nat} (hn : n ≤ 1024) (counted pred : Mask) :
    let hits := (lanesOf n counted).filter fun l => pred.getLsbD l
    voteResult op n counted pred =
      match op with
      | 0 => truthWord (hits ≠ [])
      | 1 => truthWord (hits = lanesOf n counted)
      | 2 => BitVec.ofNat 64 hits.length
      | _ => BitVec.ofNat 64 (hits.head?.getD 1024) := by
  intro hits
  simp only [voteResult, lanesOf_and, lanesOf_and_not hn]
  match op with
  | 0 => exact flagWord_eq (by simp [hits])
  | 1 =>
    refine flagWord_eq ?_
    rw [List.isEmpty_iff, List.filter_eq_nil_iff, List.filter_eq_self]
    simp
  | 2 => rfl
  | n + 3 => rfl

theorem votes {w : RegForm} {s : State} {c : Crew} (h : s.crewAt s.cur = some c) {v : W64}
    (hv : voteResult (fnOP w).toNat c.lanes (c.mask w.b &&& guardSet w.guard c) (c.mask w.a) = v) :
    ∃ c', VectorResult (.vvote w) s (c.setS w.d v) c' ∧ OnlyVectors c c' [] := by
  have he : exec (.vvote w) s = .next (s.finishVec (c.setS w.d v) [] []) := by
    rw [← hv]
    exact (anyInstr_run h _).trans (runBody_ok rfl)
  obtain ⟨t, ht, hframe⟩ := runsOn_of_finish h (c.setS_place w.d v) he
  refine ⟨_, ⟨t, ht, ?_, vectorCrew_afterVec _ [] []⟩, (OnlyVectors.refl c []).congr ?_⟩
  · rw [State.spillTurn_setS]
    exact hframe
  · rw [Crew.afterVec_vregs, Crew.setS_eq]

/-! ## VSHUF and VSHUFI (R134, R135) -/

/-- The lane that a shuffle reads for a lane, as the statements name it. -/
def Pick.of : Option Nat → Pick
  | none => .zero
  | some j => .lane j

def Pick.lane? (p : Pick) : Option Nat :=
  match p with
  | .lane j => some j
  | .zero => none

/-- A function of the lane that is read, 0 for none. -/
def Pick.read (f : Nat → Nat) (p : Pick) : Nat :=
  match p with
  | .zero => 0
  | .lane j => f j

@[simp] theorem Pick.lane?_of (o : Option Nat) : (Pick.of o).lane? = o := by cases o <;> rfl

@[simp] theorem Pick.read_of (f : Nat → Nat) (o : Option Nat) : (Pick.of o).read f = (o.map f).getD 0 := by cases o <;> rfl

/-- A shuffle, with its picks taken apart by name. -/
theorem shuffle_eq (s : State) (c : Crew) (E : Mask) (d a : Nat) (pick : Nat → Pick) (reads : List Nat) :
    shuffle s c E d a pick reads = (do
      let ta := (c.vreg a).tag
      checkReserved 1 ta
      let pair := tagIs64 ta
      needEven pair d
      needEven pair a
      let src := c.source a pair
      let read := (lanesOf c.lanes E).filterMap fun l => (pick l).lane?
      src.consume c.lanes (maskOf read)
      let c' := c.writeVec d pair E (fun l => (pick l).read fun j => if c.live.getLsbD j then src.lane j else 0) ta
      .ok (s.finishVec (if read.any fun j => !c.live.getLsbD j then c'.setVoidRead else c') (regsOf a pair ++ reads) (regsOf d pair))) :=
  rfl

theorem Pick.of_ite (p : Prop) [Decidable p] (j : Nat) : Pick.of (if p then some j else none) = if p then .lane j else .zero := by
  split <;> rfl

/-- What a shuffle reads for each lane. -/
def Crew.shuffled (c : Crew) (a : Nat) (pair : Bool) (pick : Nat → Option Nat) (l : Nat) : Nat :=
  ((pick l).map fun j => if c.live.getLsbD j then c.laneValue a pair j else 0).getD 0

/-- A shuffle of the lanes of E reads a lane that is not live. -/
def Crew.readsVoid (c : Crew) (E : Mask) (pick : Nat → Option Nat) : Bool :=
  (List.range c.lanes).any fun l => E.getLsbD l && ((pick l).map fun j => !c.live.getLsbD j).getD false

/-- The crew with a shuffle's result, and VOIDREAD where a lane read was not live. -/
def Crew.afterShuffle (c : Crew) (E : Mask) (d a : Nat) (pair : Bool) (pick : Nat → Option Nat) : Crew :=
  let c' := c.writeVec d pair E (c.shuffled a pair pick) (c.vreg a).tag
  if c.readsVoid E pick then c'.setVoidRead else c'

section
variable {s : State} {c : Crew} {E : Mask} {pick : Nat → Option Nat}

theorem any_picks : ((lanesOf c.lanes E).filterMap pick).any (fun j => !c.live.getLsbD j) = c.readsVoid E pick := by
  rw [Bool.eq_iff_iff]
  simp only [Crew.readsVoid, List.any_eq_true, List.mem_filterMap, mem_lanesOf, List.mem_range, Bool.and_eq_true]
  constructor
  · rintro ⟨j, ⟨l, ⟨hl, hE⟩, hp⟩, hj⟩
    exact ⟨l, hl, hE, by rw [hp]; exact hj⟩
  · rintro ⟨l, hl, hE, hp⟩
    cases hpick : pick l with
    | none => exact absurd hp (by simp [hpick])
    | some j => exact ⟨j, ⟨l, ⟨hl, hE⟩, hpick⟩, by simpa [hpick] using hp⟩

theorem Crew.shuffled_lt (a : Nat) (pair : Bool) (l : Nat) : c.shuffled a pair pick l < 2 ^ (if pair then 64 else 32) := by
  unfold Crew.shuffled
  cases pick l with
  | none => exact Nat.two_pow_pos _
  | some j =>
    simp only [Option.map_some, Option.getD_some]
    split
    · exact c.laneValue_lt a pair j
    · exact Nat.two_pow_pos _

/-- A shuffle whose operands pass their checks. -/
theorem shuffle_ok {d a : Nat} {pair : Bool} (hpair : tagIs64 (c.vreg a).tag = pair) (hreserved : tagReserved false (c.vreg a).tag = false)
    (even : pair = true → d % 2 = 0 ∧ a % 2 = 0)
    (hclean : ∀ q l j, q ∈ regsOf a pair → l < c.lanes → E.getLsbD l = true → pick l = some j → (c.vreg q).marks.getLsbD j = false)
    (reads : List Nat) : shuffle s c E d a (fun l => Pick.of (pick l)) reads =
      .ok (s.finishVec (c.afterShuffle E d a pair pick) (regsOf a pair ++ reads) (regsOf d pair)) := by
  have hconsume : (c.source a pair).consume c.lanes (maskOf ((lanesOf c.lanes E).filterMap pick)) = .ok () :=
    Source.consume_ok fun j _ hj => by
      obtain ⟨l, hl, hpick⟩ := List.mem_filterMap.1 (mem_of_getLsbD_maskOf hj)
      obtain ⟨hlanes, hE⟩ := mem_lanesOf.1 hl
      by_contra hmark
      obtain ⟨q, hq, hmarked⟩ := (marks_source c a pair j).1 (by simpa using hmark)
      exact absurd (hclean q l j hq hlanes hE hpick) (by simp [hmarked])
  simp only [shuffle_eq, checkReserved_ok hreserved, hpair, needEven_ok fun p => (even p).1, needEven_ok fun p => (even p).2, eff_ok_bind,
    Pick.lane?_of, Pick.read_of, hconsume, any_picks]
  rfl

theorem Crew.afterShuffle_eq (d a : Nat) (pair : Bool) : c.afterShuffle E d a pair pick = { c with
    vregs := (c.writeVec d pair E (c.shuffled a pair pick) (c.vreg a).tag).vregs
    cflags := if c.readsVoid E pick then c.cflags ||| 1 else c.cflags } := by
  unfold Crew.afterShuffle
  simp only
  rw [Crew.writeVec_eq]
  split <;> rfl

/-- What a shuffle leaves: VOIDREAD beside its registers. -/
theorem shuffles {i : Instr} {d a : BitVec 8} {reads : List Nat} (h : s.crewAt s.cur = some c)
    (even : tagIs64 (c.vreg a.toNat).tag = true → d.toNat % 2 = 0)
    (he : exec i s = .next (s.finishVec (c.afterShuffle E d.toNat a.toNat (tagIs64 (c.vreg a.toNat).tag) pick) reads
      (regsOf d.toNat (tagIs64 (c.vreg a.toNat).tag)))) :
    ∃ c', (∃ t, exec i s = .next t ∧ CrewAndCore (s.spillTurn c c') t c') ∧
      c' = { c with vregs := c'.vregs, pc := c.pc + 8, boundBlocks := c'.boundBlocks, spillBlocks := c'.spillBlocks
                    cflags := c'.cflags } ∧
      (c'.cflags.getLsbD 0 = (c.cflags.getLsbD 0 || c.readsVoid E pick)) ∧
      OnlyVectors c c' (regsOf d.toNat (tagIs64 (c.vreg a.toNat).tag)) ∧
      LaneValues c c' E d.toNat (tagIs64 (c.vreg a.toNat).tag) (c.vreg a.toNat).tag
        (c.shuffled a.toNat (tagIs64 (c.vreg a.toNat).tag) pick) fun _ => false := by
  have hb := Crew.afterShuffle_eq (c := c) (E := E) (pick := pick) d.toNat a.toNat (tagIs64 (c.vreg a.toNat).tag)
  generalize c.afterShuffle E d.toNat a.toNat (tagIs64 (c.vreg a.toNat).tag) pick = b at hb he
  have hvec := vectorCrew_afterVec b reads (regsOf d.toNat (tagIs64 (c.vreg a.toNat).tag))
  have hvregs := b.afterVec_vregs reads (regsOf d.toNat (tagIs64 (c.vreg a.toNat).tag))
  generalize hc' : b.afterVec reads (regsOf d.toNat (tagIs64 (c.vreg a.toNat).tag)) = c' at hvec hvregs
  have hregs : ∀ q, q ∈ regsOf d.toNat (tagIs64 (c.vreg a.toNat).tag) → q < 256 := fun q => regsOf_lt d.isLt even
  have hwritten : c'.vregs = (c.writeVec d.toNat (tagIs64 (c.vreg a.toNat).tag) E
      (c.shuffled a.toNat (tagIs64 (c.vreg a.toNat).tag) pick) (c.vreg a.toNat).tag).vregs := by rw [hvregs, hb]
  refine ⟨c', hc' ▸ runsOn_of_finish h (by rw [hb]) he, ?_, ?_, (onlyVectors_writeVec hregs E _ _).congr hwritten,
    (laneValues_writeVec hregs E _ _ (Crew.shuffled_lt _ _)).congr rfl (fun _ _ => rfl) fun q _ => Crew.vreg_congr hwritten q⟩
  · have hrest := hvec.rest
    rw [hvec.pc, hb] at hrest
    exact hrest
  · have hflag : b.cflags.getLsbD 0 = (c.cflags.getLsbD 0 || c.readsVoid E pick) := by
      rw [hb]
      cases c.readsVoid E pick <;> simp
    rcases hvec.flags with hsame | hspill
    · rw [hsame, hflag]
    · rw [hspill, BitVec.getLsbD_or, hflag]
      simp

end

/-- The picks of VSHUFI's modes (R135). -/
theorem shufMode_eq (mode k n l : Nat) : shufMode mode k n l = Pick.of
    (match mode with
    | 0 => some (if l ^^^ k < n then l ^^^ k else l)
    | 1 => some ((l + k) % n)
    | 2 => if k < n then some k else none
    | 3 => some (if k ≤ l then l - k else l)
    | _ => some (if l + k < n then l + k else l)) := by
  unfold shufMode
  match mode with
  | 0 => exact (apply_ite Pick.lane _ _ _).symm
  | 1 => rfl
  | 2 => exact (Pick.of_ite _ _).symm
  | 3 => exact (apply_ite Pick.lane _ _ _).symm
  | m + 4 =>
    simp only [Nat.add_eq_zero_iff, OfNat.ofNat_ne_zero, and_false, if_false, Nat.reduceEqDiff]
    exact (apply_ite Pick.lane _ _ _).symm

/-- VSHUF reads the lane that b's word names. -/
theorem exec_vshuf {w : RegForm} {s : State} {c : Crew} {pick : Nat → Option Nat} (h : s.crewAt s.cur = some c)
    (htb : (c.vreg w.b.toNat).tag = 0x12 ∨ (c.vreg w.b.toNat).tag = 0x22) (hb : Unmarked c (guardSet w.guard c) w.b.toNat false)
    (hreserved : tagReserved false (c.vreg w.a.toNat).tag = false)
    (hpick : ∀ l, pick l = if ((c.vreg w.b.toNat).word l).toNat < c.lanes then some ((c.vreg w.b.toNat).word l).toNat else none) :
    exec (.vshuf w) s = runBody s c fun s c =>
      shuffle s c (guardSet w.guard c) w.d.toNat w.a.toNat (fun l => Pick.of (pick l)) [w.b.toNat] := by
  refine (anyInstr_run h _).trans ?_
  have hshuffle : (fun l => if (c.source w.b.toNat false).lane l < c.lanes then Pick.lane ((c.source w.b.toNat false).lane l) else Pick.zero) =
      fun l => Pick.of (pick l) := funext fun l => by
    rw [hpick, Pick.of_ite]
    rfl
  have htag : tagReserved false (c.vreg w.b.toNat).tag = false ∧
      ((c.vreg w.b.toNat).tag != 0x12 && (c.vreg w.b.toNat).tag != 0x22) = false := by
    rcases htb with htb | htb <;> rw [htb] <;> decide
  unfold runBody
  simp only [checkReserved_ok hreserved, eff_ok_bind, htag.1, htag.2, consume_source hb, hshuffle, Bool.false_eq_true, if_false]

/-- Settles O29: a vote over the counted lanes, and the two shuffles by the lane that each lane reads. -/
theorem votesAndShuffles : Obligations.VotesAndShuffles := by
  refine ⟨?_, ?_⟩
  · intro w s c h hlanes counted hits v
    have hcounted : lanesOf c.lanes (c.mask w.b &&& guardSet w.guard c) = counted := by
      simp only [lanesOf, BitVec.getLsbD_and]
      rfl
    refine votes h ((voteResult_eq hlanes _ _).trans ?_)
    rw [hcounted] <;> rfl
  · intro s c i E d a pick h hlanes pair hword even hclean
    obtain ⟨w, rfl, rfl, rfl, rfl, htb, hb, hreserved, hpick⟩ | ⟨w, t, rfl, rfl, rfl, rfl, hint, htyped, hpick⟩ := hword
    · exact shuffles h (fun p => (even p).1) ((exec_vshuf h htb hb hreserved hpick).trans
        (runBody_ok (shuffle_ok rfl hreserved even hclean _)))
    · have hpicks : shufMode (w.imm.extractLsb' 0 3).toNat (w.imm.extractLsb' 3 10).toNat c.lanes = fun l => Pick.of (pick l) :=
        funext fun l => by
          rw [shufMode_eq, hpick, BitVec.extractLsb'_toNat, BitVec.extractLsb'_toNat, Nat.shiftRight_eq_div_pow, Nat.shiftRight_eq_div_pow,
            pow_zero, Nat.div_one] <;> rfl
      have hreserved : tagReserved false (c.vreg w.a.toNat).tag = false := by rw [htyped.1]; exact htyped.2.2.2
      refine shuffles h (fun p => (even p).1) ((anyInstr_run h _).trans (runBody_ok (Eq.trans ?_ (shuffle_ok rfl hreserved even hclean []))))
      simp only [firstType_typed htyped hint, eff_ok_bind, hpicks]

end Sys2Proof.Machine
end

section
/-! LEMMAS. Rows of channels: the row that a crew's pop takes, the room for a push, and the words between rows and registers
(R114, R115, R153 to R155, R162, R238). -/

namespace Sys2Proof.Machine

/-! ## A channel's rows replaced -/

theorem State.crewAt_onCore (s : State) (d k : Nat) {f : Core → Core} (hf : ∀ x, (f x).berths = x.berths) (r : CrewRef) :
    (s.onCore d k f).crewAt r = s.crewAt r := by
  simp only [State.crewAt, State.core_onCore]
  split
  case isTrue h =>
    obtain ⟨hd, hk, -⟩ := h
    rw [hd, hk, Core.crew, hf]
    rfl
  case isFalse => rfl

section
variable (s : State) (d k q : Nat) (rows : List Row)

@[simp] theorem State.crewAt_setRows (r : CrewRef) : (s.setRows d k q rows).crewAt r = s.crewAt r := by
  unfold State.setRows
  simp only
  split
  · rw [State.onChan, State.crewAt_onCore]
    exact fun _ => rfl
  · rw [State.onStream, State.crewAt_onCore]
    exact fun _ => rfl
  · rw [State.crewAt_onCore]
    exact fun _ => rfl
  · rfl

@[simp] theorem State.cur_setRows : (s.setRows d k q rows).cur = s.cur := by
  rw [(onlyCores_setRows s d k q rows).package]

end

/-! ## The row that a pop takes (R115, R154, R238) -/

/-- The row r is a crew's next one: its own that it claimed, else the oldest that no crew has claimed. -/
def IsHead (uid : Nat) (pre : List Row) (r : Row) (post : List Row) : Prop :=
  (r.claimed = some uid ∧ ∀ q, q ∈ pre → q.claimed ≠ some uid) ∨
    (r.claimed = none ∧ (∀ q, q ∈ pre → q.claimed ≠ none) ∧ ∀ q, q ∈ pre ++ post → q.claimed ≠ some uid)

/-- The first row of a list that p holds of. -/
theorem findIdx?_first {p : Row → Bool} {pre post : List Row} {r : Row} (hr : p r = true) (hpre : ∀ q, q ∈ pre → p q = false) :
    (pre ++ r :: post).findIdx? p = some pre.length := by
  rw [List.findIdx?_append, List.findIdx?_eq_none_iff.2 hpre, List.findIdx?_cons, hr]
  simp

theorem headFor_of_isHead {uid : Nat} {pre post : List Row} {r : Row} (h : IsHead uid pre r post) :
    headFor uid (pre ++ r :: post) = some pre.length := by
  unfold headFor
  rcases h with ⟨hown, hpre⟩ | ⟨hfree, hpre, hown⟩
  · rw [findIdx?_first (by simp [hown]) (by simpa using hpre)]
    rfl
  · have none : (pre ++ r :: post).findIdx? (fun q => q.claimed = some uid) = none := by
      refine List.findIdx?_eq_none_iff.2 fun q hq => decide_eq_false ?_
      rcases List.mem_append.1 hq with hq | hq
      · exact hown q (List.mem_append_left _ hq)
      · rcases List.mem_cons.1 hq with rfl | hq
        · rw [hfree]
          exact nofun
        · exact hown q (List.mem_append_right _ hq)
    rw [none, findIdx?_first (by simp [hfree]) (by simpa using hpre)]
    rfl

theorem headFor_none {uid : Nat} {rows : List Row} (h : ∀ q, q ∈ rows → q.claimed ≠ none ∧ q.claimed ≠ some uid) :
    headFor uid rows = none := by
  have own : rows.findIdx? (fun q => q.claimed = some uid) = none :=
    List.findIdx?_eq_none_iff.2 fun q hq => decide_eq_false (h q hq).2
  have free : rows.findIdx? (fun q => q.claimed = none) = none :=
    List.findIdx?_eq_none_iff.2 fun q hq => decide_eq_false (h q hq).1
  rw [headFor, own, free]
  rfl

section
variable {s : State} {c : Crew} {q : Nat}

/-- A pop from an endpoint that does not give rows. -/
theorem popRow_refused (h : ¬s.givesRows c.place.die c.place.core q) : s.popRow c q = vecFault 4 := by
  unfold State.givesRows at h
  unfold State.popRow
  cases hend : (s.chan c.place.die c.place.core q).endpoint with
  | rowQueue => exact absurd trivial (by simpa only [hend] using h)
  | stream e =>
    simp only [hend, Bool.not_eq_false] at h
    simp only [hend, h, if_true]
  | drainPort => exact absurd trivial (by simpa only [hend] using h)
  | lockOut l => simp only [hend, if_true]

section
variable (h : s.givesRows c.place.die c.place.core q)
include h

theorem popRow_row {pre post : List Row} {r : Row} (hrows : s.rowsOf c.place.die c.place.core q = pre ++ r :: post)
    (hhead : IsHead c.uid pre r post) : s.popRow c q =
      if r.width != c.lanes then vecFault 4 else .ok (r, s.setRows c.place.die c.place.core q (pre ++ post)) := by
  have hr : (pre ++ r :: post)[pre.length]? = some r := by simp
  have herase : (pre ++ r :: post).eraseIdx pre.length = pre ++ post := by simp [List.eraseIdx_append_of_length_le]
  unfold State.givesRows at h
  unfold State.popRow
  cases hend : (s.chan c.place.die c.place.core q).endpoint with
  | rowQueue => simp only [hend, hrows, headFor_of_isHead hhead, hr, herase, Bool.false_eq_true, if_false]
  | stream e =>
    simp only [hend] at h
    simp only [hend, h, hrows, headFor_of_isHead hhead, hr, herase, Bool.false_eq_true, if_false]
  | drainPort => simp only [hend, hrows, headFor_of_isHead hhead, hr, herase, Bool.false_eq_true, if_false]
  | lockOut l => simp only [hend] at h

theorem popRow_empty (hrows : ∀ r, r ∈ s.rowsOf c.place.die c.place.core q → r.claimed ≠ none ∧ r.claimed ≠ some c.uid) :
    s.popRow c q = if s.mayGive c.place.die c.place.core q then stalled else vecFault 4 := by
  unfold State.givesRows at h
  unfold State.popRow
  cases hend : (s.chan c.place.die c.place.core q).endpoint with
  | rowQueue => simp only [hend, headFor_none hrows, Bool.false_eq_true, if_false]
  | stream e =>
    simp only [hend] at h
    simp only [hend, h, headFor_none hrows, Bool.false_eq_true, if_false]
  | drainPort => simp only [hend, headFor_none hrows, Bool.false_eq_true, if_false]
  | lockOut l => simp only [hend] at h

end

end

/-! ### What an empty endpoint may still give -/

section
variable {s : State} {d k q : Nat}

theorem givesRows_of_port (h : (s.chan d k q).endpoint = .rowQueue ∨ (s.chan d k q).endpoint = .drainPort) : s.givesRows d k q := by
  rcases h with h | h <;> simp only [State.givesRows, h]

theorem mayGive_of_port (h : (s.chan d k q).endpoint = .rowQueue ∨ (s.chan d k q).endpoint = .drainPort) : s.mayGive d k q = true := by
  rcases h with h | h <;> simp only [State.mayGive, h]

theorem givesRows_stream {e : Nat} (h : (s.chan d k q).endpoint = .stream e) : s.givesRows d k q ↔ (s.stream d k e).isWrite = false := by
  simp only [State.givesRows, h]

theorem mayGive_stream {e : Nat} (h : (s.chan d k q).endpoint = .stream e) (hread : (s.stream d k e).isWrite = false) :
    s.mayGive d k q = ((s.stream d k e).state = .ready || (s.stream d k e).state = .running) := by
  simp only [State.mayGive, h, hread]
  rfl

end

section
variable {s : State} {c : Crew} {q : Nat}

/-! ## The room for a push (R115, R154) -/

theorem pushReady_refused (h : s.refusesRow c q) : s.pushReady c q = vecFault 4 := by
  unfold State.refusesRow at h
  unfold State.pushReady
  cases hend : (s.chan c.place.die c.place.core q).endpoint with
  | rowQueue => simp only [hend] at h
  | stream e =>
    simp only [hend] at h
    simp only [hend]
    refine if_pos ?_
    rcases h with h | h | h <;> simp [h]
  | drainPort => simp only [hend]
  | lockOut l => simp only [hend]

/-- An endpoint that takes the crew's rows holds the word back while it is full. -/
theorem pushReady_taken [Decidable (s.hasRoom c q)] (h : ¬s.refusesRow c q) :
    s.pushReady c q = if s.hasRoom c q then .ok () else stalled := by
  unfold State.refusesRow at h
  unfold State.pushReady
  cases hend : (s.chan c.place.die c.place.core q).endpoint with
  | rowQueue => simp only [hend, State.hasRoom]
  | stream e =>
    simp only [hend, not_or, Bool.not_eq_false, not_not] at h
    obtain ⟨hwrite, hstate, hwidth⟩ := h
    simp [hend, hwrite, hstate, hwidth, State.hasRoom]
  | drainPort => simp only [hend, not_true] at h
  | lockOut l => simp only [hend, not_true] at h

end

end Sys2Proof.Machine
end

section
/-! LEMMAS. VPOP and VPUSH (R114, R115, R154, R155, R162). -/

namespace Sys2Proof.Machine

section
variable {s : State} {c : Crew} {E : Mask}

/-- A pushed row is void outside the lanes that are written, and its marks are those of the lanes in it. -/
theorem Crew.makeRow_unmarked (c : Crew) (f : Nat → Nat) (tag : BitVec 8) : c.makeRow E f 0 tag =
    { width := c.lanes, words := (List.range c.lanes).map fun l => if E.getLsbD l then BitVec.ofNat 32 (f l) else 0
      void := c.allLanes &&& ~~~E, marks := 0, tag := tag, de := 0, berthTag := c.place.berth, claimed := none } := by
  rw [Crew.makeRow, show (0 : Mask) &&& E = 0 from BitVec.zero_and]

/-- A word that ends with a row pushed, from the state in which its endpoint has given its row. -/
theorem runsOn_pushRow {i : Instr} {base : State} {reads : List Nat} {q : Nat} {r : Row} (h : base.crewAt base.cur = some c)
    (he : exec i s = .next ((base.pushRow c q r).finishVec c reads [])) :
    ∃ c', RunsOn i s ((base.pushRow c q r).spillTurn c c') c' ∧ VectorCrew c c' ∧ OnlyVectors c c' [] :=
  ⟨_, runsOn_of_finish ((State.crewAt_setRows ..).trans ((congrArg base.crewAt (State.cur_setRows ..)).trans h)) rfl he,
    vectorCrew_afterVec c reads [], (OnlyVectors.refl c []).congr (c.afterVec_vregs reads [])⟩

end

section
variable {w : RegForm} {s : State} {c : Crew} (h : s.crewAt s.cur = some c)
include h

theorem exec_vpop_stalled (hpop : s.popRow c (chanIndex w.a) = stalled) : exec (.vpop w) s = .next s := by
  refine (anyInstr_run h _).trans ?_
  simp only [runBody, hpop]
  rfl

theorem vpop_kills (hpop : s.popRow c (chanIndex w.a) = vecFault 4) : Kills (.vpop w) s c 5 4 [] := by
  refine (anyInstr_run h _).trans (runBody_fault ?_)
  simp only [hpop]
  rfl

/-- A pop of a row of the crew's width. -/
theorem vpop_row {r : Row} {rows : List Row} (hpop : s.popRow c (chanIndex w.a) = .ok (r, s.setRows c.place.die c.place.core (chanIndex w.a) rows))
    (hreserved : tagReserved false r.tag = false) : let Ev := guardSet w.guard c &&& ~~~r.void
    (tagIs64 r.tag = true → Kills (.vpop w) s c 5 5 []) ∧
    (tagIs64 r.tag = false → (∀ l, l < c.lanes → Ev.getLsbD l = true → r.marks.getLsbD l = false) →
      ∃ c', RunsOn (.vpop w) s ((s.setRows c.place.die c.place.core (chanIndex w.a) rows).spillTurn c c') c' ∧ VectorCrew c c' ∧
        OnlyVectors c c' [w.d.toNat] ∧
        LaneValues c c' Ev w.d.toNat false r.tag (fun l => (r.words[l]?.getD 0).toNat) fun _ => false) := by
  refine ⟨fun h64 => ?_, fun h64 hclean => ?_⟩
  · refine (anyInstr_run h _).trans (runBody_fault ?_)
    simp only [hpop, checkReserved_ok hreserved, h64, eff_ok_bind, if_true]
    rfl
  · refine runsOn_write (pair := false) (r := w.d) (base := s.setRows c.place.die c.place.core (chanIndex w.a) rows)
      (reads := []) (writes := [w.d.toNat]) (by simpa using h) nofun (fun l => (r.words[l]?.getD 0).isLt) ((anyInstr_run h _).trans (runBody_ok ?_))
    simp only [hpop, checkReserved_ok hreserved, h64, eff_ok_bind, Bool.false_eq_true, if_false,
      Source.consume_ok (x := r.source) hclean]
    rfl

theorem exec_vpush_stalled (hpush : s.pushReady c (chanIndex w.d) = stalled) : exec (.vpush w) s = .next s := by
  refine (anyInstr_run h _).trans ?_
  simp only [runBody, hpush]
  rfl

theorem vpush_kills (hpush : s.pushReady c (chanIndex w.d) = vecFault 4) : Kills (.vpush w) s c 5 4 [] := by
  refine (anyInstr_run h _).trans (runBody_fault ?_)
  simp only [hpush]
  rfl

/-- A push to an endpoint with room. -/
theorem vpush_row (hpush : s.pushReady c (chanIndex w.d) = .ok ()) (hreserved : tagReserved false (c.vreg w.a.toNat).tag = false) :
    let E := guardSet w.guard c
    let ta := (c.vreg w.a.toNat).tag
    (tagIs64 ta = true → Kills (.vpush w) s c 4 2 [BitVec.ofNat 64 (ta.toNat + 256)]) ∧
    (tagIs64 ta = false → Unmarked c E w.a.toNat false →
      ∃ c', RunsOn (.vpush w) s ((s.pushRow c (chanIndex w.d)
          { width := c.lanes, words := (List.range c.lanes).map fun l => if E.getLsbD l then (c.vreg w.a.toNat).word l else 0
            void := c.allLanes &&& ~~~E, marks := 0, tag := ta, de := 0, berthTag := c.place.berth, claimed := none }).spillTurn c c') c' ∧
        VectorCrew c c' ∧ OnlyVectors c c' []) := by
  intro E ta
  refine ⟨fun h64 => ?_, fun h64 hclean => ?_⟩
  · refine (anyInstr_run h _).trans (runBody_fault ?_)
    simp only [hpush, checkReserved_ok hreserved, show tagIs64 (c.vreg w.a.toNat).tag = true from h64, eff_ok_bind, if_true]
    rfl
  · have hwords : ∀ l, BitVec.ofNat 32 ((c.source w.a.toNat false).lane l) = (c.vreg w.a.toNat).word l := fun l => BitVec.ofNat_toNat ..
    refine runsOn_pushRow (reads := [w.a.toNat]) h ((anyInstr_run h _).trans (runBody_ok ?_))
    simp only [hpush, checkReserved_ok hreserved, show tagIs64 (c.vreg w.a.toNat).tag = false from h64, eff_ok_bind, Bool.false_eq_true,
      if_false, consume_source (E := guardSet w.guard c) hclean, Crew.makeRow_unmarked, hwords]
    rfl

end

theorem rowsOfChannels : RowsOfChannels := by
  classical
  intro w s c h E d k qa qd ch ta rows
  refine ⟨?_, fun hnone => ⟨fun hend => ?_, fun e hend hread => ?_⟩, fun hgives => vpop_kills h (popRow_refused hgives),
    fun _ htaken hroom hreserved => vpush_row h ((pushReady_taken htaken).trans (if_pos hroom)) hreserved,
    fun htaken hroom => exec_vpush_stalled h ((pushReady_taken htaken).trans (if_neg hroom)),
    fun hrefuses => vpush_kills h (pushReady_refused hrefuses)⟩
  · intro pre r post hgives hrows hhead
    have hpop := popRow_row hgives hrows hhead
    refine ⟨fun hwidth => vpop_kills h (hpop.trans (if_pos (by simpa using hwidth))), fun hwidth hreserved => ?_, fun hwidth hreserved => ?_⟩
    · exact (vpop_row h (hpop.trans (if_neg (by simpa using hwidth))) hreserved).1
    · exact (vpop_row h (hpop.trans (if_neg (by simpa using hwidth))) hreserved).2
  · refine exec_vpop_stalled h ((popRow_empty (givesRows_of_port hend) hnone).trans (if_pos ?_))
    exact mayGive_of_port hend
  · have hpop := popRow_empty ((givesRows_stream hend).2 hread) hnone
    rw [mayGive_stream hend hread] at hpop
    refine ⟨fun hstate => exec_vpop_stalled h (hpop.trans (if_pos ?_)), fun hready hrun => vpop_kills h (hpop.trans (if_neg ?_))⟩
    · simpa using hstate
    · simp [hready, hrun]

end Sys2Proof.Machine
end

section
/-! LEMMAS. Elementwise words of integers with a row as a, a channel as d, or both (R113 to R115). -/

namespace Sys2Proof.Machine

/-- What RowOperands assumes of a word: its row or its register as a, the room for its result, its types and its unmarked lanes. -/
structure OnRows (w : RegForm) (s : State) (c : Crew) (t : ElemTy) (row : Row) (base : State) : Prop where
  crew : s.crewAt s.cur = some c
  int : t.isInt = true
  word : t.is64 = false
  chans : fnQA w = true ∨ fnQD w = true
  popped : fnQA w = true → s.popRow c (chanIndex w.a) = .ok (row, base)
  register : fnQA w = false → base = s ∧ row.tag = (c.vreg w.a.toNat).tag ∧ row.void = 0 ∧ row.marks = (c.vreg w.a.toNat).marks ∧
    ∀ l, row.words[l]?.getD 0 = (c.vreg w.a.toNat).word l
  turn : base.crewAt base.cur = some c
  room : fnQD w = true → base.pushReady c (chanIndex w.d) = .ok ()
  first : firstType c.fmts w.ety acceptAny 1 row.tag = .ok t
  second : checkTyped c.fmts w.ety t 2 (c.vreg w.b.toNat).tag = .ok ()
  clean : ∀ l, l < c.lanes → (guardSet w.guard c &&& ~~~row.void).getLsbD l = true → row.marks.getLsbD l = false
  cleanB : Unmarked c (guardSet w.guard c &&& ~~~row.void) w.b.toNat false

/-- The result of an elementwise word of two sources on rows, before its end: in d's lanes, or at the tail of d's endpoint. -/
def rowEnd (w : RegForm) (base : State) (c : Crew) (Ev : Mask) (f : Nat → Nat) (tag : BitVec 8) : State :=
  let reads := (if fnQA w then [] else [w.a.toNat]) ++ [w.b.toNat]
  if fnQD w then (base.pushRow c (chanIndex w.d) (c.makeRow Ev f 0 tag)).finishVec c reads []
  else base.finishVec (c.writeVec w.d.toNat false Ev f tag) reads [w.d.toNat]

/-- What an elementwise word on rows leaves, with f the result of each element: its lanes of Ev in register d, or a row of them at the tail
of d's endpoint. -/
def RowResult (i : Instr) (w : RegForm) (s base : State) (c : Crew) (t : ElemTy) (Ev : Mask) (f : Nat → Nat → Nat) : Prop :=
  (fnQD w = false → ∃ c', RunsOn i s (base.spillTurn c c') c' ∧ VectorCrew c c' ∧ OnlyVectors c c' [w.d.toNat] ∧
    LaneElements c c' Ev w.d.toNat t f) ∧
  (fnQD w = true → ∃ c' words, RunsOn i s ((base.setRows c.place.die c.place.core (chanIndex w.d)
      (base.rowsOf c.place.die c.place.core (chanIndex w.d) ++
        [{ width := c.lanes, words := words, void := c.allLanes &&& ~~~Ev, marks := 0, tag := t.tag, de := 0
           berthTag := c.place.berth, claimed := none }])).spillTurn c c') c' ∧
    VectorCrew c c' ∧ OnlyVectors c c' [] ∧ words.length = c.lanes ∧
    ∀ l e, l < c.lanes → e < t.perLane →
      elemOf t.width (words[l]?.getD 0).toNat e = if Ev.getLsbD l then f l e % 2 ^ t.width else 0)

section
variable {i : Instr} {w : RegForm} {s base : State} {c : Crew} {t : ElemTy} {row : Row} (h : OnRows w s c t row base)
include h

/-- The first operand of the word: the popped row, or the register. -/
theorem OnRows.operand : ∃ x : Option (Row × State),
    (if fnQA w then (s.popRow c (chanIndex w.a)).map some else .ok none : Eff (Option (Row × State))) = .ok x ∧
      (x.map Prod.snd).getD s = base ∧ (x.map fun y => y.1.tag).getD (c.vreg w.a.toNat).tag = row.tag ∧
      ∃ a : Source, (x.map fun y => y.1.source).getD (c.source w.a.toNat false) = a ∧ a.void = row.void ∧
        a.lane = (fun l => (row.words[l]?.getD 0).toNat) ∧ a.consume c.lanes (guardSet w.guard c &&& ~~~row.void) = .ok () := by
  cases hA : fnQA w with
  | true =>
    refine ⟨some (row, base), ?_, rfl, rfl, _, rfl, rfl, rfl, Source.consume_ok h.clean⟩
    rw [h.popped hA]
    rfl
  | false =>
    obtain ⟨hbase, htag, hvoid, hmarks, hwords⟩ := h.register hA
    refine ⟨none, rfl, hbase.symm, htag.symm, _, rfl, hvoid.symm, funext fun l => ?_, Source.consume_ok ?_⟩
    · rw [hwords]
      rfl
    · show ∀ l, l < c.lanes → _ → (c.vreg w.a.toNat).marks.getLsbD l = false
      exact hmarks ▸ h.clean

/-- An elementwise word of two sources on rows, lane by lane. -/
theorem OnRows.onChans_ok {p : VecSpec} (hbit : p.bit = false) (haccept : p.accept t = true) (hB : p.useB = true) (hD : p.useD = false) :
    p.onChans w s c (guardSet w.guard c) = .ok (rowEnd w base c (guardSet w.guard c &&& ~~~row.void)
      (fun l => p.lane (some t) row.tag (c.vreg w.b.toNat).tag (c.vreg w.d.toNat).tag (row.words[l]?.getD 0).toNat
        (c.laneValue w.b.toNat t.is64 l) (c.laneValue w.d.toNat t.is64 l)) t.tag) := by
  have first : ∀ pos, p.firstCheck c w pos row.tag = .ok (some t) := fun pos =>
    firstCheck_typed hbit (firstType_of_accepted h.first haccept pos)
  have rest : p.restCheck c w (some t) (c.vreg w.b.toNat).tag (c.vreg w.d.toNat).tag = .ok () :=
    restCheck_ok (fun _ => h.second) fun hd => absurd (hD.symm.trans hd) nofun
  have hpair : pairStep (some t) row.tag = false := h.word
  have consumeB := consume_source h.cleanB
  have room := h.room
  obtain ⟨x, hx, hbase, htag, a, ha, hvoid, hlane, hconsume⟩ := h.operand
  rw [h.word]
  unfold VecSpec.onChans rowEnd
  cases hA : fnQA w with
  | true =>
    simp only [hA, if_true] at hx
    cases hQD : fnQD w
    all_goals
      simp only [hx, eff_ok_bind, hbase, htag, ha, hvoid, hlane, first, hpair, rest, hconsume, consumeB, hB, hD, hQD, room, if_true, if_false,
        Bool.false_eq_true, List.append_nil]
      rfl
  | false =>
    rw [hA] at hx
    obtain rfl : none = x := Except.ok.inj hx
    cases hQD : fnQD w
    all_goals
      simp only [eff_ok_bind, hbase, htag, ha, hvoid, hlane, first, hpair, rest, hconsume, consumeB, hB, hD, hQD, room, if_true, if_false,
        Bool.false_eq_true, List.append_nil]
      rfl

/-- An elementwise word of two sources on rows whose result for each element is f. -/
theorem OnRows.result {spec : Crew → VecSpec} {f : Nat → Nat → Nat} (hi : exec i s = vecRun spec w s) (hbit : (spec c).bit = false)
    (haccept : (spec c).accept t = true) (hB : (spec c).useB = true) (hD : (spec c).useD = false)
    (hop : ∀ l e z, (spec c).op t (sourceType t (c.vreg w.b.toNat).tag) (sourceType t (c.vreg w.d.toNat).tag)
      (elemOf t.width (row.words[l]?.getD 0).toNat e) (c.element w.b.toNat t l e) z % 2 ^ t.width = f l e % 2 ^ t.width) :
    RowResult i w s base c t (guardSet w.guard c &&& ~~~row.void) f := by
  have hlegal := firstType_legal h.first
  have hfits : ∀ l, laneMap t.width t.perLane (f l) < 2 ^ 32 := fun l => by simpa [h.word] using laneMap_fits hlegal (f l)
  have hvalue : (fun l => (spec c).lane (some t) row.tag (c.vreg w.b.toNat).tag (c.vreg w.d.toNat).tag (row.words[l]?.getD 0).toNat
      (c.laneValue w.b.toNat t.is64 l) (c.laneValue w.d.toNat t.is64 l)) = fun l => laneMap t.width t.perLane (f l) :=
    funext fun l => laneMap_congr fun e _ => hop l e _
  have hchan : (fnQD w || fnQA w) = true := by
    rcases h.chans with hA | hQ
    · rw [hA, Bool.or_true]
    · rw [hQ, Bool.true_or]
  have hrun : exec i s = .next (rowEnd w base c (guardSet w.guard c &&& ~~~row.void) (fun l => laneMap t.width t.perLane (f l)) t.tag) := by
    rw [hi, vecRun, anyInstr_run h.crew]
    refine runBody_ok ?_
    simp only [hchan, if_true]
    rw [h.onChans_ok hbit haccept hB hD, hvalue]
  refine ⟨fun hQD => ?_, fun hQD => ?_⟩
  · simp only [rowEnd, hQD, Bool.false_eq_true, if_false] at hrun
    obtain ⟨c', hruns, hcrew, honly, hvalues⟩ := runsOn_write (pair := false) (r := w.d) h.turn nofun hfits hrun
    refine ⟨c', hruns, hcrew, honly, LaneValues.elements ?_⟩
    rw [h.word]
    exact hvalues
  · simp only [rowEnd, hQD, if_true, Crew.makeRow_unmarked] at hrun
    obtain ⟨c', hruns, hcrew, honly⟩ := runsOn_pushRow h.turn hrun
    refine ⟨c', _, hruns, hcrew, honly, by simp, fun l e hl he => ?_⟩
    rw [List.getElem?_map, List.getElem?_range hl, Option.map_some, Option.getD_some]
    split
    case isTrue => rw [BitVec.toNat_ofNat, Nat.mod_eq_of_lt (hfits l), elemOf_laneMap t.width he]
    case isFalse => simp [elemOf]

/-- The type of the second source. -/
theorem OnRows.typeB : sourceType t (c.vreg w.b.toNat).tag = t :=
  sourceType_int h.second (not_narrow_of_int h.first h.int)

theorem OnRows.arith {fi : Int → Int → Int → Int} {ff : XReal → XReal → XReal → XReal}
    (hi : exec i s = vecRun (arithSpec w acceptIF true false fi ff) w s) (hD : ∀ x y z z', fi x y z = fi x y z') :
    RowResult i w s base c t (guardSet w.guard c &&& ~~~row.void) fun l e => fitted t.width t.isSigned w.sat
      (fi (intOf t.isSigned t.width (elemOf t.width (row.words[l]?.getD 0).toNat e))
        (intOf t.isSigned t.width (c.element w.b.toNat t l e)) 0) := by
  refine h.result (spec := arithSpec w acceptIF true false fi ff) hi rfl (acceptIF_int h.int) rfl rfl fun l e z =>
    congrArg (· % 2 ^ t.width) ?_
  refine (arithElem_int h.int c.fmts w.rnd w.sat fi ff _ _ z).trans (congrArg (fitted t.width t.isSigned w.sat) ?_)
  rw [h.typeB]
  exact hD _ _ _ _

theorem OnRows.minMax {large : Bool} (hi : exec i s = vecRun (minMaxSpec large) w s) :
    RowResult i w s base c t (guardSet w.guard c &&& ~~~row.void) fun l e => fitted t.width t.isSigned 0
      (if large then max (intOf t.isSigned t.width (elemOf t.width (row.words[l]?.getD 0).toNat e))
          (intOf t.isSigned t.width (c.element w.b.toNat t l e))
        else min (intOf t.isSigned t.width (elemOf t.width (row.words[l]?.getD 0).toNat e))
          (intOf t.isSigned t.width (c.element w.b.toNat t l e))) := by
  refine h.result (spec := minMaxSpec large) hi rfl rfl rfl rfl fun l e z => congrArg (· % 2 ^ t.width) ?_
  show storeChosen c.fmts t (chooseElem c.fmts large (t, _) (sourceType t _, _)) = _
  rw [h.typeB, minMax_int h.int]

end

theorem rowOperands : RowOperands := by
  classical
  intro w s c t row rest h hint hword hchans d k qa qd hrow hregister popped hroom Ev hfirst hsecond hclean hcleanB a b result
  have hrows : OnRows w s c t row popped :=
    { crew := h, int := hint, word := hword, chans := hchans
      popped := fun hA => by
        obtain ⟨hgives, hhead, hwidth, hfree, hrest⟩ := hrow hA
        have hnext : IsHead c.uid [] row rest := .inr ⟨hfree, fun _ hq => absurd hq List.not_mem_nil, hrest⟩
        refine (popRow_row hgives hhead hnext).trans ((if_neg (by simpa using hwidth)).trans ?_)
        rw [show popped = s.setRows d k qa rest from if_pos hA]
        rfl
      register := fun hA => ⟨if_neg (by simp [hA]), hregister hA⟩
      turn := by
        show (if fnQA w then s.setRows d k qa rest else s).crewAt (if fnQA w then s.setRows d k qa rest else s).cur = some c
        split
        · simpa using h
        · exact h
      room := fun hQD => by
        obtain ⟨-, htaken, hspace⟩ := hroom hQD
        exact (pushReady_taken htaken).trans (if_pos hspace)
      first := hfirst, second := hsecond, clean := hclean, cleanB := hcleanB }
  refine ⟨?_, ?_, ?_, ?_, ?_⟩
  · exact hrows.arith (fi := fun x y _ => x + y) rfl fun _ _ _ _ => rfl
  · exact hrows.arith (fi := fun x y _ => x - y) rfl fun _ _ _ _ => rfl
  · exact hrows.arith (fi := fun x y _ => x * y) rfl fun _ _ _ _ => rfl
  · exact hrows.minMax (large := false) rfl
  · exact hrows.minMax (large := true) rfl

/-- Settles O32: a word takes its row at the head that is the crew's and gives its own at the tail. -/
theorem rowsAndRowOperands : Obligations.RowsAndRowOperands := ⟨rowsOfChannels, rowOperands⟩

end Sys2Proof.Machine
end

section
/-! LEMMAS. The store that fails the statements of scalar stores and of releases: the straddling store of the pair words, written as ST
and as STL (R144, R146, R306). -/

namespace Sys2Proof.Machine

/-- A store of the two low bytes of s0 at s1 + s0; as a STL it releases at scope .crew. -/
def strayStore : RegForm := ⟨0, 0, 1, 0, 0, 0, 0, 2, 0⟩

theorem issues_strayStore : Issues strayState unalignedCrew strayStore.guard := ⟨rfl, rfl⟩

theorem check_strayStore : strayState.check unalignedCrew.accessor .store
    (unalignedCrew.sreg strayStore.a + unalignedCrew.sreg strayStore.b) 2 2 = .ok (.pa 4194431 0 none) := rfl

/-- The second byte of either word sends the stray line home, over the first byte. -/
theorem stray_byte_stays_st : homeByteAfter (exec (.st strayStore) strayState) 0 4194431 = 0xAA := rfl

theorem stray_byte_stays_stl : homeByteAfter (exec (.stl strayStore) strayState) 0 4194431 = 0xAA := rfl

/-- A store of zeros as the statements describe it does not leave the stray byte. -/
theorem CrewStores.not_stray {s t : State} {c' : Crew} {d pa key n : Nat} {page : Option VPage}
    (h : CrewStores s t c' d (.pa pa key page) n 0) (off : s.io.cacheEn = false) (hn : 0 < n) : t.homeByte key pa ≠ 0xAA := by
  rw [h.first_homeByte_zero off hn]
  decide

/-- The ST meets every premise of the statement, and the byte that the statement has stored is not there. -/
theorem not_scalarStoresWriteTheirPlace : ¬ ScalarStoresWriteTheirPlace := by
  intro h
  obtain ⟨regs, -⟩ := h strayState unalignedCrew 2 true strayState_noLog rfl
  obtain ⟨stored, -⟩ := regs strayStore (by decide) issues_strayStore
  obtain ⟨inMemory, -⟩ := stored _ check_strayStore (by decide)
  obtain ⟨t, c', runs, stores, -⟩ := inMemory fun _ chip => nomatch chip
  refine stores.not_stray rfl (by decide) ?_
  have stray := stray_byte_stays_st
  rwa [runs] at stray

/-- Refutes O18: the store's clause takes every state, so also one in which the caches are off and a die still holds a dirty line,
which R306 excludes. A store of two bytes in an unaligned window of the 0xF0 path straddles two lines; its second byte sends home what
the die caches of the second line under another key index, and a stray byte there overwrites the store's first byte. A premise that a
die holds dirty lines only while the caches are on would exclude this state. -/
theorem not_scalarLoadsAndStores : ¬ Obligations.ScalarLoadsAndStores := fun h => not_scalarStoresWriteTheirPlace h.2

/-- A release at a scope within the die changes no byte at its home slice. -/
theorem homeByte_releaseAs_near (s : State) (d uid key pa : Nat) {scope : Nat} (h : scope ≤ 3) :
    (s.releaseAs d uid scope).homeByte key pa = s.homeByte key pa := by
  rw [State.releaseAs, if_pos h]
  rfl

/-- Refutes O20: STL's clause takes the state that refutes the stores of ST, with caches that are off and a dirty line beside them, and
claims of STL's store what it claims of ST's; the release at scope .crew that follows moves no byte. The premise that would save the
stores of ST would exclude this state as well. -/
theorem not_releasesAndFences : ¬ Obligations.ReleasesAndFences := by
  intro h
  obtain ⟨stored, -⟩ := h strayStore strayState unalignedCrew strayState_noLog rfl issues_strayStore
  obtain ⟨released, -⟩ := stored _ 2 true (by decide) check_strayStore (by decide)
  obtain ⟨u, c', runs, stores, -⟩ := released ⟨fun far => absurd far (by decide), fun far => absurd far (by decide)⟩
    fun _ chip => nomatch chip
  refine stores.not_stray rfl (by decide) ?_
  have stray := stray_byte_stays_stl
  rw [runs] at stray
  exact (homeByte_releaseAs_near u _ _ 0 4194431 (by decide)).symm.trans stray

end Sys2Proof.Machine
end

section
/-! LEMMAS. The vector store that fails the statement of vector stores: one that straddles two lines, whose second line is read under
another key index (R150, R299, R403). -/

namespace Sys2Proof.Machine

/-- A crew of one lane with the window that begins at the last byte of a line, and 1 in every byte of v0. -/
def straddlingCrew : Crew :=
  { unalignedCrew with
    lanes := 1, cur := 1, live := 1, privSize := 4
    vregs := Vector.replicate 256 { words := [0x01010101], tag := 0, marks := 0 } }

def straddlingState : State := State.reset.putCrew straddlingCrew

/-- v0 stored at s1. -/
def straddlingStore : ImmForm := ⟨0, 0, 1, 0⟩

/-- A byte in the state that a word leaves, as a die reads it. -/
def byteAfter (o : Host.Outcome State Fault Refusal) (d : Nat) (p : Place) : Byte :=
  match o with
  | .next t => t.readByte d p
  | _ => 0

theorem straddlingState_noLog : straddlingState.NoLog := by
  intro d
  rcases Nat.lt_or_ge d 5 with h | h
  · interval_cases d <;> rfl
  · have out : straddlingState.dies[d]? = none := by simp; omega
    simp [State.recorderOf, State.die, Nat.ne_of_gt h, out, Die.reset, Recorder.reset]

/-- The address of a lane of the store. -/
def straddlingAddr (size l : Nat) : W64 :=
  straddlingCrew.sreg straddlingStore.a + straddlingStore.imm.signExtend 64 + BitVec.ofNat 64 (size * l)

/-- The one lane's word lies from the last byte of a line on. -/
def straddlingPlace : Place := .pa 4194431 0 none

/-- The second byte of the word, under key index 1. -/
def otherKeyPlace : Place := .pa 4194432 1 none

theorem check_straddlingStore : straddlingState.check straddlingCrew.accessor .store (straddlingAddr 4 0 + BitVec.ofInt 64 (0 * 4)) 4 4 =
    .ok straddlingPlace := rfl

/-- No key pair encrypts memory, so that the byte reads the same under every key index. -/
theorem byte_under_other_key : byteAfter (exec (.vsto straddlingStore) straddlingState) 0 otherKeyPlace = 1 := by decide +kernel

/-- Every register of the crew holds bytes of 1, unmarked, under tag 0. -/
theorem straddlingCrew_vreg {r : Nat} (h : r < 256) : straddlingCrew.vreg r = { words := [0x01010101], tag := 0, marks := 0 } := by
  simp [Crew.vreg, straddlingCrew, h]

/-- Stores that do not hold a place leave no byte there. -/
theorem lastStored_eq_none {xs : List (Place × Nat × Nat)} {q : Place} (h : ∀ x, x ∈ xs → x.1.offsetOf x.2.1 q = none) :
    lastStored xs q = none := by
  unfold lastStored
  induction xs with
  | nil => rfl
  | cons x rest ih =>
    obtain ⟨hx, hrest⟩ := List.forall_mem_cons.1 h
    rw [List.foldl_cons, hx]
    exact ih hrest

/-- The store meets every premise of the statement, and a byte that the statement leaves as it was has changed. -/
theorem not_vectorStores : ¬ VectorStores := by
  intro h
  have one : ∀ l, l < straddlingCrew.lanes → l = 0 := fun l hl => Nat.lt_one_iff.1 hl
  have register : straddlingCrew.vreg (stepAt 0 0) = { words := [0x01010101], tag := 0, marks := 0 } := straddlingCrew_vreg (by decide)
  obtain ⟨stored, -⟩ := h straddlingState straddlingCrew (guardSet 0 straddlingCrew) (.vsto straddlingStore) 0 straddlingAddr [0]
    straddlingState_noLog rfl (.inr rfl) rfl (by decide) (.inr (.inl ⟨straddlingStore, rfl, rfl, rfl, rfl, fun _ _ => rfl⟩))
    (by
      simp only [List.mem_singleton, forall_eq, register]
      refine ⟨by decide, by decide, nofun, rfl, ?_, ?_⟩
      · intro q l hq _ _
        rw [List.mem_singleton.1 hq, register]
        exact BitVec.getLsbD_zero
      · intro r hr
        rw [List.mem_singleton.1 hr]
        exact .inl (by decide))
    (fun _ _ => straddlingPlace)
    (by
      rintro o l ⟨ho, hl, -⟩
      obtain rfl := List.mem_singleton.1 ho
      obtain rfl := one l hl
      simp only [register]
      exact check_straddlingStore)
  obtain ⟨t, c', runs, -, -, -, -, bytes⟩ := stored ⟨rfl, fun o l _ => ⟨show 4194431 < 2 ^ 48 by decide,
    fun _ hl => absurd hl List.not_mem_nil, fun _ _ _ _ => rfl⟩⟩
  have apart : straddlingPlace.agrees otherKeyPlace := fun same => absurd same (by decide)
  have kept := bytes otherKeyPlace nofun (show 4194432 < 2 ^ 48 by decide) fun _ _ _ => apart
  have changed : t.readByte 0 otherKeyPlace = 1 := by
    have h := byte_under_other_key
    rwa [runs] at h
  rw [lastStored_eq_none fun x hx => ?_] at kept
  · exact absurd (changed.symm.trans kept) (by decide)
  · obtain ⟨_, _, rfl⟩ := List.mem_map.1 hx
    rfl

/-- Refutes O21: the places of a vector store agree with a place by the lines of their first bytes alone. A word in an unaligned window of
the 0xF0 path straddles two lines; its second byte, read under a key index other than the word's own, is no byte of the store, and
its line is not that of the word's first byte, so that the statement leaves it as it was. It has changed, for where no key pair
encrypts memory a byte reads the same under every key index. A premise that each place agrees in all the lines that it touches, or lies in
one, would exclude this place. -/
theorem not_vectorLoadsAndStores : ¬ Obligations.VectorLoadsAndStores := fun h => not_vectorStores h.2

end Sys2Proof.Machine
end

section
/-! LEMMAS. CPY, CHWAIT, SEGO and SESTOP: what each does to its channel, its engine and its crew (R156 to R162). -/

namespace Sys2Proof.Machine

/-- A word that ends with its crew put back on the state in which it has changed a channel or an engine. -/
theorem runsOn_putCrew {i : Instr} {s base : State} {c c' : Crew} (h : base.crewAt base.cur = some c) (hp : c'.place = c.place)
    (he : exec i s = .next (base.putCrew c')) : RunsOn i s base c' :=
  ⟨_, he, crewAndCore_putCrew (CoreSide.refl base) h hp⟩

/-- A change of a channel or of an engine leaves the crew on its berth. -/
theorem State.crewAt_onChan_of {s : State} {c : Crew} (h : s.crewAt s.cur = some c) (d k n : Nat) (f : Channel → Channel) :
    (s.onChan d k n f).crewAt (s.onChan d k n f).cur = some c := by
  rw [State.onChan, State.onCore_cur, State.crewAt_onCore]
  · exact h
  · exact fun _ => rfl

theorem State.crewAt_onStream_of {s : State} {c : Crew} (h : s.crewAt s.cur = some c) (d k e : Nat) (f : Stream → Stream) :
    (s.onStream d k e f).crewAt (s.onStream d k e f).cur = some c := by
  rw [State.onStream, State.onCore_cur, State.crewAt_onCore]
  · exact h
  · exact fun _ => rfl

theorem Issues.die_lt {s : State} {c : Crew} {g : BitVec 5} (h : Issues s c g) : c.place.die < 4 := by
  rw [h.place]
  exact (State.crewAt_some h.1).1

theorem roomFor_ok {c : Crew} {k : Counter} (h : c.count k < 255) : roomFor c k = .ok () := if_pos h

theorem roomFor_full {c : Crew} {k : Counter} (h : 255 ≤ c.count k) : roomFor c k = stalled := if_neg (Nat.not_lt.2 h)

/-! ## CPY (R156) -/

/-- The copy that a CPY queues. -/
def cpyJob (w : RegForm) (c : Crew) (kind : CopyKind) (len : Nat) : CopyJob :=
  { kind := kind, dst := c.sreg w.a, src := c.sreg w.b, len := len, off := 0, chunk := none, bad := false
    op := some { uid := c.uid, ticket := c.nextTicket }, agent := c.agent, after := [] }

/-- Bytes per element of a shape of a memory type. -/
theorem Shape.elemBytes_of_memoryType {h : Shape} {n : Nat} {signed : Bool}
    (ht : (h.ty.toNat, n, signed) ∈ memoryTypes ++ [(13, 1, false)]) : h.elemBytes = n ∧ n ≠ 0 := by
  have hall : ∀ ty : BitVec 4, ∀ p, p ∈ memoryTypes ++ [(13, 1, false)] → p.1 = ty.toNat →
      ((etyType ty 0).map ElemTy.width).getD 0 / 8 = p.2.1 ∧ p.2.1 ≠ 0 := by decide
  exact hall h.ty _ ht rfl

section
variable {w : RegForm} {s : State} {c : Crew} (h : Issues s c w.guard)
include h

theorem exec_cpy_full (hfull : 255 ≤ c.count .wc ∨ 8 ≤ (s.chan c.place.die c.place.core (chanIndex w.d)).jobs.length) :
    exec (.cpy w) s = .next s := by
  refine (crewInstr_run h _).trans ?_
  rcases Nat.lt_or_ge (c.count .wc) 255 with hroom | hcount
  · have hjobs : ¬ (s.chan c.place.die c.place.core (chanIndex w.d)).jobs.length < 8 := by omega
    simp only [runBody, roomFor_ok hroom, State.roomOn, if_neg hjobs]
    rfl
  · simp only [runBody, roomFor_full hcount]
    rfl

variable (hroom : c.count .wc < 255) (hjobs : (s.chan c.place.die c.place.core (chanIndex w.d)).jobs.length < 8)
include hroom hjobs

theorem cpy_too_long (hshape : s.cpyShape c w = setupFault (c.sreg w.b)) : Kills (.cpy w) s c 6 6 [c.sreg w.b] := by
  refine (crewInstr_run h _).trans (runBody_fault ?_)
  simp only [roomFor_ok hroom, State.roomOn, if_pos hjobs, hshape, eff_ok_bind]
  rfl

theorem cpy_refused {kind : CopyKind} {len : Nat} {e : Nat × W64} (hshape : s.cpyShape c w = .ok (kind, len))
    (hplaces : s.chunkPlaces (cpyJob w c kind len) 0 (min 4096 len) = .error e) : Kills (.cpy w) s c 6 e.1 [e.2] := by
  refine (crewInstr_run h _).trans (runBody_fault ?_)
  have hplaces' : s.chunkPlaces (cpyJob w c kind len) 0 (cpyJob w c kind len).chunkLen = .error e := hplaces
  rw [cpyJob] at hplaces'
  simp only [roomFor_ok hroom, State.roomOn, if_pos hjobs, hshape, eff_ok_bind, Crew.nextOp, hplaces', checkFirst]
  rfl

theorem cpy_queued {kind : CopyKind} {len : Nat} {ps : List (Place × Nat) × List (Place × Nat)}
    (hshape : s.cpyShape c w = .ok (kind, len)) (hplaces : s.chunkPlaces (cpyJob w c kind len) 0 (min 4096 len) = .ok ps) :
    RunsOn (.cpy w) s (s.enqueueCopy c.place.die c.place.core (chanIndex w.d) (cpyJob w c kind len)) { c.queued .wc with pc := c.pc + 8 } := by
  refine runsOn_putCrew (State.crewAt_onChan_of h.1 ..) rfl ((crewInstr_run h _).trans (runBody_ok ?_))
  have hplaces' : s.chunkPlaces (cpyJob w c kind len) 0 (cpyJob w c kind len).chunkLen = .ok ps := hplaces
  rw [cpyJob] at hplaces'
  simp only [roomFor_ok hroom, State.roomOn, if_pos hjobs, hshape, eff_ok_bind, Crew.nextOp, hplaces', checkFirst]
  rfl

omit h hroom hjobs in
/-- The length of a CPY, of bytes or of a shape's points, below the limit. -/
theorem cpyShape_eq {kind : CopyKind} {len : Nat} (hlinear : w.fn.getLsbD 0 = false → kind = .linear ∧ len = (c.sreg w.c).toNat)
    (hshaped : w.fn.getLsbD 0 = true → ∃ n signed, let x := s.shape c.place.die c.region (w.c.toNat - 0x60)
      (x.ty.toNat, n, signed) ∈ memoryTypes ++ [(13, 1, false)] ∧ kind = .shaped x ∧ len = x.points * n) :
    s.cpyShape c w = if 2 ^ 40 ≤ len then setupFault (c.sreg w.b) else .ok (kind, len) := by
  unfold State.cpyShape
  cases hfn : w.fn.getLsbD 0 with
  | false =>
    obtain ⟨rfl, rfl⟩ := hlinear hfn
    rfl
  | true =>
    obtain ⟨n, signed, hty, rfl, rfl⟩ := hshaped hfn
    obtain ⟨hbytes, hn⟩ := Shape.elemBytes_of_memoryType hty
    simp [hbytes, hn]

end

/-! ## CHWAIT (R158) -/

/-- What CHWAIT.rows sees of an endpoint: its rows, how many it can hold, and whether it is done or has failed. -/
structure EndpointIs (s : State) (d k n count depth : Nat) (done err : Bool) : Prop where
  count : s.rowCount d k n = count
  depth : s.endpointDepth d k n = depth
  done : s.endpointDone d k n = done
  err : s.endpointErr d k n = err

section
variable {s : State} {d k n : Nat}

theorem endpointIs_rowQueue (h : (s.chan d k n).endpoint = .rowQueue) : EndpointIs s d k n (s.rowsOf d k n).length 8 false false where
  count := by simp only [State.rowCount, h]
  depth := by simp only [State.endpointDepth, h]
  done := by simp only [State.endpointDone, h]
  err := by simp only [State.endpointErr, h]

theorem endpointIs_drainPort (h : (s.chan d k n).endpoint = .drainPort) :
    EndpointIs s d k n (s.rowsOf d k n).length 8 (!(s.core d k).matrix.drainsOn n) false where
  count := by simp only [State.rowCount, h]
  depth := by simp only [State.endpointDepth, h]
  done := by simp only [State.endpointDone, h]
  err := by simp only [State.endpointErr, h]

theorem endpointIs_lockOut {l : Nat} (h : (s.chan d k n).endpoint = .lockOut l) : EndpointIs s d k n 0 0 true false where
  count := by simp only [State.rowCount, State.rowsOf, h, List.length_nil]
  depth := by simp only [State.endpointDepth, h]
  done := by simp only [State.endpointDone, h]
  err := by simp only [State.endpointErr, h]

theorem endpointIs_stream {e : Nat} (h : (s.chan d k n).endpoint = .stream e) {x : Stream} (hx : s.stream d k e = x) :
    EndpointIs s d k n x.waiting 4 (x.isWrite || x.state = .idle || x.state = .done || x.state = .faulted) (x.state = .faulted) where
  count := by simp only [State.rowCount, h, hx]
  depth := by simp only [State.endpointDepth, h]
  done := by simp only [State.endpointDone, h, hx]
  err := by simp only [State.endpointErr, h, hx]

end

section
variable {w : RegForm} {s : State} {c : Crew} (h : Issues s c w.guard)
include h

theorem chwait_reached (hwp : c.sreg w.b ≤ (s.chan c.place.die c.place.core (chanIndex w.a)).wp) :
    ScalarResult (.chwait w) s c w.d (s.chan c.place.die c.place.core (chanIndex w.a)).wp := by
  have hnot : ¬ (s.chan c.place.die c.place.core (chanIndex w.a)).wp < c.sreg w.b := BitVec.not_lt.2 hwp
  refine ⟨_, crewResult_of_putCrew h.1 ((crewInstr_run h (chwaitBody w)).trans (runBody_ok ?_)) ?_, setsScalar_setS c w.d _⟩
  · simp only [chwaitBody, hnot, decide_false, Bool.false_and, Bool.false_eq_true, if_false]
  · exact c.setS_place w.d _

theorem exec_chwait_waits (hwp : (s.chan c.place.die c.place.core (chanIndex w.a)).wp < c.sreg w.b)
    (hrun : (s.chan c.place.die c.place.core (chanIndex w.a)).halted = false) : exec (.chwait w) s = .next s := by
  refine (crewInstr_run h (chwaitBody w)).trans ?_
  simp only [runBody, chwaitBody, hwp, hrun, decide_true, Bool.not_false, Bool.and_self, if_true]
  rfl

theorem chwait_halted (hwp : (s.chan c.place.die c.place.core (chanIndex w.a)).wp < c.sreg w.b)
    (hhalt : (s.chan c.place.die c.place.core (chanIndex w.a)).halted = true) :
    CrewResult (.chwait w) s
      ({ c with werr := c.werr ||| 8, pc := c.pc + 8 }.setS w.d (s.chan c.place.die c.place.core (chanIndex w.a)).wp) := by
  refine crewResult_of_putCrew h.1 ((crewInstr_run h (chwaitBody w)).trans (runBody_ok ?_)) (Crew.setS_place _ _ _)
  simp only [chwaitBody, hwp, hhalt, Bool.not_true, Bool.and_false, Bool.false_eq_true, if_false, if_true]
  congr 2
  unfold Crew.setS
  split <;> rfl

/-- CHWAIT.rows gives the status of an endpoint with enough rows, or one that is done or has failed; else it waits. -/
theorem chwaitRows_cases {count depth : Nat} {done err : Bool} {v : W64}
    (hend : EndpointIs s c.place.die c.place.core (chanIndex w.a) count depth done err)
    (hv : v = BitVec.ofNat 64 (count + (((s.rowsOf c.place.die c.place.core (chanIndex w.a)).head?.map Row.de).getD 0).toNat * 2 ^ 8 +
      (if done then 2 ^ 12 else 0) + if err then 2 ^ 13 else 0)) :
    (min (c.sreg w.b).toNat depth ≤ count ∨ done = true ∨ err = true → ScalarResult (.chwaitRows w) s c w.d v) ∧
    (count < min (c.sreg w.b).toNat depth → done = false → err = false → exec (.chwaitRows w) s = .next s) := by
  obtain ⟨hcount, hdepth, hdone, herr⟩ := hend
  have hstatus : s.rowStatus c.place.die c.place.core (chanIndex w.a) = v := by
    rw [hv, State.rowStatus, hcount, hdone, herr, Nat.mul_comm 256]
    rfl
  refine ⟨fun hready => ?_, fun hless hd he => ?_⟩
  · refine ⟨_, crewResult_of_putCrew h.1 ((crewInstr_run h (chwaitRowsBody w)).trans (runBody_ok ?_)) ?_, setsScalar_setS c w.d v⟩
    · have hgo : ¬ ((decide (count < min (c.sreg w.b).toNat depth) && !done && !err) = true) := by
        rw [Bool.and_eq_true, Bool.and_eq_true, decide_eq_true_iff, Bool.not_eq_true', Bool.not_eq_true']
        rintro ⟨⟨hlt, rfl⟩, rfl⟩
        rcases hready with hle | hd | he
        · exact absurd hlt (Nat.not_lt.2 hle)
        · exact absurd hd Bool.false_ne_true
        · exact absurd he Bool.false_ne_true
      simp only [chwaitRowsBody, hcount, hdepth, hdone, herr, hstatus, hgo]
      rfl
    · exact c.setS_place w.d v
  · refine (crewInstr_run h (chwaitRowsBody w)).trans ?_
    simp only [runBody, chwaitRowsBody, hcount, hdepth, hdone, herr, hless, hd, he, decide_true, Bool.not_false, Bool.and_self, if_true]
    rfl

end

end Sys2Proof.Machine
end

section
/-! LEMMAS. Stream engines: how SECFG binds one to a channel, and what SEGO and SESTOP leave of it (R160, R162). -/

namespace Sys2Proof.Machine

/-! ## Engines: one change after another of a core's channels and engines (R160, R162) -/

@[simp] theorem getElem?_modifyVec {α : Type} {n : Nat} (v : Vector α n) (i j : Nat) (f : α → α) :
    (modifyVec v i f)[j]? = if j = i then v[j]?.map f else v[j]? := by
  unfold modifyVec
  split
  case h_1 x hx =>
    rw [Vector.getElem?_setIfInBounds]
    by_cases hij : i = j
    · subst hij
      have hi : i < n := by
        by_contra hn
        rw [Vector.getElem?_eq_none (Nat.le_of_not_lt hn)] at hx
        exact nomatch hx
      rw [if_pos rfl, if_pos hi, if_pos rfl, hx]
      rfl
    · simp [hij, Ne.symm hij]
  case h_2 hx =>
    by_cases hij : j = i
    · subst hij
      rw [if_pos rfl, hx]
      rfl
    · simp [hij]

theorem assocSet_assocSet {α : Type} (xs : List (Nat × α)) (k : Nat) (u v : α) : assocSet (assocSet xs k u) k v = assocSet xs k v := by
  induction xs with
  | nil => simp [assocSet]
  | cons x rest ih =>
    obtain ⟨i, y⟩ := x
    by_cases hlt : k < i
    · simp [assocSet, hlt]
    · by_cases heq : k = i
      · simp [assocSet, heq]
      · simp [assocSet, hlt, heq, ih]

/-- One change of a core after another. -/
theorem State.onCore_onCore (s : State) {d : Nat} (hd : d < 4) (k : Nat) (f g : Core → Core) :
    (s.onCore d k f).onCore d k g = s.onCore d k fun x => g (f x) := by
  have hcore : (s.onCore d k f).core d k = f (s.core d k) := by rw [State.core_onCore, if_pos ⟨rfl, rfl, hd⟩]
  rw [State.onCore, hcore, State.setCore, State.onCore, State.setCore, State.onDie_onDie s hd, State.onCore, State.setCore]
  simp only [Die.setCore, assocSet_assocSet]


section
variable (s : State) {d : Nat} (hd : d < 4) (k : Nat)
include hd

theorem State.chan_onChan (m n : Nat) (hn : n < 16) (f : Channel → Channel) :
    (s.onChan d k m f).chan d k n = if n = m then f (s.chan d k n) else s.chan d k n := by
  have hget : (s.core d k).chans[n]? = some (s.chan d k n) := by simp [State.chan, hn]
  rw [State.chan, State.onChan, State.core_onCore, if_pos ⟨rfl, rfl, hd⟩, getElem?_modifyVec, hget]
  split <;> rfl

end

/-- The channels of a core after an engine has left its old one for channel n. -/
def boundChans (v : Vector Channel 16) (old : Option Nat) (n e : Nat) : Vector Channel 16 :=
  modifyVec (match old with
             | some m => modifyVec v m fun x => { x with endpoint := .rowQueue }
             | none => v) n fun x => { x with endpoint := .stream e }

/-- The engines of a core after engine e has taken a channel, which another engine may have left. -/
def boundStreams (v : Vector Stream 8) (left : Option Nat) (e : Nat) (x : Stream) : Vector Stream 8 :=
  modifyVec (match left with
             | some i => modifyVec v i fun y => { y with chan := none }
             | none => v) e fun _ => x

/-- The engine that a channel's endpoint names. -/
def Endpoint.engine : Endpoint → Option Nat
  | .stream i => some i
  | _ => none

theorem Endpoint.engine_eq_some_iff (x : Endpoint) (n : Nat) : x.engine = some n ↔ x = .stream n := by
  cases x <;> simp [Endpoint.engine]

theorem getElem?_boundChans (v : Vector Channel 16) (old : Option Nat) (n e j : Nat) :
    (boundChans v old n e)[j]? = v[j]?.map fun x =>
      if j = n then { x with endpoint := .stream e } else if old = some j then { x with endpoint := .rowQueue } else x := by
  unfold boundChans
  rw [getElem?_modifyVec]
  cases old with
  | none => split <;> simp [*]
  | some m =>
    simp only [getElem?_modifyVec, Option.some.injEq, eq_comm (a := m)]
    split <;> split <;> simp [*, Function.comp_def]

theorem getElem?_boundStreams (v : Vector Stream 8) (left : Option Nat) (e : Nat) (x : Stream) (j : Nat) :
    (boundStreams v left e x)[j]? = v[j]?.map fun y => if j = e then x else if left = some j then { y with chan := none } else y := by
  unfold boundStreams
  rw [getElem?_modifyVec]
  cases left with
  | none => split <;> simp [*]
  | some m =>
    simp only [getElem?_modifyVec, Option.some.injEq, eq_comm (a := m)]
    split <;> split <;> simp [*, Function.comp_def]

/-- A channel other than the drain port's takes another endpoint, and the engine that it had goes unbound. -/
theorem State.bindEndpoint_eq (s : State) {d : Nat} (hd : d < 4) (k n : Nat) (e : Endpoint)
    (hport : (s.chan d k n).endpoint ≠ .drainPort) : s.bindEndpoint d k n e = s.onCore d k fun y =>
      { y with
        chans := modifyVec y.chans n fun x => { x with endpoint := e }
        streams := match (s.chan d k n).endpoint.engine with
                   | some i => modifyVec y.streams i fun x => { x with chan := none }
                   | none => y.streams } := by
  unfold State.bindEndpoint
  cases hend : (s.chan d k n).endpoint with
  | drainPort => exact absurd hend hport
  | rowQueue => rfl
  | lockOut m => rfl
  | stream i => exact State.onCore_onCore s hd k _ _

section
variable {s : State} {c : Crew} {n : Nat} {base ctl : W64} {h : Shape} (hd : c.place.die < 4) (hn : n < 16)
  (hgood : streamSetupBad ctl h = false)
include hgood

theorem configStream_running (hrun : (s.stream c.place.die c.place.core (ctl.extractLsb' 0 3).toNat).state = .running) :
    s.configStream c n base ctl h = memFault 7 base := by
  simp only [State.configStream, hgood, hrun, Bool.false_eq_true, if_false, if_true]

include hd hn in
/-- An engine that does not run is configured, and bound to a channel that is neither a drain port nor a lock's output (R160). -/
theorem configStream_ok {x : Stream} (hx : s.stream c.place.die c.place.core (ctl.extractLsb' 0 3).toNat = x) (hrun : x.state ≠ .running)
    (hport : (s.chan c.place.die c.place.core n).endpoint ≠ .drainPort)
    (hlock : ∀ m, (s.chan c.place.die c.place.core n).endpoint ≠ .lockOut m) :
    s.configStream c n base ctl h = .ok (s.onCore c.place.die c.place.core fun y =>
      { y with
        chans := boundChans y.chans x.chan n (ctl.extractLsb' 0 3).toNat
        streams := boundStreams y.streams (if x.chan = some n then none else (s.chan c.place.die c.place.core n).endpoint.engine)
          (ctl.extractLsb' 0 3).toNat
          { state := .ready, base := base, shape := h, ctl := ctl, chan := some n, width := c.lanes, next := 0, rows := []
            agent := c.agent, tails := x.tails } }) := by
  have hstart : s.configStream c n base ctl h = .ok (((match x.chan with
      | some m => s.onChan c.place.die c.place.core m fun x => { x with endpoint := .rowQueue }
      | none => s).bindEndpoint c.place.die c.place.core n (.stream (ctl.extractLsb' 0 3).toNat)).onStream c.place.die c.place.core
        (ctl.extractLsb' 0 3).toNat fun _ =>
          { state := .ready, base := base, shape := h, ctl := ctl, chan := some n, width := c.lanes, next := 0, rows := []
            agent := c.agent, tails := x.tails }) := by
    cases hend : (s.chan c.place.die c.place.core n).endpoint with
    | lockOut m => exact absurd hend (hlock m)
    | drainPort => exact absurd hend hport
    | rowQueue => simp only [State.configStream, hgood, hx, hrun, hend, Bool.false_eq_true, reduceCtorEq, if_false] <;> rfl
    | stream i => simp only [State.configStream, hgood, hx, hrun, hend, Bool.false_eq_true, reduceCtorEq, if_false] <;> rfl
  rw [hstart]
  cases hold : x.chan with
  | none =>
    simp only [State.bindEndpoint_eq s hd _ n _ hport, State.onStream, State.onCore_onCore _ hd, reduceCtorEq, if_false]
    rfl
  | some m =>
    have hchan := State.chan_onChan s hd c.place.core m n hn fun x => { x with endpoint := .rowQueue }
    by_cases hm : n = m
    · subst hm
      rw [if_pos rfl] at hchan
      simp only [State.bindEndpoint_eq (s.onChan _ _ n _) hd _ n _ (by rw [hchan]; exact nofun), hchan, Endpoint.engine]
      simp only [State.onChan, State.onStream, State.onCore_onCore _ hd, if_true]
      rfl
    · rw [if_neg hm] at hchan
      simp only [State.bindEndpoint_eq (s.onChan _ _ m _) hd _ n _ (by rw [hchan]; exact hport), hchan]
      simp only [State.onChan, State.onStream, State.onCore_onCore _ hd, Option.some.injEq, Ne.symm hm, if_false]
      rfl

end

/-! ## SECFG, SEGO and SESTOP -/

section
variable {w : RegForm} {s : State} {c : Crew} (h : Issues s c w.guard)
include h

theorem secfg_kills {detail : Nat} (hconf : s.configStream c (chanIndex w.d) (c.sreg w.a) (c.sreg w.c)
    (s.shape c.place.die c.region (w.b.toNat - 0x60)) = memFault detail (c.sreg w.a)) : Kills (.secfg w) s c 6 detail [c.sreg w.a] := by
  refine (crewInstr_run h _).trans (runBody_fault ?_)
  simp only [hconf]
  rfl

theorem secfg_runs {f : Core → Core} (hf : ∀ x, (f x).berths = x.berths) (hconf : s.configStream c (chanIndex w.d) (c.sreg w.a) (c.sreg w.c)
    (s.shape c.place.die c.region (w.b.toNat - 0x60)) = .ok (s.onCore c.place.die c.place.core f)) :
    RunsOn (.secfg w) s (s.onCore c.place.die c.place.core f) { c with pc := c.pc + 8 } := by
  refine runsOn_putCrew (c := c) ?_ rfl ((crewInstr_run h _).trans (runBody_ok ?_))
  · rw [State.onCore_cur, State.crewAt_onCore s _ _ hf]
    exact h.1
  · simp only [hconf]
    rfl

variable {e : Nat} (hend : (s.chan c.place.die c.place.core (chanIndex w.d)).endpoint = .stream e)
include hend

omit h in
theorem engineOf_stream : s.engineOf c (chanIndex w.d) = .ok e := by
  simp only [State.engineOf, hend]

theorem sego_runs {t : State} (ht : t.crewAt t.cur = some c) (hstart : s.startStream c e = .ok t) :
    RunsOn (.sego w) s t { c with pc := c.pc + 8 } := by
  refine runsOn_putCrew (c := c) ht rfl ((crewInstr_run h _).trans (runBody_ok ?_))
  simp only [engineOf_stream hend, eff_ok_bind, hstart]
  rfl

theorem sego_kills {base : W64} (hstart : s.startStream c e = memFault 7 base) : Kills (.sego w) s c 6 7 [base] := by
  refine (crewInstr_run h _).trans (runBody_fault ?_)
  simp only [engineOf_stream hend, eff_ok_bind, hstart]
  rfl

theorem sestop_kills (hroom : c.count .wc < 255) (hidle : (s.stream c.place.die c.place.core e).state = .idle) :
    Kills (.sestop w) s c 6 7 [(s.stream c.place.die c.place.core e).base] := by
  refine (crewInstr_run h _).trans (runBody_fault ?_)
  simp only [roomFor_ok hroom, engineOf_stream hend, eff_ok_bind, hidle, if_true, memFault, raise]

/-- A SESTOP on an engine that has been configured leaves the engine as its rule says, and counts while it waits for stores. -/
theorem sestop_runs (hroom : c.count .wc < 255) {x y : Stream} {waits : Bool} (hx : s.stream c.place.die c.place.core e = x)
    (hstate : x.state ≠ .idle) (hstop : x.stopped { uid := c.uid, ticket := c.nextTicket } = (y, waits)) :
    RunsOn (.sestop w) s (s.onStream c.place.die c.place.core e fun _ => y) (c.addOp .wc (!waits) false).advance := by
  refine runsOn_putCrew (c := c) (State.crewAt_onStream_of h.1 ..) rfl ((crewInstr_run h _).trans (runBody_ok ?_))
  simp only [roomFor_ok hroom, engineOf_stream hend, eff_ok_bind, hx, hstate, if_false, Crew.nextOp, hstop]

end

/-- The last of the walks that a stopped stream has still to store takes the SESTOP. -/
theorem addStop_append (op : OpRef) (pre : List StreamTail) (t : StreamTail) :
    addStop op (pre ++ [t]) = pre ++ [{ t with stops := t.stops ++ [op] }] := by
  induction pre with
  | nil => rfl
  | cons u rest ih =>
    rw [List.cons_append, List.cons_append, ← ih]
    cases rest <;> rfl

/-- A read stream, and a write stream that does not run or holds no row. -/
theorem Stream.stopped_read {x : Stream} (h : x.isWrite = false) (op : OpRef) :
    x.stopped op = ({ x with state := .done, rows := if x.state = .running then [] else x.rows }, false) := by
  simp only [Stream.stopped, h, Bool.false_eq_true, if_false]

theorem Stream.stopped_rows {x : Stream} (h : x.isWrite = true) (hrun : x.state = .running) (hrows : x.rows ≠ []) (op : OpRef) :
    x.stopped op = ({ x with state := .done, rows := [], tails := x.tails ++ [x.tail op] }, true) := by
  simp [Stream.stopped, h, hrun, hrows]

section
variable {x : Stream} (h : x.isWrite = true) (hrest : x.state ≠ .running ∨ x.rows = []) (op : OpRef)
include h hrest

theorem Stream.stopped_still : x.stopped op = ({ x with state := .done, tails := addStop op x.tails }, !x.tails.isEmpty) := by
  have hnot : (decide (x.state = .running) && !x.rows.isEmpty) = false := by
    rcases hrest with hs | hr
    · simp [hs]
    · simp [hr]
  simp only [Stream.stopped, h, hnot, Bool.false_eq_true, if_false, if_true]

theorem Stream.stopped_stored (htails : x.tails = []) : x.stopped op = ({ x with state := .done }, false) := by
  rw [Stream.stopped_still h hrest, htails, addStop, ← htails]
  simp [htails]

theorem Stream.stopped_storing {pre : List StreamTail} {t : StreamTail} (htails : x.tails = pre ++ [t]) :
    x.stopped op = ({ x with state := .done, tails := pre ++ [{ t with stops := t.stops ++ [op] }] }, true) := by
  rw [Stream.stopped_still h hrest, htails, addStop_append]
  simp

end

/-- What SECFG asks of its control word and shape, as its rule says it (R160). -/
theorem streamSetup_good {ctl : W64} {h : Shape} {ty : ElemTy} (hty : etyType h.ty 0 = some ty)
    (hnibble : ty.width = 4 → ∀ v, v ∈ h.stride → v % 2 = 0) (hctl : ctl.toNat < 4096)
    (htag : tagReserved false (BitVec.ofNat 8 (ctl.toNat / 16)) = false) : streamSetupBad ctl h = false := by
  have hhigh : ctl.extractLsb' 12 52 = 0#52 := by
    rw [field_eq_zero_iff, Nat.div_eq_of_lt (show ctl.toNat < 2 ^ 12 from hctl), Nat.zero_mod]
  have hmid : ctl.extractLsb' 4 8 = BitVec.ofNat 8 (ctl.toNat / 16) := by
    rw [field_eq_ofNat]
    exact BitVec.eq_of_toNat_eq (by rw [BitVec.toNat_ofNat, BitVec.toNat_ofNat, Nat.mod_mod]; rfl)
  have hwidth : ty.width ≠ 0 := fun h0 => by
    have hfull := ElemTy.width_mul_perLane (ElemTy.legal_of_ety hty)
    rw [h0, Nat.zero_mul] at hfull
    split at hfull <;> exact absurd hfull (by decide)
  have hstride : (decide (ty.width = 4) && h.stride.any fun x => x % 2 != 0) = false := by
    by_cases h4 : ty.width = 4
    · simpa [h4] using hnibble h4
    · simp [h4]
  simp only [streamSetupBad, hhigh, hmid, htag, hty, Option.map_some, Option.getD_some, hwidth, hstride]
  rfl

end Sys2Proof.Machine
end

section
/-! PROOFS. CPY, CHWAIT, SECFG, SEGO and SESTOP (R142, R156 to R162). -/

namespace Sys2Proof.Machine


/-- An engine of the core changed from what it holds is the engine with that put in its place. -/
theorem State.onStream_const (s : State) (d k : Nat) {e : Nat} (he : e < 8) (f : Stream → Stream) :
    s.onStream d k e f = s.onStream d k e fun _ => f (s.stream d k e) := by
  have hx : (s.core d k).streams[e]? = some (s.stream d k e) := by simp [State.stream, he]
  simp only [State.onStream, State.onCore, modifyVec, hx]

/-- A SEGO on an engine that stands still, which starts, on one that runs, and on one that may not start (R162). -/
theorem sego_cases {w : RegForm} {s : State} {c : Crew} (h : Issues s c w.guard) {e : Nat} (he : e < 8)
    (hend : (s.chan c.place.die c.place.core (chanIndex w.d)).endpoint = .stream e) {x : Stream}
    (hx : s.stream c.place.die c.place.core e = x) :
    (x.state = .ready ∨ x.state = .done → RunsOn (.sego w) s (s.onStream c.place.die c.place.core e fun _ =>
      { x with state := .running, next := 0, rows := [] }) { c with pc := c.pc + 8 }) ∧
    (x.state = .running → CrewResult (.sego w) s { c with pc := c.pc + 8 }) ∧
    (x.state = .idle ∨ x.state = .faulted → Kills (.sego w) s c 6 7 [x.base]) := by
  subst hx
  refine ⟨fun hstate => ?_, fun hstate => ?_, fun hstate => ?_⟩
  · have hstart := State.onStream_const s c.place.die c.place.core he fun x => { x with state := .running, next := 0, rows := [] }
    rw [← hstart]
    refine sego_runs h hend (State.crewAt_onStream_of h.1 ..) ?_
    rcases hstate with hs | hs <;> simp only [State.startStream, hs]
  · refine crewResult_of_putCrew h.1 ((crewInstr_run h _).trans (runBody_ok ?_)) rfl
    simp only [engineOf_stream hend, eff_ok_bind, State.startStream, hstate]
    rfl
  · refine sego_kills h hend ?_
    rcases hstate with hs | hs <;> simp only [State.startStream, hs]

/-- A SECFG that passes its set-up checks: on an engine that runs, and on one that takes its channel from the engine that had it (R160). -/
theorem secfg_cases {w : RegForm} {s : State} {c : Crew} (h : Issues s c w.guard) (hqd : chanIndex w.d < 16) {e : Nat} {x : Stream}
    (hgood : streamSetupBad (c.sreg w.c) (s.shape c.place.die c.region (w.b.toNat - 0x60)) = false)
    (he : ((c.sreg w.c).extractLsb' 0 3).toNat = e) (hx : s.stream c.place.die c.place.core e = x) :
    let d := c.place.die
    let k := c.place.core
    let q := chanIndex w.d
    let ch := s.chan d k
    (x.state = .running → Kills (.secfg w) s c 6 7 [c.sreg w.a]) ∧
    (x.state ≠ .running → (ch q).endpoint ≠ .drainPort → (∀ n, (ch q).endpoint ≠ .lockOut n) →
      ∃ (cs : Vector Channel 16) (es : Vector Stream 8),
        RunsOn (.secfg w) s (s.onCore d k fun y => { y with chans := cs, streams := es }) { c with pc := c.pc + 8 } ∧
        (∀ n, n < 16 → cs[n]? = some (if n = q then { ch n with endpoint := .stream e }
          else if x.chan = some n then { ch n with endpoint := .rowQueue } else ch n)) ∧
        es[e]? = some { state := .ready, base := c.sreg w.a, shape := s.shape d c.region (w.b.toNat - 0x60), ctl := c.sreg w.c
                        chan := some q, width := c.lanes, next := 0, rows := [], agent := c.agent, tails := x.tails } ∧
        ∀ n, n < 8 → n ≠ e → es[n]? = some (if x.chan ≠ some q ∧ (ch q).endpoint = .stream n then
          { s.stream d k n with chan := none } else s.stream d k n)) := by
  intro d k q ch
  have he8 : e < 8 := he ▸ ((c.sreg w.c).extractLsb' 0 3).isLt
  subst he hx
  refine ⟨fun hrun => secfg_kills h (configStream_running hgood hrun), fun hrun hport hlock => ?_⟩
  have hconf := configStream_ok h.die_lt hqd hgood (base := c.sreg w.a) rfl hrun hport hlock
  have hchan : ∀ n, n < 16 → (s.core d k).chans[n]? = some (ch n) := fun n hn => by simp [ch, State.chan, hn]
  have hstream : ∀ n, n < 8 → (s.core d k).streams[n]? = some (s.stream d k n) := fun n hn => by simp [State.stream, hn]
  refine ⟨_, _, secfg_runs h (fun _ => rfl) hconf, fun n hn => ?_, ?_, fun n hn hne => ?_⟩
  · rw [getElem?_boundChans, hchan n hn]
    rfl
  · rw [getElem?_boundStreams, hstream _ he8]
    exact congrArg some (if_pos rfl)
  · rw [getElem?_boundStreams, hstream n hn, Option.map_some, if_neg hne]
    refine congrArg some (if_congr ?_ rfl rfl)
    rw [Option.ite_none_left_eq_some, Endpoint.engine_eq_some_iff]

/-- Settles O33: each word by the state of its channel or engine; SECFG's changes of a core, one after another, are one. -/
theorem copiesAndStreams : Obligations.CopiesAndStreams := by
  intro w s c h d k qd qa ch agent next
  refine ⟨fun kind len hqd hroom hjobs hlinear hshaped => ?_, exec_cpy_full h, chwait_reached h, exec_chwait_waits h, chwait_halted h,
    ⟨fun hend => chwaitRows_cases h (endpointIs_rowQueue hend) rfl, fun e hend => chwaitRows_cases h (endpointIs_stream hend rfl) rfl,
      fun hend => chwaitRows_cases h (endpointIs_drainPort hend) rfl, fun n hend => chwaitRows_cases h (endpointIs_lockOut hend) rfl⟩,
    fun ty hqd hty hnibble hctl htag => ?_, fun e he hend => ?_⟩
  · have hshape := cpyShape_eq hlinear hshaped
    refine ⟨fun hlong => ?_, fun hshort e he => ?_, fun hshort ps hps => ?_⟩
    · exact cpy_too_long h hroom hjobs (by rw [hshape, if_pos hlong])
    · exact cpy_refused h hroom hjobs (by rw [hshape, if_neg (Nat.not_le.2 hshort)]) he
    · exact cpy_queued h hroom hjobs (by rw [hshape, if_neg (Nat.not_le.2 hshort)]) hps
  · have he : (c.sreg w.c).toNat % 8 = ((c.sreg w.c).extractLsb' 0 3).toNat := by rw [toNat_field, Nat.pow_zero, Nat.div_one]; rfl
    rw [he]
    exact secfg_cases h hqd (streamSetup_good hty hnibble hctl htag) rfl rfl
  · obtain ⟨hstarts, hruns, hkills⟩ := sego_cases h he hend rfl
    refine ⟨hstarts, hruns, hkills, sestop_kills h hend, fun hroom hstate => ⟨fun hread => ?_, fun hwrite hrun hrows => ?_,
      fun hwrite hrest htails => ?_, fun pre y hwrite hrest htails => ?_⟩⟩
    · exact sestop_runs h hend hroom rfl hstate (Stream.stopped_read hread _)
    · exact sestop_runs h hend hroom rfl hstate (Stream.stopped_rows hwrite hrun hrows _)
    · exact sestop_runs h hend hroom rfl hstate (Stream.stopped_stored hwrite hrest _ htails)
    · exact sestop_runs h hend hroom rfl hstate (Stream.stopped_storing hwrite hrest _ htails)

end Sys2Proof.Machine
end

section
/-! LEMMAS. Writes at home slices and banks in the clear, and the same bytes behind different translations, clocks and stamps (R301, R320,
R324, R351). -/

namespace Sys2Proof.Machine

/-! ## Changes of memory alone -/

/-- Memory with its marks and stamps, and what stacks keep of it, are all that differs. -/
def MemoryOnly (s t : State) : Prop :=
  t = { s with mem := t.mem, memMarks := t.memMarks, stamps := t.stamps, stack := t.stack }

theorem MemoryOnly.refl (s : State) : MemoryOnly s s := rfl

theorem MemoryOnly.trans {s t u : State} (h : MemoryOnly s t) (k : MemoryOnly t u) : MemoryOnly s u := by
  unfold MemoryOnly at *
  rw [k, h]

theorem MemoryOnly.die {s t : State} (h : MemoryOnly s t) (d : Nat) : t.die d = s.die d := by
  unfold MemoryOnly at h
  rw [h]
  rfl

theorem MemoryOnly.io {s t : State} (h : MemoryOnly s t) : t.io = s.io := by
  unfold MemoryOnly at h
  rw [h]

theorem MemoryOnly.inTheClear {s t : State} (h : MemoryOnly s t) (hc : s.InTheClear) : t.InTheClear := by
  unfold State.InTheClear
  rw [h.io]
  exact hc

theorem memoryOnly_putStamp (s : State) (lo n w : Nat) (g : Option Image) : MemoryOnly s (s.putStamp lo n w g) := rfl

theorem memoryOnly_putStamps (s : State) (d : Nat) (g : Option Image) (runs : List (Nat × Nat)) :
    MemoryOnly s (runs.foldl (fun u r => u.putStamp r.1 r.2 d g) s) := by
  induction runs generalizing s with
  | nil => exact MemoryOnly.refl s
  | cons r rest ih => exact (memoryOnly_putStamp s _ _ _ _).trans (ih _)

theorem memoryOnly_setHomeByte {s : State} (hc : s.InTheClear) (key pa : Nat) (b : Byte) : MemoryOnly s (s.setHomeByte key pa b) := by
  rw [State.setHomeByte_clear hc, State.keepOld_eq]
  rfl

/-- The bytes of a dirty line written at their home slices. -/
theorem memoryOnly_setHomeBytes {s : State} (hc : s.InTheClear) (key : Nat) (bytes : List (Nat × Byte)) :
    MemoryOnly s (bytes.foldl (fun t p => t.setHomeByte key p.1 p.2) s) := by
  induction bytes generalizing s with
  | nil => exact MemoryOnly.refl s
  | cons p rest ih =>
    have first := memoryOnly_setHomeByte hc key p.1 p.2
    exact first.trans (ih (first.inTheClear hc))

theorem memoryOnly_writeLine {s : State} (hc : s.InTheClear) (d : Nat) (l : DirtyLine) : MemoryOnly s (s.writeLine d l) := by
  have marked : MemoryOnly s ((l.bytes.foldl (fun t p => t.setHomeByte l.key p.1 p.2) s).landMarks l) :=
    (memoryOnly_setHomeBytes hc l.key l.bytes).trans rfl
  exact marked.trans (memoryOnly_putStamps _ d _ _)

theorem memoryOnly_writeLines {s : State} (hc : s.InTheClear) (d : Nat) (ls : List DirtyLine) :
    MemoryOnly s (ls.foldl (fun t l => t.writeLine d l) s) := by
  induction ls generalizing s with
  | nil => exact MemoryOnly.refl s
  | cons l rest ih =>
    have first := memoryOnly_writeLine hc d l
    exact first.trans (ih (first.inTheClear hc))

/-! ## The same bytes -/

/-- Memory with its marks, the keys of its lines, and the dies' dirty lines are the same, and nothing is encrypted. -/
structure SameBytes (s t : State) : Prop where
  clear : s.InTheClear
  mem : t.mem = s.mem
  marks : t.memMarks = s.memMarks
  sec : t.io.sec = s.io.sec
  dirty : ∀ d, (t.die d).dirty = (s.die d).dirty

theorem SameBytes.clear' {s t : State} (h : SameBytes s t) : t.InTheClear := by
  unfold State.InTheClear
  rw [h.sec]
  exact h.clear

theorem SameBytes.cell {s t : State} (h : SameBytes s t) (k : Nat) : t.cell k = s.cell k := by
  unfold State.cell
  rw [h.mem]

theorem SameBytes.cellsValue {s t : State} (h : SameBytes s t) (k n : Nat) : t.cellsValue k n = s.cellsValue k n := by
  simp only [State.cellsValue, h.cell]

theorem ReadSide.sameBytes {s t : State} (h : ReadSide s t) (hc : s.InTheClear) : SameBytes s t where
  clear := hc
  mem := by rw [h.package]
  marks := by rw [h.package]
  sec := by rw [h.package]
  dirty d := by rw [h.dies d]

/-- Fields that no byte depends on differ after one and the same change of memory. -/
theorem SameBytes.of_memoryOnly {s t s' t' : State} (h : SameBytes s t) (hs : MemoryOnly s s') (ht : MemoryOnly t t')
    (hmem : t'.mem = s'.mem) (hmarks : t'.memMarks = s'.memMarks) : SameBytes s' t' where
  clear := hs.inTheClear h.clear
  mem := hmem
  marks := hmarks
  sec := by rw [hs.io, ht.io, h.sec]
  dirty d := by rw [hs.die, ht.die, h.dirty]

theorem SameBytes.foldl {α : Type} {f g : State → α → State} (hf : ∀ s t x, SameBytes s t → SameBytes (f s x) (g t x)) (xs : List α)
    {s t : State} (h : SameBytes s t) : SameBytes (xs.foldl f s) (xs.foldl g t) := by
  induction xs generalizing s t with
  | nil => exact h
  | cons x rest ih => exact ih (hf s t x h)

theorem SameBytes.setHomeByte {s t : State} (h : SameBytes s t) (key pa : Nat) (b : Byte) :
    SameBytes (s.setHomeByte key pa b) (t.setHomeByte key pa b) := by
  refine h.of_memoryOnly (memoryOnly_setHomeByte h.clear key pa b) (memoryOnly_setHomeByte h.clear' key pa b) ?_ ?_
  · rw [State.setHomeByte_clear h.clear, State.setHomeByte_clear h.clear']
    show cellWrite (t.keepOld pa).mem pa b = cellWrite (s.keepOld pa).mem pa b
    rw [State.keepOld_mem, State.keepOld_mem, h.mem]
  · rw [State.setHomeByte_clear h.clear, State.setHomeByte_clear h.clear', s.keepOld_eq, t.keepOld_eq]
    exact h.marks

theorem SameBytes.putStamp {s t : State} (h : SameBytes s t) (lo n w : Nat) (g g' : Option Image) :
    SameBytes (s.putStamp lo n w g) (t.putStamp lo n w g') := h.of_memoryOnly rfl rfl h.mem h.marks

theorem SameBytes.writeLine {s t : State} (h : SameBytes s t) (d : Nat) (l : DirtyLine) :
    SameBytes (s.writeLine d l) (t.writeLine d l) := by
  have bytes := SameBytes.foldl (fun s t (p : Nat × Byte) h => SameBytes.setHomeByte h l.key p.1 p.2) l.bytes h
  have landed := bytes.of_memoryOnly (s' := State.landMarks _ l) (t' := State.landMarks _ l) rfl rfl bytes.mem
    (by simp only [State.landMarks, bytes.marks])
  exact SameBytes.foldl (fun s t (r : Nat × Nat) h => h.putStamp r.1 r.2 d _ _) _ landed

theorem SameBytes.onDie {s t : State} (h : SameBytes s t) (d : Nat) {f : Die → Die}
    (hf : ∀ x y : Die, x.dirty = y.dirty → (f x).dirty = (f y).dirty) : SameBytes (s.onDie d f) (t.onDie d f) where
  clear := h.clear
  mem := h.mem
  marks := h.marks
  sec := h.sec
  dirty e := by
    rw [State.die_onDie, State.die_onDie]
    split
    · exact hf _ _ (h.dirty d)
    · exact h.dirty e

theorem SameBytes.writeBack {s t : State} (h : SameBytes s t) (d : Nat) (pick : DirtyLine → Bool) :
    SameBytes (s.writeBack d pick) (t.writeBack d pick) := by
  unfold State.writeBack
  rw [h.dirty d]
  refine (SameBytes.foldl (fun s t l h => h.writeLine d l) _ h).onDie d fun x y hxy => ?_
  show x.dirty.filter _ = y.dirty.filter _
  rw [hxy]

/-- A release acts on the bytes alone: translations, clocks and stamps do not matter to it. -/
theorem SameBytes.releaseAs {s t : State} (h : SameBytes s t) (d uid scope : Nat) :
    SameBytes (s.releaseAs d uid scope) (t.releaseAs d uid scope) := by
  unfold State.releaseAs
  split
  · refine h.onDie d fun x y hxy => ?_
    show x.dirty.map _ = y.dirty.map _
    rw [hxy]
  · exact (h.writeBack d _).onDie d fun x y hxy => hxy

theorem SameBytes.homeMarked {s t : State} (h : SameBytes s t) {p : Place} (hp : ∀ d off, p ≠ .barge d off) (n : Nat) :
    t.homeMarked p n = s.homeMarked p n := by
  have anyMark : ∀ k, t.anyMark k n = s.anyMark k n := fun k => by simp only [State.anyMark, h.marks]
  cases p with
  | pa x key page => exact anyMark x
  | chip k => exact anyMark k
  | barge d off => exact absurd rfl (hp d off)

/-! ## What a release leaves of the caches -/

/-- The lines that a die still caches after a release were cached before it. -/
theorem line_of_releaseAs {s : State} (hc : s.InTheClear) {d uid scope e : Nat} {l : DirtyLine}
    (h : l ∈ ((s.releaseAs d uid scope).die e).dirty) : ∃ l', l' ∈ (s.die e).dirty ∧ l'.line = l.line := by
  unfold State.releaseAs State.writeBack at h
  split at h
  · rw [State.die_onDie] at h
    split at h
    · rename_i he
      obtain ⟨l', hl', rfl⟩ := List.mem_map.1 h
      exact ⟨l', he.1 ▸ hl', rfl⟩
    · exact ⟨l, h, rfl⟩
  · have hbase := (memoryOnly_writeLines hc d ((s.die d).dirty.filter fun l => l.uids.contains uid || l.released)).die
    rw [State.die_onDie] at h
    split at h
    · rename_i he
      rw [State.die_onDie, if_pos ⟨rfl, he.2⟩, hbase] at h
      exact ⟨l, he.1 ▸ (List.mem_filter.1 h).1, rfl⟩
    · rw [State.die_onDie] at h
      split at h
      · rename_i h1 h2
        exact absurd h2 h1
      · rw [hbase] at h
        exact ⟨l, h, rfl⟩

theorem wf_releaseAs {s : State} (h : Memory.wf s.mem = true) (d uid scope : Nat) : Memory.wf (s.releaseAs d uid scope).mem = true := by
  unfold State.releaseAs
  split
  · exact h
  · exact State.wf_writeBack h d _

theorem onlyData_releaseAs (s : State) (d uid scope : Nat) : OnlyData s (s.releaseAs d uid scope) := by
  unfold State.releaseAs
  split
  · exact onlyData_onDie s d fun _ => rfl
  · exact (onlyData_writeBack s d _).trans (onlyData_onDie _ d fun _ => rfl)

end Sys2Proof.Machine
end

section
/-! LEMMAS. One atomic at its home slice or bank, in the clear and on a line that its die does not cache (R163, R320, R324, R351). -/

namespace Sys2Proof.Machine

/-! ## Places of memory -/

/-- The place is one of memory, a basin or a tile store: none of a barge store. -/
def Place.inMemory (p : Place) : Prop := ∀ d off, p ≠ .barge d off

/-- The places of what a table entry maps and of addresses that name their cell. -/
theorem inMemory_of_placeOf {s : State} {a : Accessor} {addr : W64} {p : Place} (hpath : s.pathOk a.die a.region .atomic addr = true)
    (h : s.placeOf a .atomic addr = .ok p) : p.inMemory := by
  have hbarge : ¬ topByte addr = 0xD0 := fun e => by simp [State.pathOk, e] at hpath
  unfold State.placeOf at h
  simp only [if_neg hbarge] at h
  split at h
  · split at h
    · cases h
    · rename_i e _
      by_cases hw : (if Kind.atomic.writes then !e.w else !e.r) = true
      · rw [if_pos hw] at h
        cases h
      · rw [if_neg hw] at h
        cases h
        exact nofun
  · split at h <;> cases h <;> exact nofun

/-- An atomic names a place of memory: neither path 0xC0, 0xD0 nor 0xF0 takes one (R141). -/
theorem inMemory_of_check {s : State} {a : Accessor} {addr : W64} {n m : Nat} {p : Place} (h : s.check a .atomic addr n m = .ok p) :
    p.inMemory := by
  unfold State.check at h
  split at h
  · cases h
  · split at h
    · cases h
    · rename_i hpath
      split at h
      · cases h
      · split at h
        · cases h
        · exact inMemory_of_placeOf (by simpa using hpath) h

/-- Die d caches no line of n bytes from cell k. -/
def State.OffCaches (s : State) (d k n : Nat) : Prop := ∀ l, l ∈ (s.die d).dirty → OffLines k n (128 * l.line)

theorem State.OffCaches.line {s : State} {d k n i : Nat} (h : s.OffCaches d k n) (hi : i < n) {l : DirtyLine}
    (hl : l ∈ (s.die d).dirty) : l.line ≠ (k + i) / 128 := by
  have := h l hl i hi
  omega

theorem State.OffCaches.ownKeys {s : State} {d n : Nat} {p : Place} (h : s.OffCaches d p.home n) : s.OwnKeys d p n := by
  cases p with
  | pa x key page => exact fun l hl _ => h l hl
  | chip k => trivial
  | barge e off => trivial

theorem State.OffCaches.congr {s t : State} {d k n : Nat} (h : s.OffCaches d k n) (ht : (t.die d).dirty = (s.die d).dirty) :
    t.OffCaches d k n := by
  unfold State.OffCaches
  rw [ht]
  exact h

/-! ## Nothing to write back -/

theorem State.onDie_self (s : State) (d : Nat) {f : Die → Die} (h : f (s.die d) = s.die d) : s.onDie d f = s := by
  unfold State.onDie State.setDie
  rw [h]
  have hsame : s.dies.setIfInBounds d (s.die d) = s.dies := by
    ext i hi
    unfold State.die
    by_cases hd : d = i
    · subst hd
      simp [hi]
    · simp [hd]
  rw [hsame]

theorem State.writeBack_none {s : State} {d : Nat} {pick : DirtyLine → Bool} (h : ∀ l, l ∈ (s.die d).dirty → pick l = false) :
    s.writeBack d pick = s := by
  have picked : (s.die d).dirty.filter pick = [] := List.filter_eq_nil_iff.2 fun l hl => by simp [h l hl]
  have kept : ((s.die d).dirty.filter fun l => !pick l) = (s.die d).dirty :=
    List.filter_eq_self.2 fun l hl => by simp [h l hl]
  unfold State.writeBack
  rw [picked]
  exact s.onDie_self d (by rw [kept])

theorem State.OffCaches.writeBackLine {s : State} {d k n i : Nat} (h : s.OffCaches d k n) (hi : i < n) :
    s.writeBackLine d (k + i) = s := State.writeBack_none fun _ hl => by simpa using h.line hi hl

theorem State.OffCaches.flushPlace {s : State} {d n : Nat} {p : Place} (h : s.OffCaches d p.home n) (hn : 0 < n) :
    s.flushPlace d p = s := by
  cases p with
  | pa x key page => exact h.writeBackLine (i := 0) hn
  | chip k => rfl
  | barge e off => rfl

/-! ## The bytes that an atomic writes -/

/-- A byte of a line that the die does not cache goes to its cell. -/
theorem engineAt_clear {s : State} {d n i : Nat} {p : Place} (hc : s.InTheClear) (hp : p.inMemory) (h : s.OffCaches d p.home n)
    (hi : i < n) (b : Byte) : MemoryOnly s (s.engineAt d (p.plus i) b) ∧ (s.engineAt d (p.plus i) b).memMarks = s.memMarks ∧
      (s.engineAt d (p.plus i) b).mem = (s.setCell (p.home + i) b).mem := by
  cases p with
  | barge e off => exact absurd rfl (hp e off)
  | chip k => exact ⟨rfl, rfl, rfl⟩
  | pa x key page =>
    have hbyte : s.engineAt d (.pa (x + i) key page) b = (s.keepOld (x + i)).setCell (x + i) b := by
      show (s.writeBackLine d (x + i)).setHomeByte key (x + i) b = _
      rw [h.writeBackLine (k := x) hi, State.setHomeByte_clear hc]
    show MemoryOnly s (s.engineAt d (.pa (x + i) key page) b) ∧ _
    rw [show (Place.pa x key page).plus i = .pa (x + i) key page from rfl, hbyte, State.keepOld_eq]
    exact ⟨rfl, rfl, rfl⟩

theorem engineAts_clear (bs : List Byte) {s : State} {d : Nat} {p : Place} (hc : s.InTheClear) (hp : p.inMemory)
    (h : s.OffCaches d p.home bs.length) :
    let t := bs.zipIdx.foldl (fun t x => t.engineAt d (p.plus x.2) x.1) s
    MemoryOnly s t ∧ t.memMarks = s.memMarks ∧ t.mem = (bs.zipIdx.foldl (fun t x => t.setCell (p.home + x.2) x.1) s).mem := by
  induction bs using List.reverseRecOn with
  | nil => exact ⟨rfl, rfl, rfl⟩
  | append_singleton front b ih =>
    rw [List.length_append, List.length_singleton] at h
    obtain ⟨hframe, hmarks, hmem⟩ := ih fun l hl i hi => h l hl i (by omega)
    simp only [List.zipIdx_append, List.foldl_append, List.zipIdx_cons, List.zipIdx_nil, List.foldl_cons, List.foldl_nil,
      Nat.zero_add]
    obtain ⟨oneFrame, oneMarks, oneMem⟩ := engineAt_clear (hframe.inTheClear hc) hp (h.congr (by rw [hframe.die d]))
      (Nat.lt_succ_self front.length) b
    refine ⟨hframe.trans oneFrame, oneMarks.trans hmarks, oneMem.trans ?_⟩
    simp only [State.setCell, hmem]

/-- What an atomic leaves beside its word: crews, registers and caches, and a memory in canonical form. -/
structure Acted (s t : State) : Prop where
  data : OnlyData s t
  clear : t.InTheClear
  form : Memory.wf t.mem = true
  dirty : ∀ d, (t.die d).dirty = (s.die d).dirty
  marks : ∀ x, x ∈ t.memMarks → x ∈ s.memMarks

theorem Acted.refl {s : State} (hc : s.InTheClear) (h : Memory.wf s.mem = true) : Acted s s :=
  ⟨OnlyData.refl s, hc, h, fun _ => rfl, fun _ hx => hx⟩

theorem Acted.trans {s t u : State} (h : Acted s t) (k : Acted t u) : Acted s u where
  data := h.data.trans k.data
  clear := k.clear
  form := k.form
  dirty d := (k.dirty d).trans (h.dirty d)
  marks x hx := h.marks x (k.marks x hx)

/-- The bytes of a number that an atomic writes at its home. -/
theorem engineBytes_clear {s : State} {d n : Nat} {p : Place} (hc : s.InTheClear) (hwf : Memory.wf s.mem = true) (hp : p.inMemory)
    (h : s.OffCaches d p.home n) (v : Nat) :
    Acted s (s.engineBytes d p (bytesOfNat n v)) ∧ CellsHold s (s.engineBytes d p (bytesOfNat n v)) p.home n v := by
  have hlen : (bytesOfNat n v).length = n := bytesOfNat_length n v
  obtain ⟨hframe, hmarks, hmem⟩ := engineAts_clear (bytesOfNat n v) hc hp (by rw [hlen]; exact h)
  obtain ⟨-, hform, hcells⟩ := State.setCells_spec (bytesOfNat n v) p.home hwf
  have hdata := onlyData_engineBytes s d p (bytesOfNat n v)
  have hbytes : ∀ i, i < n → (bytesOfNat n v)[i]? = some (BitVec.ofNat 8 (v / 256 ^ i)) := fun i hi => bytesOfNat_get n v i hi
  rw [hlen] at hcells
  unfold State.engineBytes at hdata ⊢
  rw [hlen] at hdata ⊢
  generalize bytesOfNat n v = bs at *
  generalize bs.zipIdx.foldl (fun t x => t.engineAt d (p.plus x.2) x.1) s = t at *
  have houter : MemoryOnly t ((t.clearPlace p n).stampPlace d p n) ∧ ((t.clearPlace p n).stampPlace d p n).mem = t.mem ∧
      ∀ x, x ∈ ((t.clearPlace p n).stampPlace d p n).memMarks → x ∈ t.memMarks := by
    cases p with
    | barge e off => exact absurd rfl (hp e off)
    | pa x key page => exact ⟨rfl, rfl, fun y hy => (List.mem_filter.1 hy).1⟩
    | chip k => exact ⟨rfl, rfl, fun y hy => (List.mem_filter.1 hy).1⟩
  obtain ⟨outerFrame, outerMem, outerMarks⟩ := houter
  have hall := hframe.trans outerFrame
  refine ⟨⟨hdata, hall.inTheClear hc, ?_, fun e => by rw [hall.die e], fun x hx => hmarks ▸ outerMarks x hx⟩, fun j => ?_⟩
  · rw [outerMem, hmem]
    exact hform
  · have hj : State.cell ((t.clearPlace p n).stampPlace d p n) j =
        State.cell (bs.zipIdx.foldl (fun t x => t.setCell (p.home + x.2) x.1) s) j := by
      unfold State.cell
      rw [outerMem, hmem]
    rw [hj, hcells j]
    split
    · rw [hbytes _ (by omega), Option.getD_some]
    · rfl

/-! ## The value that an atomic meets -/

theorem homeRead_clear {s : State} (hc : s.InTheClear) {p : Place} (hp : p.inMemory) (n : Nat) :
    s.homeRead p n = s.cellsValue p.home n := by
  cases p with
  | barge d off => exact absurd rfl (hp d off)
  | chip k => rfl
  | pa x key page =>
    unfold State.homeRead State.cellsValue
    simp only [Place.plus, State.homeByte_clear hc, Place.home]

/-- Cells hold the bytes of their own value. -/
theorem cellsHold_self (s : State) (k n : Nat) : CellsHold s s k n (s.cellsValue k n) := by
  intro j
  split
  · rename_i hj
    have hget := getElem?_of_natOfBytes (bs := (List.range n).map fun i => s.cell (k + i)) (i := j - k) (by simp; omega)
    rw [List.getElem?_map, List.getElem?_range (by omega), Option.map_some, Option.some.injEq] at hget
    rw [show j = k + (j - k) by omega, hget]
    simp [State.cellsValue]
  · rfl

theorem ReadSide.acted {s t : State} (h : ReadSide s t) (hc : s.InTheClear) (hwf : Memory.wf s.mem = true) (hd : OnlyData s t) :
    Acted s t where
  data := hd
  clear := (h.sameBytes hc).clear'
  form := by
    rw [h.package]
    exact hwf
  dirty := (h.sameBytes hc).dirty
  marks x hx := by rwa [(h.sameBytes hc).marks] at hx

/-- An atomic at its home: the old value, whether it is marked, and the word replaced (R163, R324). -/
theorem State.atomicAt_clear {s : State} {d n : Nat} {p : Place} (hd : d ≠ 4) (hn : 0 < n) (hc : s.InTheClear)
    (hwf : Memory.wf s.mem = true) (hp : p.inMemory) (h : s.OffCaches d p.home n) (f : Nat → Nat) (always : Bool) :
    (s.atomicAt d p n f always).1 = s.cellsValue p.home n ∧ (s.atomicAt d p n f always).2.1 = s.homeMarked p n ∧
      Acted s (s.atomicAt d p n f always).2.2 ∧
      CellsHold s (s.atomicAt d p n f always).2.2 p.home n (f (s.cellsValue p.home n)) := by
  have hread : ReadSide s (s.observe d p n) := readSide_observe hd hn h.ownKeys
  have hsame := hread.sameBytes hc
  have hacted := hread.acted hc hwf (onlyData_observe s d p n)
  have hold : (s.observe d p n).homeRead p n = s.cellsValue p.home n := by
    rw [homeRead_clear hsame.clear' hp, hsame.cellsValue]
  have hcells : ∀ j, (s.observe d p n).cell j = s.cell j := hsame.cell
  unfold State.atomicAt
  simp only [h.flushPlace hn, hold, hsame.homeMarked hp]
  refine ⟨trivial, trivial, ?_⟩
  split
  · obtain ⟨hwritten, hheld⟩ := engineBytes_clear (d := d) hsame.clear' hacted.form hp (h.congr (hsame.dirty d))
      (f (s.cellsValue p.home n))
    exact ⟨hacted.trans hwritten, fun j => by rw [hheld j, hcells j]⟩
  · rename_i hkeep
    have hsameValue : f (s.cellsValue p.home n) = s.cellsValue p.home n := by
      simp only [Bool.or_eq_true, bne_iff_ne, not_or, not_not] at hkeep
      exact hkeep.1
    exact ⟨hacted, fun j => by rw [hcells j, hsameValue]; exact cellsHold_self s p.home n j⟩

/-- A crew that no weir binds acts at the home. -/
theorem State.atomic_unbound (s : State) {c : Crew} (h : c.weir = none) (p : Place) (n : Nat) (f : Nat → Nat) (always : Bool) :
    s.atomic c p n f always = s.atomicAt c.place.die p n f always := by
  cases p with
  | pa x key page => rfl
  | barge d off => rfl
  | chip k =>
    have hfree : s.provisional c k = none := by simp [State.provisional, State.weirWindow, h]
    unfold State.atomic
    simp only [hfree]

end Sys2Proof.Machine
end

section
/-! LEMMAS. The operations of an atomic on integers and on floats (R60, R62, R163). -/

namespace Sys2Proof.Machine

/-! ## Integers -/

/-- The exact sum wrapped to a type's width is the sum of the codes (R60). -/
theorem wrapInt_sum (signed : Bool) (w x y : Nat) : wrapInt w (intOf signed w x + intOf signed w y) = (x + y) % 2 ^ w := by
  have hsum : (intOf signed w x + intOf signed w y) % 2 ^ w = ((x + y : Nat) : Int) % 2 ^ w := by
    rw [Int.add_emod, intOf_emod, intOf_emod, ← Int.add_emod, Nat.cast_add]
  unfold wrapInt
  rw [hsum]
  norm_cast

theorem arithElem_sum {t : ElemTy} (hint : t.isInt = true) (fms : Vector (BitVec 32) 16) (ff : XReal → XReal → XReal → XReal)
    (x y z : Nat) : arithElem fms 0 false (fun a b _ => a + b) ff t t t x y z = (x + y) % 2 ^ t.width := by
  unfold arithElem
  simp only [ElemTy.fmt_int hint]
  exact wrapInt_sum t.isSigned t.width x y

theorem pickMin_int (a b : Int) : pickMin (.ofInt a) (.ofInt b) = !decide (b < a) := by
  have hreal : ∀ v, (XReal.ofInt v).isNan = false := fun _ => rfl
  simp [pickMin, hreal, below_ofInt]

theorem pickMax_int (a b : Int) : pickMax (.ofInt a) (.ofInt b) = !decide (a < b) := by
  have hreal : ∀ v, (XReal.ofInt v).isNan = false := fun _ => rfl
  simp [pickMax, hreal, below_ofInt]

theorem storeChosen_code {t : ElemTy} (hint : t.isInt = true) (fms : Vector (BitVec 32) 16) {p : ElemTy × Nat} (h : p.2 < 2 ^ t.width) :
    storeChosen fms t p = p.2 := by
  unfold storeChosen
  simp only [ElemTy.fmt_int hint]
  exact Nat.mod_eq_of_lt h

/-- The operations on words of an integer type. -/
theorem amoOp_int {t : ElemTy} (hint : t.isInt = true) {n op old x : Nat} (hw : t.width = 8 * n) (hold : old < 2 ^ (8 * n))
    (hx : x < 2 ^ (8 * n)) : amoOp t op old x = atomicInteger op n t.isSigned old x := by
  rw [← hw] at hold hx
  match op with
  | 0 =>
    show amoOp t 0 old x = (old + x) % 2 ^ (8 * n)
    simp only [amoOp, arithElem_sum hint, hw, if_true]
  | 1 =>
    show amoOp t 1 old x = if intOf t.isSigned (8 * n) x < intOf t.isSigned (8 * n) old then x else old
    simp only [amoOp, chooseElem, ElemTy.value_int hint, pickMin_int, ← hw, Bool.false_eq_true, if_false, Nat.one_ne_zero, if_true]
    by_cases h : intOf t.isSigned t.width x < intOf t.isSigned t.width old
    · simp [h, storeChosen_code hint _ (p := (t, x)) hx]
    · simp [h, storeChosen_code hint _ (p := (t, old)) hold]
  | 2 =>
    show amoOp t 2 old x = if intOf t.isSigned (8 * n) old < intOf t.isSigned (8 * n) x then x else old
    simp only [amoOp, chooseElem, ElemTy.value_int hint, pickMax_int, ← hw, OfNat.ofNat_ne_zero, OfNat.ofNat_ne_one, if_false, if_true]
    by_cases h : intOf t.isSigned t.width old < intOf t.isSigned t.width x
    · simp [h, storeChosen_code hint _ (p := (t, x)) hx]
    · simp [h, storeChosen_code hint _ (p := (t, old)) hold]
  | 3 => rfl
  | 4 => rfl
  | 5 => rfl
  | k + 6 => rfl

theorem atomicInteger_lt {op n old x : Nat} (signed : Bool) (hold : old < 2 ^ (8 * n)) (hx : x < 2 ^ (8 * n)) :
    atomicInteger op n signed old x < 2 ^ (8 * n) := by
  unfold atomicInteger
  split
  · exact Nat.mod_lt _ (Nat.two_pow_pos _)
  · split <;> assumption
  · split <;> assumption
  · exact Nat.and_lt_two_pow _ hx
  · exact Nat.or_lt_two_pow hold hx
  · exact Nat.xor_lt_two_pow hold hx
  · exact hx

/-! ## Floats -/

theorem chooseElem_smaller (fms : Vector (BitVec 32) 16) (t : ElemTy) (x y : Nat) :
    (chooseElem fms false (t, x) (t, y)).1.value fms (chooseElem fms false (t, x) (t, y)).2 = smaller (t.value fms x) (t.value fms y) := by
  simp only [chooseElem, pickMin, smaller, Bool.false_eq_true, if_false]
  cases hx : (t.value fms x).isNan <;> cases hy : (t.value fms y).isNan <;>
    cases hb : (t.value fms y).below (t.value fms x) <;> simp

theorem chooseElem_larger (fms : Vector (BitVec 32) 16) (t : ElemTy) (x y : Nat) :
    (chooseElem fms true (t, x) (t, y)).1.value fms (chooseElem fms true (t, x) (t, y)).2 = larger (t.value fms x) (t.value fms y) := by
  simp only [chooseElem, pickMax, larger, if_true]
  cases hx : (t.value fms x).isNan <;> cases hy : (t.value fms y).isNan <;>
    cases hb : (t.value fms x).below (t.value fms y) <;> simp

theorem ElemTy.value_float {t : ElemTy} {f : Fmt} {fms : Vector (BitVec 32) 16} (h : t.fmt fms = some f) (x : Nat) :
    t.value fms x = f.decode x := by
  unfold ElemTy.value
  simp only [h]

theorem storeChosen_float {t : ElemTy} {f : Fmt} {fms : Vector (BitVec 32) 16} (h : t.fmt fms = some f) (p : ElemTy × Nat) :
    storeChosen fms t p = f.round .rne false (p.1.value fms p.2) := by
  unfold storeChosen
  simp only [h]

/-- The operations on words of a float type. -/
theorem amoOp_float {t : ElemTy} {f : Fmt} (h : ∀ fms, t.fmt fms = some f) {op : Nat} (hop : op ∉ [3, 4, 5]) (old x : Nat) :
    amoOp t op old x = atomicFloat op f old x := by
  simp only [List.mem_cons, List.not_mem_nil, or_false, not_or] at hop
  match op, hop with
  | 0, _ =>
    show amoOp t 0 old x = f.round .rne false ((f.decode old).add false (f.decode x))
    simp only [amoOp, arithElem, h, ElemTy.value_float (h _), if_true]
    rfl
  | 1, _ =>
    show amoOp t 1 old x = f.round .rne false (smaller (f.decode old) (f.decode x))
    simp only [amoOp, storeChosen_float (h _), chooseElem_smaller, ElemTy.value_float (h _), Nat.one_ne_zero, if_false, if_true]
  | 2, _ =>
    show amoOp t 2 old x = f.round .rne false (larger (f.decode old) (f.decode x))
    simp only [amoOp, storeChosen_float (h _), chooseElem_larger, ElemTy.value_float (h _), OfNat.ofNat_ne_zero, OfNat.ofNat_ne_one,
      if_false, if_true]
  | k + 6, _ => rfl

end Sys2Proof.Machine
end

section
/-! LEMMAS. A rounded F32 fits its 32 bits (R61, R71). -/

namespace Sys2Proof.Machine

/-- Powers of two compare as their exponents, an integer exponent being split into numerator and denominator. -/
theorem pow2Num_mul (a : Nat) (k : Int) {b : Nat} (h : (a : Int) + k ≤ b) : 2 ^ a * pow2Num k ≤ 2 ^ b * pow2Den k := by
  unfold pow2Num pow2Den
  rw [← pow_add, ← pow_add]
  exact Nat.pow_le_pow_right (by decide) (by omega)

/-- A number that is not above the largest F32 lies below 2^128. -/
theorem log2_of_not_aboveMax {m : Nat} {q : Int} (hm : m ≠ 0) (h : Fmt.f32.aboveMax m q = false) : (Nat.log2 m : Int) + q ≤ 127 := by
  have hmax : Fmt.f32.magnitude Fmt.f32.maxCode = (2 ^ 24 - 1, 104) := by decide
  have hle : m * pow2Den (104 - q) ≤ (2 ^ 24 - 1) * pow2Num (104 - q) := by
    simpa [Fmt.aboveMax, hmax, magLt] using h
  have hlog : 2 ^ Nat.log2 m ≤ m := Nat.log2_self_le hm
  have hlt : 2 ^ Nat.log2 m * pow2Den (104 - q) < 2 ^ 24 * pow2Num (104 - q) := by
    have hpos : 0 < pow2Num (104 - q) := Nat.two_pow_pos _
    calc 2 ^ Nat.log2 m * pow2Den (104 - q) ≤ m * pow2Den (104 - q) := Nat.mul_le_mul_right _ hlog
      _ ≤ (2 ^ 24 - 1) * pow2Num (104 - q) := hle
      _ < 2 ^ 24 * pow2Num (104 - q) := Nat.mul_lt_mul_of_pos_right (by decide) hpos
  unfold pow2Num pow2Den at hlt
  rw [← pow_add, ← pow_add] at hlt
  have := (Nat.pow_lt_pow_iff_right (by decide : 1 < 2)).1 hlt
  omega

/-- The code of a magnitude that F32 holds takes 31 bits. -/
theorem encodeMag_lt {m : Nat} {q : Int} (h : Fmt.f32.aboveMax m q = false) : Fmt.f32.encodeMag m q < 2 ^ 31 := by
  unfold Fmt.encodeMag
  split
  · decide
  · rename_i hm
    have hlog := log2_of_not_aboveMax hm h
    have hman : Fmt.f32.man = 23 := rfl
    have hbias : Fmt.f32.bias = 127 := rfl
    simp only [hman, hbias]
    generalize he : max ((Nat.log2 m : Int) + q) (1 - 127) = e
    have hu : m * pow2Num (q - (e - (23 : Nat))) / pow2Den (q - (e - (23 : Nat))) < 2 ^ 24 := by
      refine Nat.div_lt_of_lt_mul ?_
      rw [Nat.mul_comm (pow2Den _)]
      calc m * pow2Num (q - (e - (23 : Nat))) < 2 ^ (Nat.log2 m + 1) * pow2Num (q - (e - (23 : Nat))) :=
            Nat.mul_lt_mul_of_pos_right Nat.lt_log2_self (Nat.two_pow_pos _)
        _ ≤ 2 ^ 24 * pow2Den (q - (e - (23 : Nat))) := pow2Num_mul _ _ (by omega)
    split
    · omega
    · have hexp : (e + 127).toNat ≤ 254 := by omega
      omega

theorem round_f32_lt (x : XReal) : Fmt.f32.round .rne false x < 2 ^ 32 := by
  have hsign : ∀ neg : Bool, (if neg then Fmt.f32.signBit else 0) ≤ 2 ^ 31 := by decide
  have hover : ∀ exactInf neg : Bool, Fmt.f32.overflow .rne false exactInf neg < 2 ^ 32 := by decide
  cases x with
  | nan => decide
  | inf neg =>
    have signed : Fmt.f32.signed = true := rfl
    simpa only [Fmt.round, signed, Bool.not_true, Bool.false_and, Bool.false_eq_true, if_false] using hover true neg
  | num neg n d e =>
    have hzero : (if Fmt.f32.hasNegZero && neg then Fmt.f32.signBit else 0) < 2 ^ 32 := by cases neg <;> decide
    unfold Fmt.round
    simp only
    split
    · exact hzero
    · split
      · exact hzero
      · split
        · decide
        · split
          · exact hover false neg
          · rename_i habove
            have hmag := encodeMag_lt (Bool.eq_false_iff.2 habove)
            have := hsign neg
            omega

theorem atomicFloat_lt {op old x : Nat} (hx : x < 2 ^ 32) : atomicFloat op .f32 old x < 2 ^ 32 := by
  unfold atomicFloat
  split
  · exact round_f32_lt _
  · exact round_f32_lt _
  · exact round_f32_lt _
  · exact hx

end Sys2Proof.Machine
end

section
/-! LEMMAS. AMO, AMOV and CAS: the release, the word at its home, and the crew that issues (R142, R163, R164, R317, R328, R337). -/

namespace Sys2Proof.Machine

/-! ## The release before an atomic (R163, R317) -/

/-- The state in which an S-form atomic acts on its word: after the release that its order asks for. -/
def amoBase (w : RegForm) (s : State) (c : Crew) : State :=
  if w.fn.getLsbD 4 then s.releaseAs c.place.die c.uid (2 + w.fn.toNat / 32) else s

/-- The release reports a write-back of the crew that was discarded (R328). -/
def amoReports (w : RegForm) : Bool := w.fn.getLsbD 4 && decide (4 ≤ 2 + w.fn.toNat / 32)

theorem amoScope_eq (fn : BitVec 7) : amoScope fn = 2 + fn.toNat / 32 := by
  have := fn.isLt
  simp only [amoScope, BitVec.extractLsb'_toNat, Nat.shiftRight_eq_div_pow]
  omega

theorem amoRelease_state (s : State) (c : Crew) (w : RegForm) : (s.amoRelease c w.fn).1 = amoBase w s c := by
  unfold State.amoRelease amoBase amoReleases
  rw [amoScope_eq]
  split <;> rfl

/-- A crew whose release has reported a discarded write-back reports it no more. -/
theorem amoRelease_crew (s : State) (c : Crew) (w : RegForm) :
    (s.amoRelease c w.fn).2.1 = { c with wbLost := c.wbLost && !amoReports w } := by
  unfold State.amoRelease State.releaseFor Crew.released amoReports amoReleases
  rw [amoScope_eq]
  cases w.fn.getLsbD 4 <;> by_cases hs : 4 ≤ 2 + w.fn.toNat / 32 <;> simp [hs]

theorem amoRelease_error (s : State) (c : Crew) (w : RegForm) : (s.amoRelease c w.fn).2.2 = (amoReports w && c.wbLost) := by
  unfold State.amoRelease State.releaseFor Crew.releaseErr amoReports amoReleases
  rw [amoScope_eq]
  cases w.fn.getLsbD 4 <;> simp

theorem mayAmo_ok {s : State} {c : Crew} (hremote : ∀ r, r ∈ s.io.remote → r.op.uid ≠ c.uid) (hclock : s.clockHeld c.place.die = false)
    (fn : BitVec 7) : s.mayAmo c fn = .ok () := by
  have hnone : (s.io.remote.any fun r => r.op.uid = c.uid) = false :=
    List.any_eq_false.2 fun r hr => by simpa using hremote r hr
  unfold State.mayAmo State.mayRelease
  simp [hnone, hclock]

theorem SameBytes.amoBase {s t : State} (h : SameBytes s t) (w : RegForm) (c : Crew) : SameBytes (amoBase w s c) (amoBase w t c) := by
  unfold Machine.amoBase
  split
  · exact h.releaseAs _ _ _
  · exact h

theorem onlyData_amoBase (w : RegForm) (s : State) (c : Crew) : OnlyData s (amoBase w s c) := by
  unfold amoBase
  split
  · exact onlyData_releaseAs s _ _ _
  · exact OnlyData.refl s

theorem wf_amoBase {s : State} (h : Memory.wf s.mem = true) (w : RegForm) (c : Crew) : Memory.wf (amoBase w s c).mem = true := by
  unfold amoBase
  split
  · exact wf_releaseAs h _ _ _
  · exact h

theorem State.OffCaches.amoBase {s : State} {c : Crew} {d k n : Nat} (hc : s.InTheClear) (h : s.OffCaches d k n) (w : RegForm) :
    (amoBase w s c).OffCaches d k n := by
  unfold Machine.amoBase
  split
  · intro l hl
    obtain ⟨l', hl', hline⟩ := line_of_releaseAs hc hl
    exact hline ▸ h l' hl'
  · exact h

/-! ## The crew that issues -/

/-- The crew put back after a word that may have changed memory. -/
theorem crewAt_putBack {s t : State} {c c' : Crew} (hcrews : ∀ who, t.crewAt who = s.crewAt who) (hcur : t.cur = s.cur)
    (h : s.crewAt s.cur = some c) (hp : c'.place = c.place) :
    (t.putCrew c').crewAt s.cur = some c' ∧ ∀ who, who ≠ s.cur → (t.putCrew c').crewAt who = s.crewAt who := by
  have ht : t.crewAt t.cur = some c := by rw [hcur, hcrews, h]
  refine ⟨?_, fun who hw => ?_⟩
  · rw [State.crewAt_putCrew _ ht hp, hcur, if_pos rfl]
  · rw [State.crewAt_putCrew _ ht hp, hcur, if_neg hw, hcrews]

theorem Crew.foldWord_eq (c : Crew) (a : W64) (size v : Nat) :
    c.foldWord a size v = { c with fp := (c.foldWord a size v).fp, folds := (c.foldWord a size v).folds } := by
  unfold Crew.foldWord
  split <;> rfl

theorem Crew.meetPoison_eq (c : Crew) (bad : Bool) (addr : W64) :
    c.meetPoison bad addr = { c with poison := if bad then some (markDetail addr, addr, c.poff) else c.poison } := by
  cases bad <;> rfl

/-- A crew with its atomic counted, met as poison where the word was marked, and folded into its fingerprint. -/
def Crew.withAtomic (c : Crew) (k : Counter) (err bad : Bool) (addr : W64) (n v : Nat) : Crew :=
  ((c.addOp k true err).meetPoison bad addr).foldWord addr n v

theorem Crew.withAtomic_eq (c : Crew) (k : Counter) (err bad : Bool) (addr : W64) (n v : Nat) :
    c.withAtomic k err bad addr n v = { c.counted k err with
      fp := (c.withAtomic k err bad addr n v).fp, folds := (c.withAtomic k err bad addr n v).folds
      poison := if bad then some (markDetail addr, addr, c.poff) else c.poison } := by
  unfold Crew.withAtomic
  rw [Crew.foldWord_eq, Crew.meetPoison_eq]
  rfl

/-- A crew with the old value of an atomic in its destination, if it has one. -/
def Crew.setDest (c : Crew) (dest : Option (BitVec 8)) (v : W64) : Crew :=
  match dest with
  | some d => c.setS d v
  | none => c

theorem Crew.setDest_eq (c : Crew) (dest : Option (BitVec 8)) (v : W64) :
    c.setDest dest v = { c with sregs := (c.setDest dest v).sregs } := by
  cases dest with
  | none => rfl
  | some d => exact c.setS_eq d v

theorem Crew.sreg_setDest (c : Crew) (dest : Option (BitVec 8)) (v : W64) {f : BitVec 8} (hf : f.toNat < 64) :
    (c.setDest dest v).sreg f = if some f = dest ∧ f ≠ 0 then v else c.sreg f := by
  cases dest with
  | none => rfl
  | some d =>
    rw [Crew.setDest, Crew.sreg_setS c d f v hf]
    by_cases h : f = d
    · subst h
      simp
    · simp [h]

/-! ## The word -/

/-- What AMO, AMOV and CAS leave: the word replaced, the old value in the destination, and the operation counted. -/
def AtomicRuns (i : Instr) (w : RegForm) (s : State) (c : Crew) (n : Nat) (signed : Bool) (p : Place) (k : Counter)
    (d : Option (BitVec 8)) (new : Nat) : Prop :=
  let base := amoBase w s c
  let bad := base.homeMarked p n
  ∃ t c', exec i s = .next t ∧ t.crewAt s.cur = some c' ∧ (∀ who, who ≠ s.cur → t.crewAt who = s.crewAt who) ∧
    CellsHold base t p.home n new ∧
    (∀ f : BitVec 8, f.toNat < 64 →
      c'.sreg f = if some f = d ∧ f ≠ 0 then extended n signed (base.cellsValue p.home n) else c.sreg f) ∧
    c' = { c.counted k (bad || (amoReports w && c.wbLost)) with
           sregs := c'.sregs, pc := c.pc + 8, fp := c'.fp, folds := c'.folds, wbLost := c.wbLost && !amoReports w
           poison := if bad then some (markDetail (c.sreg w.a), c.sreg w.a, c.poff) else c.poison }

/-- What an S-form atomic takes: nothing encrypted, no weir, a word that the die does not cache, and a release that need not wait. -/
structure AtomicReady (w : RegForm) (s : State) (c : Crew) (n : Nat) (signed : Bool) (p : Place) : Prop where
  noLog : s.NoLog
  clear : s.InTheClear
  form : Memory.wf s.mem = true
  unbound : c.weir = none
  remote : ∀ r, r ∈ s.io.remote → r.op.uid ≠ c.uid
  clock : s.clockHeld c.place.die = false
  off : s.OffCaches c.place.die p.home n
  issues : Issues s c w.guard
  here : s.remoteWindow (c.sreg w.a) = none
  typed : (w.ety.toNat, n, signed) ∈ [(3, 4, true), (4, 8, true), (7, 4, false), (8, 8, false), (11, 4, false), (12, 8, false)]
  checked : s.check c.accessor .atomic (c.sreg w.a) n n = .ok p

section
variable {w : RegForm} {s : State} {c : Crew} {n : Nat} {signed : Bool} {p : Place} (h : AtomicReady w s c n signed p)
include h

/-- The type of the word: its width and its extension (R163). -/
theorem AtomicReady.type : 0 < n ∧ etyBytes w.ety = n ∧ (∀ x, loadExtend w.ety x = extended n signed x) ∧
    ∃ t, etyType w.ety 0 = some t ∧ (w.ety.toNat ≤ 8 → t.isInt = true ∧ t.width = 8 * n ∧ t.isSigned = signed) ∧
      (w.ety.toNat = 11 → ∀ fms, t.fmt fms = some .f32) ∧ (w.ety.toNat = 12 → ∀ fms, t.fmt fms = some .f64) := by
  have hety : ∀ k : Nat, w.ety.toNat = k → w.ety = BitVec.ofNat 4 k := fun k hk => by
    rw [← hk, BitVec.ofNat_toNat, BitVec.setWidth_eq]
  have ht := h.typed
  simp only [List.mem_cons, Prod.mk.injEq, List.not_mem_nil, or_false] at ht
  rcases ht with ⟨hk, rfl, rfl⟩ | ⟨hk, rfl, rfl⟩ | ⟨hk, rfl, rfl⟩ | ⟨hk, rfl, rfl⟩ | ⟨hk, rfl, rfl⟩ | ⟨hk, rfl, rfl⟩
  all_goals
    rw [hety _ hk]
    refine ⟨by decide, by decide, fun _ => rfl, _, rfl, ?_, ?_, ?_⟩ <;> simp [ElemTy.isInt, ElemTy.width, ElemTy.isSigned, ElemTy.fmt]

theorem AtomicReady.place : p.inMemory := inMemory_of_check h.checked

theorem AtomicReady.die : c.place.die ≠ 4 := by
  have := h.issues.die_lt
  omega

/-- The word at its home: what it held, whether it was marked, and what it holds then (R163, R164). -/
theorem AtomicReady.acts (f : Nat → Nat) (always : Bool) :
    let a := ((s.noteAddr c (c.sreg w.a)).amoRelease c w.fn).1.atomic ((s.noteAddr c (c.sreg w.a)).amoRelease c w.fn).2.1 p n f always
    let base := amoBase w s c
    a.1 = base.cellsValue p.home n ∧ a.2.1 = base.homeMarked p n ∧ CellsHold base a.2.2 p.home n (f (base.cellsValue p.home n)) ∧
      (∀ who, a.2.2.crewAt who = s.crewAt who) ∧ a.2.2.cur = s.cur := by
  have hread : ReadSide s (s.noteAddr c (c.sreg w.a)) := readSide_noteAddr h.noLog h.die _
  have hnoted := hread.sameBytes h.clear
  have hsame := hnoted.amoBase w c
  have hoff : (amoBase w (s.noteAddr c (c.sreg w.a)) c).OffCaches c.place.die p.home n :=
    (h.off.congr (hnoted.dirty _)).amoBase hnoted.clear' w
  have hform : Memory.wf (s.noteAddr c (c.sreg w.a)).mem = true := by
    rw [hnoted.mem]
    exact h.form
  have hdata := onlyData_amoBase w (s.noteAddr c (c.sreg w.a)) c
  obtain ⟨hold, hmark, hacted, hcells⟩ :=
    State.atomicAt_clear h.die h.type.1 hsame.clear' (wf_amoBase hform w c) h.place hoff f always
  rw [hsame.cellsValue] at hold hcells
  rw [hsame.homeMarked h.place] at hmark
  simp only [amoRelease_state, amoRelease_crew]
  rw [State.atomic_unbound _ (c := { c with wbLost := c.wbLost && !amoReports w }) h.unbound]
  refine ⟨hold, hmark, fun j => (hcells j).trans ?_, fun who => ?_, ?_⟩
  · rw [hsame.cell]
  · rw [hacted.data.crewAt, hdata.crewAt, hread.crews]
  · rw [hacted.data.package, hdata.package, hread.package]

/-- An S-form atomic on an address of this package (R163, R164). -/
theorem AtomicReady.runs {i : Instr} {body : State → Crew → Eff State} {dest : Option (BitVec 8)} {code : Nat} {x y : W64}
    (hi : exec i s = crewInstr w.guard s body) (hatomic : body s c = atomicScalar w s c dest code x y)
    (hroom : c.count (if dest.isSome then .wl else .ws) < 255) :
    AtomicRuns i w s c n signed p (if dest.isSome then .wl else .ws) dest
      (atomicNew w.ety code x y ((amoBase w s c).cellsValue p.home n)) := by
  obtain ⟨hold, hmark, hcells, hcrews, hcur⟩ := h.acts (atomicNew w.ety code x y) (atomicWrites code)
  obtain ⟨-, hbytes, hextend, -⟩ := h.type
  have herror := amoRelease_error (s.noteAddr c (c.sreg w.a)) c w
  have hcrew := amoRelease_crew (s.noteAddr c (c.sreg w.a)) c w
  have hplace : s.crewCheck c .atomic (c.sreg w.a) n = .ok p := by
    simp only [State.crewCheck, State.crewPlace, h.checked, State.pointsOpen, State.pointsHeld_noLog h.noLog]
    rfl
  generalize hr : (s.noteAddr c (c.sreg w.a)).amoRelease c w.fn = r at *
  generalize ha : r.1.atomic r.2.1 p n (atomicNew w.ety code x y) (atomicWrites code) = a at *
  generalize hctr : (if dest.isSome then Counter.wl else Counter.ws) = ctr at *
  have hbody : atomicScalar w s c dest code x y = .ok (a.2.2.putCrew ((r.2.1.withAtomic ctr (a.2.1 || r.2.2) a.2.1 (c.sreg w.a) n
      (atomicNew w.ety code x y a.1)).setDest dest (loadExtend w.ety a.1)).advance) := by
    unfold atomicScalar
    simp only [hctr, roomFor_ok hroom, h.here, hbytes, hplace, mayAmo_ok h.remote h.clock, eff_ok_bind, hr, ha]
    cases dest <;> rfl
  rw [hcrew, herror, hold, hmark, hextend] at hbody
  generalize hnew : atomicNew w.ety code x y ((amoBase w s c).cellsValue p.home n) = new at *
  have hcounted := Crew.withAtomic_eq { c with wbLost := c.wbLost && !amoReports w } ctr
    ((amoBase w s c).homeMarked p n || (amoReports w && c.wbLost)) ((amoBase w s c).homeMarked p n) (c.sreg w.a) n new
  generalize Crew.withAtomic _ ctr _ _ _ n new = c1 at *
  have hdest := c1.setDest_eq dest (extended n signed ((amoBase w s c).cellsValue p.home n))
  have hsreg : ∀ f : BitVec 8, f.toNat < 64 → _ := fun f =>
    c1.sreg_setDest dest (extended n signed ((amoBase w s c).cellsValue p.home n))
  generalize c1.setDest dest _ = c2 at *
  have hplaced : c2.place = c.place := by
    rw [hdest, hcounted]
    rfl
  obtain ⟨hhere, hothers⟩ := crewAt_putBack (c' := c2.advance) hcrews hcur h.issues.1 hplaced
  refine ⟨_, _, ?_, hhere, hothers, hcells, fun f hf => (hsreg f hf).trans ?_, ?_⟩
  · rw [hi, crewInstr_run h.issues]
    exact runBody_ok (hatomic.trans hbody)
  · rw [hcounted]
    rfl
  · rw [hdest, hcounted]
    rfl

end

end Sys2Proof.Machine
end

section
/-! LEMMAS. The value that a scalar atomic writes, and AMO, AMOV and CAS (R163, R164). -/

namespace Sys2Proof.Machine

/-- Compare and swap (R164). -/
theorem atomicNew_cas {ety : BitVec 4} {n : Nat} (hn : etyBytes ety = n) (x y : W64) (old : Nat) :
    atomicNew ety 16 x y old = if old = x.toNat % 2 ^ (8 * n) then y.toNat % 2 ^ (8 * n) else old := by
  unfold atomicNew
  rw [hn]
  rfl

theorem atomicNew_op {ety : BitVec 4} {t : ElemTy} {n code : Nat} (ht : etyType ety 0 = some t) (hn : etyBytes ety = n) (hcode : code < 16)
    (x y : W64) (old : Nat) : atomicNew ety code x y old = amoOp t (code % 8) old (x.toNat % 2 ^ (8 * n)) := by
  unfold atomicNew
  simp only [hn, ht, Nat.not_le.2 hcode, if_false, Option.getD_some]

theorem natOfBytes_lt (bs : List Byte) : natOfBytes bs < 256 ^ bs.length := by
  induction bs with
  | nil => exact Nat.one_pos
  | cons b rest ih =>
    have := b.isLt
    rw [natOfBytes, List.length_cons, Nat.pow_succ]
    omega

theorem State.cellsValue_lt (s : State) (k n : Nat) : s.cellsValue k n < 2 ^ (8 * n) := by
  have h := natOfBytes_lt ((List.range n).map fun i => s.cell (k + i))
  rw [List.length_map, List.length_range] at h
  rwa [pow_mul]

section
variable {w : RegForm} {s : State} {c : Crew} {n : Nat} {signed : Bool} {p : Place} (h : AtomicReady w s c n signed p)
include h

/-- The operation of R163 that fn names, on the word's type. -/
theorem AtomicReady.new {old x new : Nat} (hold : old < 2 ^ (8 * n)) (hx : x < 2 ^ (8 * n))
    (hint : w.ety.toNat ≤ 8 → new = atomicInteger (w.fn.toNat % 8) n signed old x)
    (hf32 : w.ety = 11 → w.fn.toNat % 8 ∉ [3, 4, 5] ∧ new = atomicFloat (w.fn.toNat % 8) .f32 old x)
    (hf64 : w.ety = 12 → w.fn.toNat % 8 ∉ [3, 4, 5] ∧ new = atomicFloat (w.fn.toNat % 8) .f64 old x) {t : ElemTy}
    (ht : etyType w.ety 0 = some t) : amoOp t (w.fn.toNat % 8) old x = new := by
  obtain ⟨-, -, -, t', ht', hinteger, hsingle, hdouble⟩ := h.type
  rw [ht, Option.some.injEq] at ht'
  subst ht'
  have htyped := h.typed
  simp only [List.mem_cons, Prod.mk.injEq, List.not_mem_nil, or_false] at htyped
  by_cases h8 : w.ety.toNat ≤ 8
  · obtain ⟨htype, hwidth, hsigned⟩ := hinteger h8
    rw [hint h8, amoOp_int htype hwidth hold hx, hsigned]
  · by_cases h11 : w.ety.toNat = 11
    · obtain ⟨hop, hnew⟩ := hf32 (BitVec.eq_of_toNat_eq h11)
      rw [hnew, amoOp_float (hsingle h11) hop]
    · have h12 : w.ety.toNat = 12 := by omega
      obtain ⟨hop, hnew⟩ := hf64 (BitVec.eq_of_toNat_eq h12)
      rw [hnew, amoOp_float (hdouble h12) hop]

end

theorem toNat_amoCode (fn : BitVec 7) : (fn.extractLsb' 0 3).toNat = fn.toNat % 8 := by
  simp only [BitVec.extractLsb'_toNat, Nat.shiftRight_zero, Nat.reducePow]

/-- The scalar atomics of this package. -/
theorem atomicsReplaceOneWord : AtomicsReplaceOneWord := by
  intro w s c n signed p noLog clear form unbound remote clock off issues here typed checked
  have h : AtomicReady w s c n signed p := ⟨noLog, clear, form, unbound, remote, clock, off, issues, here, typed, checked⟩
  obtain ⟨-, hbytes, -, t, ht, -⟩ := h.type
  intro op scope base old x z reports bad done
  have hold : old < 2 ^ (8 * n) := State.cellsValue_lt _ _ _
  have hx : x < 2 ^ (8 * n) := Nat.mod_lt _ (Nat.two_pow_pos _)
  refine ⟨fun new hint hf32 hf64 _ => ⟨fun hroom => ?_, fun hroom => ?_⟩, fun hroom => ?_⟩
  · have hnew : atomicNew w.ety (w.fn.extractLsb' 0 3).toNat (c.sreg w.b) 0 old = new := by
      rw [toNat_amoCode, atomicNew_op ht hbytes (by omega), Nat.mod_mod]
      exact h.new hold hx hint hf32 hf64 ht
    rw [← hnew]
    exact h.runs (dest := none) rfl rfl hroom
  · have hnew : atomicNew w.ety (8 + (w.fn.extractLsb' 0 3).toNat) (c.sreg w.b) 0 old = new := by
      rw [toNat_amoCode, atomicNew_op ht hbytes (by omega), Nat.add_mod_left, Nat.mod_mod]
      exact h.new hold hx hint hf32 hf64 ht
    rw [← hnew]
    exact h.runs (dest := some w.d) rfl rfl hroom
  · have hnew : atomicNew w.ety 16 (c.sreg w.b) (c.sreg w.c) old = if old = x then z else old := atomicNew_cas hbytes _ _ _
    rw [← hnew]
    exact h.runs (dest := some w.d) rfl rfl hroom

end Sys2Proof.Machine
end

section
/-! LEMMAS. The atomics of the lanes, one after another (R165). -/

namespace Sys2Proof.Machine

/-! ## Words before and after -/

/-- A word that holds a number that fits it has that number as its value. -/
theorem CellsHold.value {s t : State} {k n v : Nat} (h : CellsHold s t k n v) (hv : v < 2 ^ (8 * n)) : t.cellsValue k n = v := by
  have hbytes : ((List.range n).map fun i => t.cell (k + i)) = bytesOfNat n v := by
    refine List.ext_getElem? fun i => ?_
    by_cases hi : i < n
    · rw [List.getElem?_map, List.getElem?_range hi, Option.map_some, bytesOfNat_get n v i hi, h, if_pos (by omega), Nat.add_sub_cancel_left]
    · rw [List.getElem?_eq_none (by simpa using Nat.le_of_not_lt hi), List.getElem?_eq_none (by simpa using Nat.le_of_not_lt hi)]
  rw [State.cellsValue, hbytes, natOfBytes_bytesOfNat]
  rw [pow_mul] at hv
  exact Nat.mod_eq_of_lt hv

theorem CellsHold.value_apart {s t : State} {k n v m : Nat} (h : CellsHold s t k n v) (apart : m + n ≤ k ∨ k + n ≤ m) :
    t.cellsValue m n = s.cellsValue m n := by
  unfold State.cellsValue
  congr 1
  refine List.map_congr_left fun i hi => ?_
  have := List.mem_range.1 hi
  rw [h, if_neg (by omega)]

/-- Words at different multiples of their size lie apart. -/
theorem apart_of_aligned {a b n : Nat} (ha : a % n = 0) (hb : b % n = 0) (h : a ≠ b) : b + n ≤ a ∨ a + n ≤ b := by
  obtain ⟨i, rfl⟩ := Nat.dvd_of_mod_eq_zero ha
  obtain ⟨j, rfl⟩ := Nat.dvd_of_mod_eq_zero hb
  rcases Nat.lt_or_gt_of_ne fun hij : i = j => h (by rw [hij]) with hij | hij
  · exact .inr (by rw [← Nat.mul_succ]; exact Nat.mul_le_mul_left n hij)
  · exact .inl (by rw [← Nat.mul_succ]; exact Nat.mul_le_mul_left n hij)

/-- The value of the word at a cell after the atomics of a list of lanes. -/
def wordAfter (p : Nat → Place) (f : Nat → Nat → Nat) (ls : List Nat) (at_ v : Nat) : Nat :=
  ls.foldl (fun v l => if (p l).home = at_ then f l v else v) v

theorem State.laneWord_eq (s : State) (E : Mask) (p : Nat → Place) (n : Nat) (f : Nat → Nat → Nat) (L at_ : Nat) :
    s.laneWord E p n f L at_ = wordAfter p f (lanesOf L E) at_ (s.cellsValue at_ n) := rfl

/-- What the lanes of a list need: each has a whole word of memory to itself or shares it, uncached, and stays within the word's size. -/
structure LanesAct (s : State) (d n : Nat) (p : Nat → Place) (f : Nat → Nat → Nat) (ls : List Nat) : Prop where
  size : 0 < n
  inMemory : ∀ l, l ∈ ls → (p l).inMemory
  aligned : ∀ l, l ∈ ls → (p l).home % n = 0
  off : ∀ l, l ∈ ls → s.OffCaches d (p l).home n
  fits : ∀ l v, l ∈ ls → v < 2 ^ (8 * n) → f l v < 2 ^ (8 * n)

theorem LanesAct.tail {s t : State} {d n a : Nat} {p : Nat → Place} {f : Nat → Nat → Nat} {ls : List Nat}
    (h : LanesAct s d n p f (a :: ls)) (ht : Acted s t) : LanesAct t d n p f ls where
  size := h.size
  inMemory l hl := h.inMemory l (List.mem_cons_of_mem a hl)
  aligned l hl := h.aligned l (List.mem_cons_of_mem a hl)
  off l hl := (h.off l (List.mem_cons_of_mem a hl)).congr (ht.dirty d)
  fits l v hl := h.fits l v (List.mem_cons_of_mem a hl)

theorem State.homeMarked_none {s : State} (h : s.memMarks = []) {p : Place} (hp : p.inMemory) (n : Nat) : s.homeMarked p n = false := by
  cases p with
  | barge d off => exact absurd rfl (hp d off)
  | pa x key page => simp [State.homeMarked, State.anyMark, h]
  | chip k => simp [State.homeMarked, State.anyMark, h]

/-- What the atomics of the lanes leave: no lane marked, each word as its lanes in turn make it, every other byte as it was, and for each
lane its word as it met it. -/
structure LanesActed (s t : State) (n : Nat) (p : Nat → Place) (f : Nat → Nat → Nat) (ls : List Nat) (old : List (Nat × Nat)) : Prop where
  acted : Acted s t
  word : ∀ at_, at_ % n = 0 → t.cellsValue at_ n = wordAfter p f ls at_ (s.cellsValue at_ n)
  others : ∀ j, (∀ l, l ∈ ls → ¬((p l).home ≤ j ∧ j < (p l).home + n)) → t.cell j = s.cell j
  met : ∀ pre l post, ls = pre ++ l :: post → l ∉ pre →
    assocGet old l = some (wordAfter p f pre (p l).home (s.cellsValue (p l).home n))
  small : ∀ l, (assocGet old l).getD 0 < 2 ^ (8 * n)

theorem laneAtomics_acted {c : Crew} (hd : c.place.die ≠ 4) (hw : c.weir = none) {n : Nat} {p : Nat → Place} {f : Nat → Nat → Nat}
    (always : Bool) {ls : List Nat} {s : State} (hc : s.InTheClear) (hwf : Memory.wf s.mem = true) (hmarks : s.memMarks = [])
    (h : LanesAct s c.place.die n p f ls) :
    let r := s.laneAtomics c n f always (ls.map fun l => (l, p l))
    r.2.1 = [] ∧ LanesActed s r.2.2 n p f ls r.1 := by
  induction ls generalizing s with
  | nil => exact ⟨rfl, Acted.refl hc hwf, fun _ _ => rfl, fun _ _ => rfl, fun pre l post he => by simp at he, fun _ => Nat.two_pow_pos _⟩
  | cons a rest ih =>
    have ha := List.mem_cons_self (a := a) (l := rest)
    have haligned := h.aligned a ha
    obtain ⟨hold, hmark, hacted, hcells⟩ := State.atomicAt_clear hd h.size hc hwf (h.inMemory a ha) (h.off a ha) (f a) always
    rw [State.homeMarked_none hmarks (h.inMemory a ha)] at hmark
    simp only [List.map_cons, State.laneAtomics, State.atomic_unbound _ hw]
    generalize s.atomicAt c.place.die (p a) n (f a) always = first at *
    have hvalue : ∀ at_, at_ % n = 0 → first.2.2.cellsValue at_ n =
        if (p a).home = at_ then f a (s.cellsValue at_ n) else s.cellsValue at_ n := by
      intro at_ hat
      split
      · rename_i heq
        subst heq
        exact hcells.value (h.fits a _ ha (State.cellsValue_lt _ _ _))
      · rename_i hne
        exact hcells.value_apart (apart_of_aligned haligned hat hne)
    have hnone : first.2.2.memMarks = [] := List.eq_nil_iff_forall_not_mem.2 fun x hx => by
      have := hacted.marks x hx
      rw [hmarks] at this
      exact List.not_mem_nil this
    obtain ⟨hclean, hrest⟩ := ih hacted.clear hacted.form hnone (h.tail hacted)
    refine ⟨by rw [hmark]; exact hclean, hacted.trans hrest.acted, fun at_ hat => ?_, fun j hj => ?_, fun pre l post he hpre => ?_,
      fun l => ?_⟩
    · rw [hrest.word at_ hat, hvalue at_ hat]
      rfl
    · rw [hrest.others j fun l hl => hj l (List.mem_cons_of_mem a hl), hcells j, if_neg (hj a ha)]
    · cases pre with
      | nil =>
        obtain ⟨rfl, -⟩ := List.cons.inj he
        rw [assocGet, if_pos rfl, hold]
        rfl
      | cons b pre =>
        obtain ⟨rfl, htail⟩ := List.cons.inj he
        have hne : a ≠ l := fun e => hpre (e ▸ List.mem_cons_self)
        have hl : l ∈ a :: rest := he ▸ List.mem_append_right _ List.mem_cons_self
        rw [assocGet, if_neg hne, hrest.met pre l post htail fun hm => hpre (List.mem_cons_of_mem a hm), hvalue _ (h.aligned l hl)]
        rfl
    · rw [assocGet]
      split
      · exact hold ▸ State.cellsValue_lt _ _ _
      · exact hrest.small l

/-! ## The lanes of E -/

/-- The lanes below one of them come before it. -/
theorem lanesOf_split {n l : Nat} {E : Mask} (hl : l < n) (hE : E.getLsbD l = true) : ∃ post, lanesOf n E = lanesOf l E ++ l :: post := by
  obtain ⟨m, rfl⟩ := Nat.exists_eq_add_of_lt hl
  refine ⟨((List.range m).map fun i => l + (i + 1)).filter fun i => E.getLsbD i, ?_⟩
  unfold lanesOf
  rw [Nat.add_assoc, List.range_add, List.filter_append, List.range_succ_eq_map, List.map_cons, Nat.add_zero,
    List.filter_cons_of_pos (by simpa using hE), List.map_map]
  rfl

theorem self_notMem_lanesOf (l : Nat) (E : Mask) : l ∉ lanesOf l E := fun h => Nat.lt_irrefl l (mem_lanesOf.1 h).1

section
variable {s t : State} {n L : Nat} {E : Mask} {p : Nat → Place} {f : Nat → Nat → Nat} {old : List (Nat × Nat)}
  (h : LanesActed s t n p f (lanesOf L E) old)
include h

/-- A lane meets its word as the lanes below it have left it. -/
theorem LanesActed.met_lane {l : Nat} (hl : l < L) (hE : E.getLsbD l = true) :
    assocGet old l = some (s.laneWord E p n f l (p l).home) := by
  obtain ⟨post, hsplit⟩ := lanesOf_split hl hE
  exact h.met _ l post hsplit (self_notMem_lanesOf l E)

theorem LanesActed.cell_word {l k : Nat} (ha : (p l).home % n = 0) (hk : k < n) :
    t.cell ((p l).home + k) = BitVec.ofNat 8 (s.laneWord E p n f L (p l).home / 256 ^ k) := by
  rw [cellsHold_self t (p l).home n, if_pos (by omega), h.word _ ha, Nat.add_sub_cancel_left]
  rfl

end

/-- Functions that agree on what fits the word make the same words. -/
theorem wordAfter_congr {p : Nat → Place} {f g : Nat → Nat → Nat} {m : Nat} {ls : List Nat}
    (hfg : ∀ l v, l ∈ ls → v < m → f l v = g l v) (hf : ∀ l v, l ∈ ls → v < m → f l v < m) (at_ : Nat) {v : Nat} (hv : v < m) :
    wordAfter p f ls at_ v = wordAfter p g ls at_ v := by
  induction ls generalizing v with
  | nil => rfl
  | cons a rest ih =>
    have step : (if (p a).home = at_ then f a v else v) < m := by
      split
      · exact hf a v List.mem_cons_self hv
      · exact hv
    have hrest := ih (fun l v hl => hfg l v (List.mem_cons_of_mem a hl)) (fun l v hl => hf l v (List.mem_cons_of_mem a hl)) step
    show wordAfter p f rest at_ (if (p a).home = at_ then f a v else v) = wordAfter p g rest at_ (if (p a).home = at_ then g a v else v)
    rw [hrest, hfg a v List.mem_cons_self hv]

theorem LanesActed.congr {s t : State} {n : Nat} {p : Nat → Place} {f g : Nat → Nat → Nat} {ls : List Nat} {old : List (Nat × Nat)}
    (h : LanesActed s t n p f ls old) (hfg : ∀ l v, l ∈ ls → v < 2 ^ (8 * n) → f l v = g l v)
    (hf : ∀ l v, l ∈ ls → v < 2 ^ (8 * n) → f l v < 2 ^ (8 * n)) : LanesActed s t n p g ls old where
  acted := h.acted
  word at_ hat := (h.word at_ hat).trans (wordAfter_congr hfg hf at_ (State.cellsValue_lt _ _ _))
  others := h.others
  met pre l post he hpre := by
    have sub : ∀ m, m ∈ pre → m ∈ ls := fun m hm => he ▸ List.mem_append_left _ hm
    rw [h.met pre l post he hpre,
      wordAfter_congr (fun m v hm => hfg m v (sub m hm)) (fun m v hm => hf m v (sub m hm)) _ (State.cellsValue_lt _ _ _)]
  small := h.small

end Sys2Proof.Machine
end

section
/-! LEMMAS. How a vector atomic begins and ends: its offsets and places, and a crew whose registers have their places (R113, R142, R150,
R241, R314). -/

namespace Sys2Proof.Machine

/-! ## Offsets and places -/

theorem extend_word (x : W32) : extend true 32 x.toNat = x.signExtend 64 := by
  refine BitVec.eq_of_toInt_eq ?_
  have hint : intOf true 32 x.toNat = x.toInt := by
    have := x.isLt
    rw [intOf, Nat.mod_eq_of_lt this, BitVec.toInt_eq_toNat_cond]
    simp only [Bool.true_and, decide_eq_true_eq]
    split <;> split <;> omega
  rw [extend, hint, BitVec.toInt_signExtend_of_le (by decide), BitVec.toInt_ofInt, Int.bmod_eq_of_le]
  · have := x.le_toInt
    omega
  · have := x.toInt_lt
    omega

/-- The offsets that a register of I32 or of N32 gives (R150). -/
theorem offsetSource_ok {c : Crew} {E : Mask} {r : Nat} {off : Nat → W64} (h : LaneOffsets c E r off) (pos : Nat) :
    c.offsetSource pos r = .ok (c.source r false, off) := by
  obtain ⟨-, ⟨htag, hoff⟩ | ⟨htag, hoff⟩⟩ := h
  · have hsame : (fun l => extend true 32 (c.laneValue r false l)) = off := funext fun l => (extend_word _).trans (hoff l).symm
    rw [← hsame]
    unfold Crew.offsetSource
    simp only [htag]
    rfl
  · have hsame : (fun l => BitVec.ofNat 64 (c.laneValue r false l)) = off := funext fun l => by
      rw [hoff l]
      exact BitVec.eq_of_toNat_eq (by simp [Crew.laneValue])
    rw [← hsame]
    unfold Crew.offsetSource
    simp only [htag]
    rfl

theorem lanePlaces_ok {s : State} {c : Crew} {k : Kind} {n : Nat} {addr : Nat → W64} {p : Nat → Place} {ls : List Nat}
    (h : ∀ l, l ∈ ls → s.check c.accessor k (addr l) n n = .ok (p l)) :
    s.lanePlaces c k n addr ls = .ok (ls.map fun l => (l, p l)) :=
  mapM_of_ok fun l hl => by
    simp only [State.crewPlace, h l hl]
    rfl

theorem pointsOpen_ok {s : State} (h : s.NoLog) (c : Crew) (ps : List Place) : s.pointsOpen c ps = .ok () := by
  simp only [State.pointsOpen, State.pointsHeld_noLog h]

theorem ReadSide.noLog {s t : State} (h : ReadSide s t) (hs : s.NoLog) : t.NoLog := fun d => by
  have hio : t.io = s.io := by rw [h.package]
  have hrec : t.recorderOf d = s.recorderOf d := by
    unfold State.recorderOf
    rw [hio, h.dies d]
  rw [hrec]
  exact hs d

/-- The addresses of the lanes noted one after another. -/
theorem readSide_noteAddrs {c : Crew} (hd : c.place.die ≠ 4) (addr : Nat → W64) (ls : List Nat) {s : State} (h : s.NoLog) :
    ReadSide s (ls.foldl (fun t l => t.noteAddr c (addr l)) s) := by
  induction ls generalizing s with
  | nil => exact ReadSide.refl s
  | cons l rest ih =>
    have first := readSide_noteAddr h hd (addr l)
    exact first.trans (ih (first.noLog h))

/-! ## Registers that have their places -/

theorem spillBlocks_touch {c : Crew} {r : Nat} (h : c.placed r) (write : Bool) : (c.touch write r).1.spillBlocks = c.spillBlocks := by
  unfold Crew.touch
  simp only
  split
  · split <;> rfl
  · rename_i hr
    rw [if_pos (by simpa using h.resolve_left hr)]

theorem Touched.declared {c c' : Crew} (h : Touched c c') : c'.declared = c.declared := by rw [h.rest]

/-- A reference to a register, with the count of new spill blocks. -/
def touchStep (write : Bool) (q : Crew × Nat) (r : Nat) : Crew × Nat := ((q.1.touch write r).1, q.2 + (q.1.touch write r).2)

theorem Crew.touchAll_eq (c : Crew) (reads writes : List Nat) :
    c.touchAll reads writes = writes.foldl (touchStep true) (reads.foldl (touchStep false) (c, 0)) := rfl

theorem spillBlocks_touches {c : Crew} (write : Bool) {rs : List Nat} (h : ∀ r, r ∈ rs → c.placed r) {q : Crew × Nat}
    (hdeclared : q.1.declared = c.declared) (hspill : q.1.spillBlocks = c.spillBlocks) :
    (rs.foldl (touchStep write) q).1.declared = c.declared ∧ (rs.foldl (touchStep write) q).1.spillBlocks = c.spillBlocks := by
  induction rs generalizing q with
  | nil => exact ⟨hdeclared, hspill⟩
  | cons r rest ih =>
    have hplaced : q.1.placed r := by
      unfold Crew.placed
      rw [hdeclared, hspill]
      exact h r List.mem_cons_self
    refine ih (fun r hr => h r (List.mem_cons_of_mem _ hr)) ?_ ?_
    · exact (touched_touch q.1 write r).declared.trans hdeclared
    · exact (spillBlocks_touch hplaced write).trans hspill

/-- References to registers that have their places spill no block (R241). -/
theorem spillBlocks_touchAll {c : Crew} {reads writes : List Nat} (hreads : ∀ r, r ∈ reads → c.placed r)
    (hwrites : ∀ r, r ∈ writes → c.placed r) : (c.touchAll reads writes).1.spillBlocks = c.spillBlocks := by
  obtain ⟨hdeclared, hspill⟩ := spillBlocks_touches (q := (c, 0)) false hreads rfl rfl
  rw [Crew.touchAll_eq]
  exact (spillBlocks_touches true hwrites hdeclared hspill).2

/-- Nothing goes to the spill area for a crew that spills no block and changes no register of one. -/
theorem spillTurn_none (s : State) {old new : Crew} (hblocks : new.spillBlocks = old.spillBlocks) (hlanes : new.lanes = old.lanes)
    (hregs : ∀ r, r / 8 ∈ old.spillBlocks → new.vreg r = old.vreg r) : s.spillTurn old new = s := by
  have hwindow : new.windowBlocks = old.windowBlocks := by rw [Crew.windowBlocks, Crew.windowBlocks, hblocks, hlanes]
  have hnone : old.spilled new = [] := by
    unfold Crew.spilled
    rw [hwindow]
    refine List.filter_eq_nil_iff.2 fun r hr => ?_
    obtain ⟨b, hb, hr⟩ := List.mem_flatMap.1 hr
    obtain ⟨i, hi, rfl⟩ := List.mem_map.1 hr
    have hblock : (8 * b + i) / 8 = b := by
      have := List.mem_range.1 hi
      omega
    have hspilled : b ∈ old.spillBlocks := List.mem_reverse.1 (List.mem_of_mem_drop hb)
    simp [hblock, hb, hregs (8 * b + i) (hblock.symm ▸ hspilled)]
  unfold State.spillTurn
  simp only [hnone, hblocks, Bool.and_not_self, Bool.false_eq_true, if_false]
  rfl

/-! ## The end of the word -/

/-- A crew that folds a list of lanes' words into its fingerprint (R337). -/
def Crew.foldWords (c : Crew) (n : Nat) (addr : Nat → W64) (val : Nat → Nat → Nat) (old : List (Nat × Nat)) : Crew :=
  old.foldl (fun y x => y.foldWord (addr x.1) n (val x.1 x.2)) c

theorem Crew.foldWords_eq (c : Crew) (n : Nat) (addr : Nat → W64) (val : Nat → Nat → Nat) (old : List (Nat × Nat)) :
    c.foldWords n addr val old = { c with fp := (c.foldWords n addr val old).fp, folds := (c.foldWords n addr val old).folds } := by
  unfold Crew.foldWords
  induction old generalizing c with
  | nil => rfl
  | cons x rest ih =>
    have first := c.foldWord_eq (addr x.1) n (val x.1 x.2)
    rw [List.foldl_cons, ih, first]

/-- The end of a vector word that has changed memory, by a crew whose registers have their places: memory stays as it is. -/
theorem finishVec_placed {s base : State} {c b : Crew} {k : Counter} {reads writes : List Nat} (h : s.crewAt s.cur = some c)
    (hcrews : ∀ who, base.crewAt who = s.crewAt who) (hcur : base.cur = s.cur)
    (hb : b = { c.counted k false with vregs := b.vregs, fp := b.fp, folds := b.folds })
    (hreads : ∀ r, r ∈ reads → c.placed r) (hwrites : ∀ r, r ∈ writes → c.placed r)
    (hkept : ∀ r, r / 8 ∈ c.spillBlocks → b.vreg r = c.vreg r) :
    ∃ c', (base.finishVec b reads writes).crewAt s.cur = some c' ∧
      (∀ who, who ≠ s.cur → (base.finishVec b reads writes).crewAt who = s.crewAt who) ∧
      (∀ j, (base.finishVec b reads writes).cell j = base.cell j) ∧
      VectorCrew { c.counted k false with fp := c'.fp, folds := c'.folds } c' ∧ c'.vregs = b.vregs := by
  have hbase : base.crewAt base.cur = some c := by rw [hcur, hcrews, h]
  have hplace : b.place = c.place := by rw [hb]; rfl
  have hdeclared : b.declared = c.declared := by rw [hb]; rfl
  have hspill : b.spillBlocks = c.spillBlocks := by rw [hb]; rfl
  have hlanes : b.lanes = c.lanes := by rw [hb]; rfl
  have hplaced : ∀ r, c.placed r → b.placed r := fun r hr => by
    unfold Crew.placed
    rw [hdeclared, hspill]
    exact hr
  have htouched := touched_touchAll b reads writes
  have hturn : base.spillTurn c (b.afterVec reads writes) = base := by
    refine spillTurn_none base ?_ ?_ fun r hr => ?_
    · show (b.touchAll reads writes).1.spillBlocks = _
      rw [spillBlocks_touchAll (fun r hr => hplaced r (hreads r hr)) fun r hr => hplaced r (hwrites r hr), hspill]
    · show (b.touchAll reads writes).1.lanes = _
      rw [htouched.rest]
      exact hlanes
    · exact (Crew.vreg_congr (b.afterVec_vregs reads writes) r).trans (hkept r hr)
  have hframe := crewAndCore_finishVec hbase hplace reads writes
  rw [hturn] at hframe
  have hfold : (b.afterVec reads writes).fp = b.fp ∧ (b.afterVec reads writes).folds = b.folds := by
    unfold Crew.afterVec
    rw [htouched.rest]
    exact ⟨rfl, rfl⟩
  refine ⟨b.afterVec reads writes, hcur ▸ hframe.here, fun who hw => ?_, hframe.memory, ?_, b.afterVec_vregs reads writes⟩
  · rw [hframe.others who (hcur ▸ hw), hcrews]
  · rw [hfold.1, hfold.2]
    exact (vectorCrew_afterVec b reads writes).of_vregs hb

end Sys2Proof.Machine
end

section
/-! LEMMAS. The lanes of VAMO and VMAXVI on their words, from the state in which the word issues (R165, R166). -/

namespace Sys2Proof.Machine

/-- The words of the lanes of E hold what their lanes in turn make of them, and every other byte is as it was (R165). -/
def WordsActed (s t : State) (c : Crew) (E : Mask) (p : Nat → Place) (n : Nat) (f : Nat → Nat → Nat) : Prop :=
  (∀ l k, l < c.lanes → E.getLsbD l = true → k < n →
    t.cell ((p l).home + k) = BitVec.ofNat 8 (s.laneWord E p n f c.lanes (p l).home / 256 ^ k)) ∧
  ∀ j, (∀ l, l < c.lanes → E.getLsbD l = true → ¬((p l).home ≤ j ∧ j < (p l).home + n)) → t.cell j = s.cell j

theorem WordsActed.congr {s t u : State} {c : Crew} {E : Mask} {p : Nat → Place} {n : Nat} {f : Nat → Nat → Nat}
    (h : WordsActed s t c E p n f) (hu : ∀ j, u.cell j = t.cell j) : WordsActed s u c E p n f :=
  ⟨fun l k hl hE hk => (hu _).trans (h.1 l k hl hE hk), fun j hj => (hu j).trans (h.2 j hj)⟩

/-- What the lanes of E take: nothing encrypted or marked, no weir, and for each a whole word that the die does not cache. -/
structure LanesReady (s : State) (c : Crew) (E : Mask) (addr : Nat → W64) (n : Nat) (p : Nat → Place) : Prop where
  noLog : s.NoLog
  clear : s.InTheClear
  form : Memory.wf s.mem = true
  unbound : c.weir = none
  unmarked : s.memMarks = []
  here : s.crewAt s.cur = some c
  size : 0 < n
  lanes : ∀ l, l < c.lanes → E.getLsbD l = true → s.check c.accessor .atomic (addr l) n n = .ok (p l) ∧ (p l).home % n = 0 ∧
    s.OffCaches c.place.die (p l).home n

/-- The state after the atomics of the lanes, with the old values and the lanes that met a mark. -/
def State.lanesRun (s : State) (c : Crew) (E : Mask) (addr : Nat → W64) (n : Nat) (p : Nat → Place) (f : Nat → Nat → Nat)
    (always : Bool) : List (Nat × Nat) × List Nat × State :=
  ((lanesOf c.lanes E).foldl (fun t l => t.noteAddr c (addr l)) s).laneAtomics c n f always ((lanesOf c.lanes E).map fun l => (l, p l))

section
variable {s : State} {c : Crew} {E : Mask} {addr : Nat → W64} {n : Nat} {p : Nat → Place} (h : LanesReady s c E addr n p)
include h

theorem LanesReady.die : c.place.die ≠ 4 := by
  obtain ⟨hdie, -, hplace⟩ := State.crewAt_some h.here
  rw [hplace]
  omega

theorem LanesReady.places : s.lanePlaces c .atomic n addr (lanesOf c.lanes E) = .ok ((lanesOf c.lanes E).map fun l => (l, p l)) :=
  lanePlaces_ok fun l hl => (h.lanes l (mem_lanesOf.1 hl).1 (mem_lanesOf.1 hl).2).1

/-- The atomics of the lanes, for a function that agrees with the model's on what fits a word. -/
theorem LanesReady.runs {f g : Nat → Nat → Nat} (always : Bool) (hfg : ∀ l v, v < 2 ^ (8 * n) → f l v = g l v)
    (hg : ∀ l v, v < 2 ^ (8 * n) → g l v < 2 ^ (8 * n)) :
    let r := s.lanesRun c E addr n p f always
    r.2.1 = [] ∧ (∀ who, r.2.2.crewAt who = s.crewAt who) ∧ r.2.2.cur = s.cur ∧ WordsActed s r.2.2 c E p n g ∧
      (∀ l, l < c.lanes → E.getLsbD l = true → assocGet r.1 l = some (s.laneWord E p n g l (p l).home)) ∧
      ∀ l, (assocGet r.1 l).getD 0 < 2 ^ (8 * n) := by
  have hread := readSide_noteAddrs h.die addr (lanesOf c.lanes E) h.noLog
  have hsame := hread.sameBytes h.clear
  unfold State.lanesRun
  generalize (lanesOf c.lanes E).foldl (fun t l => t.noteAddr c (addr l)) s = noted at *
  have hf : ∀ l v, v < 2 ^ (8 * n) → f l v < 2 ^ (8 * n) := fun l v hv => hfg l v hv ▸ hg l v hv
  have hlane : ∀ l, l ∈ lanesOf c.lanes E → _ := fun l hl => h.lanes l (mem_lanesOf.1 hl).1 (mem_lanesOf.1 hl).2
  have hact : LanesAct noted c.place.die n p f (lanesOf c.lanes E) :=
    ⟨h.size, fun l hl => inMemory_of_check (hlane l hl).1, fun l hl => (hlane l hl).2.1,
      fun l hl => (hlane l hl).2.2.congr (hsame.dirty _), fun l v _ => hf l v⟩
  have hform : Memory.wf noted.mem = true := by
    rw [hsame.mem]
    exact h.form
  obtain ⟨hclean, hacted⟩ := laneAtomics_acted h.die h.unbound always hsame.clear' hform (hsame.marks.trans h.unmarked) hact
  have hdone := hacted.congr (fun l v _ => hfg l v) fun l v _ => hf l v
  have hword : ∀ L at_, noted.laneWord E p n g L at_ = s.laneWord E p n g L at_ := fun L at_ => by
    rw [State.laneWord_eq, State.laneWord_eq, hsame.cellsValue]
  refine ⟨hclean, fun who => ?_, ?_, ⟨fun l k hl hE hk => ?_, fun j hj => ?_⟩, fun l hl hE => ?_, hdone.small⟩
  · rw [hdone.acted.data.crewAt, hread.crews]
  · rw [hdone.acted.data.package, hread.package]
  · rw [← hword]
    exact hdone.cell_word (h.lanes l hl hE).2.1 hk
  · rw [hdone.others j fun l hl => hj l (mem_lanesOf.1 hl).1 (mem_lanesOf.1 hl).2, hsame.cell]
  · rw [← hword]
    exact hdone.met_lane hl hE

end

/-! ## VAMO (R165) -/

theorem toNat_fnOP_low (w : RegForm) : ((fnOP w).extractLsb' 0 3).toNat = w.fn.toNat % 8 := by
  simp only [fnOP, BitVec.extractLsb'_toNat, Nat.shiftRight_zero, Nat.reducePow]
  omega

theorem fnOP_ret (w : RegForm) : (fnOP w).getLsbD 3 = w.fn.getLsbD 3 := by
  simp [fnOP]

/-- The tags that VAMO takes, with the signedness of their integers. -/
def vamoTags : List (BitVec 8 × Option Bool) := [(0x12, some true), (0x22, some false), (0x32, none)]

/-- What VAMO makes of a word (R163, R165). -/
def vamoOp (op : Nat) (signed : Option Bool) (old x : Nat) : Nat :=
  match signed with
  | some g => atomicInteger op 4 g old x
  | none => atomicFloat op .f32 old x

theorem vamoOp_lt {op : Nat} {signed : Option Bool} {old x : Nat} (hold : old < 2 ^ 32) (hx : x < 2 ^ 32) :
    vamoOp op signed old x < 2 ^ 32 := by
  cases signed with
  | some g => exact atomicInteger_lt g hold hx
  | none => exact atomicFloat_lt hx

theorem amoOp_vamo {tag : BitVec 8} {signed : Option Bool} (h : (tag, signed) ∈ vamoTags) {op old x : Nat}
    (hop : signed = none → op ∉ [3, 4, 5]) (hold : old < 2 ^ 32) (hx : x < 2 ^ 32) :
    amoOp ((tagType tag).getD (.uint 32)) op old x = vamoOp op signed old x := by
  simp only [vamoTags, List.mem_cons, Prod.mk.injEq, List.not_mem_nil, or_false] at h
  rcases h with ⟨rfl, rfl⟩ | ⟨rfl, rfl⟩ | ⟨rfl, rfl⟩
  · exact amoOp_int (t := .sint 32) (n := 4) rfl rfl hold hx
  · exact amoOp_int (t := .uint 32) (n := 4) rfl rfl hold hx
  · exact amoOp_float (t := .ieee 2) (fun _ => rfl) (hop rfl) old x

theorem checkWord_value {tag : BitVec 8} (h : tag ∈ [(0x12 : BitVec 8), 0x22, 0x32]) (pos : Nat) :
    checkWord [0x12, 0x22, 0x32] pos tag = .ok () := by
  simp only [List.mem_cons, List.not_mem_nil, or_false] at h
  rcases h with rfl | rfl | rfl <;> rfl

theorem checkWord_vamo {tag : BitVec 8} {signed : Option Bool} (h : (tag, signed) ∈ vamoTags) (pos : Nat) :
    checkWord [0x12, 0x22, 0x32] pos tag = .ok () := checkWord_value (List.mem_map_of_mem (f := Prod.fst) h) pos

section
variable {w : RegForm} {s : State} {c : Crew} {off : Nat → W64} {p : Nat → Place} {signed : Option Bool}
  (h : LanesReady s c (guardSet w.guard c) (fun l => c.sreg w.a + off l) 4 p)
  (htag : ((c.vreg w.c.toNat).tag, signed) ∈ vamoTags) (hoff : LaneOffsets c (guardSet w.guard c) w.b.toNat off)
  (hsource : Unmarked c (guardSet w.guard c) w.c.toNat false) (hop : signed = none → w.fn.toNat % 8 ∉ [3, 4, 5])

/-- The model's function on the words of VAMO's lanes. -/
def vamoLane (w : RegForm) (c : Crew) (l old : Nat) : Nat :=
  amoOp ((tagType (c.vreg w.c.toNat).tag).getD (.uint 32)) (w.fn.toNat % 8) old (c.laneValue w.c.toNat false l)

/-- The counter of VAMO: wl with .ret, else ws. -/
def vamoCounter (w : RegForm) : Counter := if w.fn.getLsbD 3 then .wl else .ws

/-- What VAMO does to the crew before the end of the word: its operation counted, its words folded, and with .ret the old values. -/
def vamoCrew (w : RegForm) (c : Crew) (addr : Nat → W64) (old : List (Nat × Nat)) : Crew :=
  let folded := c.foldWords 4 addr (vamoLane w c) old
  let written := if w.fn.getLsbD 3 then
      folded.writeVec w.d.toNat false (guardSet w.guard c) (fun l => (assocGet old l).getD 0) (c.vreg w.c.toNat).tag
    else folded
  written.addOp (vamoCounter w) true false

theorem vamoCrew_eq (w : RegForm) (c : Crew) (addr : Nat → W64) (old : List (Nat × Nat)) :
    vamoCrew w c addr old = { c.counted (vamoCounter w) false with
      vregs := (vamoCrew w c addr old).vregs, fp := (vamoCrew w c addr old).fp, folds := (vamoCrew w c addr old).folds } := by
  have hfolded := c.foldWords_eq 4 addr (vamoLane w c) old
  unfold vamoCrew
  generalize c.foldWords 4 addr (vamoLane w c) old = folded at *
  cases w.fn.getLsbD 3
  · rw [hfolded]
    rfl
  · rw [hfolded]
    simp only [if_true]
    rw [Crew.writeVec_eq]
    rfl

include h htag hoff hsource hop in
theorem exec_vamo (hroom : c.count (vamoCounter w) < 255) :
    let r := s.lanesRun c (guardSet w.guard c) (fun l => c.sreg w.a + off l) 4 p (vamoLane w c) (w.fn.toNat % 8 = 6)
    r.2.1 = [] → exec (.vamo w) s = .next (r.2.2.finishVec (vamoCrew w c (fun l => c.sreg w.a + off l) r.1)
      [w.b.toNat, w.c.toNat] (if w.fn.getLsbD 3 then [w.d.toNat] else [])) := by
  intro r hclean
  have hfloat : (decide (3 ≤ w.fn.toNat % 8) && decide (w.fn.toNat % 8 ≤ 5) && decide ((c.vreg w.c.toNat).tag = 0x32)) = false := by
    rw [← Bool.not_eq_true, Bool.and_eq_true, Bool.and_eq_true, decide_eq_true_eq, decide_eq_true_eq, decide_eq_true_eq]
    rintro ⟨⟨hlow, hhigh⟩, heq⟩
    rw [heq] at htag
    have hnone : signed = none := by simpa [vamoTags] using htag
    have := hop hnone
    simp only [List.mem_cons, List.not_mem_nil, or_false, not_or] at this
    omega
  refine (anyInstr_run h.here _).trans (runBody_ok ?_)
  unfold vamoCounter at hroom
  simp only [toNat_fnOP_low, fnOP_ret, roomFor_ok hroom, offsetSource_ok hoff, checkWord_vamo htag, hfloat, Bool.false_eq_true, if_false,
    consume_source hoff.1, consume_source hsource, h.places, pointsOpen_ok h.noLog, eff_ok_bind]
  show Except.ok (r.2.2.finishVec (Crew.meetPoison (Crew.addOp _ _ true (firstBad r.2.1 fun l => c.sreg w.a + off l).1)
    (firstBad r.2.1 fun l => c.sreg w.a + off l).1 (firstBad r.2.1 fun l => c.sreg w.a + off l).2) _ _) = _
  rw [hclean]
  unfold vamoCrew vamoCounter
  cases w.fn.getLsbD 3 <;> rfl

include htag hop in
/-- The model's function is the operation of R163 on what fits a word. -/
theorem vamoLane_eq (l : Nat) {v : Nat} (hv : v < 2 ^ (8 * 4)) :
    vamoLane w c l v = vamoOp (w.fn.toNat % 8) signed v ((c.vreg w.c.toNat).word l).toNat :=
  amoOp_vamo htag hop hv ((c.vreg w.c.toNat).word l).isLt

/-- A write of one register leaves every other as it was. -/
theorem vreg_writeVec_other {c : Crew} {d : Nat} (hd : d < 256) (E : Mask) (f : Nat → Nat) (tag : BitVec 8) {r : Nat} (hr : r ≠ d) :
    (c.writeVec d false E f tag).vreg r = c.vreg r :=
  (getD_setIfInBounds c.vregs hd _ VReg.reset).trans (if_neg hr)

include h htag hoff hsource hop in
/-- VAMO on its words, with or without .ret (R165). -/
theorem vamo_runs (hb : c.placed w.b.toNat) (hc : c.placed w.c.toNat)
    (hd : w.fn.getLsbD 3 = true → w.d.toNat < c.declared ∧ w.d.toNat / 8 ∉ c.spillBlocks) (hroom : c.count (vamoCounter w) < 255) :
    let g (l old : Nat) : Nat := vamoOp (w.fn.toNat % 8) signed old ((c.vreg w.c.toNat).word l).toNat
    ∃ t c', exec (.vamo w) s = .next t ∧ t.crewAt s.cur = some c' ∧ (∀ who, who ≠ s.cur → t.crewAt who = s.crewAt who) ∧
      WordsActed s t c (guardSet w.guard c) p 4 g ∧ VectorCrew { c.counted (vamoCounter w) false with fp := c'.fp, folds := c'.folds } c' ∧
      if w.fn.getLsbD 3 then OnlyVectors c c' [w.d.toNat] ∧
        LaneValues c c' (guardSet w.guard c) w.d.toNat false (c.vreg w.c.toNat).tag
          (fun l => s.laneWord (guardSet w.guard c) p 4 g l (p l).home) fun _ => false
      else OnlyVectors c c' [] := by
  intro g
  obtain ⟨hclean, hcrews, hcur, hwords, hmet, hsmall⟩ := h.runs (f := vamoLane w c) (g := g) (w.fn.toNat % 8 = 6)
    (fun l v hv => vamoLane_eq htag hop l hv) fun l v hv => vamoOp_lt hv ((c.vreg w.c.toNat).word l).isLt
  have hexec := exec_vamo h htag hoff hsource hop hroom hclean
  generalize s.lanesRun c (guardSet w.guard c) (fun l => c.sreg w.a + off l) 4 p (vamoLane w c) (w.fn.toNat % 8 = 6) = r at *
  have hcrew := vamoCrew_eq w c (fun l => c.sreg w.a + off l) r.1
  have hfolded := c.foldWords_eq 4 (fun l => c.sreg w.a + off l) (vamoLane w c) r.1
  have hreads : ∀ q, q ∈ [w.b.toNat, w.c.toNat] → c.placed q := List.forall_mem_cons.2 ⟨hb, List.forall_mem_singleton.2 hc⟩
  cases hret : w.fn.getLsbD 3 with
  | false =>
    have hvregs : (vamoCrew w c (fun l => c.sreg w.a + off l) r.1).vregs = c.vregs := by
      unfold vamoCrew
      rw [hret, hfolded]
      rfl
    obtain ⟨c', hhere, hothers, hcells, hvector, hvecs⟩ := finishVec_placed (reads := [w.b.toNat, w.c.toNat]) (writes := []) h.here hcrews
      hcur hcrew hreads nofun fun q _ => Crew.vreg_congr hvregs q
    rw [hret] at hexec
    exact ⟨_, c', hexec, hhere, hothers, hwords.congr hcells, hvector, fun q _ _ => Crew.vreg_congr (hvecs.trans hvregs) q⟩
  | true =>
    obtain ⟨hdeclared, hunspilled⟩ := hd hret
    have hregs : ∀ q, q ∈ regsOf w.d.toNat false → q < 256 := fun q hq => regsOf_lt (pair := false) w.d.isLt nofun hq
    have hvregs : (vamoCrew w c (fun l => c.sreg w.a + off l) r.1).vregs = (c.writeVec w.d.toNat false (guardSet w.guard c)
        (fun l => (assocGet r.1 l).getD 0) (c.vreg w.c.toNat).tag).vregs := by
      unfold vamoCrew
      rw [hret, hfolded]
      rfl
    obtain ⟨c', hhere, hothers, hcells, hvector, hvecs⟩ := finishVec_placed (reads := [w.b.toNat, w.c.toNat]) (writes := [w.d.toNat])
      h.here hcrews hcur hcrew hreads (List.forall_mem_singleton.2 (.inl hdeclared)) fun q hq =>
        (Crew.vreg_congr hvregs q).trans (vreg_writeVec_other w.d.isLt _ _ _ fun e => hunspilled (e ▸ hq))
    rw [hret] at hexec
    have hwritten := laneValues_writeVec (c := c) (pair := false) hregs (guardSet w.guard c) (fun l => (assocGet r.1 l).getD 0)
      (c.vreg w.c.toNat).tag hsmall
    refine ⟨_, c', hexec, hhere, hothers, hwords.congr hcells, hvector,
      (onlyVectors_writeVec hregs _ _ _).congr (hvecs.trans hvregs), fun l hl => ?_, ?_⟩
    · rw [Crew.laneValue_congr fun q _ => Crew.vreg_congr (hvecs.trans hvregs) q, hwritten.1 l hl]
      split
      · rename_i hE
        exact congrArg (Option.getD · 0) (hmet l hl hE)
      · rfl
    · intro q hq
      rw [Crew.vreg_congr (hvecs.trans hvregs) q]
      exact hwritten.2 q hq

end

end Sys2Proof.Machine
end

section
/-! LEMMAS. VMAXVI: the offers of the lanes (R166). -/

namespace Sys2Proof.Machine

/-! ## Offers -/

/-- The key of a value, in the order of its type (R166). -/
def orderKey (tag : BitVec 8) (v : W32) : W32 :=
  if tag = 0x32 then (if v.getLsbD 31 then ~~~v else v ^^^ 0x80000000) else if tag = 0x12 then v ^^^ 0x80000000 else v

/-- The word after an offer of a value with an index: the unsigned maximum, a NaN offering nothing (R166). -/
def maxOffer (tag : BitVec 8) (v i : W32) (old : Nat) : Nat :=
  if tag = 0x32 ∧ (Fmt.f32.decode v.toNat).isNan = true then old
  else max old ((orderKey tag v).toNat * 2 ^ 32 + (0xFFFFFFFF - i.toNat))

theorem maxOffer_lt {tag : BitVec 8} {v i : W32} {old : Nat} (h : old < 2 ^ (8 * 8)) : maxOffer tag v i old < 2 ^ (8 * 8) := by
  have hkey := (orderKey tag v).isLt
  unfold maxOffer
  split
  · exact h
  · omega

theorem getLsbD_top (v : W32) : v.toNat / 2 ^ 31 = 1 ↔ v.getLsbD 31 = true := by
  have hlt := v.isLt
  rw [BitVec.getLsbD, Nat.testBit_eq_decide_div_mod_eq, decide_eq_true_eq]
  omega

/-- The model's key is the order's. -/
theorem offerKey_eq (tag : BitVec 8) (v : W32) :
    offerKey tag v.toNat = if tag = 0x32 ∧ (Fmt.f32.decode v.toNat).isNan = true then none else some (orderKey tag v).toNat := by
  unfold offerKey orderKey
  by_cases htag : tag = 0x32
  · by_cases hnan : (Fmt.f32.decode v.toNat).isNan = true
    · simp [htag, hnan]
    · by_cases htop : v.getLsbD 31 = true
      · rw [if_pos htag, if_neg hnan, if_pos ((getLsbD_top v).2 htop), if_neg fun e => hnan e.2, if_pos htag, if_pos htop, BitVec.toNat_not]
      · rw [if_pos htag, if_neg hnan, if_neg fun e => htop ((getLsbD_top v).1 e), if_neg fun e => hnan e.2, if_pos htag, if_neg htop,
          BitVec.toNat_xor]
        rfl
  · simp only [htag, false_and, if_false]
    split
    · rw [BitVec.toNat_xor]
      rfl
    · rfl

/-- The model's function on the words of VMAXVI's lanes. -/
def maxviLane (w : RegForm) (c : Crew) (l old : Nat) : Nat :=
  match offerKey (c.vreg w.b.toNat).tag (c.laneValue w.b.toNat false l) with
  | none => old
  | some k => max old (k * 2 ^ 32 + (0xFFFFFFFF - c.laneValue w.d.toNat false l))

theorem maxviLane_eq (w : RegForm) (c : Crew) (l old : Nat) :
    maxviLane w c l old = maxOffer (c.vreg w.b.toNat).tag ((c.vreg w.b.toNat).word l) ((c.vreg w.d.toNat).word l) old := by
  have hkey : offerKey (c.vreg w.b.toNat).tag (c.laneValue w.b.toNat false l) = _ := offerKey_eq _ ((c.vreg w.b.toNat).word l)
  unfold maxviLane maxOffer
  rw [hkey]
  by_cases hnan : (c.vreg w.b.toNat).tag = 0x32 ∧ (Fmt.f32.decode ((c.vreg w.b.toNat).word l).toNat).isNan = true
  · rw [if_pos hnan, if_pos hnan]
  · rw [if_neg hnan, if_neg hnan]
    rfl

/-! ## The word -/

theorem checkWord_index {tag : BitVec 8} (h : tag = 0x22) (pos : Nat) : checkWord [0x22] pos tag = .ok () := by
  subst h
  rfl

section
variable {w : RegForm} {s : State} {c : Crew} {off : Nat → W64} {p : Nat → Place}
  (h : LanesReady s c (guardSet w.guard c) (fun l => c.sreg w.a + off l) 8 p)
  (hindex : (c.vreg w.d.toNat).tag = 0x22) (hvalue : (c.vreg w.b.toNat).tag ∈ [(0x12 : BitVec 8), 0x22, 0x32])
  (hd : Unmarked c (guardSet w.guard c) w.d.toNat false) (hb : Unmarked c (guardSet w.guard c) w.b.toNat false)
  (hroom : c.count .ws < 255)

/-- What VMAXVI does to the crew before the end of the word. -/
def maxviCrew (w : RegForm) (c : Crew) (addr : Nat → W64) (old : List (Nat × Nat)) : Crew :=
  (c.foldWords 8 addr (maxviLane w c) old).addOp .ws true false

theorem maxviCrew_eq (w : RegForm) (c : Crew) (addr : Nat → W64) (old : List (Nat × Nat)) :
    maxviCrew w c addr old = { c.counted .ws false with
      vregs := (maxviCrew w c addr old).vregs, fp := (maxviCrew w c addr old).fp, folds := (maxviCrew w c addr old).folds } := by
  unfold maxviCrew
  rw [Crew.foldWords_eq]
  rfl

/-- The registers of a VMAXVI: with OP 1 its offsets beside its indices and its values (R166). -/
def maxviReads (w : RegForm) : List Nat := [w.d.toNat, w.b.toNat] ++ if fnOP w = 1 then [w.c.toNat] else []

include h hindex hvalue hd hb hroom in
theorem exec_vmaxvi (hoff : (fnOP w = 0 ∧ ∀ l, off l = 0) ∨ (fnOP w = 1 ∧ LaneOffsets c (guardSet w.guard c) w.c.toNat off)) :
    let r := s.lanesRun c (guardSet w.guard c) (fun l => c.sreg w.a + off l) 8 p (maxviLane w c) false
    r.2.1 = [] → exec (.vmaxvi w) s = .next (r.2.2.finishVec (maxviCrew w c (fun l => c.sreg w.a + off l) r.1) (maxviReads w) []) := by
  intro r hclean
  refine (anyInstr_run h.here _).trans (runBody_ok ?_)
  unfold maxviReads
  rcases hoff with ⟨hop, hzero⟩ | ⟨hop, hoffsets⟩
  · obtain rfl : off = fun _ => 0 := funext hzero
    have hone : ¬ fnOP w = 1 := by
      rw [hop]
      decide
    have hplaces := h.places
    simp only [hone, roomFor_ok hroom, checkWord_index hindex, checkWord_value hvalue, if_false, eff_ok_bind,
      consume_source hd, consume_source hb, hplaces, pointsOpen_ok h.noLog]
    show Except.ok (r.2.2.finishVec (Crew.meetPoison (Crew.addOp _ _ true (firstBad r.2.1 fun l => c.sreg w.a + 0).1)
      (firstBad r.2.1 fun l => c.sreg w.a + 0).1 (firstBad r.2.1 fun l => c.sreg w.a + 0).2) _ _) = _
    rw [hclean]
    rfl
  · have hplaces := h.places
    simp only [hop, roomFor_ok hroom, checkWord_index hindex, checkWord_value hvalue, if_true, eff_ok_bind,
      offsetSource_ok hoffsets, Except.map, consume_source hd, consume_source hb, consume_source hoffsets.1, hplaces, pointsOpen_ok h.noLog]
    show Except.ok (r.2.2.finishVec (Crew.meetPoison (Crew.addOp _ _ true (firstBad r.2.1 fun l => c.sreg w.a + off l).1)
      (firstBad r.2.1 fun l => c.sreg w.a + off l).1 (firstBad r.2.1 fun l => c.sreg w.a + off l).2) _ _) = _
    rw [hclean]
    rfl

include h hindex hvalue hd hb hroom in
/-- VMAXVI on its words (R166). -/
theorem vmaxvi_runs (hdPlaced : c.placed w.d.toNat) (hbPlaced : c.placed w.b.toNat)
    (hoff : (fnOP w = 0 ∧ ∀ l, off l = 0) ∨ (fnOP w = 1 ∧ c.placed w.c.toNat ∧ LaneOffsets c (guardSet w.guard c) w.c.toNat off)) :
    ∃ t c', exec (.vmaxvi w) s = .next t ∧ t.crewAt s.cur = some c' ∧ (∀ who, who ≠ s.cur → t.crewAt who = s.crewAt who) ∧
      WordsActed s t c (guardSet w.guard c) p 8
        (fun l old => maxOffer (c.vreg w.b.toNat).tag ((c.vreg w.b.toNat).word l) ((c.vreg w.d.toNat).word l) old) ∧
      VectorCrew { c.counted .ws false with fp := c'.fp, folds := c'.folds } c' ∧ OnlyVectors c c' [] := by
  obtain ⟨hclean, hcrews, hcur, hwords, -⟩ := h.runs (f := maxviLane w c) false (fun l v _ => maxviLane_eq w c l v) fun l v hv => maxOffer_lt hv
  have hexec := exec_vmaxvi h hindex hvalue hd hb hroom (hoff.imp_right fun e => ⟨e.1, e.2.2⟩) hclean
  generalize s.lanesRun c (guardSet w.guard c) (fun l => c.sreg w.a + off l) 8 p (maxviLane w c) false = r at *
  have hvregs : (maxviCrew w c (fun l => c.sreg w.a + off l) r.1).vregs = c.vregs := by
    unfold maxviCrew
    rw [Crew.foldWords_eq]
    rfl
  have hreads : ∀ q, q ∈ maxviReads w → c.placed q := by
    intro q hq
    unfold maxviReads at hq
    rcases List.mem_append.1 hq with hq | hq
    · exact List.forall_mem_cons.2 ⟨hdPlaced, List.forall_mem_singleton.2 hbPlaced⟩ q hq
    · rcases hoff with ⟨hop, -⟩ | ⟨hop, hcPlaced, -⟩
      · rw [hop, if_neg (by decide)] at hq
        exact absurd hq List.not_mem_nil
      · rw [if_pos hop] at hq
        exact List.mem_singleton.1 hq ▸ hcPlaced
  obtain ⟨c', hhere, hothers, hcells, hvector, hvecs⟩ := finishVec_placed (reads := maxviReads w) (writes := []) h.here hcrews hcur
    (maxviCrew_eq w c _ r.1) hreads nofun fun q _ => Crew.vreg_congr hvregs q
  exact ⟨_, c', hexec, hhere, hothers, hwords.congr hcells, hvector, fun q _ _ => Crew.vreg_congr (hvecs.trans hvregs) q⟩

end

/-! ## The vector atomics -/

theorem vectorAtomics : VectorAtomics := by
  intro w s c off p noLog clear form unbound _ unmarked here E clearOf words
  constructor
  · intro signed htag hoff hsource hbPlaced hcPlaced hlanes op f _ hop
    have h : LanesReady s c E (fun l => c.sreg w.a + off l) 4 p := ⟨noLog, clear, form, unbound, unmarked, here, by decide, hlanes⟩
    refine ⟨fun hret hdeclared hunspilled hroom => ?_, fun hret hroom => ?_⟩
    · have hcounter : vamoCounter w = .wl := if_pos hret
      obtain ⟨t, c', hexec, hhere, hothers, hwords, hvector, hresult⟩ := vamo_runs h htag hoff hsource hop hbPlaced hcPlaced
        (fun _ => ⟨hdeclared, hunspilled⟩) (hcounter ▸ hroom)
      rw [if_pos hret] at hresult
      rw [hcounter] at hvector
      exact ⟨t, c', hexec, hhere, hothers, hwords, hvector, hresult.1, hresult.2⟩
    · have hfalse : ¬ w.fn.getLsbD 3 = true := Bool.eq_false_iff.1 hret
      have hcounter : vamoCounter w = .ws := if_neg hfalse
      obtain ⟨t, c', hexec, hhere, hothers, hwords, hvector, hresult⟩ := vamo_runs h htag hoff hsource hop hbPlaced hcPlaced
        (fun e => absurd e hfalse) (hcounter ▸ hroom)
      rw [if_neg hfalse] at hresult
      rw [hcounter] at hvector
      exact ⟨t, c', hexec, hhere, hothers, hwords, hvector, hresult⟩
  · intro hindex hvalue hd hb hdPlaced hbPlaced hroom hoff hlanes offer
    have h : LanesReady s c E (fun l => c.sreg w.a + off l) 8 p := ⟨noLog, clear, form, unbound, unmarked, here, by decide, hlanes⟩
    exact vmaxvi_runs h hindex hvalue hd hb hroom hdPlaced hbPlaced hoff

/-- Settles O22: the scalar atomics act once on their word at its home, after the release that their order asks for; the vector ones lane
by lane, each lane on the word as the lanes below it have left it. -/
theorem atomics : Obligations.Atomics := ⟨atomicsReplaceOneWord, vectorAtomics⟩

end Sys2Proof.Machine
end
